-- ==== Sys2Proof/Word.lean ====
section
/-!
DEFINITION. The word types of the AV-96 and their plainest arithmetic.
Register lanes are 32-bit words (Table 0-2), memory is bytes, a lane set is one bit per lane (R4).
-/

namespace Sys2Proof

/-- One lane of a vector register, an instruction's literal, or a control register (R118, R335). -/
abbrev Word := BitVec 32

/-- One byte of memory. -/
abbrev Byte := BitVec 8

/-- A set of lanes: bit `l` is lane `l`, 0 to 31 (R4). -/
abbrev Mask := BitVec 32

/-- A 6-bit register field of an instruction word (Table 2-3). -/
abbrev RCode := BitVec 6

/-- The lane numbers of a crew (R4). -/
def laneIds : List Nat := List.range 32

end Sys2Proof
end

