-- ==== Sys2Proof/Syntax.lean ====
section
/-!
DEFINITION. The abstract instructions of the AV-96: one constructor of `Instr` per row of the opcode table.
Encoded rows carry their prefix (R18) and operand fields (Tables 2-2, 2-4, 2-5 and 2-7).  Rows that have no
word are events of the device, the host or the link; they carry the facts that the outside supplies.
-/

namespace Sys2Proof

/-- Scope of an instruction, prefix bits [3:2] (Table 2-1). -/
inductive Scope where
  | lane | crew | set | block
deriving DecidableEq, Repr

/-- Guard of an instruction, prefix bits [6:4]: `neg` is bit [6], `sel` bits [5:4] (p0, p1, p2, pT) (Table 2-1). -/
structure Guard where
  neg : Bool
  sel : BitVec 2
deriving DecidableEq, Repr

/-- The prefix of a 32-bit instruction (R18). -/
structure Pfx where
  stop : Bool
  scope : Scope
  guard : Guard
deriving DecidableEq, Repr

/-- Second source of an R- or C-format instruction: a register code 0-62, or the literal that code 63 announces (R21, R22). -/
inductive Src where
  | reg (c : RCode)
  | lit (w : Word)
deriving DecidableEq, Repr

/-- Register formats, the codes of the FORMAT field (R69, R127); codes 14 and 15 are reserved. -/
inductive Fmt where
  | raw32 | i32 | i16x2 | i8x4 | i4x8 | fp32 | fp16x2 | e4m3x4 | e5m2x4 | e2m1x8 | e3m5x4 | idx | fp16x1 | bf16x2
deriving DecidableEq, Repr

/-- Rounding of CVT, literal bits [5:4] (Table 2-4). -/
inductive RMode where
  | rne | rtz | rdn | rup
deriving DecidableEq, Repr

/-- System registers of MOVS, numbers 0-17 (Table 6-6). -/
inductive SysReg where
  | lane | crew | blockx | blocky | blockz | tidx | tidy | tidz | setid | setrank | core | die | task
  | clocklo | clockhi | ptplo | ptphi | bcrew
deriving DecidableEq, Repr

/-- Control registers of MOVC (Table 14-11). -/
inductive CtlReg where
  | ctlId | ctlCaps | frontQuantum | frontStackBase | trapVector | trapFrameBase | trapCause | trapPc | trapLanes
  | mshrAgeLimit | pinPolicy | traceCtl | traceFilter | traceSample | replayCtl
deriving DecidableEq, Repr

/-- Why a word is no instruction (R26, R27, R28). -/
inductive Why where
  /-- A reserved major, 0x00 and 0x7B-0x7F, or the word 0x0000_0001. -/
  | reservedMajor
  /-- A function code that Table 2-7 does not assign. -/
  | badFunction
  /-- A field that the instruction leaves unused holds a value other than 0. -/
  | unusedField
  /-- A literal with a value that Table 2-4 excludes. -/
  | badLiteral
  /-- A scope outside the column of Table 2-6; `priv` says that the function is one of R30, whose check comes first. -/
  | scope (priv : Bool)
deriving DecidableEq, Repr

/-- What an ATS completion carries (R59): the host physical page, its size and the permissions granted. -/
structure AtsAnswer where
  hpa : Nat
  sizeLog : Nat
  read : Bool
  write : Bool
  exec : Bool
  priv : Bool
deriving DecidableEq, Repr

/-- Response codes of a Page Group Response (R60). -/
inductive PriCode where
  | success | invalidRequest | responseFailure
deriving DecidableEq, Repr

/-- What a boot meets: the cause of the reset and how each physical step goes (R369, Table 16-5).
`train` and `trainSlow` say which of the 16 memory controllers (die x 8 + controller) train normally and under the
conservative table; `cxlLanes` and `cxlRate` are the width and the rate in GT/s that the host link comes up at, 0 lanes when it does not
come up, and `cxlFallback` is the number of the training's fallback; `alarms` are the monitors that raise the security alarm before each of the six steps (R375). -/
structure BootEnv where
  cause : BitVec 3
  romOk : Bool
  train : List Bool
  trainSlow : List Bool
  linkFull : Bool
  linkHalf : Bool
  cxlLanes : Nat
  cxlRate : Nat
  cxlFallback : Nat
  publishOk : Bool
  alarms : List (BitVec 4)
deriving DecidableEq, Repr

/-- How a sector is held by the host (R46). -/
inductive HostHold where
  | shared | exclusive
deriving DecidableEq, Repr

/-- The instructions and events of the opcode table, one constructor per row. -/
inductive Instr where
  /-- IADD (R147). Adds va and vb element by element, wrapping, and writes vd and the latch ring. -/
  | iadd (x : Pfx) (d a : RCode) (b : Src)
  /-- ISUB (R147). Subtracts vb from va element by element, wrapping. -/
  | isub (x : Pfx) (d a : RCode) (b : Src)
  /-- IMUL (R147). Writes the low bits of each element product. -/
  | imul (x : Pfx) (d a : RCode) (b : Src)
  /-- IMULH (R147). Writes the high half of each signed element product. -/
  | imulh (x : Pfx) (d a : RCode) (b : Src)
  /-- IMULHU (R147). Writes the high half of each unsigned element product. -/
  | imulhu (x : Pfx) (d a : RCode) (b : Src)
  /-- IMAD (R153). Adds the element product of va and vb to vd, reading vd as a third source. -/
  | imad (x : Pfx) (d a : RCode) (b : Src)
  /-- IDIV (R148). Signed 32-bit division truncating toward zero, with defined results for zero and overflow. -/
  | idiv (x : Pfx) (d a : RCode) (b : Src)
  /-- IDIVU (R148). Unsigned 32-bit division with a defined result for a zero divisor. -/
  | idivu (x : Pfx) (d a : RCode) (b : Src)
  /-- IREM (R148). Signed 32-bit remainder taking the dividend's sign. -/
  | irem (x : Pfx) (d a : RCode) (b : Src)
  /-- IREMU (R148). Unsigned 32-bit remainder. -/
  | iremu (x : Pfx) (d a : RCode) (b : Src)
  /-- IMIN (R147). Signed element minimum. -/
  | imin (x : Pfx) (d a : RCode) (b : Src)
  /-- IMAX (R147). Signed element maximum. -/
  | imax (x : Pfx) (d a : RCode) (b : Src)
  /-- IMINU (R147). Unsigned element minimum. -/
  | iminu (x : Pfx) (d a : RCode) (b : Src)
  /-- IMAXU (R147). Unsigned element maximum. -/
  | imaxu (x : Pfx) (d a : RCode) (b : Src)
  /-- IADDS (R149). Signed element addition clamped to the element range. -/
  | iadds (x : Pfx) (d a : RCode) (b : Src)
  /-- ISUBS (R149). Signed element subtraction clamped to the element range. -/
  | isubs (x : Pfx) (d a : RCode) (b : Src)
  /-- AND (R147). Bitwise AND of va and vb. -/
  | and (x : Pfx) (d a : RCode) (b : Src)
  /-- OR (R147). Bitwise OR of va and vb. -/
  | or (x : Pfx) (d a : RCode) (b : Src)
  /-- XOR (R147). Bitwise exclusive OR of va and vb. -/
  | xor (x : Pfx) (d a : RCode) (b : Src)
  /-- ANDN (R147). Bitwise va AND NOT vb. -/
  | andn (x : Pfx) (d a : RCode) (b : Src)
  /-- SHL (R150). Shifts each element left by its own count modulo the element width. -/
  | shl (x : Pfx) (d a : RCode) (b : Src)
  /-- SHR (R150). Logical right shift of each element. -/
  | shr (x : Pfx) (d a : RCode) (b : Src)
  /-- SAR (R150). Arithmetic right shift of each element. -/
  | sar (x : Pfx) (d a : RCode) (b : Src)
  /-- ROL (R150). Rotates each element left within the element. -/
  | rol (x : Pfx) (d a : RCode) (b : Src)
  /-- BFE (R151). Extracts a bit field described by vb, optionally sign-extended. -/
  | bfe (x : Pfx) (d a : RCode) (b : Src)
  /-- BFI (R151). Inserts va into the bit field of vd that vb describes. -/
  | bfi (x : Pfx) (d a : RCode) (b : Src)
  /-- LEA (R152). Computes va + 4 × vb as a word address. -/
  | lea (x : Pfx) (d a : RCode) (b : Src)
  /-- IDOT4 (R153). Adds the four signed byte products of va and vb to vd. -/
  | idot4 (x : Pfx) (d a : RCode) (b : Src)
  /-- IUN_NOT (R154). Bitwise complement of each element. -/
  | iunNot (x : Pfx) (d a : RCode)
  /-- IUN_INEG (R154). Wrapping negation of each element. -/
  | iunIneg (x : Pfx) (d a : RCode)
  /-- IUN_IABS (R154). Absolute value of each signed element. -/
  | iunIabs (x : Pfx) (d a : RCode)
  /-- IUN_POPC (R154). Population count of each element. -/
  | iunPopc (x : Pfx) (d a : RCode)
  /-- IUN_CLZ (R154). Leading-zero count of each element. -/
  | iunClz (x : Pfx) (d a : RCode)
  /-- IUN_BREV (R154). Bit reversal of each element. -/
  | iunBrev (x : Pfx) (d a : RCode)
  /-- IUN_SX8 (R154). Sign-extends bits 7:0 to 32 bits. -/
  | iunSx8 (x : Pfx) (d a : RCode)
  /-- IUN_SX16 (R154). Sign-extends bits 15:0 to 32 bits. -/
  | iunSx16 (x : Pfx) (d a : RCode)
  /-- IUN_ZX8 (R154). Zero-extends bits 7:0 to 32 bits. -/
  | iunZx8 (x : Pfx) (d a : RCode)
  /-- IUN_ZX16 (R154). Zero-extends bits 15:0 to 32 bits. -/
  | iunZx16 (x : Pfx) (d a : RCode)
  /-- ICEQ (R155). Integer equality compare written to predicates by the combine mode. -/
  | iceq (x : Pfx) (p e k : BitVec 2) (a : RCode) (b : Src)
  /-- ICNE (R155). Integer inequality compare into predicates. -/
  | icne (x : Pfx) (p e k : BitVec 2) (a : RCode) (b : Src)
  /-- ICLT (R155). Signed less-than compare into predicates. -/
  | iclt (x : Pfx) (p e k : BitVec 2) (a : RCode) (b : Src)
  /-- ICLE (R155). Signed less-or-equal compare into predicates. -/
  | icle (x : Pfx) (p e k : BitVec 2) (a : RCode) (b : Src)
  /-- ICLTU (R155). Unsigned less-than compare into predicates. -/
  | icltu (x : Pfx) (p e k : BitVec 2) (a : RCode) (b : Src)
  /-- ICLEU (R155). Unsigned less-or-equal compare into predicates. -/
  | icleu (x : Pfx) (p e k : BitVec 2) (a : RCode) (b : Src)
  /-- FCEQ (R173). Floating-point equality compare into predicates, false on NaN. -/
  | fceq (x : Pfx) (p e k : BitVec 2) (a : RCode) (b : Src)
  /-- FCLT (R173). Floating-point less-than compare into predicates. -/
  | fclt (x : Pfx) (p e k : BitVec 2) (a : RCode) (b : Src)
  /-- FCLE (R173). Floating-point less-or-equal compare into predicates. -/
  | fcle (x : Pfx) (p e k : BitVec 2) (a : RCode) (b : Src)
  /-- FCUN (R173). Floating-point unordered compare into predicates. -/
  | fcun (x : Pfx) (p e k : BitVec 2) (a : RCode) (b : Src)
  /-- MOV (R135). Copies vb, with its tags, into vd. -/
  | mov (x : Pfx) (d : RCode) (b : Src)
  /-- SEL (R135). Writes va where the guard holds and vb elsewhere, in every issuing lane. -/
  | sel (x : Pfx) (d a : RCode) (b : Src)
  /-- MOVU (R135). Broadcasts va of the lowest active lane to every lane of act. -/
  | movu (x : Pfx) (d a : RCode)
  /-- MOVA (R135). Writes the affine sequence va + lane × vb. -/
  | mova (x : Pfx) (d a : RCode) (b : Src)
  /-- SHFLI (R136). Reads va from the lane that vb indexes. -/
  | shfli (x : Pfx) (d a : RCode) (b : Src)
  /-- SHFLU (R136). Reads va from the lane d below. -/
  | shflu (x : Pfx) (d a : RCode) (b : Src)
  /-- SHFLD (R136). Reads va from the lane d above. -/
  | shfld (x : Pfx) (d a : RCode) (b : Src)
  /-- SHFLX (R136). Reads va from the lane whose number is this lane XOR d. -/
  | shflx (x : Pfx) (d a : RCode) (b : Src)
  /-- VOTE_ANY (R137). Writes 1 if any participating active lane has va non-zero. -/
  | voteAny (x : Pfx) (d a : RCode)
  /-- VOTE_ALL (R137). Writes 1 if every participating active lane has va non-zero. -/
  | voteAll (x : Pfx) (d a : RCode)
  /-- VOTE_BALLOT (R137). Writes the mask of the crew's active lanes with va non-zero. -/
  | voteBallot (x : Pfx) (d a : RCode)
  /-- TAGF (R138). Copies va's bits into vd under a new format tag. -/
  | tagf (x : Pfx) (f : Fmt) (d a : RCode)
  /-- TAGQ (R138). Writes the tag word of va into vd once va's producer has completed. -/
  | tagq (x : Pfx) (d a : RCode)
  /-- TCLR (R138). Clears the taint of vd after its producer completes. -/
  | tclr (x : Pfx) (d : RCode)
  /-- MOVS (R139). Reads a system register into vd. -/
  | movs (x : Pfx) (r : SysReg) (d : RCode)
  /-- MOVC_RD (R140). Reads the control register named by the literal into vd. -/
  | movcRd (x : Pfx) (r : CtlReg) (d : RCode)
  /-- MOVC_WR (R140). Writes va to the control register named by the literal. -/
  | movcWr (x : Pfx) (r : CtlReg) (a : RCode)
  /-- PMOV_GET (R141). Packs p0–p2 of each active lane into vd. -/
  | pmovGet (x : Pfx) (d : RCode)
  /-- PMOV_SET (R141). Sets p0–p2 of each active lane from bits 2:0 of va. -/
  | pmovSet (x : Pfx) (a : RCode)
  /-- FADD (R165). Floating-point addition rounded once to nearest even. -/
  | fadd (x : Pfx) (d a : RCode) (b : Src)
  /-- FSUB (R165). Floating-point subtraction. -/
  | fsub (x : Pfx) (d a : RCode) (b : Src)
  /-- FMUL (R165). Floating-point multiplication. -/
  | fmul (x : Pfx) (d a : RCode) (b : Src)
  /-- FFMA (R167). Fused multiply-add va × vb + vd, rounded once. -/
  | ffma (x : Pfx) (d a : RCode) (b : Src)
  /-- FMIN (R168). IEEE minimum of va and vb. -/
  | fmin (x : Pfx) (d a : RCode) (b : Src)
  /-- FMAX (R168). IEEE maximum of va and vb. -/
  | fmax (x : Pfx) (d a : RCode) (b : Src)
  /-- FDIV (R166). Correctly rounded floating-point division on the division unit. -/
  | fdiv (x : Pfx) (d a : RCode) (b : Src)
  /-- FUN_FNEG (R170). Inverts the sign bit of each element. -/
  | funFneg (x : Pfx) (d a : RCode)
  /-- FUN_FABS (R170). Clears the sign bit of each element. -/
  | funFabs (x : Pfx) (d a : RCode)
  /-- FUN_FRCP (R170). Correctly rounded reciprocal on the special-function lanes. -/
  | funFrcp (x : Pfx) (d a : RCode)
  /-- FUN_FRSQ (R170). Correctly rounded reciprocal square root. -/
  | funFrsq (x : Pfx) (d a : RCode)
  /-- FUN_FSQRT (R170). Correctly rounded square root. -/
  | funFsqrt (x : Pfx) (d a : RCode)
  /-- FUN_FEXP2 (R170). Correctly rounded base-2 exponential. -/
  | funFexp2 (x : Pfx) (d a : RCode)
  /-- FUN_FLOG2 (R170). Correctly rounded base-2 logarithm. -/
  | funFlog2 (x : Pfx) (d a : RCode)
  /-- FUN_FSIN (R170). Correctly rounded sine from the exact input. -/
  | funFsin (x : Pfx) (d a : RCode)
  /-- FUN_FCOS (R170). Correctly rounded cosine from the exact input. -/
  | funFcos (x : Pfx) (d a : RCode)
  /-- FUN_FFLR (R170). Rounds each element down to an integer. -/
  | funFflr (x : Pfx) (d a : RCode)
  /-- FUN_FCEIL (R170). Rounds each element up to an integer. -/
  | funFceil (x : Pfx) (d a : RCode)
  /-- FUN_FTRNC (R170). Rounds each element toward zero. -/
  | funFtrnc (x : Pfx) (d a : RCode)
  /-- FUN_FRINT (R170). Rounds each element to the nearest integer, ties to even. -/
  | funFrint (x : Pfx) (d a : RCode)
  /-- FUN_FCLS (R171). Writes a one-hot class mask per element. -/
  | funFcls (x : Pfx) (d a : RCode)
  /-- CVT (R174). Converts each element of va to the format, rounding and saturation that the literal selector names. -/
  | cvt (x : Pfx) (f : Fmt) (m : RMode) (sat : Bool) (d a : RCode)
  /-- BRA (R281). Branches the active lanes to a PC-relative target at the given priority, splitting the frontier. -/
  | bra (x : Pfx) (off : BitVec 14) (t : BitVec 4)
  /-- BRL (R281). Branches the active lanes to a target given by a literal offset. -/
  | brl (x : Pfx) (off : Word) (t : BitVec 4)
  /-- CALL (R281). Writes the link into v59 and branches the active lanes. -/
  | call (x : Pfx) (off : BitVec 14) (t : BitVec 4)
  /-- JMPI (R282). Sends each active lane to the indirect target in va, grouped by target, after checking validity. -/
  | jmpi (x : Pfx) (t : BitVec 4) (a : RCode)
  /-- RET (R282). Returns each active lane to the link in va, as JMPI does. -/
  | ret (x : Pfx) (t : BitVec 4) (a : RCode)
  /-- EXIT (R283). Ends the active lanes, ending their sections and possibly the crew. -/
  | exit (x : Pfx)
  /-- JOIN (R279). Adds the crew to set s of its block, which completes at n members. -/
  | join (x : Pfx) (n s : BitVec 3)
  /-- LEAVE (R280). Removes the crew from set s, renumbering ranks and dissolving an empty set. -/
  | leave (x : Pfx) (s : BitVec 3)
  /-- BAR (R285). Releases, rendezvouses, waits for earlier copies and acquires for every participant. -/
  | bar (x : Pfx)
  /-- YIELD (R284). Demotes the issuing frontier entry for one quantum of other entries' issues. -/
  | yield (x : Pfx)
  /-- SPAWN (R302). Releases at fabric scope and submits the TCB at the VA in va, returning 0 or busy. -/
  | spawn (x : Pfx) (d a : RCode)
  /-- REORD (R304). Releases and sends each active lane with its carried registers into the Encke bin of its key. -/
  | reord (x : Pfx) (n : BitVec 4) (k d : RCode)
  /-- LDB (R85). Loads a zero-extended byte per active lane through a buffer record. -/
  | ldb (x : Pfx) (h : BitVec 2) (m : BitVec 4) (d a : RCode)
  /-- LDBS (R85). Loads a sign-extended byte per active lane. -/
  | ldbs (x : Pfx) (h : BitVec 2) (m : BitVec 4) (d a : RCode)
  /-- LDH (R85). Loads a zero-extended halfword per active lane. -/
  | ldh (x : Pfx) (h : BitVec 2) (m : BitVec 4) (d a : RCode)
  /-- LDHS (R85). Loads a sign-extended halfword per active lane. -/
  | ldhs (x : Pfx) (h : BitVec 2) (m : BitVec 4) (d a : RCode)
  /-- LDW (R85). Loads a word per active lane with the record's format. -/
  | ldw (x : Pfx) (h : BitVec 2) (m : BitVec 4) (d a : RCode)
  /-- LDD (R85). Loads eight bytes per active lane into vd and vd+1. -/
  | ldd (x : Pfx) (h : BitVec 2) (m : BitVec 4) (d a : RCode)
  /-- LDQ (R85). Loads sixteen bytes per active lane into vd..vd+3. -/
  | ldq (x : Pfx) (h : BitVec 2) (m : BitVec 4) (d a : RCode)
  /-- STB (R86). Stores bits 7:0 of vs per active lane through a record. -/
  | stb (x : Pfx) (h : BitVec 2) (m : BitVec 4) (d a : RCode)
  /-- STH (R86). Stores bits 15:0 of vs per active lane. -/
  | sth (x : Pfx) (h : BitVec 2) (m : BitVec 4) (d a : RCode)
  /-- STW (R86). Stores a word per active lane. -/
  | stw (x : Pfx) (h : BitVec 2) (m : BitVec 4) (d a : RCode)
  /-- STD (R86). Stores vs and vs+1 as eight bytes per active lane. -/
  | std (x : Pfx) (h : BitVec 2) (m : BitVec 4) (d a : RCode)
  /-- STQ (R86). Stores vs..vs+3 as sixteen bytes per active lane. -/
  | stq (x : Pfx) (h : BitVec 2) (m : BitVec 4) (d a : RCode)
  /-- LDA (R99). Loads a word per active lane from the block's activation store. -/
  | lda (x : Pfx) (d a : RCode)
  /-- STA (R99). Stores a word per active lane into the block's activation store. -/
  | sta (x : Pfx) (d a : RCode)
  /-- LDM (R143). Loads a group of registers with their tags from memory images. -/
  | ldm (x : Pfx) (h : BitVec 2) (m : BitVec 4) (n : BitVec 3) (d a : RCode)
  /-- STM (R143). Stores a group of registers with their tags as memory images. -/
  | stm (x : Pfx) (h : BitVec 2) (m : BitVec 4) (n : BitVec 3) (d a : RCode)
  /-- MREC (R89). Builds buffer record mN from a uniform register quad. -/
  | mrec (x : Pfx) (m : BitVec 4) (d : RCode)
  /-- MRST (R89). Copies buffer record mN into a register quad. -/
  | mrst (x : Pfx) (m : BitVec 4) (d : RCode)
  /-- PREF (R90). Requests the lines of the active in-bounds lanes into the L1 or stack cache, never trapping. -/
  | pref (x : Pfx) (h : BitVec 2) (m : BitVec 4) (a : RCode)
  /-- LINV (R91). Writes back and drops this core's L1 lines of the active lanes. -/
  | linv (x : Pfx) (m : BitVec 4) (a : RCode)
  /-- AXCHG (R238). Atomically exchanges each lane's word with vd. -/
  | axchg (x : Pfx) (h : BitVec 2) (m : BitVec 4) (d a : RCode)
  /-- ACAS (R238). Atomically writes vd+1 where the word equals vd, returning the old word. -/
  | acas (x : Pfx) (h : BitVec 2) (m : BitVec 4) (d a : RCode)
  /-- AADD (R238). Atomic wrapping integer add. -/
  | aadd (x : Pfx) (h : BitVec 2) (m : BitVec 4) (d a : RCode)
  /-- AMIN (R238). Atomic signed minimum. -/
  | amin (x : Pfx) (h : BitVec 2) (m : BitVec 4) (d a : RCode)
  /-- AMAX (R238). Atomic signed maximum. -/
  | amax (x : Pfx) (h : BitVec 2) (m : BitVec 4) (d a : RCode)
  /-- AMINU (R238). Atomic unsigned minimum. -/
  | aminu (x : Pfx) (h : BitVec 2) (m : BitVec 4) (d a : RCode)
  /-- AMAXU (R238). Atomic unsigned maximum. -/
  | amaxu (x : Pfx) (h : BitVec 2) (m : BitVec 4) (d a : RCode)
  /-- AAND (R238). Atomic bitwise AND. -/
  | aand (x : Pfx) (h : BitVec 2) (m : BitVec 4) (d a : RCode)
  /-- AOR (R238). Atomic bitwise OR. -/
  | aor (x : Pfx) (h : BitVec 2) (m : BitVec 4) (d a : RCode)
  /-- AXOR (R238). Atomic bitwise exclusive OR. -/
  | axor (x : Pfx) (h : BitVec 2) (m : BitVec 4) (d a : RCode)
  /-- AFADD (R238). Atomic floating-point add per element. -/
  | afadd (x : Pfx) (h : BitVec 2) (m : BitVec 4) (d a : RCode)
  /-- LDACQ (R241). Loads a word and then acquires at the record's scope. -/
  | ldacq (x : Pfx) (m : BitVec 4) (d a : RCode)
  /-- STREL (R241). Releases at the record's scope and then stores a word. -/
  | strel (x : Pfx) (m : BitVec 4) (d a : RCode)
  /-- FENCE (R242). Performs a release and an acquire of the scope in va for the crew. -/
  | fence (x : Pfx) (sc : BitVec 2)
  /-- BCOPY_G2A (R105). Starts a bulk copy from global memory into the activation store. -/
  | bcopyG2a (x : Pfx) (m : BitVec 4) (d : RCode)
  /-- BCOPY_G2W (R105). Starts a bulk copy from global memory into the weight store. -/
  | bcopyG2w (x : Pfx) (m : BitVec 4) (d : RCode)
  /-- BCOPY_A2G (R105). Starts a bulk copy from the activation store to global memory. -/
  | bcopyA2g (x : Pfx) (m : BitVec 4) (d : RCode)
  /-- BCOPY_A2W (R105). Starts a bulk copy from the activation store into the weight store. -/
  | bcopyA2w (x : Pfx) (d : RCode)
  /-- BATCH_SEAL (R111). Closes the open batch, returning its number, after the batch eight seals earlier completes. -/
  | batchSeal (x : Pfx) (d : RCode)
  /-- BATCH_WAIT (R111). Waits for batch n and every earlier batch, trapping on a recorded copy error. -/
  | batchWait (x : Pfx) (a : RCode)
  /-- BATCH_POLL (R111). Reports whether batch n is pending, complete or complete with error. -/
  | batchPoll (x : Pfx) (d a : RCode)
  /-- BARO_INIT (R115). Sets a barrier object's byte and arrival counts and clears its error. -/
  | baroInit (x : Pfx) (a : RCode)
  /-- BARO_ARRIVE (R115). Decrements a barrier object's arrival count after the crew's earlier local writes. -/
  | baroArrive (x : Pfx) (a : RCode)
  /-- BARO_WAIT (R115). Waits until a barrier object is complete, then traps on its error code. -/
  | baroWait (x : Pfx) (a : RCode)
  /-- MMA (R196). Multiplies an A tile by a resident B tile into the accumulator group on the matrix engine. -/
  | mma (x : Pfx) (d a : RCode) (b : Src)
  /-- MMAS (R196). Matrix multiply with E3M5 block scales on the A operand. -/
  | mmas (x : Pfx) (d a : RCode) (b : Src)
  /-- MCLR_FP32 (R198). Zeroes an accumulator group as FP32. -/
  | mclrFp32 (x : Pfx) (d : RCode)
  /-- MCLR_I32 (R198). Zeroes an accumulator group as I32. -/
  | mclrI32 (x : Pfx) (d : RCode)
  /-- MQNT (R200). Quantises an FP32 accumulator group to E2M1 with block scales into the activation store. -/
  | mqnt (x : Pfx) (d a : RCode) (b : Src)
  /-- MSCL (R201). Writes band-scale entries from the active lanes. -/
  | mscl (x : Pfx) (a : RCode) (b : Src)
  /-- MHND (R202). Reads the shape record of a handle into the core's shape cache. -/
  | mhnd (x : Pfx) (b : Src)
  /-- QOP_PUSH (R227). Appends one vector of va to a core-to-island queue register. -/
  | qopPush (x : Pfx) (q : BitVec 4) (a : RCode)
  /-- QOP_POP (R228). Removes one vector from an island-to-core queue register, demanding one if none is outstanding. -/
  | qopPop (x : Pfx) (q : BitVec 4) (k : BitVec 2) (d : RCode)
  /-- QOP_DEM (R229). Adds demand for vectors to a queue register, clamped at 8. -/
  | qopDem (x : Pfx) (q : BitVec 4) (a : RCode)
  /-- QOP_STAT (R230). Reads a queue register's status word, clearing ERR and CLAMP. -/
  | qopStat (x : Pfx) (q : BitVec 4) (d : RCode)
  /-- SYS_TRAP (R328). Raises trap code 0x40 + n at this instruction. -/
  | sysTrap (x : Pfx) (n : BitVec 6)
  /-- SYS_RTT (R329). Checks and restores the trap frame and ends the privileged context. -/
  | sysRtt (x : Pfx)
  /-- SYS_SYSC (R328). Raises trap code 0x80 + n with the next instruction as the frame's PC. -/
  | sysSysc (x : Pfx) (n : BitVec 6)
  /-- SYS_SUSP (R330). Suspends a crew of the block and waits until it has stopped. -/
  | sysSusp (x : Pfx) (a : RCode)
  /-- SYS_RESM (R330). Clears a crew's suspension flag. -/
  | sysResm (x : Pfx) (a : RCode)
  /-- SYS_RDCV (R331). Reads one context item of a held crew per active lane. -/
  | sysRdcv (x : Pfx) (d a : RCode)
  /-- SYS_WRCV (R331). Writes one context item of a held crew per active lane, setting FLOOR. -/
  | sysWrcv (x : Pfx) (d a : RCode)
  /-- SYS_ICINV (R332). Releases and invalidates text lines in every core's instruction cache. -/
  | sysIcinv (x : Pfx) (d a : RCode)
  /-- SYS_TLBINV (R333). Starts a translation shootdown of a PASID range. -/
  | sysTlbinv (x : Pfx) (d a : RCode)
  /-- SYS_HALT (R334). Terminates the crew's task with error TRAP. -/
  | sysHalt (x : Pfx)
  /-- SYS_ISWAP (R222). Reads an Ifeva image and hands it to the die's island loader. -/
  | sysIswap (x : Pfx) (d a : RCode)
  /-- DBG_BRK (R348). Traps with BREAK for the active lanes. -/
  | dbgBrk (x : Pfx)
  /-- DBG_TRACE (R348). Emits a USER trace record with va of the lowest active lane. -/
  | dbgTrace (x : Pfx) (n : BitVec 6) (a : RCode)
  /-- DBG_MARK (R348). Emits TIME and MARK records and is a replay checkpoint. -/
  | dbgMark (x : Pfx) (n : BitVec 6)
  /-- ORD_BEGIN (R287). Enters the ordered section of each ready lane's pixel key, waiting for its turn. -/
  | ordBegin (x : Pfx) (a : RCode)
  /-- ORD_END (R287). Releases and advances the slot counter of each active lane's section. -/
  | ordEnd (x : Pfx)
  /-- MOV_16 (R24). 16-bit MOV of vs into vd at lane scope. -/
  | mov16 (d : BitVec 5) (v : RCode)
  /-- IADD_16 (R156). 16-bit IADD, vd := vd + vs. -/
  | iadd16 (d : BitVec 5) (v : RCode)
  /-- ISUB_16 (R156). 16-bit ISUB. -/
  | isub16 (d : BitVec 5) (v : RCode)
  /-- IMUL_16 (R156). 16-bit IMUL. -/
  | imul16 (d : BitVec 5) (v : RCode)
  /-- AND_16 (R156). 16-bit AND. -/
  | and16 (d : BitVec 5) (v : RCode)
  /-- OR_16 (R156). 16-bit OR. -/
  | or16 (d : BitVec 5) (v : RCode)
  /-- XOR_16 (R156). 16-bit XOR. -/
  | xor16 (d : BitVec 5) (v : RCode)
  /-- SHL_16 (R156). 16-bit SHL. -/
  | shl16 (d : BitVec 5) (v : RCode)
  /-- SHR_16 (R156). 16-bit SHR. -/
  | shr16 (d : BitVec 5) (v : RCode)
  /-- SAR_16 (R156). 16-bit SAR. -/
  | sar16 (d : BitVec 5) (v : RCode)
  /-- IMIN_16 (R156). 16-bit IMIN. -/
  | imin16 (d : BitVec 5) (v : RCode)
  /-- IMAX_16 (R156). 16-bit IMAX. -/
  | imax16 (d : BitVec 5) (v : RCode)
  /-- FADD_16 (R177). 16-bit FADD, vd := vd + vs. -/
  | fadd16 (d : BitVec 5) (v : RCode)
  /-- FMUL_16 (R177). 16-bit FMUL. -/
  | fmul16 (d : BitVec 5) (v : RCode)
  /-- FSUB_16 (R177). 16-bit FSUB. -/
  | fsub16 (d : BitVec 5) (v : RCode)
  /-- SQ_PUSH (R290). Host doorbell write submits a TCB to its queue under the PREDS read-modify-write. -/
  | sqPush (die n : Nat) (v : BitVec 64)
  /-- TASK_KILL (R293). Host write terminates the named task and retires it with KILLED. -/
  | taskKill (die : Nat) (v : BitVec 64)
  /-- STARVATION_RESERVATION (R299). A queue head that has waited 64 decisions of its class gets a core reservation. -/
  | starvationReservation (die queue : Nat)
  /-- REGISTER_GROUP_GATE (R121). A main-file row group with no owned rows is power-gated within 1 µs. -/
  | registerGroupGate (core group : Nat)
  /-- ENCKE_AGE_FLUSH (R305). A bin whose oldest record has waited AGE × 256 cycles is flushed into a crew. -/
  | enckeAgeFlush (die key : Nat)
  /-- ENCKE_FINAL_FLUSH (R305). Bins of a task that can receive no further record are flushed in key order. -/
  | enckeFinalFlush (die task : Nat)
  /-- LOAD_DATA_RETURN (R85). Load data returns and is written to the destinations with the slot's clock. -/
  | loadDataReturn (flight line : Nat)
  /-- ATOMIC_RETURN (R238). Old values of an atomic return into vd and its slot. -/
  | atomicReturn (flight line : Nat)
  /-- WRITE_PERFORMED (R79). A write reaches its home slice and receives its vector clock. -/
  | writePerformed (flight line : Nat)
  /-- LINE_RETRY (R246). An outside access to a pinned line receives a retry and is re-presented. -/
  | lineRetry (flight line : Nat)
  /-- BCOPY_UNIT_MOVE (R105). The copy unit moves one 16 B unit and lowers the barrier object's BYTES. -/
  | bcopyUnitMove (copy unit : Nat)
  /-- SC_PIN (R50). A write to SC_PIN_n releases the old pin and checks and starts installing the new range. -/
  | scPin (die n : Nat) (v : BitVec 64)
  /-- PIN_INSTALL_DONE (R50). All lines of an installing pin are resident and its status becomes active. -/
  | pinInstallDone (die n : Nat)
  /-- SC_PART_WRITE (R51). A write to a partition register or map changes allocation and releases pins over their limit. -/
  | scPartWrite (die off : Nat) (v : BitVec 64)
  /-- MC_PFQ_RESP (R61). Host answers an outstanding fault tag with retry or refusal. -/
  | mcPfqResp (die : Nat) (v : Word)
  /-- MC_PFQ_TAIL (R61). Host advances TAIL, freeing records for blocks waiting on a full queue. -/
  | mcPfqTail (die : Nat) (v : Word)
  /-- HOST_READ (R45). Host CXL.mem read of device memory, served at the home slice or from a pinned holder. -/
  | hostRead (addr len : Nat) (keep : Option HostHold)
  /-- HOST_WRITE (R45). Host CXL.mem write of device memory, given a clock at die 0. -/
  | hostWrite (addr : Nat) (data : List Byte) (keep : Option HostHold)
  /-- HOST_SNOOP (R47). Host snoop of a host-memory line cached in die 0's stack cache. -/
  | hostSnoop (addr : Nat) (inv : Bool)
  /-- BIRSP (R46). Host back-invalidate response lets the waiting device access proceed. -/
  | birsp (sector : Nat)
  /-- ATS_TRANSLATION_COMPLETION (R59). An ATS completion fills the host-translation cache, or a missing permission raises a Page Request. -/
  | atsTranslationCompletion (req : Nat) (ans : AtsAnswer)
  /-- PAGE_GROUP_RESPONSE (R60). Host response of Success, Invalid Request or Response Failure to a page request. -/
  | pageGroupResponse (req : Nat) (code : PriCode)
  /-- ATS_INVALIDATE_REQUEST (R62). Host invalidation starts a shootdown multicast. -/
  | atsInvalidateRequest (pasid va pages : Nat)
  /-- SHOOTDOWN_ACK (R63). A unit acknowledges a shootdown; the last acknowledgement completes it. -/
  | shootdownAck (sd die : Nat)
  /-- DIE_FENCE (R64). A die that has not acknowledged within 100 µs is fenced with its effects. -/
  | dieFence (die : Nat)
  /-- ICINV_ACK (R332). A core acknowledges an instruction-cache invalidation; the last completes ICINV. -/
  | icinvAck (ic core : Nat)
  /-- FLIT_RECEIVE (R65). The receiver checks a flit's CRC, refusing and replaying it and retraining after 4 failures. -/
  | flitReceive (die : Nat) (crcOk : Bool)
  /-- LINK_RETRAIN_END (R66). A retrain ends at full width, half width, or fails and fences die 1. -/
  | linkRetrainEnd (passed : Bool)
  /-- CELL_FIRE (R208). Each cycle a cell fires its lowest eligible rule. -/
  | cellFire (die isl cell : Nat)
  /-- TOKEN_DELIVER (R211). A token arrives in a cell queue or output port after its path latency. -/
  | tokenDeliver (die isl n : Nat)
  /-- DEMAND_CREDIT_ARRIVE (R212). Demand credits reach a cell output. -/
  | demandCreditArrive (die isl n : Nat)
  /-- TOKEN_REQUEST_ARRIVE (R212). A request reaches a producer, which sends one token. -/
  | tokenRequestArrive (die isl n : Nat)
  /-- ISLAND_FETCH_RETURN (R210). A FETCH node read returns into the cell's node buffer. -/
  | islandFetchReturn (die isl n : Nat)
  /-- ISLAND_STORE_DONE (R210). A STORE's write reaches the home slice and its result token is delivered. -/
  | islandStoreDone (die isl n : Nat)
  /-- OUTPUT_VECTOR_DELIVER (R225). An output port hands a completed vector to its queue register. -/
  | outputVectorDeliver (die isl port : Nat)
  /-- PUSH_ENTRY_TO_PORT (R225). A pushed entry moves into the bound port's FIFO when it has room. -/
  | pushEntryToPort (core q : Nat)
  /-- REPLAY_GATE_TIMEOUT (R355). A held access exceeds TIMEOUT × 256 cycles and the line is ungated with DIVERGE kind 3. -/
  | replayGateTimeout (die line : Nat)
  /-- TR_CTL (R340). Write to TR_CTL; setting EN writes a TIME record and clears TR_DROP. -/
  | trCtl (die : Nat) (v : Word)
  /-- TR_TIME (R337). Host steps the timebase while tracing is disabled. -/
  | trTime (v : BitVec 64)
  /-- TR_ADJ (R337). Host sets an offset that the timebase slews out. -/
  | trAdj (v : Word)
  /-- TRACE_SAMPLE (R347). Write to TRACE_SAMPLE sets K and restarts the sample count. -/
  | traceSample (core : Nat) (v : Word)
  /-- REGISTER_WRITE (R6). Write to any register without behaviour of its own, honouring RO, RSV and W1C fields. -/
  | registerWrite (off : Nat) (v : BitVec 64)
  /-- BOOT_CLEAR (R370). Writing 1 zeroes the chosen boot-step words. -/
  | bootClear (v : Word)
  /-- FW_INVALID_COMMAND (R373). An unassigned command code or out-of-range PROGRAM completes at once with RESULT 3. -/
  | fwInvalidCommand (code : Nat)
  /-- FW_COMMAND_COMPLETE (R373). A mailbox command completes, writing RESULT, clearing BUSY, setting DONE and raising vector 7. -/
  | fwCommandComplete (flashOk : Bool)
  /-- GET_CERTIFICATE (R374). SPDM GET_CERTIFICATE request. -/
  | getCertificate (slot off len : Nat)
  /-- CHALLENGE (R374). SPDM CHALLENGE request, refused after zeroisation. -/
  | challenge (slot : Nat) (nonce : List Byte)
  /-- GET_MEASUREMENTS (R374). SPDM GET_MEASUREMENTS request. -/
  | getMeasurements (index : Nat) (signed : Bool) (nonce : List Byte)
  /-- POWER_ON_RESET (R369). Power-on or reset runs the boot steps with their fallbacks and publishes the capability table. -/
  | powerOnReset (env : BootEnv)
  /-- SECURITY_ALARM (R375). A monitor outside its limits latches SEC_ALARM and logs, resets or zeroises by policy. -/
  | securityAlarm (monitors : BitVec 4)
  /-- CLOCK_THROTTLE (R376). Power or junction limit lowers the arithmetic clock in 25 MHz steps. -/
  | clockThrottle (lower : Bool)
  /-- ILLEGAL_INSTRUCTION (R28). Issue of an instruction word that decodes to no instruction traps with ILLEGAL, or with SCOPE when its scope lies outside its column. Such words are a reserved major, an unassigned function code, a non-zero unused field, or a scope outside the column. -/
  | illegalInstruction (word lit : Word) (len : Nat) (why : Why)
  /-- TR_TAIL (R345). A host write to TR_TAIL frees trace-buffer space, so held lossless records are accepted and a DROP record precedes the next record after drops. -/
  | trTail (v : Word)
  /-- ECC_ERROR (R44). An SEC-DED error found in stack-cache SRAM is corrected and counted, or is uncorrectable and poisons its 64 B sector. -/
  | eccError (die addr : Nat) (fixable : Bool)
  /-- BURST_CRC_FAILURE (R44). A GDDR7 burst whose CRC fails is retried by its controller and counted in an ECC trace record. -/
  | burstCrcFailure (die ctl : Nat)
  /-- NOP (R25). 16-bit ESC NOP, occupying an issue slot only. -/
  | nop
  /-- BRK (R25). 16-bit ESC BRK, trapping with BREAK. -/
  | brk
  /-- EXIT_16 (R25). 16-bit ESC EXIT. -/
  | exit16
  /-- RET_16 (R25). 16-bit ESC RET through v59 at priority 0. -/
  | ret16
  /-- YIELD_16 (R25). 16-bit ESC YIELD. -/
  | yield16
  /-- RENDEZVOUS_DEADLOCK (R276). Device detects a closure of crews all blocked at rendezvous and traps the highest-priority entry. -/
  | rendezvousDeadlock
  /-- FRONT_QUANTUM_EXPIRE (R267). An entry's consecutive issue count reaches FRONT_QUANTUM and it is demoted or rotated with the frontier stack. -/
  | frontQuantumExpire
  /-- TASK_RETIRE (R292). When all blocks and Encke lanes of a task are done, the device writes STATUS and PREDS and signals completion. -/
  | taskRetire
  /-- PLACEMENT_DECISION (R297). Each die's distributor makes one placement decision per 8 cycles from resume lists and queues. -/
  | placementDecision
  /-- BLOCK_WAKE_DONE (R295). Register-group wake of a placed block completes and its crews begin issuing. -/
  | blockWakeDone
  /-- BLOCK_SAVE_COMPLETE (R318). After crews stop, the block's context is written to its save area and its resources freed. -/
  | blockSaveComplete
  /-- PREEMPT_SLOW_STOP (R300). A pre-empted block that has not stopped within the bound emits SLOWSTOP. -/
  | preemptSlowStop
  /-- BLOCK_RETIRE (R262). A block whose crews have ended and whose last copy has retired retires and frees its resources. -/
  | blockRetire
  /-- ALLOCATION_SCRUB (R94). Hardware scrubs a retired block's local-store allocations before reuse. -/
  | allocationScrub
  /-- WALK_COMPLETE (R56). A page walk ends with a translation, a fault or an ACCESS outcome. -/
  | walkComplete
  /-- MISS_ENTRY_FREE (R82). A freed L1 miss entry goes to the oldest rejected instruction, which is retried. -/
  | missEntryFree
  /-- MSHR_AGE_LIMIT_REACHED (R82). The oldest rejected instruction reaches MSHR_AGE_LIMIT and takes all freed entries. -/
  | mshrAgeLimitReached
  /-- MATRIX_OCCUPANCY_END (R180). The matrix engine's occupancy ends and it grants the oldest waiting MMA or MMAS. -/
  | matrixOccupancyEnd
  /-- PRI_ENABLE (R60). Host resets and re-enables PRI so that page requests resume. -/
  | priEnable
  /-- LANE_LOCK_LOSS (R65). A die-to-die lane loses lock and the link retrains. -/
  | laneLockLoss
  /-- LINK_HEARTBEAT (R338). Die 1 sends its current time every 1 µs to release die 0's merger. -/
  | linkHeartbeat
  /-- ISLAND_IMAGE_CHECK (R220). The die's loader checks an image read by ISWAP and makes it pending or refuses it. -/
  | islandImageCheck
  /-- TRACE_RECORD_WRITE (R338). Damgon writes a merged record to the buffer, dropping or holding it when full. -/
  | traceRecordWrite
  /-- FW_ERASE (R372). Mailbox command erasing the firmware image. -/
  | fwErase
  /-- FW_PROGRAM (R372). Mailbox command writing the window to flash at FW_ARG × 64 KiB. -/
  | fwProgram
  /-- FW_VERIFY (R372). Mailbox command checking the flash image as boot step 2 does. -/
  | fwVerify
  /-- FW_COMMIT (R372). Mailbox command raising the fused minimum SVN after a passing VERIFY. -/
  | fwCommit
  /-- GET_VERSION (R374). SPDM GET_VERSION request. -/
  | getVersion
  /-- GET_CAPABILITIES (R374). SPDM GET_CAPABILITIES request. -/
  | getCapabilities
  /-- NEGOTIATE_ALGORITHMS (R374). SPDM NEGOTIATE_ALGORITHMS request. -/
  | negotiateAlgorithms
  /-- GET_DIGESTS (R374). SPDM GET_DIGESTS request. -/
  | getDigests
  /-- STANDBY_POWER_LOSS (R370). Removal of standby power clears the boot record. -/
  | standbyPowerLoss
  /-- THERMAL_TRIP (R376). Junction reaches 115 °C and the device stops its clocks and resets. -/
  | thermalTrip
deriving DecidableEq, Repr

end Sys2Proof
end

