-- ==== Sys2Proof/Machine/Num.lean ====
section
/-!
DEFINITION. Elements of a 32-bit lane value and the integer operations on them (chapter 07).
Operands become integers, the result is computed exactly, and it is narrowed to the element width at the end.
-/

namespace Sys2Proof

/-- RAW32 and the integer formats (Table 7-1). -/
def Fmt.isInt : Fmt → Bool
  | .raw32 | .i32 | .i16x2 | .i8x4 | .i4x8 | .idx => true
  | _ => false

/-- The formats of an index or an address: RAW32, I32, IDX (R127). -/
def Fmt.isIndex : Fmt → Bool
  | .raw32 | .i32 | .idx => true
  | _ => false

/-- The arithmetic floating-point formats (R164). -/
def Fmt.isFloat : Fmt → Bool
  | .fp32 | .fp16x2 | .bf16x2 | .fp16x1 => true
  | _ => false

namespace Machine

/-- Element width of a format (Tables 7-1 and 8-1); FP16X1 has one 16-bit element. -/
def fmtWidth : Fmt → Nat
  | .raw32 | .i32 | .idx | .fp32 => 32
  | .i16x2 | .fp16x2 | .fp16x1 | .bf16x2 => 16
  | .i8x4 | .e4m3x4 | .e5m2x4 | .e3m5x4 => 8
  | .i4x8 | .e2m1x8 => 4

/-- Element count of a format (Tables 7-1 and 8-1); FP16X1 has one (R159). -/
def fmtCount : Fmt → Nat
  | .fp16x1 => 1
  | f => 32 / fmtWidth f

/-- Element `i` of width `w` (R145). -/
def elem (w : Nat) (x : Word) (i : Nat) : Nat := x.toNat / 2 ^ (w * i) % 2 ^ w

/-- The `n` elements of width `w`, element 0 first (R145). -/
def elems (w n : Nat) (x : Word) : List Nat := (List.range n).map (elem w x)

/-- A word from its elements, element 0 least significant, each taken modulo 2^w (R145). -/
def packElems (w : Nat) : List Nat → Nat
  | [] => 0
  | e :: es => e % 2 ^ w + 2 ^ w * packElems w es

/-- The signed reading of a w-bit element (R145). -/
def sgn (w x : Nat) : Int := if 2 ^ (w - 1) ≤ x then (x : Int) - (2 ^ w : Nat) else x

/-- A w-bit element from an integer, modulo 2^w (R145). -/
def wrap (w : Nat) (v : Int) : Nat := (v % ((2 ^ w : Nat) : Int)).toNat

/-- The signed range's nearest value (R149). -/
def clampS (w : Nat) (v : Int) : Int :=
  if v < -((2 ^ (w - 1) : Nat) : Int) then -((2 ^ (w - 1) : Nat) : Int)
  else if ((2 ^ (w - 1) : Nat) : Int) - 1 < v then ((2 ^ (w - 1) : Nat) : Int) - 1 else v

/-- An operation on each element of one word. -/
def mapElems (w n : Nat) (op : Nat → Nat) (x : Word) : Word :=
  BitVec.ofNat 32 (packElems w ((elems w n x).map op))

/-- An operation on each pair of elements of two words. -/
def zipElems (w n : Nat) (op : Nat → Nat → Nat) (x y : Word) : Word :=
  BitVec.ofNat 32 (packElems w ((List.range n).map fun i => op (elem w x i) (elem w y i)))

/-- The two-source integer operations of Table 7-3. -/
inductive IOp where
  | add | sub | mul | mulh | mulhu | div | divu | rem | remu | min | max | minu | maxu | adds | subs
  | and | or | xor | andn | shl | shr | sar | rol
deriving DecidableEq, Repr

/-- Signed division, truncating; division by zero and the one overflow give the values of R148. -/
def divS (x y : Nat) : Nat :=
  if y = 0 then 0xFFFFFFFF else wrap 32 ((sgn 32 x).tdiv (sgn 32 y))

/-- Signed remainder, with the dividend's sign (R148). -/
def remS (x y : Nat) : Nat :=
  if y = 0 then x else wrap 32 ((sgn 32 x).tmod (sgn 32 y))

/-- Rotation left within a w-bit element by `k` below `w` (R150). -/
def rotl (w x k : Nat) : Nat := (x * 2 ^ k + x / 2 ^ (w - k)) % 2 ^ w

/-- One element of a two-source operation, of width `w` (Table 7-3; R148, R149, R150). -/
def IOp.elem (o : IOp) (w x y : Nat) : Nat :=
  match o with
  | .add => (x + y) % 2 ^ w
  | .sub => wrap w ((x : Int) - y)
  | .mul => x * y % 2 ^ w
  | .mulh => wrap w (sgn w x * sgn w y / ((2 ^ w : Nat) : Int))
  | .mulhu => x * y / 2 ^ w
  | .div => divS x y
  | .divu => if y = 0 then 0xFFFFFFFF else x / y
  | .rem => remS x y
  | .remu => if y = 0 then x else x % y
  | .min => if sgn w x ≤ sgn w y then x else y
  | .max => if sgn w y ≤ sgn w x then x else y
  | .minu => if x ≤ y then x else y
  | .maxu => if y ≤ x then x else y
  | .adds => wrap w (clampS w (sgn w x + sgn w y))
  | .subs => wrap w (clampS w (sgn w x - sgn w y))
  | .and => x &&& y
  | .or => x ||| y
  | .xor => x ^^^ y
  | .andn => x &&& (2 ^ w - 1 - y)
  | .shl => x * 2 ^ (y % w) % 2 ^ w
  | .shr => x / 2 ^ (y % w)
  | .sar => wrap w (sgn w x / ((2 ^ (y % w) : Nat) : Int))
  | .rol => rotl w x (y % w)

/-- A two-source operation on whole words of a format, element by element (R147). -/
def IOp.word (o : IOp) (f : Fmt) (x y : Word) : Word :=
  zipElems (fmtWidth f) (fmtCount f) (o.elem (fmtWidth f)) x y

/-- Equal integer formats: element arithmetic (Table 7-2). -/
def arithFmt (a b : Fmt) : Option Fmt := if a.isInt && a == b then some a else none

/-- Equal 32-bit integer formats: division and compares (Table 7-2). -/
def divFmt (a b : Fmt) : Option Fmt := if a.isIndex && a == b then some a else none

/-- RAW32 with any integer format: logic and shifts (Table 7-2). -/
def logicFmt (a b : Fmt) : Option Fmt :=
  if a.isInt && b.isInt then (if a == .raw32 then some b else if b == .raw32 || a == b then some a else none) else none

/-- The format rule of an operation (Table 7-2). -/
def IOp.fmt (o : IOp) (a b : Fmt) : Option Fmt :=
  match o with
  | .div | .divu | .rem | .remu => divFmt a b
  | .and | .or | .xor | .andn | .shl | .shr | .sar | .rol => logicFmt a b
  | _ => arithFmt a b

/-- LEA's result format (Table 7-2). -/
def leaFmt (a b : Fmt) : Option Fmt :=
  if a.isIndex && b.isIndex then
    some (if a == .idx || b == .idx then .idx else if a == .i32 || b == .i32 then .i32 else .raw32)
  else none

/-- LEA: va + vb x 4, modulo 2^32 (R152). -/
def leaWord (x y : Word) : Word := x + y * 4

/-- Width of the field a descriptor names, cut at bit 31 (R151). -/
def bfWidth (y : Word) : Nat :=
  Nat.min (Nat.min (y.toNat / 2 ^ 8 % 64) 32) (32 - y.toNat % 32)

/-- BFE (R151). -/
def bfeWord (x y : Word) : Word :=
  let wd := bfWidth y
  let e := x.toNat / 2 ^ (y.toNat % 32) % 2 ^ wd
  if y.toNat / 2 ^ 16 % 2 = 1 ∧ 0 < wd ∧ 2 ^ (wd - 1) ≤ e then BitVec.ofNat 32 (e + (2 ^ 32 - 2 ^ wd))
  else BitVec.ofNat 32 e

/-- BFI: `z` is vd before (R151). -/
def bfiWord (x y z : Word) : Word :=
  let m : Word := BitVec.ofNat 32 ((2 ^ bfWidth y - 1) * 2 ^ (y.toNat % 32))
  (z &&& ~~~m) ||| ((x <<< (y.toNat % 32)) &&& m)

/-- IMAD on whole words of a format: z + x y per element (Table 7-3). -/
def imadWord (f : Fmt) (x y z : Word) : Word :=
  let w := fmtWidth f
  BitVec.ofNat 32 (packElems w ((List.range (fmtCount f)).map fun i => elem w z i + elem w x i * elem w y i))

/-- The exact sum of the four signed byte products of IDOT4 (R153). -/
def dot4 (x y : Word) : Int :=
  ((List.range 4).map fun i => sgn 8 (elem 8 x i) * sgn 8 (elem 8 y i)).sum

/-- IDOT4: the sum wraps once (R153). -/
def idot4Word (x y z : Word) : Word := BitVec.ofNat 32 (wrap 32 (sgn 32 z.toNat + dot4 x y))

/-- IUN functions (Table 7-5). -/
inductive UOp where
  | not | neg | abs | popc | clz | brev | sx8 | sx16 | zx8 | zx16
deriving DecidableEq, Repr

/-- Number of one bits among the low `k`. -/
def popcount : Nat → Nat → Nat
  | 0, _ => 0
  | k + 1, x => x % 2 + popcount k (x / 2)

/-- Leading zeros of a w-bit element; `w` for zero (Table 7-5). -/
def clz (w x : Nat) : Nat := if x = 0 then w else w - 1 - Nat.log2 x

/-- The low `k` bits in reverse order. -/
def revBits : Nat → Nat → Nat
  | 0, _ => 0
  | k + 1, x => x % 2 * 2 ^ k + revBits k (x / 2)

/-- One element of an IUN function (Table 7-5). -/
def UOp.elem (o : UOp) (w x : Nat) : Nat :=
  match o with
  | .not => 2 ^ w - 1 - x
  | .neg => wrap w (-(x : Int))
  | .abs => wrap w ((sgn w x).natAbs)
  | .popc => popcount w x
  | .clz => Machine.clz w x
  | .brev => revBits w x
  | .sx8 => wrap 32 (sgn 8 (x % 2 ^ 8))
  | .sx16 => wrap 32 (sgn 16 (x % 2 ^ 16))
  | .zx8 => x % 2 ^ 8
  | .zx16 => x % 2 ^ 16

/-- Accepted and result formats of IUN (Table 7-5): the element functions keep the format, the extensions give I32. -/
def UOp.fmt (o : UOp) (a : Fmt) : Option Fmt :=
  match o with
  | .sx8 | .sx16 | .zx8 | .zx16 => if a.isIndex then some .i32 else none
  | _ => if a.isInt then some a else none

/-- An IUN function on a whole word of a format. -/
def UOp.word (o : UOp) (f : Fmt) (x : Word) : Word := mapElems (fmtWidth f) (fmtCount f) (o.elem (fmtWidth f)) x

end Machine

/-- `a` put before the first element of a list that it does not follow. -/
def insertBy {α : Type} (le : α → α → Bool) (a : α) : List α → List α
  | [] => [a]
  | b :: l => if le a b then a :: b :: l else b :: insertBy le a l

/-- A list in order, equal elements as they stand. -/
def sortBy {α : Type} (le : α → α → Bool) : List α → List α
  | [] => []
  | a :: l => insertBy le a (sortBy le l)

end Sys2Proof
end

