-- ==== Sys2Proof/Machine/Fp.lean ====
section
/-!
DEFINITION. Floating-point elements: exact values, one rounding, and the operations of chapter 08.
A finite value is a sign, a natural number and a power of two, so products, sums and quotients are formed exactly
(a quotient or a root keeps one sticky bit below many more bits than any format holds) and rounded once (R163).
-/

namespace Sys2Proof.Machine

/-- What a format's code past the largest finite value means (Tables 8-1 and 8-8). -/
inductive Over where
  /-- Infinities and NaNs: FP32, FP16, BF16, E5M2. -/
  | ieee
  /-- One NaN and no infinity: E4M3. -/
  | nanOnly
  /-- Neither: E2M1 and E3M5. -/
  | finite
deriving DecidableEq, Repr

/-- An element format of Table 8-1: `p` significand bits, smallest step 2^emin, largest finite code `maxCode`,
sign at bit `width - 1` when `signed`, canonical NaN `nan` and infinity `inf` (R162). -/
structure FloatFmt where
  width : Nat
  p : Nat
  emin : Int
  maxCode : Nat
  signed : Bool
  above : Over
  nan : Nat
  inf : Nat
deriving DecidableEq, Repr

/-- FP32 (Table 8-1). -/
def fp32F : FloatFmt := ⟨32, 24, -149, 0x7F7FFFFF, true, .ieee, 0x7FC00000, 0x7F800000⟩
/-- FP16 (Table 8-1). -/
def fp16F : FloatFmt := ⟨16, 11, -24, 0x7BFF, true, .ieee, 0x7E00, 0x7C00⟩
/-- BF16 (Table 8-1). -/
def bf16F : FloatFmt := ⟨16, 8, -133, 0x7F7F, true, .ieee, 0x7FC0, 0x7F80⟩
/-- E4M3 (Table 8-1). -/
def e4m3F : FloatFmt := ⟨8, 4, -9, 0x7E, true, .nanOnly, 0x7F, 0x7F⟩
/-- E5M2 (Table 8-1). -/
def e5m2F : FloatFmt := ⟨8, 3, -16, 0x7B, true, .ieee, 0x7E, 0x7C⟩
/-- E2M1 (Table 8-1). -/
def e2m1F : FloatFmt := ⟨4, 2, -1, 0x7, true, .finite, 0, 0⟩
/-- E3M5 (Table 8-1). -/
def e3m5F : FloatFmt := ⟨8, 6, -7, 0xFE, false, .finite, 0, 0⟩

/-- The element format of a floating-point register format (Table 8-1). -/
def floatFmt : Fmt → Option FloatFmt
  | .fp32 => some fp32F
  | .fp16x2 | .fp16x1 => some fp16F
  | .bf16x2 => some bf16F
  | .e4m3x4 => some e4m3F
  | .e5m2x4 => some e5m2F
  | .e2m1x8 => some e2m1F
  | .e3m5x4 => some e3m5F
  | _ => none

/-- A value: `fin neg m e` is (-1)^neg m 2^e, with both zeros (R160). -/
inductive FVal where
  | nan
  | inf (neg : Bool)
  | fin (neg : Bool) (m : Nat) (e : Int)
deriving DecidableEq, Repr

/-- The value of an element code (R160, R161). -/
def decodeF (F : FloatFmt) (x : Nat) : FVal :=
  let neg := F.signed && decide (2 ^ (F.width - 1) ≤ x)
  let c := if F.signed then x % 2 ^ (F.width - 1) else x
  if F.maxCode < c then
    match F.above with
    | .ieee => if c = F.inf then .inf neg else .nan
    | .nanOnly => .nan
    | .finite => .fin neg (F.maxCode % 2 ^ (F.p - 1) + 2 ^ (F.p - 1)) (F.emin + (F.maxCode / 2 ^ (F.p - 1) - 1 : Nat))
  else if c < 2 ^ (F.p - 1) then .fin neg c F.emin
  else .fin neg (c % 2 ^ (F.p - 1) + 2 ^ (F.p - 1)) (F.emin + (c / 2 ^ (F.p - 1) - 1 : Nat))

/-- The sign bit of a code. -/
def signBit (F : FloatFmt) (neg : Bool) : Nat := if neg && F.signed then 2 ^ (F.width - 1) else 0

/-- Whether a magnitude with quotient `q` and remainder `r` of `2^s` rounds away from zero (Table 2-4). -/
def roundAway (mode : RMode) (neg : Bool) (q r s : Nat) : Bool :=
  match mode with
  | .rne => decide (2 ^ s < 2 * r) || (decide (2 * r = 2 ^ s) && q % 2 == 1)
  | .rtz => false
  | .rdn => neg && decide (r ≠ 0)
  | .rup => !neg && decide (r ≠ 0)

/-- The unsigned code of m 2^e rounded to the format's precision; a code past `maxCode` has overflowed (R175).
The exponent is unbounded above: the code of a value grows with the value. -/
def roundCode (F : FloatFmt) (mode : RMode) (neg : Bool) (m : Nat) (e : Int) : Nat :=
  let q : Int := max (e + (Nat.log2 m : Int) - ((F.p - 1 : Nat) : Int)) F.emin
  let base := (q - F.emin).toNat * 2 ^ (F.p - 1)
  if q ≤ e then base + m * 2 ^ (e - q).toNat
  else
    let s := (q - e).toNat
    let t := m / 2 ^ s
    base + t + (if roundAway mode neg t (m % 2 ^ s) s then 1 else 0)

/-- What an overflow gives without saturation (Table 8-8). -/
def overflowCode (F : FloatFmt) (mode : RMode) (neg : Bool) : Nat :=
  let big := match F.above with
    | .ieee => signBit F neg + F.inf
    | .nanOnly => F.nan
    | .finite => signBit F neg + F.maxCode
  let top := signBit F neg + F.maxCode
  match mode with
  | .rne => big
  | .rtz => top
  | .rdn => if neg then big else top
  | .rup => if neg then top else big

/-- The code of a value, rounded under a mode, with or without saturation (R175, Table 8-8). -/
def encodeF (F : FloatFmt) (mode : RMode) (sat : Bool) (v : FVal) : Nat :=
  match v with
  | .nan => F.nan
  | .inf neg =>
    if neg && !F.signed then 0
    else if sat then signBit F neg + F.maxCode
    else match F.above with
      | .ieee => signBit F neg + F.inf
      | .nanOnly => F.nan
      | .finite => signBit F neg + F.maxCode
  | .fin neg m e =>
    if neg && !F.signed then 0
    else if m = 0 then signBit F neg
    else
      let c := roundCode F mode neg m e
      if c ≤ F.maxCode then signBit F neg + c
      else if sat then signBit F neg + F.maxCode
      else overflowCode F mode neg

/-- Arithmetic's rounding: to nearest, ties to even, overflow to infinity (R163). -/
def rne (F : FloatFmt) (v : FVal) : Nat := encodeF F .rne false v

/-- The signed integer of a finite value at exponent `e0`, not above its own. -/
def atExp (neg : Bool) (m : Nat) (e e0 : Int) : Int :=
  let a : Int := (m * 2 ^ (e - e0).toNat : Nat)
  if neg then -a else a

/-- Exact sum; a zero sum is -0 only when every addend is -0 (R163, R166). -/
def fAdd : FVal → FVal → FVal
  | .nan, _ => .nan
  | _, .nan => .nan
  | .inf a, .inf b => if a = b then .inf a else .nan
  | .inf a, .fin _ _ _ => .inf a
  | .fin _ _ _, .inf b => .inf b
  | .fin a m e, .fin b n f =>
    let g := min e f
    let v := atExp a m e g + atExp b n f g
    if v = 0 then .fin (a && b && decide (m = 0) && decide (n = 0)) 0 0
    else .fin (decide (v < 0)) v.natAbs g

/-- Sign inverted (R166, R170). -/
def fNegV : FVal → FVal
  | .nan => .nan
  | .inf a => .inf !a
  | .fin a m e => .fin (!a) m e

/-- Exact product (R166). -/
def fMul : FVal → FVal → FVal
  | .nan, _ => .nan
  | _, .nan => .nan
  | .inf a, .inf b => .inf (a != b)
  | .inf a, .fin b n _ => if n = 0 then .nan else .inf (a != b)
  | .fin a m _, .inf b => if m = 0 then .nan else .inf (a != b)
  | .fin a m e, .fin b n f => .fin (a != b) (m * n) (e + f)

/-- Quotient, with a sticky bit below at least 64 bits (R166). -/
def fDiv : FVal → FVal → FVal
  | .nan, _ => .nan
  | _, .nan => .nan
  | .inf _, .inf _ => .nan
  | .inf a, .fin b _ _ => .inf (a != b)
  | .fin a _ _, .inf b => .fin (a != b) 0 0
  | .fin a m e, .fin b n f =>
    if n = 0 then (if m = 0 then .nan else .inf (a != b))
    else
      let k := 64 + Nat.log2 n
      let x := m * 2 ^ k
      .fin (a != b) (2 * (x / n) + (if x % n = 0 then 0 else 1)) (e - f - k - 1)

/-- Strictly less; both values are numbers, and the zeros are equal (Table 8-7). -/
def fLt : FVal → FVal → Bool
  | .nan, _ => false
  | _, .nan => false
  | .inf a, .inf b => a && !b
  | .inf a, .fin _ _ _ => a
  | .fin _ _ _, .inf b => !b
  | .fin a m e, .fin b n f =>
    let g := min e f
    decide (atExp a m e g < atExp b n f g)

/-- Equal; both values are numbers, and the zeros are equal (Table 8-7). -/
def fEq : FVal → FVal → Bool
  | .nan, _ => false
  | _, .nan => false
  | .inf a, .inf b => a == b
  | .inf _, .fin _ _ _ => false
  | .fin _ _ _, .inf _ => false
  | .fin a m e, .fin b n f =>
    let g := min e f
    decide (atExp a m e g = atExp b n f g)

/-- The sign of a number. -/
def FVal.neg : FVal → Bool
  | .nan => false
  | .inf a => a
  | .fin a _ _ => a

/-- Less in the order of minimum and maximum, in which -0 is below +0 (R168). -/
def fBelow (x y : FVal) : Bool := fLt x y || (fEq x y && x.neg && !y.neg)

/-- The two-source operations of Table 8-3, FFMA apart. -/
inductive FOp where
  | add | sub | mul | min | max | div
deriving DecidableEq, Repr

/-- One element of a two-source operation (Table 8-3; R166, R168). -/
def FOp.elem (o : FOp) (F : FloatFmt) (x y : Nat) : Nat :=
  let a := decodeF F x
  let b := decodeF F y
  match o with
  | .add => rne F (fAdd a b)
  | .sub => rne F (fAdd a (fNegV b))
  | .mul => rne F (fMul a b)
  | .div => rne F (fDiv a b)
  | .min => if a = .nan ∨ b = .nan then F.nan else if fBelow b a then y else x
  | .max => if a = .nan ∨ b = .nan then F.nan else if fBelow a b then y else x

/-- One element of FFMA: x y + z, rounded once (R167). -/
def ffmaElem (F : FloatFmt) (x y z : Nat) : Nat := rne F (fAdd (fMul (decodeF F x) (decodeF F y)) (decodeF F z))

/-- A two-source operation on whole words; a format that is not floating gives the word unchanged (R164). -/
def FOp.word (o : FOp) (f : Fmt) (x y : Word) : Word :=
  match floatFmt f with
  | some F => zipElems (fmtWidth f) (fmtCount f) (o.elem F) x y
  | none => x

/-- FFMA on whole words (R167). -/
def ffmaWord (f : Fmt) (x y z : Word) : Word :=
  match floatFmt f with
  | some F =>
    BitVec.ofNat 32 (packElems (fmtWidth f) ((List.range (fmtCount f)).map fun i =>
      ffmaElem F (elem (fmtWidth f) x i) (elem (fmtWidth f) y i) (elem (fmtWidth f) z i)))
  | none => x

/-- Equal floating-point formats (R164). -/
def floatOpFmt (a b : Fmt) : Option Fmt := if a.isFloat && a == b then some a else none

/-- Floating-point compares (Table 8-7). -/
inductive FCmp where
  | eq | lt | le | un
deriving DecidableEq, Repr

/-- The condition of a floating-point compare on words of FP32 or FP16X1 (R173, Table 8-7). -/
def FCmp.holds (o : FCmp) (f : Fmt) (x y : Word) : Bool :=
  match floatFmt f with
  | none => false
  | some F =>
    let a := decodeF F (elem (fmtWidth f) x 0)
    let b := decodeF F (elem (fmtWidth f) y 0)
    match o with
    | .eq => fEq a b
    | .lt => fLt a b
    | .le => fLt a b || fEq a b
    | .un => a == .nan || b == .nan

/-- Equal formats among FP32 and FP16X1 (R173). -/
def fcmpFmt (a b : Fmt) : Option Fmt := if (a == .fp32 || a == .fp16x1) && a == b then some a else none

/-- The integer nearest a finite value under a mode, with the sign kept apart. -/
def roundInt (mode : RMode) (neg : Bool) (m : Nat) (e : Int) : Nat :=
  if 0 ≤ e then m * 2 ^ e.toNat
  else
    let s := (-e).toNat
    let t := m / 2 ^ s
    t + (if roundAway mode neg t (m % 2 ^ s) s then 1 else 0)

/-- A value rounded to an integer under a mode, still a value: zeros keep their sign (Table 8-5, codes 9-12). -/
def fRoundInt (mode : RMode) : FVal → FVal
  | .nan => .nan
  | .inf a => .inf a
  | .fin a m e => .fin a (roundInt mode a m e) 0

/-- The class mask of one element (Table 8-6). -/
def fclsElem (F : FloatFmt) (x : Nat) : Nat :=
  let c := x % 2 ^ (F.width - 1)
  let q := 2 ^ (F.p - 2)
  match decodeF F x with
  | .nan => if c / q % 2 = 1 then 2 ^ 1 else 2 ^ 0
  | .inf true => 2 ^ 2
  | .inf false => 2 ^ 9
  | .fin a m _ =>
    if m = 0 then (if a then 2 ^ 5 else 2 ^ 6)
    else if c < 2 ^ (F.p - 1) then (if a then 2 ^ 4 else 2 ^ 7)
    else (if a then 2 ^ 3 else 2 ^ 8)

/-- FCLS's result format (R171). -/
def fclsFmt : Fmt → Fmt
  | .fp32 | .fp16x1 => .i32
  | _ => .i16x2

/-- The exact value of a signed integer. -/
def ofInt (v : Int) : FVal := .fin (decide (v < 0)) v.natAbs 0

/-- An integer element of width `w` from a value: rounded, clamped; NaN gives 0 (R176). -/
def toIntElem (w : Nat) (mode : RMode) : FVal → Nat
  | .nan => 0
  | .inf a => wrap w (if a then -((2 ^ (w - 1) : Nat) : Int) else ((2 ^ (w - 1) : Nat) : Int) - 1)
  | .fin a m e =>
    let n : Int := (roundInt mode a m e : Nat)
    wrap w (clampS w (if a then -n else n))

/-- RAW32 and IDX are read as I32 by CVT (R174). -/
def cvtSrc : Fmt → Fmt
  | .raw32 | .idx => .i32
  | f => f

/-- One converted element (R175, R176). -/
def cvtElem (sf df : Fmt) (mode : RMode) (sat : Bool) (x : Nat) : Nat :=
  let ws := fmtWidth sf
  let wd := fmtWidth df
  match floatFmt sf, floatFmt df with
  | some S, some D => encodeF D mode sat (decodeF S x)
  | some S, none => toIntElem wd mode (decodeF S x)
  | none, some D => encodeF D mode sat (ofInt (sgn ws x))
  | none, none => wrap wd (if sat then clampS wd (sgn ws x) else sgn ws x)

/-- CVT on a word: the first min(ns, nd) elements convert, the others are 0 (R174). -/
def cvtWord (sf0 df : Fmt) (mode : RMode) (sat : Bool) (x : Word) : Word :=
  let sf := cvtSrc sf0
  BitVec.ofNat 32 (packElems (fmtWidth df) ((List.range (Nat.min (fmtCount sf) (fmtCount df))).map fun i =>
    cvtElem sf df mode sat (elem (fmtWidth sf) x i)))

end Sys2Proof.Machine
end

