-- ==== Sys2Proof/WellFormed.lean ====
section
/-!
DEFINITION. Which abstract instructions have a word (well-formed), which are privileged, and which need full participation.
An instruction is well formed when its scope lies in its column of Table 2-6, no register source is written as
register 63 (that code announces a literal, R21), and CVT's destination format is one that Table 2-4 admits.
Register codes that trap with OPERAND (R21, R23, R119) are well formed: they have words, and executing them traps.
-/

namespace Sys2Proof

/-- A source is a register code 0-62 or a literal; code 63 is the mark of a literal, not a register (Table 2-3). -/
def Src.wf : Src → Bool
  | .reg c => c != 63
  | .lit _ => true

/-- Scopes L C S B (Table 2-6). -/
def anyScope : Scope → Bool := fun _ => true
/-- Scope L only (Table 2-6). -/
def laneOnly : Scope → Bool
  | .lane => true
  | _ => false
/-- Scope C only (Table 2-6). -/
def crewOnly : Scope → Bool
  | .crew => true
  | _ => false
/-- Scopes L and C (Table 2-6). -/
def laneCrew : Scope → Bool
  | .lane | .crew => true
  | _ => false
/-- Scopes C and S (Table 2-6). -/
def crewSet : Scope → Bool
  | .crew | .set => true
  | _ => false
/-- Scopes C, S and B (Table 2-6). -/
def crewSetBlock : Scope → Bool
  | .lane => false
  | _ => true

/-- Destination formats of CVT: every format but RAW32 and IDX (Table 2-4). -/
def cvtFmt : Fmt → Bool
  | .raw32 | .idx => false
  | _ => true

/-- The instruction has a word: its scope, its sources and its conversion selector are ones an encoding admits. -/
def Instr.wellFormed : Instr → Bool
  | .iadd _ _ _ b => b.wf
  | .isub _ _ _ b => b.wf
  | .imul _ _ _ b => b.wf
  | .imulh _ _ _ b => b.wf
  | .imulhu _ _ _ b => b.wf
  | .imad _ _ _ b => b.wf
  | .idiv _ _ _ b => b.wf
  | .idivu _ _ _ b => b.wf
  | .irem _ _ _ b => b.wf
  | .iremu _ _ _ b => b.wf
  | .imin _ _ _ b => b.wf
  | .imax _ _ _ b => b.wf
  | .iminu _ _ _ b => b.wf
  | .imaxu _ _ _ b => b.wf
  | .iadds _ _ _ b => b.wf
  | .isubs _ _ _ b => b.wf
  | .and _ _ _ b => b.wf
  | .or _ _ _ b => b.wf
  | .xor _ _ _ b => b.wf
  | .andn _ _ _ b => b.wf
  | .shl _ _ _ b => b.wf
  | .shr _ _ _ b => b.wf
  | .sar _ _ _ b => b.wf
  | .rol _ _ _ b => b.wf
  | .bfe _ _ _ b => b.wf
  | .bfi _ _ _ b => b.wf
  | .lea _ _ _ b => b.wf
  | .idot4 _ _ _ b => b.wf
  | .iunNot _ _ _ => true
  | .iunIneg _ _ _ => true
  | .iunIabs _ _ _ => true
  | .iunPopc _ _ _ => true
  | .iunClz _ _ _ => true
  | .iunBrev _ _ _ => true
  | .iunSx8 _ _ _ => true
  | .iunSx16 _ _ _ => true
  | .iunZx8 _ _ _ => true
  | .iunZx16 _ _ _ => true
  | .iceq _ _ _ _ _ b => b.wf
  | .icne _ _ _ _ _ b => b.wf
  | .iclt _ _ _ _ _ b => b.wf
  | .icle _ _ _ _ _ b => b.wf
  | .icltu _ _ _ _ _ b => b.wf
  | .icleu _ _ _ _ _ b => b.wf
  | .fceq _ _ _ _ _ b => b.wf
  | .fclt _ _ _ _ _ b => b.wf
  | .fcle _ _ _ _ _ b => b.wf
  | .fcun _ _ _ _ _ b => b.wf
  | .mov _ _ b => b.wf
  | .sel _ _ _ b => b.wf
  | .movu _ _ _ => true
  | .mova _ _ _ b => b.wf
  | .shfli _ _ _ b => b.wf
  | .shflu _ _ _ b => b.wf
  | .shfld _ _ _ b => b.wf
  | .shflx _ _ _ b => b.wf
  | .voteAny _ _ _ => true
  | .voteAll _ _ _ => true
  | .voteBallot _ _ _ => true
  | .tagf _ _ _ _ => true
  | .tagq _ _ _ => true
  | .tclr _ _ => true
  | .movs _ _ _ => true
  | .movcRd x _ _ => laneOnly x.scope
  | .movcWr x _ _ => laneOnly x.scope
  | .pmovGet _ _ => true
  | .pmovSet _ _ => true
  | .fadd _ _ _ b => b.wf
  | .fsub _ _ _ b => b.wf
  | .fmul _ _ _ b => b.wf
  | .ffma _ _ _ b => b.wf
  | .fmin _ _ _ b => b.wf
  | .fmax _ _ _ b => b.wf
  | .fdiv _ _ _ b => b.wf
  | .funFneg _ _ _ => true
  | .funFabs _ _ _ => true
  | .funFrcp _ _ _ => true
  | .funFrsq _ _ _ => true
  | .funFsqrt _ _ _ => true
  | .funFexp2 _ _ _ => true
  | .funFlog2 _ _ _ => true
  | .funFsin _ _ _ => true
  | .funFcos _ _ _ => true
  | .funFflr _ _ _ => true
  | .funFceil _ _ _ => true
  | .funFtrnc _ _ _ => true
  | .funFrint _ _ _ => true
  | .funFcls _ _ _ => true
  | .cvt _ f _ _ _ _ => cvtFmt f
  | .bra _ _ _ => true
  | .brl _ _ _ => true
  | .call _ _ _ => true
  | .jmpi _ _ _ => true
  | .ret _ _ _ => true
  | .exit x => laneOnly x.scope
  | .join x _ _ => crewOnly x.scope
  | .leave x _ => crewOnly x.scope
  | .bar x => crewSetBlock x.scope
  | .yield x => laneOnly x.scope
  | .spawn _ _ _ => true
  | .reord x _ _ _ => laneOnly x.scope
  | .ldb _ _ _ _ _ => true
  | .ldbs _ _ _ _ _ => true
  | .ldh _ _ _ _ _ => true
  | .ldhs _ _ _ _ _ => true
  | .ldw _ _ _ _ _ => true
  | .ldd _ _ _ _ _ => true
  | .ldq _ _ _ _ _ => true
  | .stb _ _ _ _ _ => true
  | .sth _ _ _ _ _ => true
  | .stw _ _ _ _ _ => true
  | .std _ _ _ _ _ => true
  | .stq _ _ _ _ _ => true
  | .lda _ _ _ => true
  | .sta _ _ _ => true
  | .ldm _ _ _ _ _ _ => true
  | .stm _ _ _ _ _ _ => true
  | .mrec _ _ _ => true
  | .mrst _ _ _ => true
  | .pref _ _ _ _ => true
  | .linv _ _ _ => true
  | .axchg _ _ _ _ _ => true
  | .acas _ _ _ _ _ => true
  | .aadd _ _ _ _ _ => true
  | .amin _ _ _ _ _ => true
  | .amax _ _ _ _ _ => true
  | .aminu _ _ _ _ _ => true
  | .amaxu _ _ _ _ _ => true
  | .aand _ _ _ _ _ => true
  | .aor _ _ _ _ _ => true
  | .axor _ _ _ _ _ => true
  | .afadd _ _ _ _ _ => true
  | .ldacq _ _ _ _ => true
  | .strel _ _ _ _ => true
  | .fence _ _ => true
  | .bcopyG2a x _ _ => crewOnly x.scope
  | .bcopyG2w x _ _ => crewOnly x.scope
  | .bcopyA2g x _ _ => crewOnly x.scope
  | .bcopyA2w x _ => crewOnly x.scope
  | .batchSeal x _ => crewOnly x.scope
  | .batchWait x _ => crewOnly x.scope
  | .batchPoll x _ _ => crewOnly x.scope
  | .baroInit _ _ => true
  | .baroArrive _ _ => true
  | .baroWait _ _ => true
  | .mma x _ _ b => crewSet x.scope && b.wf
  | .mmas x _ _ b => crewSet x.scope && b.wf
  | .mclrFp32 x _ => crewSet x.scope
  | .mclrI32 x _ => crewSet x.scope
  | .mqnt x _ _ b => crewSet x.scope && b.wf
  | .mscl x _ b => crewOnly x.scope && b.wf
  | .mhnd x b => crewOnly x.scope && b.wf
  | .qopPush x _ _ => crewOnly x.scope
  | .qopPop x _ _ _ => crewOnly x.scope
  | .qopDem _ _ _ => true
  | .qopStat _ _ _ => true
  | .sysTrap x _ => laneCrew x.scope
  | .sysRtt x => crewOnly x.scope
  | .sysSysc x _ => laneCrew x.scope
  | .sysSusp x _ => laneCrew x.scope
  | .sysResm x _ => laneCrew x.scope
  | .sysRdcv x _ _ => laneCrew x.scope
  | .sysWrcv x _ _ => laneCrew x.scope
  | .sysIcinv x _ _ => laneCrew x.scope
  | .sysTlbinv x _ _ => laneCrew x.scope
  | .sysHalt x => laneCrew x.scope
  | .sysIswap x _ _ => laneCrew x.scope
  | .dbgBrk x => laneCrew x.scope
  | .dbgTrace x _ _ => laneCrew x.scope
  | .dbgMark x _ => laneCrew x.scope
  | .ordBegin x _ => laneOnly x.scope
  | .ordEnd x => laneOnly x.scope
  | .mov16 _ _ => true
  | .iadd16 _ _ => true
  | .isub16 _ _ => true
  | .imul16 _ _ => true
  | .and16 _ _ => true
  | .or16 _ _ => true
  | .xor16 _ _ => true
  | .shl16 _ _ => true
  | .shr16 _ _ => true
  | .sar16 _ _ => true
  | .imin16 _ _ => true
  | .imax16 _ _ => true
  | .fadd16 _ _ => true
  | .fmul16 _ _ => true
  | .fsub16 _ _ => true
  | .nop => true
  | .brk => true
  | .exit16 => true
  | .ret16 => true
  | .yield16 => true
  | .rendezvousDeadlock => true
  | .frontQuantumExpire => true
  | .sqPush _ _ _ => true
  | .taskKill _ _ => true
  | .taskRetire => true
  | .placementDecision => true
  | .starvationReservation _ _ => true
  | .blockWakeDone => true
  | .blockSaveComplete => true
  | .preemptSlowStop => true
  | .blockRetire => true
  | .allocationScrub => true
  | .registerGroupGate _ _ => true
  | .enckeAgeFlush _ _ => true
  | .enckeFinalFlush _ _ => true
  | .loadDataReturn _ _ => true
  | .atomicReturn _ _ => true
  | .writePerformed _ _ => true
  | .walkComplete => true
  | .missEntryFree => true
  | .mshrAgeLimitReached => true
  | .lineRetry _ _ => true
  | .bcopyUnitMove _ _ => true
  | .matrixOccupancyEnd => true
  | .scPin _ _ _ => true
  | .pinInstallDone _ _ => true
  | .scPartWrite _ _ _ => true
  | .mcPfqResp _ _ => true
  | .mcPfqTail _ _ => true
  | .hostRead _ _ _ => true
  | .hostWrite _ _ _ => true
  | .hostSnoop _ _ => true
  | .birsp _ => true
  | .atsTranslationCompletion _ _ => true
  | .pageGroupResponse _ _ => true
  | .priEnable => true
  | .atsInvalidateRequest _ _ _ => true
  | .shootdownAck _ _ => true
  | .dieFence _ => true
  | .icinvAck _ _ => true
  | .flitReceive _ _ => true
  | .laneLockLoss => true
  | .linkRetrainEnd _ => true
  | .linkHeartbeat => true
  | .cellFire _ _ _ => true
  | .tokenDeliver _ _ _ => true
  | .demandCreditArrive _ _ _ => true
  | .tokenRequestArrive _ _ _ => true
  | .islandFetchReturn _ _ _ => true
  | .islandStoreDone _ _ _ => true
  | .outputVectorDeliver _ _ _ => true
  | .pushEntryToPort _ _ => true
  | .islandImageCheck => true
  | .traceRecordWrite => true
  | .replayGateTimeout _ _ => true
  | .trCtl _ _ => true
  | .trTime _ => true
  | .trAdj _ => true
  | .traceSample _ _ => true
  | .registerWrite _ _ => true
  | .bootClear _ => true
  | .fwErase => true
  | .fwProgram => true
  | .fwVerify => true
  | .fwCommit => true
  | .fwInvalidCommand _ => true
  | .fwCommandComplete _ => true
  | .getVersion => true
  | .getCapabilities => true
  | .negotiateAlgorithms => true
  | .getDigests => true
  | .getCertificate _ _ _ => true
  | .challenge _ _ => true
  | .getMeasurements _ _ _ => true
  | .powerOnReset _ => true
  | .standbyPowerLoss => true
  | .securityAlarm _ => true
  | .clockThrottle _ => true
  | .thermalTrip => true
  | .illegalInstruction _ _ _ _ => true
  | .trTail _ => true
  | .eccError _ _ _ => true
  | .burstCrcFailure _ _ => true

/-- The constructor stands for an encoded instruction; the others are events, which have no word. -/
def Instr.encoded : Instr → Bool
  | .rendezvousDeadlock => false
  | .frontQuantumExpire => false
  | .sqPush _ _ _ => false
  | .taskKill _ _ => false
  | .taskRetire => false
  | .placementDecision => false
  | .starvationReservation _ _ => false
  | .blockWakeDone => false
  | .blockSaveComplete => false
  | .preemptSlowStop => false
  | .blockRetire => false
  | .allocationScrub => false
  | .registerGroupGate _ _ => false
  | .enckeAgeFlush _ _ => false
  | .enckeFinalFlush _ _ => false
  | .loadDataReturn _ _ => false
  | .atomicReturn _ _ => false
  | .writePerformed _ _ => false
  | .walkComplete => false
  | .missEntryFree => false
  | .mshrAgeLimitReached => false
  | .lineRetry _ _ => false
  | .bcopyUnitMove _ _ => false
  | .matrixOccupancyEnd => false
  | .scPin _ _ _ => false
  | .pinInstallDone _ _ => false
  | .scPartWrite _ _ _ => false
  | .mcPfqResp _ _ => false
  | .mcPfqTail _ _ => false
  | .hostRead _ _ _ => false
  | .hostWrite _ _ _ => false
  | .hostSnoop _ _ => false
  | .birsp _ => false
  | .atsTranslationCompletion _ _ => false
  | .pageGroupResponse _ _ => false
  | .priEnable => false
  | .atsInvalidateRequest _ _ _ => false
  | .shootdownAck _ _ => false
  | .dieFence _ => false
  | .icinvAck _ _ => false
  | .flitReceive _ _ => false
  | .laneLockLoss => false
  | .linkRetrainEnd _ => false
  | .linkHeartbeat => false
  | .cellFire _ _ _ => false
  | .tokenDeliver _ _ _ => false
  | .demandCreditArrive _ _ _ => false
  | .tokenRequestArrive _ _ _ => false
  | .islandFetchReturn _ _ _ => false
  | .islandStoreDone _ _ _ => false
  | .outputVectorDeliver _ _ _ => false
  | .pushEntryToPort _ _ => false
  | .islandImageCheck => false
  | .traceRecordWrite => false
  | .replayGateTimeout _ _ => false
  | .trCtl _ _ => false
  | .trTime _ => false
  | .trAdj _ => false
  | .traceSample _ _ => false
  | .registerWrite _ _ => false
  | .bootClear _ => false
  | .fwErase => false
  | .fwProgram => false
  | .fwVerify => false
  | .fwCommit => false
  | .fwInvalidCommand _ => false
  | .fwCommandComplete _ => false
  | .getVersion => false
  | .getCapabilities => false
  | .negotiateAlgorithms => false
  | .getDigests => false
  | .getCertificate _ _ _ => false
  | .challenge _ _ => false
  | .getMeasurements _ _ _ => false
  | .powerOnReset _ => false
  | .standbyPowerLoss => false
  | .securityAlarm _ => false
  | .clockThrottle _ => false
  | .thermalTrip => false
  | .illegalInstruction _ _ _ _ => false
  | .trTail _ => false
  | .eccError _ _ _ => false
  | .burstCrcFailure _ _ => false
  | _ => true

/-- The common lead field of a 32-bit instruction (R18); the 16-bit forms and the events have none. -/
def Instr.pfx? : Instr → Option Pfx
  | .iadd x _ _ _ => some x
  | .isub x _ _ _ => some x
  | .imul x _ _ _ => some x
  | .imulh x _ _ _ => some x
  | .imulhu x _ _ _ => some x
  | .imad x _ _ _ => some x
  | .idiv x _ _ _ => some x
  | .idivu x _ _ _ => some x
  | .irem x _ _ _ => some x
  | .iremu x _ _ _ => some x
  | .imin x _ _ _ => some x
  | .imax x _ _ _ => some x
  | .iminu x _ _ _ => some x
  | .imaxu x _ _ _ => some x
  | .iadds x _ _ _ => some x
  | .isubs x _ _ _ => some x
  | .and x _ _ _ => some x
  | .or x _ _ _ => some x
  | .xor x _ _ _ => some x
  | .andn x _ _ _ => some x
  | .shl x _ _ _ => some x
  | .shr x _ _ _ => some x
  | .sar x _ _ _ => some x
  | .rol x _ _ _ => some x
  | .bfe x _ _ _ => some x
  | .bfi x _ _ _ => some x
  | .lea x _ _ _ => some x
  | .idot4 x _ _ _ => some x
  | .iunNot x _ _ => some x
  | .iunIneg x _ _ => some x
  | .iunIabs x _ _ => some x
  | .iunPopc x _ _ => some x
  | .iunClz x _ _ => some x
  | .iunBrev x _ _ => some x
  | .iunSx8 x _ _ => some x
  | .iunSx16 x _ _ => some x
  | .iunZx8 x _ _ => some x
  | .iunZx16 x _ _ => some x
  | .iceq x _ _ _ _ _ => some x
  | .icne x _ _ _ _ _ => some x
  | .iclt x _ _ _ _ _ => some x
  | .icle x _ _ _ _ _ => some x
  | .icltu x _ _ _ _ _ => some x
  | .icleu x _ _ _ _ _ => some x
  | .fceq x _ _ _ _ _ => some x
  | .fclt x _ _ _ _ _ => some x
  | .fcle x _ _ _ _ _ => some x
  | .fcun x _ _ _ _ _ => some x
  | .mov x _ _ => some x
  | .sel x _ _ _ => some x
  | .movu x _ _ => some x
  | .mova x _ _ _ => some x
  | .shfli x _ _ _ => some x
  | .shflu x _ _ _ => some x
  | .shfld x _ _ _ => some x
  | .shflx x _ _ _ => some x
  | .voteAny x _ _ => some x
  | .voteAll x _ _ => some x
  | .voteBallot x _ _ => some x
  | .tagf x _ _ _ => some x
  | .tagq x _ _ => some x
  | .tclr x _ => some x
  | .movs x _ _ => some x
  | .movcRd x _ _ => some x
  | .movcWr x _ _ => some x
  | .pmovGet x _ => some x
  | .pmovSet x _ => some x
  | .fadd x _ _ _ => some x
  | .fsub x _ _ _ => some x
  | .fmul x _ _ _ => some x
  | .ffma x _ _ _ => some x
  | .fmin x _ _ _ => some x
  | .fmax x _ _ _ => some x
  | .fdiv x _ _ _ => some x
  | .funFneg x _ _ => some x
  | .funFabs x _ _ => some x
  | .funFrcp x _ _ => some x
  | .funFrsq x _ _ => some x
  | .funFsqrt x _ _ => some x
  | .funFexp2 x _ _ => some x
  | .funFlog2 x _ _ => some x
  | .funFsin x _ _ => some x
  | .funFcos x _ _ => some x
  | .funFflr x _ _ => some x
  | .funFceil x _ _ => some x
  | .funFtrnc x _ _ => some x
  | .funFrint x _ _ => some x
  | .funFcls x _ _ => some x
  | .cvt x _ _ _ _ _ => some x
  | .bra x _ _ => some x
  | .brl x _ _ => some x
  | .call x _ _ => some x
  | .jmpi x _ _ => some x
  | .ret x _ _ => some x
  | .exit x => some x
  | .join x _ _ => some x
  | .leave x _ => some x
  | .bar x => some x
  | .yield x => some x
  | .spawn x _ _ => some x
  | .reord x _ _ _ => some x
  | .ldb x _ _ _ _ => some x
  | .ldbs x _ _ _ _ => some x
  | .ldh x _ _ _ _ => some x
  | .ldhs x _ _ _ _ => some x
  | .ldw x _ _ _ _ => some x
  | .ldd x _ _ _ _ => some x
  | .ldq x _ _ _ _ => some x
  | .stb x _ _ _ _ => some x
  | .sth x _ _ _ _ => some x
  | .stw x _ _ _ _ => some x
  | .std x _ _ _ _ => some x
  | .stq x _ _ _ _ => some x
  | .lda x _ _ => some x
  | .sta x _ _ => some x
  | .ldm x _ _ _ _ _ => some x
  | .stm x _ _ _ _ _ => some x
  | .mrec x _ _ => some x
  | .mrst x _ _ => some x
  | .pref x _ _ _ => some x
  | .linv x _ _ => some x
  | .axchg x _ _ _ _ => some x
  | .acas x _ _ _ _ => some x
  | .aadd x _ _ _ _ => some x
  | .amin x _ _ _ _ => some x
  | .amax x _ _ _ _ => some x
  | .aminu x _ _ _ _ => some x
  | .amaxu x _ _ _ _ => some x
  | .aand x _ _ _ _ => some x
  | .aor x _ _ _ _ => some x
  | .axor x _ _ _ _ => some x
  | .afadd x _ _ _ _ => some x
  | .ldacq x _ _ _ => some x
  | .strel x _ _ _ => some x
  | .fence x _ => some x
  | .bcopyG2a x _ _ => some x
  | .bcopyG2w x _ _ => some x
  | .bcopyA2g x _ _ => some x
  | .bcopyA2w x _ => some x
  | .batchSeal x _ => some x
  | .batchWait x _ => some x
  | .batchPoll x _ _ => some x
  | .baroInit x _ => some x
  | .baroArrive x _ => some x
  | .baroWait x _ => some x
  | .mma x _ _ _ => some x
  | .mmas x _ _ _ => some x
  | .mclrFp32 x _ => some x
  | .mclrI32 x _ => some x
  | .mqnt x _ _ _ => some x
  | .mscl x _ _ => some x
  | .mhnd x _ => some x
  | .qopPush x _ _ => some x
  | .qopPop x _ _ _ => some x
  | .qopDem x _ _ => some x
  | .qopStat x _ _ => some x
  | .sysTrap x _ => some x
  | .sysRtt x => some x
  | .sysSysc x _ => some x
  | .sysSusp x _ => some x
  | .sysResm x _ => some x
  | .sysRdcv x _ _ => some x
  | .sysWrcv x _ _ => some x
  | .sysIcinv x _ _ => some x
  | .sysTlbinv x _ _ => some x
  | .sysHalt x => some x
  | .sysIswap x _ _ => some x
  | .dbgBrk x => some x
  | .dbgTrace x _ _ => some x
  | .dbgMark x _ => some x
  | .ordBegin x _ => some x
  | .ordEnd x => some x
  | _ => none

/-- The lead field that a 16-bit form stands for: lane scope, guard pT, never a safe point (R24). -/
def Pfx.sixteen : Pfx := ⟨false, .lane, ⟨false, 3⟩⟩

/-- The lead field of an instruction, that of its 32-bit equivalent for a 16-bit form (R18, R24). -/
def Instr.pfx (i : Instr) : Pfx := i.pfx?.getD Pfx.sixteen

/-- The privileged instructions (R30): MOVC, but for a read of FRONT_QUANTUM, and nine SYS functions. -/
def Instr.privileged : Instr → Bool
  | .movcRd _ r _ => r != .frontQuantum
  | .movcWr _ _ _ => true
  | .sysRtt _ => true
  | .sysSusp _ _ => true
  | .sysResm _ _ => true
  | .sysRdcv _ _ _ => true
  | .sysWrcv _ _ _ => true
  | .sysIcinv _ _ _ => true
  | .sysTlbinv _ _ _ => true
  | .sysHalt _ => true
  | .sysIswap _ _ _ => true
  | _ => false

/-- The full-participation instructions (R29): every participating lane must be active. -/
def Instr.full : Instr → Bool
  | .bcopyG2a _ _ _ => true
  | .bcopyG2w _ _ _ => true
  | .bcopyA2g _ _ _ => true
  | .bcopyA2w _ _ => true
  | .mma _ _ _ _ => true
  | .mmas _ _ _ _ => true
  | .mclrFp32 _ _ => true
  | .mclrI32 _ _ => true
  | .mqnt _ _ _ _ => true
  | .qopPush _ _ _ => true
  | .qopPop _ _ _ _ => true
  | _ => false

end Sys2Proof
end

