-- ==== Sys2Proof/Decode.lean ====
section
/-!
DEFINITION. From words to instructions, and back.  `decodeBytes` is total on any bytes and answers an instruction
with its length, or the name of the reason why the bytes are none (R26, R27, R28).  `encode` writes the halfwords of a
well-formed instruction from the same tables (Tables 2-1, 2-2, 2-4, 2-5, 2-6, 2-7).
-/

namespace Sys2Proof

/-- Bits [lo+n-1:lo] of a word. -/
def field (w lo n : Nat) : Nat := w / 2 ^ lo % 2 ^ n

/-- Bits [lo+n-1:lo] of a word, as `n` bits. -/
def bits (n w lo : Nat) : BitVec n := BitVec.ofNat n (field w lo n)

/-- Scope codes (Table 2-1). -/
def Scope.code : Scope → Nat
  | .lane => 0
  | .crew => 1
  | .set => 2
  | .block => 3

/-- The scope that a code names (Table 2-1). -/
def scopeOf : Nat → Scope
  | 0 => .lane
  | 1 => .crew
  | 2 => .set
  | _ => .block

/-- The common lead field of a 32-bit word (R18). -/
def pfxOf (w : Nat) : Pfx :=
  ⟨field w 1 1 == 1, scopeOf (field w 2 2), ⟨field w 6 1 == 1, bits 2 w 4⟩⟩

/-- A second source: code 63 stands for the literal that follows (R21, R22). -/
def srcOf (w lit : Nat) : Src :=
  if field w 26 6 = 63 then .lit (BitVec.ofNat 32 lit) else .reg (bits 6 w 26)

/-- Format codes (R69). -/
def Fmt.code : Fmt → Nat
  | .raw32 => 0 | .i32 => 1 | .i16x2 => 2 | .i8x4 => 3 | .i4x8 => 4 | .fp32 => 5 | .fp16x2 => 6
  | .e4m3x4 => 7 | .e5m2x4 => 8 | .e2m1x8 => 9 | .e3m5x4 => 10 | .idx => 11 | .fp16x1 => 12 | .bf16x2 => 13

/-- The format that a code names; 14 and 15 are reserved (R69). -/
def fmtOf : Nat → Option Fmt
  | 0 => some .raw32 | 1 => some .i32 | 2 => some .i16x2 | 3 => some .i8x4 | 4 => some .i4x8 | 5 => some .fp32
  | 6 => some .fp16x2 | 7 => some .e4m3x4 | 8 => some .e5m2x4 | 9 => some .e2m1x8 | 10 => some .e3m5x4
  | 11 => some .idx | 12 => some .fp16x1 | 13 => some .bf16x2
  | _ => none

/-- Rounding codes of CVT (Table 2-4). -/
def RMode.code : RMode → Nat
  | .rne => 0 | .rtz => 1 | .rdn => 2 | .rup => 3

/-- The rounding that a code names (Table 2-4). -/
def rmodeOf : Nat → RMode
  | 0 => .rne
  | 1 => .rtz
  | 2 => .rdn
  | _ => .rup

/-- System register numbers (Table 6-6). -/
def SysReg.code : SysReg → Nat
  | .lane => 0 | .crew => 1 | .blockx => 2 | .blocky => 3 | .blockz => 4 | .tidx => 5 | .tidy => 6 | .tidz => 7
  | .setid => 8 | .setrank => 9 | .core => 10 | .die => 11 | .task => 12 | .clocklo => 13 | .clockhi => 14
  | .ptplo => 15 | .ptphi => 16 | .bcrew => 17

/-- The system register that a number names (Table 6-6). -/
def sysRegOf : Nat → Option SysReg
  | 0 => some .lane | 1 => some .crew | 2 => some .blockx | 3 => some .blocky | 4 => some .blockz | 5 => some .tidx
  | 6 => some .tidy | 7 => some .tidz | 8 => some .setid | 9 => some .setrank | 10 => some .core | 11 => some .die
  | 12 => some .task | 13 => some .clocklo | 14 => some .clockhi | 15 => some .ptplo | 16 => some .ptphi
  | 17 => some .bcrew
  | _ => none

/-- Control register numbers (Table 14-11). -/
def CtlReg.number : CtlReg → Nat
  | .ctlId => 0x000 | .ctlCaps => 0x001 | .frontQuantum => 0x010 | .frontStackBase => 0x011 | .trapVector => 0x020
  | .trapFrameBase => 0x021 | .trapCause => 0x022 | .trapPc => 0x023 | .trapLanes => 0x024 | .mshrAgeLimit => 0x030
  | .pinPolicy => 0x040 | .traceCtl => 0x050 | .traceFilter => 0x051 | .traceSample => 0x052 | .replayCtl => 0x060

/-- The control register that a literal names; every other literal is ILLEGAL (Tables 2-4, 14-11). -/
def ctlRegOf : Nat → Option CtlReg
  | 0x000 => some .ctlId | 0x001 => some .ctlCaps | 0x010 => some .frontQuantum | 0x011 => some .frontStackBase
  | 0x020 => some .trapVector | 0x021 => some .trapFrameBase | 0x022 => some .trapCause | 0x023 => some .trapPc
  | 0x024 => some .trapLanes | 0x030 => some .mshrAgeLimit | 0x040 => some .pinPolicy | 0x050 => some .traceCtl
  | 0x051 => some .traceFilter | 0x052 => some .traceSample | 0x060 => some .replayCtl
  | _ => none

/-- Majors whose vb, when it holds 63, announces a literal (R22). -/
def litByVb : List Nat := [0x01, 0x02, 0x03, 0x04, 0x05, 0x06, 0x07, 0x08, 0x09, 0x0A, 0x0B, 0x0C, 0x0D, 0x0E, 0x0F, 0x10, 0x11, 0x12, 0x13, 0x14, 0x15, 0x16, 0x17, 0x18, 0x19, 0x1A, 0x1B, 0x1C, 0x1E, 0x1F, 0x20, 0x21, 0x22, 0x23, 0x24, 0x25, 0x26, 0x27, 0x28, 0x29, 0x2B, 0x2C, 0x2D, 0x2E, 0x2F, 0x37, 0x38, 0x39, 0x3A, 0x3B, 0x3C, 0x3D, 0x3F, 0x71, 0x72, 0x74, 0x75, 0x76]

/-- Majors that always carry a literal (R22). -/
def litAlways : List Nat := [0x35, 0x41, 0x5A, 0x5B]

/-- The length in bytes of the instruction whose first word is `w`: 2, 4 or 8 (R17, R22). -/
def instrLength (w : Nat) : Nat :=
  if field w 0 1 = 0 then 2
  else if litAlways.contains (field w 7 7) then 8
  else if litByVb.contains (field w 7 7) && field w 26 6 == 63 then 8
  else 4

/-- The scope check that ends decoding (Table 2-6); `priv` tells the issue checks which failure comes first (R29). -/
def inScope (ok : Scope → Bool) (priv : Bool) (w : Nat) (k : Pfx → Instr) : Except Why Instr :=
  if ok (pfxOf w).scope then .ok (k (pfxOf w)) else .error (.scope priv)

/-- vd of a 32-bit word. -/
def fd (w : Nat) : RCode := bits 6 w 14
/-- va of a 32-bit word. -/
def fa (w : Nat) : RCode := bits 6 w 20
/-- The record or queue number, bits [29:26]. -/
def fm (w : Nat) : BitVec 4 := bits 4 w 26
/-- The cache hint, the order or the Q-format function, bits [31:30]. -/
def fh (w : Nat) : BitVec 2 := bits 2 w 30

/-- An unused field must be 0 (R28). -/
def unused (v : Nat) (r : Except Why Instr) : Except Why Instr := if v = 0 then r else .error .unusedField

/-- R format: vd, va, vb. -/
def decR (c : Pfx → RCode → RCode → Src → Instr) (ok : Scope → Bool) (w lit : Nat) : Except Why Instr :=
  inScope ok false w fun x => c x (fd w) (fa w) (srcOf w lit)
/-- C format: pd, pe, combine, va, vb. -/
def decC (c : Pfx → BitVec 2 → BitVec 2 → BitVec 2 → RCode → Src → Instr) (w lit : Nat) : Except Why Instr :=
  inScope anyScope false w fun x => c x (bits 2 w 14) (bits 2 w 16) (bits 2 w 18) (fa w) (srcOf w lit)
/-- R format with va unused: MOV. -/
def decMov (c : Pfx → RCode → Src → Instr) (w lit : Nat) : Except Why Instr :=
  unused (field w 20 6) (inScope anyScope false w fun x => c x (fd w) (srcOf w lit))
/-- R format with vd unused: MSCL. -/
def decAB (c : Pfx → RCode → Src → Instr) (ok : Scope → Bool) (w lit : Nat) : Except Why Instr :=
  unused (field w 14 6) (inScope ok false w fun x => c x (fa w) (srcOf w lit))
/-- R format with vd and va unused: MHND. -/
def decB (c : Pfx → Src → Instr) (ok : Scope → Bool) (w lit : Nat) : Except Why Instr :=
  unused (field w 14 12) (inScope ok false w fun x => c x (srcOf w lit))
/-- vd and va, the function already read. -/
def decDA (c : Pfx → RCode → RCode → Instr) (ok : Scope → Bool) (pv : Bool) (w : Nat) : Except Why Instr :=
  inScope ok pv w fun x => c x (fd w) (fa w)
/-- vd alone. -/
def decDest (c : Pfx → RCode → Instr) (ok : Scope → Bool) (pv : Bool) (w : Nat) : Except Why Instr :=
  unused (field w 20 6) (inScope ok pv w fun x => c x (fd w))
/-- va alone. -/
def decA (c : Pfx → RCode → Instr) (ok : Scope → Bool) (pv : Bool) (w : Nat) : Except Why Instr :=
  unused (field w 14 6) (inScope ok pv w fun x => c x (fa w))
/-- No operand. -/
def decNone (c : Pfx → Instr) (ok : Scope → Bool) (pv : Bool) (w : Nat) : Except Why Instr :=
  unused (field w 14 12) (inScope ok pv w c)
/-- TCLR: vd, every other field 0. -/
def decD (c : Pfx → RCode → Instr) (w : Nat) : Except Why Instr :=
  unused (field w 20 12) (inScope anyScope false w fun x => c x (fd w))
/-- TAGF: [31:26] is the new format code. -/
def decTagf (c : Pfx → Fmt → RCode → RCode → Instr) (w : Nat) : Except Why Instr :=
  match fmtOf (field w 26 6) with
  | some f => inScope anyScope false w fun x => c x f (fd w) (fa w)
  | none => .error .badFunction
/-- MOVS: [31:26] is the system register, va 0. -/
def decMovs (c : Pfx → SysReg → RCode → Instr) (w : Nat) : Except Why Instr :=
  match sysRegOf (field w 26 6) with
  | some r => unused (field w 20 6) (inScope anyScope false w fun x => c x r (fd w))
  | none => .error .badFunction
/-- MOVC RD: the literal names the register, va 0. -/
def decMovcRd (c : Pfx → CtlReg → RCode → Instr) (w lit : Nat) : Except Why Instr :=
  match ctlRegOf lit with
  | some r => unused (field w 20 6) (inScope laneOnly (r != .frontQuantum) w fun x => c x r (fd w))
  | none => .error .badLiteral
/-- MOVC WR: the literal names the register, vd 0. -/
def decMovcWr (c : Pfx → CtlReg → RCode → Instr) (w lit : Nat) : Except Why Instr :=
  match ctlRegOf lit with
  | some r => unused (field w 14 6) (inScope laneOnly true w fun x => c x r (fa w))
  | none => .error .badLiteral
/-- CVT: vb must be 63, and the literal is the conversion selector (Table 2-4). -/
def decCvt (c : Pfx → Fmt → RMode → Bool → RCode → RCode → Instr) (w lit : Nat) : Except Why Instr :=
  if field w 26 6 = 63 then
    match fmtOf (field lit 0 4) with
    | some f =>
      if cvtFmt f && field lit 7 25 == 0 then
        inScope anyScope false w fun x => c x f (rmodeOf (field lit 4 2)) (field lit 6 1 == 1) (fd w) (fa w)
      else .error .badLiteral
    | none => .error .badLiteral
  else .error .unusedField
/-- B format: target priority and offset. -/
def decBra (c : Pfx → BitVec 14 → BitVec 4 → Instr) (w : Nat) : Except Why Instr :=
  inScope anyScope false w fun x => c x (bits 14 w 18) (bits 4 w 14)
/-- BRL: the literal is the offset, [31:18] is 0 (R22). -/
def decBrl (c : Pfx → Word → BitVec 4 → Instr) (w lit : Nat) : Except Why Instr :=
  unused (field w 18 14) (inScope anyScope false w fun x => c x (BitVec.ofNat 32 lit) (bits 4 w 14))
/-- JMPI, RET: va and a target priority below 16 (R282). -/
def decJmp (c : Pfx → BitVec 4 → RCode → Instr) (w : Nat) : Except Why Instr :=
  if field w 30 2 = 0 then unused (field w 14 6) (inScope anyScope false w fun x => c x (bits 4 w 26) (fa w))
  else .error .badFunction
/-- JOIN: set number [28:26] and count - 1 [31:29] (R278). -/
def decJoin (c : Pfx → BitVec 3 → BitVec 3 → Instr) (ok : Scope → Bool) (w : Nat) : Except Why Instr :=
  unused (field w 14 12) (inScope ok false w fun x => c x (bits 3 w 29) (bits 3 w 26))
/-- LEAVE: set number [28:26], [31:29] 0 (R278). -/
def decLeave (c : Pfx → BitVec 3 → Instr) (ok : Scope → Bool) (w : Nat) : Except Why Instr :=
  unused (field w 29 3) (unused (field w 14 12) (inScope ok false w fun x => c x (bits 3 w 26)))
/-- REORD: count 1-16 in [31:26], key in va, first register in vd (R303). -/
def decReord (c : Pfx → BitVec 4 → RCode → RCode → Instr) (ok : Scope → Bool) (w : Nat) : Except Why Instr :=
  if 1 ≤ field w 26 6 ∧ field w 26 6 ≤ 16 then
    inScope ok false w fun x => c x (BitVec.ofNat 4 (field w 26 6 - 1)) (fa w) (fd w)
  else .error .badFunction
/-- M and A formats: hint or order, record, data register, index register. -/
def decMem (c : Pfx → BitVec 2 → BitVec 4 → RCode → RCode → Instr) (w : Nat) : Except Why Instr :=
  inScope anyScope false w fun x => c x (fh w) (fm w) (fd w) (fa w)
/-- LDA, STA: no record and no hint. -/
def decLoc (c : Pfx → RCode → RCode → Instr) (w : Nat) : Except Why Instr :=
  unused (field w 26 6) (inScope anyScope false w fun x => c x (fd w) (fa w))
/-- LDM, STM: the literal is count - 1 (Table 2-4). -/
def decLdm (c : Pfx → BitVec 2 → BitVec 4 → BitVec 3 → RCode → RCode → Instr) (w lit : Nat) : Except Why Instr :=
  if field lit 3 29 = 0 then inScope anyScope false w fun x => c x (fh w) (fm w) (bits 3 lit 0) (fd w) (fa w)
  else .error .badLiteral
/-- MREC, MRST: a record and a quad. -/
def decRec (c : Pfx → BitVec 4 → RCode → Instr) (w : Nat) : Except Why Instr :=
  unused (field w 20 6) (unused (field w 30 2) (inScope anyScope false w fun x => c x (fm w) (fd w)))
/-- PREF: hint, record and index. -/
def decPref (c : Pfx → BitVec 2 → BitVec 4 → RCode → Instr) (w : Nat) : Except Why Instr :=
  unused (field w 14 6) (inScope anyScope false w fun x => c x (fh w) (fm w) (fa w))
/-- LINV: record and index. -/
def decLinv (c : Pfx → BitVec 4 → RCode → Instr) (w : Nat) : Except Why Instr :=
  unused (field w 14 6) (unused (field w 30 2) (inScope anyScope false w fun x => c x (fm w) (fa w)))
/-- LDACQ, STREL: record, data and index, no hint. -/
def decMem0 (c : Pfx → BitVec 4 → RCode → RCode → Instr) (w : Nat) : Except Why Instr :=
  unused (field w 30 2) (inScope anyScope false w fun x => c x (fm w) (fd w) (fa w))
/-- FENCE: the scope code stands in va, 0-3 (Table 2-7). -/
def decFence (c : Pfx → BitVec 2 → Instr) (w : Nat) : Except Why Instr :=
  if field w 20 6 ≤ 3 then
    unused (field w 26 6) (unused (field w 14 6) (inScope anyScope false w fun x => c x (bits 2 w 20)))
  else .error .badFunction
/-- BCOPY through a record. -/
def decBcopy (c : Pfx → BitVec 4 → RCode → Instr) (ok : Scope → Bool) (w : Nat) : Except Why Instr :=
  unused (field w 20 6) (inScope ok false w fun x => c x (fm w) (fd w))
/-- BCOPY between the local stores: no record. -/
def decBcopyW (c : Pfx → RCode → Instr) (ok : Scope → Bool) (w : Nat) : Except Why Instr :=
  unused (field w 20 6) (unused (field w 26 4) (inScope ok false w fun x => c x (fd w)))
/-- QOP PUSH and DEM. -/
def decQa (c : Pfx → BitVec 4 → RCode → Instr) (ok : Scope → Bool) (w : Nat) : Except Why Instr :=
  unused (field w 14 6) (inScope ok false w fun x => c x (fm w) (fa w))
/-- QOP POP: the va field names the predicate, 0-3 (R226). -/
def decQpop (c : Pfx → BitVec 4 → BitVec 2 → RCode → Instr) (ok : Scope → Bool) (w : Nat) : Except Why Instr :=
  if field w 20 6 ≤ 3 then inScope ok false w fun x => c x (fm w) (bits 2 w 20) (fd w) else .error .unusedField
/-- QOP STAT. -/
def decQd (c : Pfx → BitVec 4 → RCode → Instr) (w : Nat) : Except Why Instr :=
  unused (field w 20 6) (inScope anyScope false w fun x => c x (fm w) (fd w))
/-- A number in vd: SYS TRAP, SYS SYSC, DBG MARK. -/
def decN (c : Pfx → BitVec 6 → Instr) (ok : Scope → Bool) (pv : Bool) (w : Nat) : Except Why Instr :=
  unused (field w 20 6) (inScope ok pv w fun x => c x (bits 6 w 14))
/-- A number in vd and a source in va: DBG TRACE. -/
def decNA (c : Pfx → BitVec 6 → RCode → Instr) (ok : Scope → Bool) (pv : Bool) (w : Nat) : Except Why Instr :=
  inScope ok pv w fun x => c x (bits 6 w 14) (fa w)

/-- Function codes of major 0x1D (Table 2-7). -/
def decFn1D (w : Nat) : Except Why Instr :=
  match field w 26 6 with
  | 0 => decDA Instr.iunNot anyScope false w
  | 1 => decDA Instr.iunIneg anyScope false w
  | 2 => decDA Instr.iunIabs anyScope false w
  | 3 => decDA Instr.iunPopc anyScope false w
  | 4 => decDA Instr.iunClz anyScope false w
  | 5 => decDA Instr.iunBrev anyScope false w
  | 6 => decDA Instr.iunSx8 anyScope false w
  | 7 => decDA Instr.iunSx16 anyScope false w
  | 8 => decDA Instr.iunZx8 anyScope false w
  | 9 => decDA Instr.iunZx16 anyScope false w
  | _ => .error .badFunction

/-- Function codes of major 0x30 (Table 2-7). -/
def decFn30 (w : Nat) : Except Why Instr :=
  match field w 26 6 with
  | 0 => decDA Instr.voteAny anyScope false w
  | 1 => decDA Instr.voteAll anyScope false w
  | 2 => decDA Instr.voteBallot anyScope false w
  | _ => .error .badFunction

/-- Function codes of major 0x35 (Table 2-7). -/
def decFn35 (w lit : Nat) : Except Why Instr :=
  match field w 26 6 with
  | 0 => decMovcRd Instr.movcRd w lit
  | 1 => decMovcWr Instr.movcWr w lit
  | _ => .error .badFunction

/-- Function codes of major 0x36 (Table 2-7). -/
def decFn36 (w : Nat) : Except Why Instr :=
  match field w 26 6 with
  | 0 => decDest Instr.pmovGet anyScope false w
  | 1 => decA Instr.pmovSet anyScope false w
  | _ => .error .badFunction

/-- Function codes of major 0x3E (Table 2-7). -/
def decFn3E (w : Nat) : Except Why Instr :=
  match field w 26 6 with
  | 0 => decDA Instr.funFneg anyScope false w
  | 1 => decDA Instr.funFabs anyScope false w
  | 2 => decDA Instr.funFrcp anyScope false w
  | 3 => decDA Instr.funFrsq anyScope false w
  | 4 => decDA Instr.funFsqrt anyScope false w
  | 5 => decDA Instr.funFexp2 anyScope false w
  | 6 => decDA Instr.funFlog2 anyScope false w
  | 7 => decDA Instr.funFsin anyScope false w
  | 8 => decDA Instr.funFcos anyScope false w
  | 9 => decDA Instr.funFflr anyScope false w
  | 10 => decDA Instr.funFceil anyScope false w
  | 11 => decDA Instr.funFtrnc anyScope false w
  | 12 => decDA Instr.funFrint anyScope false w
  | 13 => decDA Instr.funFcls anyScope false w
  | _ => .error .badFunction

/-- Function codes of major 0x6E (Table 2-7). -/
def decFn6E (w : Nat) : Except Why Instr :=
  match field w 30 2 with
  | 0 => decBcopy Instr.bcopyG2a crewOnly w
  | 1 => decBcopy Instr.bcopyG2w crewOnly w
  | 2 => decBcopy Instr.bcopyA2g crewOnly w
  | 3 => decBcopyW Instr.bcopyA2w crewOnly w
  | _ => .error .badFunction

/-- Function codes of major 0x6F (Table 2-7). -/
def decFn6F (w : Nat) : Except Why Instr :=
  match field w 26 6 with
  | 0 => decDest Instr.batchSeal crewOnly false w
  | 1 => decA Instr.batchWait crewOnly false w
  | 2 => decDA Instr.batchPoll crewOnly false w
  | _ => .error .badFunction

/-- Function codes of major 0x70 (Table 2-7). -/
def decFn70 (w : Nat) : Except Why Instr :=
  match field w 26 6 with
  | 0 => decA Instr.baroInit anyScope false w
  | 1 => decA Instr.baroArrive anyScope false w
  | 2 => decA Instr.baroWait anyScope false w
  | _ => .error .badFunction

/-- Function codes of major 0x73 (Table 2-7). -/
def decFn73 (w : Nat) : Except Why Instr :=
  match field w 26 6 with
  | 0 => decDest Instr.mclrFp32 crewSet false w
  | 1 => decDest Instr.mclrI32 crewSet false w
  | _ => .error .badFunction

/-- Function codes of major 0x77 (Table 2-7). -/
def decFn77 (w : Nat) : Except Why Instr :=
  match field w 30 2 with
  | 0 => decQa Instr.qopPush crewOnly w
  | 1 => decQpop Instr.qopPop crewOnly w
  | 2 => decQa Instr.qopDem anyScope w
  | 3 => decQd Instr.qopStat w
  | _ => .error .badFunction

/-- Function codes of major 0x78 (Table 2-7). -/
def decFn78 (w : Nat) : Except Why Instr :=
  match field w 26 6 with
  | 0 => decN Instr.sysTrap laneCrew false w
  | 1 => decNone Instr.sysRtt crewOnly true w
  | 2 => decN Instr.sysSysc laneCrew false w
  | 3 => decA Instr.sysSusp laneCrew true w
  | 4 => decA Instr.sysResm laneCrew true w
  | 5 => decDA Instr.sysRdcv laneCrew true w
  | 6 => decDA Instr.sysWrcv laneCrew true w
  | 7 => decDA Instr.sysIcinv laneCrew true w
  | 8 => decDA Instr.sysTlbinv laneCrew true w
  | 9 => decNone Instr.sysHalt laneCrew true w
  | 10 => decDA Instr.sysIswap laneCrew true w
  | _ => .error .badFunction

/-- Function codes of major 0x79 (Table 2-7). -/
def decFn79 (w : Nat) : Except Why Instr :=
  match field w 26 6 with
  | 0 => decNone Instr.dbgBrk laneCrew false w
  | 1 => decNA Instr.dbgTrace laneCrew false w
  | 2 => decN Instr.dbgMark laneCrew false w
  | _ => .error .badFunction

/-- Function codes of major 0x7A (Table 2-7). -/
def decFn7A (w : Nat) : Except Why Instr :=
  match field w 26 6 with
  | 0 => decA Instr.ordBegin laneOnly false w
  | 1 => decNone Instr.ordEnd laneOnly false w
  | _ => .error .badFunction

/-- A 32-bit word, by its major opcode (Table 2-6); `lit` is the literal word, 0 where none follows. -/
def decode32 (w lit : Nat) : Except Why Instr :=
  match field w 7 7 with
  | 0x01 => decR Instr.iadd anyScope w lit
  | 0x02 => decR Instr.isub anyScope w lit
  | 0x03 => decR Instr.imul anyScope w lit
  | 0x04 => decR Instr.imulh anyScope w lit
  | 0x05 => decR Instr.imulhu anyScope w lit
  | 0x06 => decR Instr.imad anyScope w lit
  | 0x07 => decR Instr.idiv anyScope w lit
  | 0x08 => decR Instr.idivu anyScope w lit
  | 0x09 => decR Instr.irem anyScope w lit
  | 0x0A => decR Instr.iremu anyScope w lit
  | 0x0B => decR Instr.imin anyScope w lit
  | 0x0C => decR Instr.imax anyScope w lit
  | 0x0D => decR Instr.iminu anyScope w lit
  | 0x0E => decR Instr.imaxu anyScope w lit
  | 0x0F => decR Instr.iadds anyScope w lit
  | 0x10 => decR Instr.isubs anyScope w lit
  | 0x11 => decR Instr.and anyScope w lit
  | 0x12 => decR Instr.or anyScope w lit
  | 0x13 => decR Instr.xor anyScope w lit
  | 0x14 => decR Instr.andn anyScope w lit
  | 0x15 => decR Instr.shl anyScope w lit
  | 0x16 => decR Instr.shr anyScope w lit
  | 0x17 => decR Instr.sar anyScope w lit
  | 0x18 => decR Instr.rol anyScope w lit
  | 0x19 => decR Instr.bfe anyScope w lit
  | 0x1A => decR Instr.bfi anyScope w lit
  | 0x1B => decR Instr.lea anyScope w lit
  | 0x1C => decR Instr.idot4 anyScope w lit
  | 0x1D => decFn1D w
  | 0x1E => decC Instr.iceq w lit
  | 0x1F => decC Instr.icne w lit
  | 0x20 => decC Instr.iclt w lit
  | 0x21 => decC Instr.icle w lit
  | 0x22 => decC Instr.icltu w lit
  | 0x23 => decC Instr.icleu w lit
  | 0x24 => decC Instr.fceq w lit
  | 0x25 => decC Instr.fclt w lit
  | 0x26 => decC Instr.fcle w lit
  | 0x27 => decC Instr.fcun w lit
  | 0x28 => decMov Instr.mov w lit
  | 0x29 => decR Instr.sel anyScope w lit
  | 0x2A => if field w 26 6 = 0 then decDA Instr.movu anyScope false w else .error .unusedField
  | 0x2B => decR Instr.mova anyScope w lit
  | 0x2C => decR Instr.shfli anyScope w lit
  | 0x2D => decR Instr.shflu anyScope w lit
  | 0x2E => decR Instr.shfld anyScope w lit
  | 0x2F => decR Instr.shflx anyScope w lit
  | 0x30 => decFn30 w
  | 0x31 => decTagf Instr.tagf w
  | 0x32 => if field w 26 6 = 0 then decDA Instr.tagq anyScope false w else .error .unusedField
  | 0x33 => decD Instr.tclr w
  | 0x34 => decMovs Instr.movs w
  | 0x35 => decFn35 w lit
  | 0x36 => decFn36 w
  | 0x37 => decR Instr.fadd anyScope w lit
  | 0x38 => decR Instr.fsub anyScope w lit
  | 0x39 => decR Instr.fmul anyScope w lit
  | 0x3A => decR Instr.ffma anyScope w lit
  | 0x3B => decR Instr.fmin anyScope w lit
  | 0x3C => decR Instr.fmax anyScope w lit
  | 0x3D => decR Instr.fdiv anyScope w lit
  | 0x3E => decFn3E w
  | 0x3F => decCvt Instr.cvt w lit
  | 0x40 => decBra Instr.bra w
  | 0x41 => decBrl Instr.brl w lit
  | 0x42 => decBra Instr.call w
  | 0x43 => decJmp Instr.jmpi w
  | 0x44 => decJmp Instr.ret w
  | 0x45 => if field w 26 6 = 0 then decNone Instr.exit laneOnly false w else .error .unusedField
  | 0x46 => decJoin Instr.join crewOnly w
  | 0x47 => decLeave Instr.leave crewOnly w
  | 0x48 => if field w 26 6 = 0 then decNone Instr.bar crewSetBlock false w else .error .unusedField
  | 0x49 => if field w 26 6 = 0 then decNone Instr.yield laneOnly false w else .error .unusedField
  | 0x4A => if field w 26 6 = 0 then decDA Instr.spawn anyScope false w else .error .unusedField
  | 0x4B => decReord Instr.reord laneOnly w
  | 0x4C => decMem Instr.ldb w
  | 0x4D => decMem Instr.ldbs w
  | 0x4E => decMem Instr.ldh w
  | 0x4F => decMem Instr.ldhs w
  | 0x50 => decMem Instr.ldw w
  | 0x51 => decMem Instr.ldd w
  | 0x52 => decMem Instr.ldq w
  | 0x53 => decMem Instr.stb w
  | 0x54 => decMem Instr.sth w
  | 0x55 => decMem Instr.stw w
  | 0x56 => decMem Instr.std w
  | 0x57 => decMem Instr.stq w
  | 0x58 => decLoc Instr.lda w
  | 0x59 => decLoc Instr.sta w
  | 0x5A => decLdm Instr.ldm w lit
  | 0x5B => decLdm Instr.stm w lit
  | 0x5C => decRec Instr.mrec w
  | 0x5D => decRec Instr.mrst w
  | 0x5E => decPref Instr.pref w
  | 0x5F => decLinv Instr.linv w
  | 0x60 => decMem Instr.axchg w
  | 0x61 => decMem Instr.acas w
  | 0x62 => decMem Instr.aadd w
  | 0x63 => decMem Instr.amin w
  | 0x64 => decMem Instr.amax w
  | 0x65 => decMem Instr.aminu w
  | 0x66 => decMem Instr.amaxu w
  | 0x67 => decMem Instr.aand w
  | 0x68 => decMem Instr.aor w
  | 0x69 => decMem Instr.axor w
  | 0x6A => decMem Instr.afadd w
  | 0x6B => decMem0 Instr.ldacq w
  | 0x6C => decMem0 Instr.strel w
  | 0x6D => decFence Instr.fence w
  | 0x6E => decFn6E w
  | 0x6F => decFn6F w
  | 0x70 => decFn70 w
  | 0x71 => decR Instr.mma crewSet w lit
  | 0x72 => decR Instr.mmas crewSet w lit
  | 0x73 => decFn73 w
  | 0x74 => decR Instr.mqnt crewSet w lit
  | 0x75 => decAB Instr.mscl crewOnly w lit
  | 0x76 => decB Instr.mhnd crewOnly w lit
  | 0x77 => decFn77 w
  | 0x78 => decFn78 w
  | 0x79 => decFn79 w
  | 0x7A => decFn7A w
  | _ => .error .reservedMajor

/-- The ESC functions (R25). -/
def decodeEsc (w : Nat) : Except Why Instr :=
  if field w 5 5 = 0 then
    match field w 10 6 with
    | 0 => .ok .nop
    | 1 => .ok .brk
    | 2 => .ok .exit16
    | 3 => .ok .ret16
    | 4 => .ok .yield16
    | _ => .error .badFunction
  else .error .unusedField

/-- A 16-bit word (Table 2-5). -/
def decode16 (w : Nat) : Except Why Instr :=
  match field w 1 4 with
  | 0 => .ok (.mov16 (bits 5 w 5) (bits 6 w 10))
  | 1 => .ok (.iadd16 (bits 5 w 5) (bits 6 w 10))
  | 2 => .ok (.isub16 (bits 5 w 5) (bits 6 w 10))
  | 3 => .ok (.imul16 (bits 5 w 5) (bits 6 w 10))
  | 4 => .ok (.and16 (bits 5 w 5) (bits 6 w 10))
  | 5 => .ok (.or16 (bits 5 w 5) (bits 6 w 10))
  | 6 => .ok (.xor16 (bits 5 w 5) (bits 6 w 10))
  | 7 => .ok (.shl16 (bits 5 w 5) (bits 6 w 10))
  | 8 => .ok (.shr16 (bits 5 w 5) (bits 6 w 10))
  | 9 => .ok (.sar16 (bits 5 w 5) (bits 6 w 10))
  | 10 => .ok (.imin16 (bits 5 w 5) (bits 6 w 10))
  | 11 => .ok (.imax16 (bits 5 w 5) (bits 6 w 10))
  | 12 => .ok (.fadd16 (bits 5 w 5) (bits 6 w 10))
  | 13 => .ok (.fmul16 (bits 5 w 5) (bits 6 w 10))
  | 14 => .ok (.fsub16 (bits 5 w 5) (bits 6 w 10))
  | _ => decodeEsc w

/-- Why bytes are no instruction: too few bytes, or a word that R26 to R28 exclude (with its length). -/
inductive DecodeError where
  | truncated
  | illegal (why : Why) (len : Nat)
deriving DecidableEq, Repr

/-- An instruction, by its first word and literal; a 16-bit word is the low half of `w` (R17, R22). -/
def decodeWord (w lit : Nat) : Except Why Instr :=
  if field w 0 1 = 0 then decode16 w else decode32 w lit

/-- A little-endian number (R17). -/
def leNat : List Byte → Nat
  | [] => 0
  | b :: bs => b.toNat + 256 * leNat bs

/-- The bytes of a number, little-endian (R17). -/
def leBytes : Nat → Nat → List Byte
  | 0, _ => []
  | k + 1, v => BitVec.ofNat 8 v :: leBytes k (v / 256)

/-- The instruction at the head of a byte list, with its length in bytes. -/
def decodeBytes (bs : List Byte) : Except DecodeError (Instr × Nat) :=
  let n := if leNat (bs.take 2) % 2 = 0 then 2 else instrLength (leNat (bs.take 4))
  if bs.length < 2 ∨ bs.length < n then .error .truncated
  else
    let w := if n = 2 then leNat (bs.take 2) else leNat (bs.take 4)
    let lit := if n = 8 then leNat ((bs.drop 4).take 4) else 0
    match decodeWord w lit with
    | .ok i => .ok (i, n)
    | .error y => .error (.illegal y n)

/-- The bytes of an instruction whose bits are `w`, the opcode table's numbering, zeros above `nbits`. -/
def tableBytes (nbits w : Nat) : List Byte := leBytes 8 (w % 2 ^ nbits)

/-- The instruction the decoder reads from a word numbered as the opcode table numbers it. -/
def decodeTableWord (nbits w : Nat) : Option Instr :=
  match decodeBytes (tableBytes nbits w) with
  | .ok (i, _) => some i
  | .error _ => none

/-- The guard code, bits [6:4] of the lead field (Table 2-1). -/
def Guard.code (g : Guard) : Nat := g.sel.toNat + 4 * g.neg.toNat

/-- The lead field of a 32-bit word, bits [6:0] (Table 2-1). -/
def Pfx.code (x : Pfx) : Nat := 1 + 2 * x.stop.toNat + 4 * x.scope.code + 16 * x.guard.code

/-- The vb code of a source: a literal is announced by 63 (R21). -/
def Src.code : Src → Nat
  | .reg c => c.toNat
  | .lit _ => 63

/-- The literal word of a source (R22). -/
def Src.litWord : Src → Option Nat
  | .reg _ => none
  | .lit w => some w.toNat

/-- The literal's two halfwords, when there is one. -/
def litHalves : Option Nat → List Nat
  | none => []
  | some l => [l % 65536, l / 65536]

/-- The halfwords of a 32-bit word with fields [13:7], [19:14], [25:20] and [31:26], and its literal (Table 2-2). -/
def w32 (x : Pfx) (mj d a hi : Nat) (lit : Option Nat) : List Nat :=
  let w := x.code + 2 ^ 7 * mj + 2 ^ 14 * d + 2 ^ 20 * a + 2 ^ 26 * hi
  [w % 65536, w / 65536] ++ litHalves lit

/-- The halfwords of a B-format word: priority [17:14], offset [31:18] (Table 2-2). -/
def wB (x : Pfx) (mj t off : Nat) (lit : Option Nat) : List Nat :=
  let w := x.code + 2 ^ 7 * mj + 2 ^ 14 * t + 2 ^ 18 * off
  [w % 65536, w / 65536] ++ litHalves lit

/-- A 16-bit word (Table 2-5). -/
def w16 (op d v : Nat) : List Nat := [2 * op + 2 ^ 5 * d + 2 ^ 10 * v]

/-- The halfwords of an instruction, lowest address first; none for an event, which has no word. -/
def encode : Instr → List Nat
  | .iadd x d a b => w32 x 0x01 (d.toNat) (a.toNat) (b.code) b.litWord
  | .isub x d a b => w32 x 0x02 (d.toNat) (a.toNat) (b.code) b.litWord
  | .imul x d a b => w32 x 0x03 (d.toNat) (a.toNat) (b.code) b.litWord
  | .imulh x d a b => w32 x 0x04 (d.toNat) (a.toNat) (b.code) b.litWord
  | .imulhu x d a b => w32 x 0x05 (d.toNat) (a.toNat) (b.code) b.litWord
  | .imad x d a b => w32 x 0x06 (d.toNat) (a.toNat) (b.code) b.litWord
  | .idiv x d a b => w32 x 0x07 (d.toNat) (a.toNat) (b.code) b.litWord
  | .idivu x d a b => w32 x 0x08 (d.toNat) (a.toNat) (b.code) b.litWord
  | .irem x d a b => w32 x 0x09 (d.toNat) (a.toNat) (b.code) b.litWord
  | .iremu x d a b => w32 x 0x0A (d.toNat) (a.toNat) (b.code) b.litWord
  | .imin x d a b => w32 x 0x0B (d.toNat) (a.toNat) (b.code) b.litWord
  | .imax x d a b => w32 x 0x0C (d.toNat) (a.toNat) (b.code) b.litWord
  | .iminu x d a b => w32 x 0x0D (d.toNat) (a.toNat) (b.code) b.litWord
  | .imaxu x d a b => w32 x 0x0E (d.toNat) (a.toNat) (b.code) b.litWord
  | .iadds x d a b => w32 x 0x0F (d.toNat) (a.toNat) (b.code) b.litWord
  | .isubs x d a b => w32 x 0x10 (d.toNat) (a.toNat) (b.code) b.litWord
  | .and x d a b => w32 x 0x11 (d.toNat) (a.toNat) (b.code) b.litWord
  | .or x d a b => w32 x 0x12 (d.toNat) (a.toNat) (b.code) b.litWord
  | .xor x d a b => w32 x 0x13 (d.toNat) (a.toNat) (b.code) b.litWord
  | .andn x d a b => w32 x 0x14 (d.toNat) (a.toNat) (b.code) b.litWord
  | .shl x d a b => w32 x 0x15 (d.toNat) (a.toNat) (b.code) b.litWord
  | .shr x d a b => w32 x 0x16 (d.toNat) (a.toNat) (b.code) b.litWord
  | .sar x d a b => w32 x 0x17 (d.toNat) (a.toNat) (b.code) b.litWord
  | .rol x d a b => w32 x 0x18 (d.toNat) (a.toNat) (b.code) b.litWord
  | .bfe x d a b => w32 x 0x19 (d.toNat) (a.toNat) (b.code) b.litWord
  | .bfi x d a b => w32 x 0x1A (d.toNat) (a.toNat) (b.code) b.litWord
  | .lea x d a b => w32 x 0x1B (d.toNat) (a.toNat) (b.code) b.litWord
  | .idot4 x d a b => w32 x 0x1C (d.toNat) (a.toNat) (b.code) b.litWord
  | .iunNot x d a => w32 x 0x1D (d.toNat) (a.toNat) 0 none
  | .iunIneg x d a => w32 x 0x1D (d.toNat) (a.toNat) (1) none
  | .iunIabs x d a => w32 x 0x1D (d.toNat) (a.toNat) (2) none
  | .iunPopc x d a => w32 x 0x1D (d.toNat) (a.toNat) (3) none
  | .iunClz x d a => w32 x 0x1D (d.toNat) (a.toNat) (4) none
  | .iunBrev x d a => w32 x 0x1D (d.toNat) (a.toNat) (5) none
  | .iunSx8 x d a => w32 x 0x1D (d.toNat) (a.toNat) (6) none
  | .iunSx16 x d a => w32 x 0x1D (d.toNat) (a.toNat) (7) none
  | .iunZx8 x d a => w32 x 0x1D (d.toNat) (a.toNat) (8) none
  | .iunZx16 x d a => w32 x 0x1D (d.toNat) (a.toNat) (9) none
  | .iceq x p e k a b => w32 x 0x1E (e.toNat * 4 + p.toNat * 1 + k.toNat * 16) (a.toNat) (b.code) b.litWord
  | .icne x p e k a b => w32 x 0x1F (e.toNat * 4 + p.toNat * 1 + k.toNat * 16) (a.toNat) (b.code) b.litWord
  | .iclt x p e k a b => w32 x 0x20 (e.toNat * 4 + p.toNat * 1 + k.toNat * 16) (a.toNat) (b.code) b.litWord
  | .icle x p e k a b => w32 x 0x21 (e.toNat * 4 + p.toNat * 1 + k.toNat * 16) (a.toNat) (b.code) b.litWord
  | .icltu x p e k a b => w32 x 0x22 (e.toNat * 4 + p.toNat * 1 + k.toNat * 16) (a.toNat) (b.code) b.litWord
  | .icleu x p e k a b => w32 x 0x23 (e.toNat * 4 + p.toNat * 1 + k.toNat * 16) (a.toNat) (b.code) b.litWord
  | .fceq x p e k a b => w32 x 0x24 (e.toNat * 4 + p.toNat * 1 + k.toNat * 16) (a.toNat) (b.code) b.litWord
  | .fclt x p e k a b => w32 x 0x25 (e.toNat * 4 + p.toNat * 1 + k.toNat * 16) (a.toNat) (b.code) b.litWord
  | .fcle x p e k a b => w32 x 0x26 (e.toNat * 4 + p.toNat * 1 + k.toNat * 16) (a.toNat) (b.code) b.litWord
  | .fcun x p e k a b => w32 x 0x27 (e.toNat * 4 + p.toNat * 1 + k.toNat * 16) (a.toNat) (b.code) b.litWord
  | .mov x d b => w32 x 0x28 (d.toNat) 0 (b.code) b.litWord
  | .sel x d a b => w32 x 0x29 (d.toNat) (a.toNat) (b.code) b.litWord
  | .movu x d a => w32 x 0x2A (d.toNat) (a.toNat) 0 none
  | .mova x d a b => w32 x 0x2B (d.toNat) (a.toNat) (b.code) b.litWord
  | .shfli x d a b => w32 x 0x2C (d.toNat) (a.toNat) (b.code) b.litWord
  | .shflu x d a b => w32 x 0x2D (d.toNat) (a.toNat) (b.code) b.litWord
  | .shfld x d a b => w32 x 0x2E (d.toNat) (a.toNat) (b.code) b.litWord
  | .shflx x d a b => w32 x 0x2F (d.toNat) (a.toNat) (b.code) b.litWord
  | .voteAny x d a => w32 x 0x30 (d.toNat) (a.toNat) 0 none
  | .voteAll x d a => w32 x 0x30 (d.toNat) (a.toNat) (1) none
  | .voteBallot x d a => w32 x 0x30 (d.toNat) (a.toNat) (2) none
  | .tagf x f d a => w32 x 0x31 (d.toNat) (a.toNat) (f.code) none
  | .tagq x d a => w32 x 0x32 (d.toNat) (a.toNat) 0 none
  | .tclr x d => w32 x 0x33 (d.toNat) 0 0 none
  | .movs x r d => w32 x 0x34 (d.toNat) 0 (r.code) none
  | .movcRd x r d => w32 x 0x35 (d.toNat) 0 0 (some r.number)
  | .movcWr x r a => w32 x 0x35 0 (a.toNat) (1) (some r.number)
  | .pmovGet x d => w32 x 0x36 (d.toNat) 0 0 none
  | .pmovSet x a => w32 x 0x36 0 (a.toNat) (1) none
  | .fadd x d a b => w32 x 0x37 (d.toNat) (a.toNat) (b.code) b.litWord
  | .fsub x d a b => w32 x 0x38 (d.toNat) (a.toNat) (b.code) b.litWord
  | .fmul x d a b => w32 x 0x39 (d.toNat) (a.toNat) (b.code) b.litWord
  | .ffma x d a b => w32 x 0x3A (d.toNat) (a.toNat) (b.code) b.litWord
  | .fmin x d a b => w32 x 0x3B (d.toNat) (a.toNat) (b.code) b.litWord
  | .fmax x d a b => w32 x 0x3C (d.toNat) (a.toNat) (b.code) b.litWord
  | .fdiv x d a b => w32 x 0x3D (d.toNat) (a.toNat) (b.code) b.litWord
  | .funFneg x d a => w32 x 0x3E (d.toNat) (a.toNat) 0 none
  | .funFabs x d a => w32 x 0x3E (d.toNat) (a.toNat) (1) none
  | .funFrcp x d a => w32 x 0x3E (d.toNat) (a.toNat) (2) none
  | .funFrsq x d a => w32 x 0x3E (d.toNat) (a.toNat) (3) none
  | .funFsqrt x d a => w32 x 0x3E (d.toNat) (a.toNat) (4) none
  | .funFexp2 x d a => w32 x 0x3E (d.toNat) (a.toNat) (5) none
  | .funFlog2 x d a => w32 x 0x3E (d.toNat) (a.toNat) (6) none
  | .funFsin x d a => w32 x 0x3E (d.toNat) (a.toNat) (7) none
  | .funFcos x d a => w32 x 0x3E (d.toNat) (a.toNat) (8) none
  | .funFflr x d a => w32 x 0x3E (d.toNat) (a.toNat) (9) none
  | .funFceil x d a => w32 x 0x3E (d.toNat) (a.toNat) (10) none
  | .funFtrnc x d a => w32 x 0x3E (d.toNat) (a.toNat) (11) none
  | .funFrint x d a => w32 x 0x3E (d.toNat) (a.toNat) (12) none
  | .funFcls x d a => w32 x 0x3E (d.toNat) (a.toNat) (13) none
  | .cvt x f m sat d a => w32 x 0x3F (d.toNat) (a.toNat) (63) (some (f.code + 16 * m.code + 64 * sat.toNat))
  | .bra x off t => wB x 0x40 t.toNat off.toNat none
  | .brl x off t => wB x 0x41 t.toNat 0 (some off.toNat)
  | .call x off t => wB x 0x42 t.toNat off.toNat none
  | .jmpi x t a => w32 x 0x43 0 (a.toNat) (t.toNat) none
  | .ret x t a => w32 x 0x44 0 (a.toNat) (t.toNat) none
  | .exit x => w32 x 0x45 0 0 0 none
  | .join x n s => w32 x 0x46 0 0 (s.toNat + 8 * n.toNat) none
  | .leave x s => w32 x 0x47 0 0 (s.toNat) none
  | .bar x => w32 x 0x48 0 0 0 none
  | .yield x => w32 x 0x49 0 0 0 none
  | .spawn x d a => w32 x 0x4A (d.toNat) (a.toNat) 0 none
  | .reord x n k d => w32 x 0x4B (d.toNat) (k.toNat) (n.toNat + 1) none
  | .ldb x h m d a => w32 x 0x4C (d.toNat) (a.toNat) (m.toNat + 16 * h.toNat) none
  | .ldbs x h m d a => w32 x 0x4D (d.toNat) (a.toNat) (m.toNat + 16 * h.toNat) none
  | .ldh x h m d a => w32 x 0x4E (d.toNat) (a.toNat) (m.toNat + 16 * h.toNat) none
  | .ldhs x h m d a => w32 x 0x4F (d.toNat) (a.toNat) (m.toNat + 16 * h.toNat) none
  | .ldw x h m d a => w32 x 0x50 (d.toNat) (a.toNat) (m.toNat + 16 * h.toNat) none
  | .ldd x h m d a => w32 x 0x51 (d.toNat) (a.toNat) (m.toNat + 16 * h.toNat) none
  | .ldq x h m d a => w32 x 0x52 (d.toNat) (a.toNat) (m.toNat + 16 * h.toNat) none
  | .stb x h m d a => w32 x 0x53 (d.toNat) (a.toNat) (m.toNat + 16 * h.toNat) none
  | .sth x h m d a => w32 x 0x54 (d.toNat) (a.toNat) (m.toNat + 16 * h.toNat) none
  | .stw x h m d a => w32 x 0x55 (d.toNat) (a.toNat) (m.toNat + 16 * h.toNat) none
  | .std x h m d a => w32 x 0x56 (d.toNat) (a.toNat) (m.toNat + 16 * h.toNat) none
  | .stq x h m d a => w32 x 0x57 (d.toNat) (a.toNat) (m.toNat + 16 * h.toNat) none
  | .lda x d a => w32 x 0x58 (d.toNat) (a.toNat) 0 none
  | .sta x d a => w32 x 0x59 (d.toNat) (a.toNat) 0 none
  | .ldm x h m n d a => w32 x 0x5A (d.toNat) (a.toNat) (m.toNat + 16 * h.toNat) (some n.toNat)
  | .stm x h m n d a => w32 x 0x5B (d.toNat) (a.toNat) (m.toNat + 16 * h.toNat) (some n.toNat)
  | .mrec x m d => w32 x 0x5C (d.toNat) 0 (m.toNat) none
  | .mrst x m d => w32 x 0x5D (d.toNat) 0 (m.toNat) none
  | .pref x h m a => w32 x 0x5E 0 (a.toNat) (m.toNat + 16 * h.toNat) none
  | .linv x m a => w32 x 0x5F 0 (a.toNat) (m.toNat) none
  | .axchg x h m d a => w32 x 0x60 (d.toNat) (a.toNat) (m.toNat + 16 * h.toNat) none
  | .acas x h m d a => w32 x 0x61 (d.toNat) (a.toNat) (m.toNat + 16 * h.toNat) none
  | .aadd x h m d a => w32 x 0x62 (d.toNat) (a.toNat) (m.toNat + 16 * h.toNat) none
  | .amin x h m d a => w32 x 0x63 (d.toNat) (a.toNat) (m.toNat + 16 * h.toNat) none
  | .amax x h m d a => w32 x 0x64 (d.toNat) (a.toNat) (m.toNat + 16 * h.toNat) none
  | .aminu x h m d a => w32 x 0x65 (d.toNat) (a.toNat) (m.toNat + 16 * h.toNat) none
  | .amaxu x h m d a => w32 x 0x66 (d.toNat) (a.toNat) (m.toNat + 16 * h.toNat) none
  | .aand x h m d a => w32 x 0x67 (d.toNat) (a.toNat) (m.toNat + 16 * h.toNat) none
  | .aor x h m d a => w32 x 0x68 (d.toNat) (a.toNat) (m.toNat + 16 * h.toNat) none
  | .axor x h m d a => w32 x 0x69 (d.toNat) (a.toNat) (m.toNat + 16 * h.toNat) none
  | .afadd x h m d a => w32 x 0x6A (d.toNat) (a.toNat) (m.toNat + 16 * h.toNat) none
  | .ldacq x m d a => w32 x 0x6B (d.toNat) (a.toNat) (m.toNat) none
  | .strel x m d a => w32 x 0x6C (d.toNat) (a.toNat) (m.toNat) none
  | .fence x sc => w32 x 0x6D 0 (sc.toNat) 0 none
  | .bcopyG2a x m d => w32 x 0x6E (d.toNat) 0 (m.toNat + 16 * 0) none
  | .bcopyG2w x m d => w32 x 0x6E (d.toNat) 0 (m.toNat + 16 * 1) none
  | .bcopyA2g x m d => w32 x 0x6E (d.toNat) 0 (m.toNat + 16 * 2) none
  | .bcopyA2w x d => w32 x 0x6E (d.toNat) 0 (48) none
  | .batchSeal x d => w32 x 0x6F (d.toNat) 0 0 none
  | .batchWait x a => w32 x 0x6F 0 (a.toNat) (1) none
  | .batchPoll x d a => w32 x 0x6F (d.toNat) (a.toNat) (2) none
  | .baroInit x a => w32 x 0x70 0 (a.toNat) 0 none
  | .baroArrive x a => w32 x 0x70 0 (a.toNat) (1) none
  | .baroWait x a => w32 x 0x70 0 (a.toNat) (2) none
  | .mma x d a b => w32 x 0x71 (d.toNat) (a.toNat) (b.code) b.litWord
  | .mmas x d a b => w32 x 0x72 (d.toNat) (a.toNat) (b.code) b.litWord
  | .mclrFp32 x d => w32 x 0x73 (d.toNat) 0 0 none
  | .mclrI32 x d => w32 x 0x73 (d.toNat) 0 (1) none
  | .mqnt x d a b => w32 x 0x74 (d.toNat) (a.toNat) (b.code) b.litWord
  | .mscl x a b => w32 x 0x75 0 (a.toNat) (b.code) b.litWord
  | .mhnd x b => w32 x 0x76 0 0 (b.code) b.litWord
  | .qopPush x q a => w32 x 0x77 0 (a.toNat) (q.toNat + 16 * 0) none
  | .qopPop x q k d => w32 x 0x77 (d.toNat) (k.toNat) (q.toNat + 16 * 1) none
  | .qopDem x q a => w32 x 0x77 0 (a.toNat) (q.toNat + 16 * 2) none
  | .qopStat x q d => w32 x 0x77 (d.toNat) 0 (q.toNat + 16 * 3) none
  | .sysTrap x n => w32 x 0x78 (n.toNat) 0 0 none
  | .sysRtt x => w32 x 0x78 0 0 (1) none
  | .sysSysc x n => w32 x 0x78 (n.toNat) 0 (2) none
  | .sysSusp x a => w32 x 0x78 0 (a.toNat) (3) none
  | .sysResm x a => w32 x 0x78 0 (a.toNat) (4) none
  | .sysRdcv x d a => w32 x 0x78 (d.toNat) (a.toNat) (5) none
  | .sysWrcv x d a => w32 x 0x78 (d.toNat) (a.toNat) (6) none
  | .sysIcinv x d a => w32 x 0x78 (d.toNat) (a.toNat) (7) none
  | .sysTlbinv x d a => w32 x 0x78 (d.toNat) (a.toNat) (8) none
  | .sysHalt x => w32 x 0x78 0 0 (9) none
  | .sysIswap x d a => w32 x 0x78 (d.toNat) (a.toNat) (10) none
  | .dbgBrk x => w32 x 0x79 0 0 0 none
  | .dbgTrace x n a => w32 x 0x79 (n.toNat) (a.toNat) (1) none
  | .dbgMark x n => w32 x 0x79 (n.toNat) 0 (2) none
  | .ordBegin x a => w32 x 0x7A 0 (a.toNat) 0 none
  | .ordEnd x => w32 x 0x7A 0 0 (1) none
  | .mov16 d v => w16 0 d.toNat v.toNat
  | .iadd16 d v => w16 1 d.toNat v.toNat
  | .isub16 d v => w16 2 d.toNat v.toNat
  | .imul16 d v => w16 3 d.toNat v.toNat
  | .and16 d v => w16 4 d.toNat v.toNat
  | .or16 d v => w16 5 d.toNat v.toNat
  | .xor16 d v => w16 6 d.toNat v.toNat
  | .shl16 d v => w16 7 d.toNat v.toNat
  | .shr16 d v => w16 8 d.toNat v.toNat
  | .sar16 d v => w16 9 d.toNat v.toNat
  | .imin16 d v => w16 10 d.toNat v.toNat
  | .imax16 d v => w16 11 d.toNat v.toNat
  | .fadd16 d v => w16 12 d.toNat v.toNat
  | .fmul16 d v => w16 13 d.toNat v.toNat
  | .fsub16 d v => w16 14 d.toNat v.toNat
  | .nop => w16 15 0 0
  | .brk => w16 15 0 1
  | .exit16 => w16 15 0 2
  | .ret16 => w16 15 0 3
  | .yield16 => w16 15 0 4
  | _ => []

/-- The bytes of a list of halfwords, each little-endian (R17). -/
def halfBytes : List Nat → List Byte
  | [] => []
  | h :: hs => BitVec.ofNat 8 h :: BitVec.ofNat 8 (h / 256) :: halfBytes hs

/-- The bytes of an instruction as they stand in memory. -/
def encodeBytes (i : Instr) : List Byte := halfBytes (encode i)

end Sys2Proof
end

