-- ==== Sys2Proof/Machine/Flags.lean ====
section
/-!
DEFINITION. The flags of this hardware are the lane predicates: the conditions of the compares and the combine modes.
-/

namespace Sys2Proof.Machine

/-- Integer compares (Table 7-6). -/
inductive ICmp where
  | eq | ne | lt | le | ltu | leu
deriving DecidableEq, Repr

/-- The condition of an integer compare on whole words (Table 7-6). -/
def ICmp.holds (o : ICmp) (x y : Word) : Bool :=
  match o with
  | .eq => x == y
  | .ne => x != y
  | .lt => decide (sgn 32 x.toNat < sgn 32 y.toNat)
  | .le => decide (sgn 32 x.toNat ≤ sgn 32 y.toNat)
  | .ltu => decide (x.toNat < y.toNat)
  | .leu => decide (x.toNat ≤ y.toNat)

/-- The value that the combine mode gives pd, from its old value and the condition (R23). -/
def combineD (k : BitVec 2) (old c : Bool) : Bool :=
  if k = 1 then old && c else if k = 2 then old || c else c

/-- The value that the combine mode gives pe, from its old value and the condition (R23). -/
def combineE (k : BitVec 2) (old c : Bool) : Bool :=
  if k = 0 then !c else if k = 1 then old && !c else if k = 2 then old || !c else c

/-- Bit `l` of a lane set. -/
def laneIn (m : Mask) (l : Nat) : Bool := m.getLsbD l

/-- The lane set of the lanes for which `f` holds. -/
def maskOf (f : Nat → Bool) : Mask :=
  BitVec.ofNat 32 ((List.range 32).foldr (fun l acc => (if f l then 1 else 0) + 2 * acc) 0)

/-- A predicate after a compare or PMOV: the lanes of `act` take `v`, the others keep theirs (R19, R155). -/
def predWrite (act old : Mask) (v : Nat → Bool) : Mask :=
  maskOf fun l => if laneIn act l then v l else laneIn old l

/-- The lanes for which the guard holds (R19): pT holds everywhere, and negation gives the others. -/
def guardLanes (p : List Mask) (g : Guard) : Mask :=
  let m : Mask := if g.sel = 3 then BitVec.allOnes 32 else p.getD g.sel.toNat 0
  if g.neg then ~~~m else m

end Sys2Proof.Machine
end

