-- ==== Sys2Proof/Config.lean ====
section
/-!
DEFINITION. What one device fixes and the values the spec leaves free.  A constant without a body is a free value:
nothing can be proved of it, so a statement holds whatever it is.  The assumption log names each (DESIGN CHOICE, log entries 4, 25, 27, 28, 32, 38, 40, 43 and 67).
-/

namespace Sys2Proof.Config

/-- Silicon revision, CTL_ID.REV: per device (Table 14-12). -/
opaque rev : BitVec 8

/-- Cycles that pass on a core's counter at each step; the spec fixes no count for most of what a step stands for (R40). -/
opaque coreTick : Nat → Nat

/-- Trace timebase ticks that pass at each step (R11). -/
opaque timeTick : Nat → Nat

/-- Where die 1's copy of the timebase stands against die 0's at each step; its use keeps it within 2 ns (R337). -/
opaque timeSkew : Nat → Nat

/-- Free words, applied to the free-value counter of the state. -/
opaque freeWord : Nat → BitVec 64

/-- TITLE of an island's standard image: the published programming of those images is outside the spec (R223). -/
opaque standardTitle : Nat → BitVec 64

/-- The digest of an island's standard image (R223, R374). -/
opaque standardDigest : Nat → List Byte

/-- The Eovik root key in boot ROM (R219, R371). -/
opaque rootKey : List Byte

/-- The device's own signatures over SPDM transcripts (R374). -/
opaque sign : List Byte → List Byte

/-- FW_SIZE, the flash in 64 KiB units: per board (Table 16-10). -/
opaque flashSize : BitVec 16

/-- A byte of an erased unit of the flash: the spec gives it no value (R372). -/
opaque erasedByte : Nat → Byte

/-- A byte of the flash that the spec leaves open, by the number of the free value and its offset (R372, R373). -/
opaque flashByte : Nat → Nat → Byte

/-- SHA-384 of the boot ROM (Table 16-8). -/
opaque romDigest : List Byte

/-- The fuse configuration as a measurement carries it (Table 16-8): configuration, alarm policy, minimum serials and SVN, fused units. -/
opaque fuseBytes : List Nat → List Byte

/-- The certificate chain of slot 0 (R374). -/
opaque identityChain : List Byte

/-- The bytes of GDDR7 after a reset, by the number of the free value: the spec does not say what a reset leaves in memory. -/
opaque memAfterReset : Nat → List (Nat × Byte)

end Sys2Proof.Config
end

