-- ==== Sys2Proof/Machine/State.lean ====
section
/-!
DEFINITION. The state of the AV-96 as plain data, the faults and refusals, and the state after reset.
Sparse memories are lists of (address, value) pairs, strictly rising, that list no default value, so equal contents
are equal lists.  Physical keys: a DPA is its own number; host memory at HPA h is 2^52 + h (log entry 3).
-/

namespace Sys2Proof.Machine

/-- Sparse contents by address, in canonical form: strictly rising, no default value listed. -/
abbrev Sparse (α : Type) := List (Nat × α)

/-- A vector clock: writes performed at die 0, die 1 and the host's home (R253). -/
structure Clock where
  d0 : Nat
  d1 : Nat
  host : Nat
deriving DecidableEq, Repr

/-- The zero clock (R120). -/
def Clock.zero : Clock := ⟨0, 0, 0⟩

/-- Register shapes (Table 6-1). -/
inductive Shape where
  | u | a | g
deriving DecidableEq, Repr

/-- A vector register or a latch: its tag (shape, format, taint: bits 0-7 the slots, bit 8 FLOOR) and its 32 lanes
(R124, R125). Affine and uniform registers hold their lane values written out. -/
structure Reg where
  shape : Shape
  fmt : Fmt
  taint : BitVec 9
  lanes : List Word
deriving DecidableEq, Repr

/-- A register at crew start: 0, shape U, RAW32, no taint (R120). -/
def Reg.zero : Reg := ⟨.u, .raw32, 0, List.replicate 32 0⟩

/-- How a frontier entry is blocked (R264). -/
inductive Wait where
  /-- At a rendezvous (R274). -/
  | rendezvous
  /-- At ORD.BEGIN (R287). -/
  | order
  /-- At a stall at issue that the crew's other entries bypass. -/
  | stall
deriving DecidableEq, Repr

/-- A frontier entry or a stacked record (R264, Table 12-3): demotion lasts until `left` further issues of others. -/
structure Entry where
  pc : Word
  prio : Nat
  mask : Mask
  wait : Option Wait
  demoted : Bool
  quantum : Nat
  left : Nat
deriving DecidableEq, Repr

/-- A load-tracking slot (R128, R319): `age` 0 is the oldest. -/
structure LSlot where
  live : Bool
  pending : Bool
  age : Nat
  clock : Clock
deriving DecidableEq, Repr

/-- A fault record (Table 14-2); `page` is VA[56:12]. -/
structure FaultRec where
  code : Nat
  wr : Bool
  fetch : Bool
  answered : Bool
  refused : Bool
  lanes : Mask
  page : Nat
deriving DecidableEq, Repr

/-- A buffer record and its taint (R69). -/
structure Rec where
  bits : BitVec 128
  taint : BitVec 9
deriving DecidableEq, Repr

/-- What the operand log captures of an access instruction (R310, Table 14-7). -/
structure MemReq where
  pc : Word
  iword : Word
  lit : Word
  act : Mask
  done : Nat
  record : BitVec 128
  images : List Reg
  slot : Option Nat
deriving DecidableEq, Repr

/-- What one line's translation has come to (R312). -/
inductive LineOut where
  | pending | ok | access | fault
deriving DecidableEq, Repr

/-- An operand-log entry: the captured access, its lines, each the VA of the line and its outcome, the clock that the access is
ordered after, whether its write is full (R125), whether it was issued in a privileged context (R321), and whether it ends with a SAMPLE record (R347). -/
structure LogEntry where
  req : MemReq
  lines : List (Nat × LineOut)
  clock : Clock
  full : Bool
  priv : Bool
  sampled : Bool
deriving DecidableEq, Repr

/-- A lane's identity (R13): task, block coordinates and thread coordinates. -/
structure Ident where
  bx : Word
  byy : Word
  bz : Word
  tx : Word
  ty : Word
  tz : Word
deriving DecidableEq, Repr

/-- An error mark of a batch (R110): none, ACCESS or SOFT. -/
inductive ErrMark where
  | none | access | soft
deriving DecidableEq, Repr

/-- A crew (R262).  `kept` counts the entries that its trap frame holds while it runs its handler, which have neither merged nor emptied (R269); `regs` holds v0-v59, `latch` b0-b2, `pred` p0-p2, `recs` m0-m15; `rdv` the scopes of the instructions at
which its entries wait for a rendezvous, `errIds` the copies behind the error marks of batches 0-7 and of the open batch (R110), `batchClk`
the clocks of the writes of the copies of batches 0-7, of the open batch, and of batches whose number has been taken again, that no BATCH.WAIT has covered (R111, R113), `copyAcq` the clock of copies that the crew's later
accesses go after and its releases do not carry (R113, R257), `newSlots` the slots taken and `folded` the slots
given up by saturation since trap entry (R323, R325), `near` the lines (physical key div 256) that hold core-scope writes of the crew not yet performed at home (R79, R254),
`seen` the stores under way whose bytes the crew has read in its core's L1 (R87, R250), `partLines` the lines at which the first registers of an LDM or STM at an
address have reached the home slice (R354), `gated` the line at which a replay gate holds its read of an island image (R355). -/
structure Crew where
  id : Nat
  slot : Nat
  core : Nat
  block : Nat
  index : Nat
  live : Mask
  entries : List Entry
  kept : Nat
  rdv : List (Word × Scope)
  nrec : Nat
  regs : List Reg
  latch : List Reg
  lvalid : List Bool
  pred : List Mask
  recs : List Rec
  slots : List LSlot
  floor : Clock
  hist : Clock
  near : List Nat
  seen : List Nat
  partLines : List (Word × Nat)
  gated : Option Nat
  acq : Clock
  copyAcq : Clock
  acqWait : Bool
  nextBatch : Nat
  sealed : List Bool
  batchErr : List ErrMark
  openErr : ErrMark
  errIds : List Nat
  batchClk : List Clock
  sect : List (Option Word)
  idents : List Ident
  clkCap : Option Nat
  ptpCap : Option Nat
  priv : Bool
  susp : Bool
  cause : Word
  tpc : Word
  tlanes : Word
  newSlots : BitVec 8
  folded : BitVec 8
  log : Option LogEntry
  faults : List FaultRec
  ldmDone : Option (Word × Nat)
  hash : BitVec 64
  hashQ : List (Option Nat × List Byte)
  checkpoints : Nat
  idle : Bool
  ended : Bool
deriving DecidableEq, Repr

/-- Block states (Table 13-7). -/
inductive BlockState where
  | waking | running | stopping | saving (swap : Bool) | preempted | swapped | draining | retired | terminated
deriving DecidableEq, Repr

/-- A set of crews (R279): `members` in rank order. -/
structure CrewSet where
  expected : Nat
  complete : Bool
  members : List Nat
deriving DecidableEq, Repr

/-- A unit that a copy of a crew has written to the activation store while no BATCH.WAIT has covered the copy's batch (8: the open one; 9: one whose number has been taken again): its address and
the bytes before the copy, which a matrix instruction of the crew may still read (R203). -/
structure OldUnit where
  crew : Nat
  batch : Nat
  addr : Nat
  bytes : List Byte
deriving DecidableEq, Repr

/-- What the device keeps of a held copy beside its save area: its number, the units that it had moved out of order, the lines that its home slices have counted, and the
pages that the host has refused it (R61, R105, R107, R354). -/
structure CopyNote where
  id : Nat
  ahead : List Nat
  sliced : List Nat
  denied : List Nat
deriving DecidableEq, Repr

/-- A block, or the place of a crew formed by REORD (`formed` is the number of its save area, R307); `bound`: it
resumes on its core alone (R231); `resumed`: its wake restores its save area; `fresh`: its records are still to be read (R294); `order` ranks placements;
`refused` lists the pages that the host refused to its records; `qsaved` the queue registers saved, with their entries;
`barClk` the clock of its arrivals that the barrier object at an address hands to its waiters, and `barCopies` that of the copies it has counted (R113, R115);
`asOld` units of copies that may still be read old (R203); `copyNotes` what the device keeps of each held copy of its save area; `owed` lists the crews whose fault records, with their answers, its save area has still to get (R313). -/
structure Block where
  id : Nat
  task : Nat
  index : Nat
  bx : Word
  byy : Word
  bz : Word
  core : Nat
  formed : Option Nat
  state : BlockState
  crews : Nat
  regsN : Nat
  asBytes : Nat
  wsBytes : Nat
  aStore : Sparse Byte
  wStore : Sparse Byte
  bands : List (BitVec 16)
  sets : List (Option CrewSet)
  trapVector : Word
  nshape : Nat
  bound : Bool
  resumed : Bool
  order : Nat
  refused : List Nat
  fresh : Bool
  qsaved : List (Nat × Nat)
  barClk : Sparse Clock
  barCopies : Sparse Clock
  asOld : List OldUnit
  copyNotes : List CopyNote
  owed : List Nat
deriving DecidableEq, Repr

/-- Task states (Table 13-3). -/
inductive TaskState where
  | waiting | ready | running | retired | error
deriving DecidableEq, Repr

/-- A submitted task (R289): the fields of its control block that the device uses, and where it stands: `next` the next block to place,
`waited` the decisions that its head block has waited for, `acq` what its blocks acquire at their start (R292), `succ` its inline successors and `ovf`
the overflow array's address and length, `ask` the page request for its binding table, and whether that was refused; `die` the die that took its submission or, later, placed its last block. -/
structure Task where
  no : Nat
  tcb : Nat
  text : Nat
  entry : Word
  cls : Nat
  affinity : Nat
  signal : Bool
  queue : Nat
  frame : Nat
  grid : Nat × Nat × Nat
  bdim : Nat × Nat × Nat
  crews : Nat
  regsN : Nat
  baros : Nat
  fslots : Nat
  asBytes : Nat
  wsBytes : Nat
  pasid : Nat
  tenant : Nat
  traph : Word
  save : Nat
  savestr : Nat
  nrec : Nat
  bind : Bool
  nshape : Nat
  rtab : Nat
  binding : Option (List (BitVec 64) × List (BitVec 128))
  state : TaskState
  err : Nat
  trapCode : Nat
  next : Nat
  waited : Nat
  acq : Clock
  succ : List Nat
  ovf : Nat × Nat
  ask : Option Nat
  refused : Bool
  die : Nat
deriving DecidableEq, Repr

/-- A cached translation (R58): a page of 2^size bytes at `va`, its base address `pk`, permissions, TYPE 01, dirty bit, and the DPA of its
leaf entry (0 for an ATS result).  `pk` is a DPA, or an HPA under the HDM decoders that `hdm` holds (base, size, skip), as they stood when the
translation was made (R45, R59). -/
structure TlbEntry where
  pasid : Nat
  va : Nat
  size : Nat
  pk : Nat
  r : Bool
  w : Bool
  x : Bool
  p : Bool
  uncached : Bool
  dirty : Bool
  ats : Bool
  leaf : Nat
  hdm : Option (List (Nat × Nat × Nat))
deriving DecidableEq, Repr

/-- An L1 line (R77): its key (physical address div 256), valid sectors, written bytes, data, the clocks of the writes
its bytes came from, poisoned sectors, keep mark, pin holder, the fill stamp of each sector (R256), and its age for replacement. -/
structure L1Line where
  key : Nat
  valid : BitVec 4
  written : BitVec 256
  data : Sparse Byte
  clks : Sparse Clock
  poison : BitVec 4
  keep : Bool
  pin : Option Nat
  stamps : List Clock
  used : Nat
deriving DecidableEq, Repr

/-- One line of an instruction cache: PASID, VA div 256 and its 256 bytes. -/
structure IcLine where
  pasid : Nat
  line : Nat
  data : Sparse Byte
  poison : BitVec 4
deriving DecidableEq, Repr

/-- An entry of the shape cache, tagged by task and slot: the 32-byte record as it was read (R188-R190). -/
structure ShapeSlot where
  task : Nat
  slot : Nat
  data : List Byte
deriving DecidableEq, Repr

/-- An entry of a queue register: 32 words, validity, error lanes and clock (R225). -/
structure QEntry where
  words : List Word
  valid : Mask
  errs : Mask
  clock : Clock
deriving DecidableEq, Repr

/-- A queue register (R224, Table 10-12). -/
structure Queue where
  bound : Bool
  task : Nat
  pasid : Nat
  island : Nat
  port : Nat
  out : Bool
  fmt : Fmt
  entries : List QEntry
  demand : Nat
  err : Bool
  clamp : Bool
deriving DecidableEq, Repr

/-- A rejected access instruction (R82): its crew and instruction, and whether it has reached the ageing limit. -/
structure Reject where
  crew : Nat
  pc : Word
  aged : Bool
deriving DecidableEq, Repr

/-- An MMA in progress (R204): who issued it. -/
structure MatrixBusy where
  crews : List Nat
  macros : BitVec 16
deriving DecidableEq, Repr

/-- An MMA or MMAS that waits for the engine (R180): its crew, instruction, block and task, the queue register and the vectors that its tile takes, if it takes any, and the
weight-store bytes of its macros: what makes it ready to issue (R109, R184); `regs` are the registers that it
names, and `since` counts from where it has been ready. -/
structure MatrixWait where
  crew : Nat
  pc : Word
  block : Nat
  task : Nat
  queue : Option (Nat × Nat)
  lo : Nat
  hi : Nat
  regs : List Nat
  since : Option Nat
deriving DecidableEq, Repr

/-- A crew's part of an LDA or STA of several crews that the lane port has still to grant (R97): its quarter, whether it stores, its destination, its address
register, the register stored, and its lanes. -/
structure AsPart where
  crew : Nat
  quarter : Nat
  wr : Bool
  dest : Nat
  addr : Reg
  data : Reg
  act : Mask
  full : Bool
deriving DecidableEq, Repr

/-- A core (R7).  `shapes` is the shape cache, most recently used first (R189); `mwait` lists the MMA and MMAS that wait for the
engine or for what makes them ready (R180), `copyWait` the BCOPYs that wait for a copy slot, in the order of their first stall (R104); `asPort` is the quarter that the
lane port of the activation store granted last and `asParts` what it has still to grant (R97); `groups` has a bit for each row group that is powered (R121). -/
structure CoreSt where
  id : Nat
  enabled : Bool
  quantum : Word
  stackBase : Word
  ageLimit : Word
  pinPolicy : Word
  traceCtl : Word
  traceFilter : Word
  traceSample : Word
  replayCtl : Word
  sampleCount : Nat
  rr : List Nat
  tlb : List TlbEntry
  l1 : List L1Line
  icache : List IcLine
  shapes : List ShapeSlot
  mwait : List MatrixWait
  copyWait : List (Nat × Word)
  asPort : Nat
  asParts : List AsPart
  queues : List Queue
  rejects : List Reject
  matrix : Option MatrixBusy
  groups : BitVec 15
  reserve : Option Nat
  scrub : List (Nat × Nat)
  clock : Nat
deriving DecidableEq, Repr

/-- A lane record in an Encke bin (R304): who it is, its key, its place in the area that ENCKE_AREA names and the bytes written there, when it entered, and what it carries. -/
structure LaneRec where
  task : Nat
  key : Nat
  place : Nat
  image : List Byte
  order : Nat
  aged : Bool
  pc : Word
  prio : Nat
  preds : BitVec 3
  ident : Ident
  first : Nat
  carried : List (Shape × Fmt × Word)
  clock : Clock
  hist : Clock
deriving DecidableEq, Repr

/-- An operation of the flights and of the replays, decoded from the instruction (Tables 4-8 and 11-2). -/
inductive AOp where
  | xchg | cas | add | min | max | minu | maxu | and | or | xor | fadd
deriving DecidableEq, Repr

/-- What an access instruction does to memory. -/
inductive MemOp where
  /-- LDB to LDQ: size, registers, sign extension. -/
  | load (size n : Nat) (sx : Bool)
  /-- LDACQ. -/
  | ldacq
  /-- STB to STQ: size and registers. -/
  | store (size n : Nat)
  /-- STREL. -/
  | strel
  /-- Atomics, with their order bits (R236). -/
  | atomic (o : AOp) (order : BitVec 2)
  /-- LDM of n registers. -/
  | ldm (n : Nat)
  /-- STM of n registers. -/
  | stm (n : Nat)
deriving DecidableEq, Repr

/-- An access issued and not yet complete.  `lanes` pairs each accessing lane with its physical key, `todo` lists the
lines (physical key div 256) still to be served, `got` the bytes read so far, `uncached` the lines of TYPE 01, `home`
says that it is performed at the home slice, and `clock` is what it is ordered after (R255). `missed` lists the lines for which it took a
miss entry (R81). `parked`: its frontier entry still stands at the instruction; `part`: the first registers of an LDM or STM that fails at a
later one (R143), after which the entry is tried again; `sampled`: the line of its lowest lane ends with a SAMPLE record (R347);
`low`: its lines go to the least-recent position. -/
structure Flight where
  id : Nat
  crew : Nat
  core : Nat
  block : Nat
  op : MemOp
  vd : Nat
  fmt : Fmt
  req : MemReq
  full : Bool
  uidx : Bool
  lanes : List (Nat × Nat)
  bytes : Sparse Byte
  todo : List Nat
  uncached : List Nat
  home : Bool
  scope : Nat
  noalloc : Bool
  keep : Bool
  missed : List Nat
  clock : Clock
  rclock : Clock
  got : Sparse Byte
  old : Sparse Word
  parked : Bool
  part : Bool
  sampled : Bool
  low : Bool
deriving DecidableEq, Repr

/-- Who asked for a translation (R41). -/
inductive WalkFor where
  | log (crew : Nat) | fetch (crew : Nat) | wait (crew : Nat) | copy (id : Nat) | island (die isl : Nat) | block (id : Nat) | task (no : Nat) | trace
deriving DecidableEq, Repr

/-- The kind of an access, for permissions (Table 3-7). -/
inductive AccKind where
  | read | write | both | fetch
deriving DecidableEq, Repr

/-- A page walk or an ATS request in progress, or its refusal waiting for the requester (R56, R59); `cut`: since the request was sent a shootdown of its PASID has been
acknowledged, so that its completion counts for its own page alone (R63). -/
structure Walk where
  id : Nat
  die : Nat
  core : Nat
  pasid : Nat
  va : Nat
  acc : AccKind
  priv : Bool
  who : WalkFor
  ats : Bool
  result : LineOut
  cut : Bool
deriving DecidableEq, Repr

/-- A bulk copy (R105): `next` is the first 16 B unit not yet moved, `ahead` the units beyond it that have moved; `batch` none while its batch is open; `failed` the error with
which it ends; `priv`: issued in a privileged context; `denied` the pages that the host has refused it (R60, R61, R106), `sliced` the lines at which its access has
reached the home slice (R354). -/
structure Copy where
  id : Nat
  crew : Nat
  block : Nat
  core : Nat
  dir : Nat
  index : Word
  localAddr : Word
  bytes : Nat
  barrier : Word
  record : BitVec 128
  clock : Clock
  batch : Option Nat
  next : Nat
  ahead : List Nat
  held : Bool
  failed : ErrMark
  priv : Bool
  denied : List Nat
  sliced : List Nat
deriving DecidableEq, Repr

/-- An outstanding page-fault record or page request with its write and read needs, the block it holds, and the copy or cell access that raised it, if one did (R60, R61,
R106, R210). -/
structure PageReq where
  tag : Nat
  die : Nat
  pri : Bool
  block : Nat
  crew : Nat
  page : Nat
  pasid : Nat
  wr : Bool
  rd : Bool
  fetch : Bool
  sent : Bool
  copy : Option Nat
deriving DecidableEq, Repr

/-- A shootdown (R62): who started it (a TLBINV's crew and instruction; none: the host), its range (none: the whole PASID) and
the dies that have acknowledged. -/
structure Shootdown where
  id : Nat
  die : Nat
  crew : Option Nat
  pc : Word
  pasid : Nat
  range : Option (Nat × Nat)
  acked : List Nat
  fenced : Bool
deriving DecidableEq, Repr

/-- A refresh of the instruction caches (R332): the issuing crew and instruction, its lines (none: all) and the cores that have acknowledged. -/
structure IcInv where
  id : Nat
  crew : Nat
  pc : Word
  pasid : Nat
  lines : Option (Nat × Nat)
  acked : List Nat
deriving DecidableEq, Repr

/-- Where a record names code: its task's PASID and resource table, and the code address (R341). -/
structure TraceLoc where
  pasid : Nat
  rtab : Nat
  pc : Word
deriving DecidableEq, Repr

/-- A trace record on its way to the buffer (R338, R339): its time, its die and source number, TYPE and CLASS, its payload,
the crew that a lossless trace holds for it (R345), and the place whose LOC its bytes 4 to 7 are to hold (R341). -/
structure TraceRec where
  time : Nat
  die : Nat
  src : Nat
  typ : Nat
  cls : Nat
  payload : List Byte
  crew : Option Nat
  loc : Option TraceLoc
deriving DecidableEq, Repr

/-- The trace half of a trace control block (Table 15-4); `started`: a TIME record has been written since EN was set;
`last`: the last timestamp written; `lost`: records dropped since the last DROP record. -/
structure TraceBlk where
  base : BitVec 64
  ctl : Word
  head : Nat
  tail : Nat
  drops : Nat
  pasid : Word
  adj : Word
  started : Bool
  last : Nat
  lost : Nat
deriving DecidableEq, Repr

/-- A log chunk (Table 15-8): the line and its pairs of requester, OTHER and run. -/
structure Chunk where
  line : Nat
  pairs : List (Nat × Bool × Nat)
deriving DecidableEq, Repr

/-- The replay half of a trace control block (Table 15-4): `chunks` are the slice's open chunks, most recent first;
`gates` the chunks of the log in replay, with what is left of their pairs; `free` the lines that the gate has abandoned;
`stopped`: the log has filled, and logging has ended for the region. -/
structure ReplayBlk where
  log : BitVec 64
  hash : BitVec 64
  ctl : Word
  task : Word
  head : Nat
  lend : Nat
  active : Bool
  overflow : Bool
  diverge : Bool
  refused : Bool
  chunks : List Chunk
  gates : List (Nat × Chunk)
  free : List Nat
  stopped : Bool
deriving DecidableEq, Repr

/-- An ISWAP of a die's loader, in the order of issue (R222): the crew and instruction, the island code, the image once it is wholly read, and the
loader's answer once it has checked it. -/
structure LoadJob where
  crew : Nat
  pc : Word
  code : Nat
  image : Option (List Byte)
  answer : Option Nat
deriving DecidableEq, Repr

/-- A token (R207): its value, its tag (Table 10-2), its stream's core and queue register, the clock that fetches on it wait for,
and the clock of the island stores that it depends on (R232, R234). -/
structure Token where
  val : Word
  tag : BitVec 8
  core : Nat
  q : Nat
  clock : Clock
  acq : Clock
deriving DecidableEq, Repr

/-- An Ifeva image as its loader accepted it: cell records by index, route entries, port entries, TITLE and digest (R213-R217). -/
structure Image where
  cells : List (Nat × List Word)
  routes : List (List Word)
  ports : List Word
  title : BitVec 64
  digest : List Byte
deriving DecidableEq, Repr

/-- The node buffer of a cell (R210): the node's VA div 64 and PASID, its 64 bytes, and the applied clock of its fill. -/
structure NodeBuf where
  pasid : Nat
  node : Nat
  data : List Byte
  clock : Clock
deriving DecidableEq, Repr

/-- A FETCH or STORE that a cell has in progress (R210): its rule, its own number (page requests name it), and whether it waits for the
answer to a page request or has had that request refused. -/
structure CellBusy where
  store : Bool
  rule : Nat
  id : Nat
  held : Bool
  refused : Bool
deriving DecidableEq, Repr

/-- The state of a configured cell (R206): four queues, predicate bits with the clock of the island stores that they depend on (R234), demand credits of OUT0 and OUT1, requests outstanding
on each queue, node buffer, the access in progress, and the cycle of its last firing. -/
structure CellSt where
  idx : Nat
  queues : List (List Token)
  preds : BitVec 8
  predAcq : Clock
  credits : List Nat
  asked : List Nat
  node : Option NodeBuf
  busy : Option CellBusy
  fired : Option Nat
deriving DecidableEq, Repr

/-- What travels in an island (R211, R212). -/
inductive ItemKind where
  | token (cell q : Nat) (t : Token)
  | port (p : Nat) (t : Token)
  | credit (cell out n : Nat)
  | request (cell out : Nat)
  | portRequest (p : Nat)
deriving DecidableEq, Repr

/-- Something on its way in an island, and the cycle in which it arrives. -/
structure Item where
  id : Nat
  due : Nat
  what : ItemKind
deriving DecidableEq, Repr

/-- A vector in a port: 32 words, validity and error masks, its clocks and its stream. -/
structure PortVec where
  words : List Word
  valid : Mask
  errs : Mask
  clock : Clock
  acq : Clock
  core : Nat
  q : Nat
deriving DecidableEq, Repr

/-- An input port (R212, R223): its FIFO, the lanes already sent of its oldest vector, and the requests it owes. -/
structure InPort where
  no : Nat
  fifo : List PortVec
  sent : Nat
  owed : Nat
deriving DecidableEq, Repr

/-- An output port (R211, R225): demanded vectors not completed (used by the standard images), the tokens of the vector it
assembles, and the completed vectors that wait for their queue register, with the cycle from which each may be handed over. -/
structure OutPort where
  no : Nat
  demand : Nat
  part : List Token
  done : List (Nat × PortVec)
deriving DecidableEq, Repr

/-- A round of a standard image under way (R223): the stream that its accesses go by, the streams of all its vectors, the clocks of its vectors, and the FETCHes and STOREs still to be made, each a STORE
or not, its island record, its offset and its data; `busy` is the one in progress. -/
structure StdRound where
  core : Nat
  q : Nat
  ins : List (Nat × Nat)
  clock : Clock
  acq : Clock
  left : List (Bool × Nat × Word × Word)
  busy : CellBusy
deriving DecidableEq, Repr

/-- An island (R206, R221): `image` none is Eovik's standard image, with its round; `cycle` counts its arithmetic-clock cycles. -/
structure Isle where
  die : Nat
  code : Nat
  present : Bool
  image : Option Image
  shadow : Option Image
  pasid : Option Nat
  cycle : Nat
  cells : List CellSt
  items : List Item
  inp : List InPort
  outp : List OutPort
  std : Option StdRound
deriving DecidableEq, Repr

/-- Fuses (R15, R219, R371, R375): the configuration, the units present, minimum serials and SVN, and the alarm policy. -/
structure Fuses where
  av64 : Bool
  cores : BitVec 96
  islands : List (BitVec 20)
  ctls : List (BitVec 8)
  minPlat : Nat
  minTitle : Nat
  minFw : Nat
  policy : BitVec 2
deriving DecidableEq, Repr

/-- A step of a rewrite of the capability table (R366): GEN becomes odd; the new contents and CHECK; GEN becomes even, with vector 5 or, at publication, without. -/
inductive Rewrite where
  | opens | contents | closes (vector : Bool)
deriving DecidableEq, Repr

/-- Boot and standby state (R369-R376): the boot record, SEC_ALARM, STATUS's bits, whether the link is up and the table
published, recovery mode, the arithmetic clock in MHz, the table's bytes, its GEN, its degraded-unit records and the boot record as it
published it, the host link, the digest of the firmware image that step 2 verified, MSI-X enabled, the cause of a reset whose boot has not run yet, and what is
left of the rewrites of the table (R366). -/
structure Boot where
  steps : List Word
  cause : BitVec 3
  secAlarm : BitVec 4
  alarmed : Bool
  zeroised : Bool
  linkUp : Bool
  published : Bool
  recovery : Bool
  mhz : Nat
  gen : Nat
  table : List Byte
  degraded : List Word
  record : List Word
  cxlLanes : Nat
  cxlRate : Nat
  fwDigest : List Byte
  msixOn : Bool
  pending : Option (BitVec 3)
  rewrites : List Rewrite
deriving DecidableEq, Repr

/-- A 64 KiB unit of the flash: data, or contents that the spec leaves open, by the number of a free value. -/
inductive FlashBlk where
  | data (b : Sparse Byte)
  | unknown (n : Nat)
deriving DecidableEq, Repr

/-- The flash (R371, R372): the units written since the last ERASE by unit number; a unit that is not listed is erased (`rest` none) or
holds what it held before. -/
structure Flash where
  blocks : List (Nat × FlashBlk)
  rest : Option Nat
  torn : Bool
deriving DecidableEq, Repr

/-- The update mailbox and its flash (R371-R373); `verified` is the SVN of the image that the last VERIFY passed; `unit` is FW_ARG as the
command in progress took it, and `touched` says that the window has been written while BUSY. -/
structure Mailbox where
  cmd : Nat
  arg : Nat
  busy : Bool
  isDone : Bool
  result : Nat
  unit : Nat
  window : Sparse Byte
  touched : Bool
  verified : Option Nat
  flash : Flash
deriving DecidableEq, Repr

/-- SPDM responses (R374): the facts that each carries. -/
inductive SpdmResp where
  | version (v : Nat)
  | capabilities
  | algorithms (asym hash : Nat)
  | digests (d : List Byte)
  | certificate (part : List Byte) (left : Nat)
  | challengeAuth (d sig : List Byte)
  | measurements (ms : List (Nat × List Byte)) (sig : Option (List Byte))
  /-- The number of measurements, with the signature over it where one is asked for. -/
  | measurementCount (n : Nat) (sig : Option (List Byte))
  | error
deriving DecidableEq, Repr

/-- A die (R7): its memory control block (Table 3-2), its scheduler control block (Table 13-5), its distributor with the doorbell
writes it has still to carry out (`pushes`: n and DPA),
its die TLB (R58), its home clock and applied clock (R253, R255), its ordering table with, for each slot, the raster island's next sequence number and the keys ahead of the counter (R286), the clock of the sections ended on it (R287), and
the errors counted since the last ECC record of its slices and of each controller (R44). -/
structure Die where
  id : Nat
  fenced : Bool
  ctls : List Nat
  pasidBase : BitVec 64
  pfqBase : BitVec 64
  pfqHead : Nat
  pfqTail : Nat
  pfqResp : Word
  pfqTag : Nat
  scPart : List (BitVec 64)
  tenantMap : BitVec 64
  hostMap : BitVec 64
  pins : List (BitVec 64)
  pinStatus : List Nat
  sqCtl : List Word
  sqBusy : List Bool
  queues : List (List Nat)
  pushes : List (Nat × Nat)
  turnQueue : List Nat
  turnCount : List Nat
  resume : List (List Nat)
  enckeArea : BitVec 64
  enckeCtl : Word
  bins : List LaneRec
  tlb : List TlbEntry
  count : Nat
  applied : Clock
  ordering : Sparse (BitVec 16)
  rasterSeq : Sparse Nat
  rasterAhead : Sparse Nat
  ordClock : Clock
  trace : TraceBlk
  rp : ReplayBlk
  loader : List LoadJob
  lastFrame : Option Nat
  ecc : List Nat
deriving DecidableEq, Repr

/-- The die-to-die link (R65-R67): `crcFails` counts, for each receiving die, how often the flit to come has failed; the link is down once its training or a retrain at
half width has failed; and the time that die 1's last heartbeat carried (R338). -/
structure Link where
  retraining : Bool
  half : Bool
  down : Bool
  crcFails : List Nat
  beat : Nat
deriving DecidableEq, Repr

/-- What the device sends to the host. -/
inductive HostMsg where
  /-- An MSI-X interrupt by vector (Table 16-1). -/
  | msix (v : Nat)
  /-- The data of a host read; `none` is poison (R45). -/
  | readData (addr : Nat) (data : Option (List Byte))
  /-- An ATS Translation Request (R59). -/
  | atsRequest (id pasid va : Nat) (exec priv : Bool)
  /-- A Page Request (R60). -/
  | pageRequest (tag pasid va : Nat) (read write exec : Bool)
  /-- An ATS Invalidation Completion (R63). -/
  | invDone (id : Nat)
  /-- A back-invalidate snoop (R46). -/
  | biSnoop (sector : Nat)
  /-- A snoop answer (R47): the sector's bytes; `none` is poison. -/
  | snoopDone (addr : Nat) (data : Option (List Byte))
  /-- An SPDM response (R374). -/
  | spdm (r : SpdmResp)
deriving DecidableEq, Repr

/-- What happens at a step: an event of the opcode table, quarter `quarter` of core `core` is offered an issue slot (R264, R268),
or an island's next cycle begins (R208).  `unit` names the crew, die, core, block, task or walk that an event without an
argument is about. -/
inductive Act where
  | event (i : Instr) (unit : Nat)
  | issue (core quarter : Nat)
  | islandCycle (die isl : Nat)
deriving DecidableEq, Repr

/-- The instruction being executed: its crew, its code address, its length, its first word and its literal. -/
structure Cur where
  crew : Nat
  pc : Word
  len : Nat
  iword : Word
  lit : Word
deriving DecidableEq, Repr

/-- The state of a sector of host memory in die 0's stack cache (R47). -/
inductive Mesi where
  | invalid | shared | exclusive | modified
deriving DecidableEq, Repr

/-- A write of the device on its own account that waits at its home slice for the host, the link or a pin (R46, R65, R246): the core that makes it, or the die under
the number of its islands, the PASID and the address that it was translated from, if it was, and its bytes. -/
structure Posted where
  core : Nat
  va : Option (Nat × Nat)
  bytes : List (Nat × Byte)
deriving DecidableEq, Repr

/-- The machine.  `mesi` holds the states of the sectors of host memory that die 0's stack cache holds, by physical key div 64; `rangeBase` is
the base register of the range that the CXL DVSEC reports (R45).  `agenda` says what the next steps are and is the model's own: every order of the machine's agents is some
agenda (log entry 1).  `time1` is die 1's copy of
the timebase `time`, and `slewed` counts its ticks towards the next 1,024 while an offset is slewed (R337).  `cur` is set by the step while it executes an instruction, and `unit` while it executes an event.  `free` counts the free
values drawn. `progress` is false after an instruction that had to wait, and `era` counts the steps that have done something. -/
structure State where
  mem : List Host.Cell
  wclk : Sparse Clock
  posted : List Posted
  poison : List Nat
  crews : List Crew
  blocks : List Block
  tasks : List Task
  cores : List CoreSt
  dies : List Die
  flights : List Flight
  walks : List Walk
  copies : List Copy
  pageReqs : List PageReq
  priOff : Bool
  shootdowns : List Shootdown
  icinvs : List IcInv
  hostTc : List TlbEntry
  hostHeld : List (Nat × HostHold)
  biWait : List Nat
  mesi : Sparse Mesi
  hdm : List (Nat × Nat × Nat)
  rangeBase : Nat
  link : Link
  traceQ : List TraceRec
  isles : List Isle
  fuses : Fuses
  boot : Boot
  mbox : Mailbox
  region : Option Nat
  taskCount : Nat
  relClock : Clock
  predClk : Sparse Clock
  hostCount : Nat
  hostClock : Clock
  nextId : Nat
  free : Nat
  ticks : Nat
  time : Nat
  time1 : Nat
  slewed : Nat
  stamp : Nat
  era : Nat
  out : List HostMsg
  progress : Bool
  agenda : List Act
  unit : Nat
  cur : Option Cur
deriving DecidableEq, Repr

/-- Faults of the model: none.  Every condition the spec describes is taken by the machine itself, as a trap, an error
mark, a terminated task or a poisoned answer, and the step goes on; the type has one reason that no meaning raises today. -/
inductive Fault where
  /-- Raised by nobody; it keeps the type inhabited. Safe. -/
  | unused
deriving DecidableEq, Repr

/-- Refusals: there is nothing to run. -/
inductive Refusal where
  /-- An instruction whose meaning is not written; raised by Dispatch for such an arm. Safe: the run stops. -/
  | notModelled (mnemonic : String)
  /-- An instruction was given to `exec` with no crew issuing it; `step` never does. Safe: the run stops. -/
  | noIssuingCrew
deriving DecidableEq, Repr

/-! ### Reset -/

/-- A queue register that is not bound (Table 10-10, Table 10-12). -/
def Queue.unbound : Queue := ⟨false, 0, 0, 0, 0, false, .raw32, [], 0, false, false⟩

/-- A core after reset: control registers at Tables 12-1, 12-2, 4-7, 14-12 and 15-5; caches empty; no row group powered (R121). -/
def CoreSt.reset (c : Nat) : CoreSt where
  id := c
  enabled := true
  quantum := 0x040
  stackBase := 0
  ageLimit := 0x1000
  pinPolicy := 0
  traceCtl := 0
  traceFilter := 0xFFFF
  traceSample := 0
  replayCtl := 1
  sampleCount := 0
  rr := [0, 0, 0, 0]
  tlb := []
  l1 := []
  icache := []
  shapes := []
  mwait := []
  copyWait := []
  asPort := 0
  asParts := []
  queues := List.replicate 16 Queue.unbound
  rejects := []
  matrix := none
  groups := 0
  reserve := none
  scrub := []
  clock := 0

/-- The trace half of a trace control block after reset (Table 15-4). -/
def TraceBlk.reset : TraceBlk := ⟨0, 0, 0, 0, 0, 0, 0, false, 0, 0⟩

/-- The replay half of a trace control block after reset (Table 15-4). -/
def ReplayBlk.reset : ReplayBlk where
  log := 0
  hash := 0
  ctl := 0x00010000
  task := 0
  head := 0
  lend := 0
  active := false
  overflow := false
  diverge := false
  refused := false
  chunks := []
  gates := []
  free := []
  stopped := false

/-- A die after reset: Tables 3-3, 13-6 and 15-4; queues, lists and caches empty. -/
def Die.reset (d : Nat) : Die where
  id := d
  fenced := false
  ctls := List.range 8
  pasidBase := 0
  pfqBase := 0
  pfqHead := 0
  pfqTail := 0
  pfqResp := 0
  pfqTag := 0
  scPart := 0x1FFFF :: List.replicate 15 0
  tenantMap := 0
  hostMap := 0
  pins := List.replicate 64 0
  pinStatus := List.replicate 64 0
  sqCtl := List.replicate 16 0x100
  sqBusy := List.replicate 16 false
  queues := List.replicate 16 []
  pushes := []
  turnQueue := [0, 0, 0, 0]
  turnCount := [0, 0, 0, 0]
  resume := [[], [], [], []]
  enckeArea := 0
  enckeCtl := 0x40
  bins := []
  tlb := []
  count := 0
  applied := Clock.zero
  ordering := []
  rasterSeq := []
  rasterAhead := []
  ordClock := Clock.zero
  trace := TraceBlk.reset
  rp := ReplayBlk.reset
  loader := []
  lastFrame := none
  ecc := List.replicate 9 0

/-- An island after reset: Eovik's standard image, unbound (R221), with its sixteen ports (R223). -/
def Isle.reset (die code : Nat) : Isle where
  die := die
  code := code
  present := true
  image := none
  shadow := none
  pasid := none
  cycle := 0
  cells := []
  items := []
  inp := (List.range 8).map fun p => ⟨p, [], 0, 0⟩
  outp := (List.range 8).map fun p => ⟨8 + p, 0, [], []⟩
  std := none

/-- A core that the fuses leave enabled: of an AV-64M, 32 of each die (R14, R15). -/
def Fuses.coreOn (f : Fuses) (c : Nat) : Bool :=
  f.cores.getLsbD c && (!f.av64 || decide (((List.range (c % 48)).filter fun k => f.cores.getLsbD (c / 48 * 48 + k)).length < 32))

/-- A controller that the fuses leave enabled: of an AV-64M, controllers 0 to 3 of each die (R15). -/
def Fuses.ctlOn (f : Fuses) (d k : Nat) : Bool := (f.ctls.getD d 0).getLsbD k && (!f.av64 || decide (k < 4))

/-- The maximum arithmetic clock in MHz (Table 1-1). -/
def Fuses.topMhz (f : Fuses) : Nat := if f.av64 then 1600 else 2100

/-- An AV-96 with no unit fused off, minimum serials and SVN 0, and alarm policy 0 (R15, R219, R375). -/
def Fuses.av96 : Fuses where
  av64 := false
  cores := BitVec.allOnes 96
  islands := [BitVec.allOnes 20, BitVec.allOnes 20]
  ctls := [0xFF, 0xFF]
  minPlat := 0
  minTitle := 0
  minFw := 0
  policy := 0

/-- An AV-64M: 32 cores of each die, here the lowest, controllers 0 to 3 of each die and with them 24 GiB, every island (R15). -/
def Fuses.av64m : Fuses :=
  { Fuses.av96 with av64 := true, cores := 0x00000FFFFFFFF0000FFFFFFFF, ctls := [0x0F, 0x0F] }

/-- Boot state after the first power-on, whose boot is still to run (R369, Table 16-6): 2,100 MHz (Table 1-1),
MSI-X enabled (DESIGN CHOICE, log entry 66). -/
def Boot.reset : Boot where
  steps := List.replicate 6 0
  cause := 0
  secAlarm := 0
  alarmed := false
  zeroised := false
  linkUp := false
  published := false
  recovery := false
  mhz := 2100
  gen := 0
  table := []
  degraded := []
  record := []
  cxlLanes := 0
  cxlRate := 0
  fwDigest := []
  msixOn := true
  pending := some 0
  rewrites := []

/-- The flash as it is delivered: its contents are not the spec's to give. -/
def Flash.factory : Flash := ⟨[], some 0, false⟩

/-- The update mailbox after reset (Table 16-10). -/
def Mailbox.reset : Mailbox := ⟨0, 0, false, false, 0, 0, [], false, none, Flash.factory⟩

/-- The machine right after reset: registers at the values that the tables of the spec give, nothing placed, memory with nothing
written, caches empty, the boot steps still to run (R369; DESIGN CHOICE, log entry 8), on a module with fuses `f`. -/
def State.resetOf (f : Fuses) : State where
  mem := []
  wclk := []
  posted := []
  poison := []
  crews := []
  blocks := []
  tasks := []
  cores := (List.range 96).map fun c => { CoreSt.reset c with enabled := f.coreOn c }
  dies := [0, 1].map fun d => { Die.reset d with ctls := (List.range 8).filter (f.ctlOn d) }
  flights := []
  walks := []
  copies := []
  pageReqs := []
  priOff := false
  shootdowns := []
  icinvs := []
  hostTc := []
  hostHeld := []
  biWait := []
  mesi := []
  hdm := [(0, 0, 0), (0, 0, 0)]
  rangeBase := 0
  link := ⟨false, false, false, [0, 0], 0⟩
  traceQ := []
  isles := [0, 1].flatMap fun d => (List.range 20).map fun k => { Isle.reset d k with present := (f.islands.getD d 0).getLsbD k }
  fuses := f
  boot := { Boot.reset with mhz := f.topMhz }
  mbox := Mailbox.reset
  region := none
  taskCount := 0
  relClock := Clock.zero
  predClk := []
  hostCount := 0
  hostClock := Clock.zero
  nextId := 1
  free := 0
  ticks := 0
  time := 0
  time1 := 0
  slewed := 0
  stamp := 0
  era := 0
  out := []
  progress := true
  agenda := []
  unit := 0
  cur := none

/-- The machine right after reset: an AV-96 with every unit (R9, R15; DESIGN CHOICE, log entry 8). -/
def State.reset : State := State.resetOf Fuses.av96

end Sys2Proof.Machine
end

