-- ==== Sys2Proof/Machine/Mem.lean ====
section
/-!
DEFINITION. Named operations over memory: sparse contents in canonical form, home memory with its write clocks, poison, and the L1.
A read of a byte that nothing has written gives 0 (log entry 2).
-/

namespace Sys2Proof.Machine

/-- The value at an address; `d` where none is listed. -/
def sget {α : Type} (d : α) : Sparse α → Nat → α
  | [], _ => d
  | (k, v) :: r, a => if k = a then v else sget d r a

/-- The contents with a new value at an address; a default value leaves no entry. -/
def sput {α : Type} [DecidableEq α] (d : α) : Sparse α → Nat → α → Sparse α
  | [], a, v => if v = d then [] else [(a, v)]
  | (k, w) :: r, a, v =>
    if a < k then (if v = d then (k, w) :: r else (a, v) :: (k, w) :: r)
    else if a = k then (if v = d then r else (k, v) :: r)
    else (k, w) :: sput d r a v

/-- Every listed address is above `lo` (when given), addresses rise strictly, and no default is listed. -/
def swfFrom {α : Type} [DecidableEq α] (d : α) : Option Nat → Sparse α → Bool
  | _, [] => true
  | lo, (k, v) :: r => (match lo with | none => true | some l => decide (l < k)) && decide (v ≠ d) && swfFrom d (some k) r

/-- The canonical form of sparse contents. -/
def swf {α : Type} [DecidableEq α] (d : α) (m : Sparse α) : Bool := swfFrom d none m

/-- Several values put in order, a later one over an earlier one. -/
def sputAll {α : Type} [DecidableEq α] (d : α) (m : Sparse α) (ws : List (Nat × α)) : Sparse α :=
  ws.foldl (fun m w => sput d m w.1 w.2) m

/-- The canonical form of the machine's memory. -/
abbrev Memory.wf (m : List Host.Cell) : Bool := swf (0 : Byte) m

/-- One byte of home memory, by physical key; a byte that nothing has written reads 0. -/
def readByte (m : List Host.Cell) (a : Nat) : Byte := sget 0 m a

/-- `n` bytes from `a` up. -/
def readBytes (m : Sparse Byte) (a n : Nat) : List Byte := (List.range n).map fun i => sget 0 m (a + i)

/-- A little-endian number of bytes (R83: memory is little-endian). -/
def leValue : List Byte → Nat
  | [] => 0
  | b :: bs => b.toNat + 256 * leValue bs

/-- `n` little-endian bytes of a number. -/
def leSplit : Nat → Nat → List Byte
  | 0, _ => []
  | k + 1, v => BitVec.ofNat 8 v :: leSplit k (v / 256)

/-- The number in `n` bytes from `a`. -/
def readNat (m : Sparse Byte) (a n : Nat) : Nat := leValue (readBytes m a n)

/-- Bytes with the addresses they stand at. -/
def addrs (a : Nat) : List Byte → List (Nat × Byte)
  | [] => []
  | b :: bs => (a, b) :: addrs (a + 1) bs

/-- Sparse bytes with a list of bytes stored from `a` up. -/
def writeBytes (m : Sparse Byte) (a : Nat) (bs : List Byte) : Sparse Byte := sputAll 0 m (addrs a bs)

/-- Component-wise maximum (R129, R254). -/
def Clock.sup (a b : Clock) : Clock := ⟨max a.d0 b.d0, max a.d1 b.d1, max a.host b.host⟩

/-- Every component of `b` is reached by `a` (R255). -/
def Clock.covers (a b : Clock) : Bool := decide (b.d0 ≤ a.d0) && decide (b.d1 ≤ a.d1) && decide (b.host ≤ a.host)

/-- The physical key of HPA 0 in host memory. -/
def hostBase : Nat := 2 ^ 52

/-- Bytes of one memory controller: 3 GiB (R42). -/
def ctlBytes : Nat := 3 * 2 ^ 30

/-- A die of the machine. -/
def dieAt (s : State) (d : Nat) : Option Die := s.dies.find? fun x => x.id == d

/-- The machine with one die replaced. -/
def setDie (s : State) (d : Die) : State := { s with dies := s.dies.map fun x => if x.id == d.id then d else x }

/-- The machine with one die changed. -/
def modDie (s : State) (d : Nat) (f : Die → Die) : State := { s with dies := s.dies.map fun x => if x.id == d then f x else x }

/-- Enabled controllers of a die (R42). -/
def ctlCount (s : State) (d : Nat) : Nat := match dieAt s d with | some x => x.ctls.length | none => 0

/-- The first DPA of die 1 (R42). -/
def dieSplit (s : State) : Nat := ctlCount s 0 * ctlBytes

/-- The end of device memory (R42). -/
def memEnd (s : State) : Nat := (ctlCount s 0 + ctlCount s 1) * ctlBytes

/-- The home die of a physical key; host memory has die 0 as home (R42, R47). -/
def homeDie (s : State) (pk : Nat) : Nat := if hostBase ≤ pk then 0 else if pk < dieSplit s then 0 else 1

/-- The die is fenced (R64). -/
def fenced (s : State) (d : Nat) : Bool := match dieAt s d with | some x => x.fenced | none => true

/-- A DPA beyond memory or on a fenced die (Table 3-7, order 7). -/
def badDpa (s : State) (pk : Nat) : Bool :=
  decide (pk < hostBase) && (decide (memEnd s ≤ pk) || fenced s (homeDie s pk))

/-- The clock of a write performed now at a physical key, ordered after `c` (R253). -/
def writeClock (s : State) (pk : Nat) (c : Clock) : Clock :=
  if hostBase ≤ pk then { c with host := s.hostCount + 1 }
  else
    match dieAt s (homeDie s pk) with
    | none => c
    | some d => if d.id = 0 then { c with d0 := d.count + 1 } else { c with d1 := d.count + 1 }

/-- The home's write counter goes up by one, and so does its own component of its applied clock (R253, R255). -/
def bumpHome (s : State) (pk : Nat) : State :=
  if hostBase ≤ pk then
    { s with hostCount := s.hostCount + 1
             dies := s.dies.map fun d => if d.id = 0 then { d with applied := { d.applied with host := s.hostCount + 1 } } else d }
  else
    { s with dies := s.dies.map fun d =>
        if d.id = homeDie s pk then
          { d with count := d.count + 1
                   applied := if d.id = 0 then { d.applied with d0 := d.count + 1 } else { d.applied with d1 := d.count + 1 } }
        else d }

/-- Sectors of host memory in die 0's stack cache take a state (R47); sectors of GDDR7 have none. -/
def mesiSet (s : State) (m : Mesi) (secs : List Nat) : State :=
  { s with mesi := sputAll .invalid s.mesi ((secs.filter fun x => decide (hostBase / 64 ≤ x)).map fun x => (x, m)) }

/-- Sectors of host memory that an access of TYPE 01 writes, or that the host takes, are held no more (R47, R57). -/
def mesiDrop (s : State) (secs : List Nat) : State := mesiSet s .invalid secs

/-- Sectors of host memory that the stack cache does not hold are taken in the shared state for a read (R47; DESIGN CHOICE, log entry 48). -/
def mesiRead (s : State) (secs : List Nat) : State := mesiSet s .shared (secs.filter fun x => sget .invalid s.mesi x == .invalid)

/-- Sectors of host memory that an atomic is performed in are held exclusive, one modified before aside (R47, R240). -/
def mesiOwn (s : State) (secs : List Nat) : State := mesiSet s .exclusive (secs.filter fun x => sget .invalid s.mesi x != .modified)

/-- A write performed at its home slice: the bytes, each with the write's clock (R253).  Nothing is written at a DPA
that does not exist or lies on a fenced die (R45, R64); the sectors of host memory written are owned and modified (R47). -/
def homeWrite (s : State) (c : Clock) : List (Nat × Byte) → State
  | [] => s
  | (a, b) :: ws =>
    if badDpa s a then s
    else
      let k := writeClock s a c
      let s := mesiSet (bumpHome s a) .modified (((a, b) :: ws).map (·.1 / 64)).eraseDups
      { s with mem := sputAll 0 s.mem ((a, b) :: ws)
               wclk := sputAll Clock.zero s.wclk (((a, b) :: ws).map fun w => (w.1, k)) }

/-- A number read from home memory. -/
def peek (s : State) (a n : Nat) : Nat := readNat s.mem a n

/-- The 64 B sector of a physical key is poisoned (R44; DESIGN CHOICE, log entry 7). -/
def poisoned (s : State) (a : Nat) : Bool := s.poison.contains (a / 64)

/-- The applied clock of a die (R255). -/
def appliedClock (s : State) (d : Nat) : Clock := match dieAt s d with | some x => x.applied | none => Clock.zero

/-- The die of a core (R4), or of the islands of a die, which ask under a number of their own. -/
def dieOfCore (core : Nat) : Nat := if core < 48 ∨ core = 96 then 0 else 1

/-- The number under which the islands of a die ask the memory system: no core has it, so its die's TLB alone serves them (R41, R58). -/
def isleUnit (die : Nat) : Nat := 96 + die

/-- A core of the machine. -/
def coreAt (s : State) (c : Nat) : Option CoreSt := s.cores.find? fun x => x.id == c

/-- The machine with one core replaced. -/
def setCore (s : State) (c : CoreSt) : State := { s with cores := s.cores.map fun x => if x.id == c.id then c else x }

/-- The machine with one core changed. -/
def modCore (s : State) (c : Nat) (f : CoreSt → CoreSt) : State :=
  { s with cores := s.cores.map fun x => if x.id == c then f x else x }

/-- The L1 of a core. -/
def l1Of (s : State) (c : Nat) : List L1Line := match coreAt s c with | some x => x.l1 | none => []

/-- A line of a core's L1. -/
def l1Line (s : State) (core key : Nat) : Option L1Line := (l1Of s core).find? fun l => l.key == key

/-- The L1 with one line replaced, or added when absent. -/
def l1Put (ls : List L1Line) (l : L1Line) : List L1Line :=
  if ls.any (fun x => x.key == l.key) then ls.map fun x => if x.key == l.key then l else x else l :: ls

/-- The machine with one L1 line put. -/
def putLine (s : State) (core : Nat) (l : L1Line) : State := modCore s core fun c => { c with l1 := l1Put c.l1 l }

/-- The machine with one L1 line dropped. -/
def dropLine (s : State) (core key : Nat) : State :=
  modCore s core fun c => { c with l1 := c.l1.filter fun l => l.key != key }

/-- The written bytes of a line, with their physical keys. -/
def writtenBytes (l : L1Line) : List (Nat × Byte) :=
  ((List.range 256).filter fun i => l.written.getLsbD i).map fun i => (l.key * 256 + i, sget 0 l.data i)

/-- What the written bytes of a line are ordered after (R253). -/
def writtenClock (l : L1Line) : Clock :=
  (List.range 256).foldl (fun k i => if l.written.getLsbD i then k.sup (sget Clock.zero l.clks i) else k) Clock.zero

/-- Core-scope writes of a core's crews in a line have been performed at home with a clock (R254). -/
def nearDone (s : State) (core key : Nat) (k : Clock) : State :=
  { s with crews := s.crews.map fun c =>
      if c.core == core && c.near.contains key then { c with hist := c.hist.sup k, near := c.near.filter (· != key) } else c }

/-- The written bytes of a line go to their home slice, and the mask clears (R78, R79, R244). -/
def writeBack (s : State) (core key : Nat) : State :=
  match l1Line s core key with
  | none => s
  | some l =>
    if l.written = 0 then s
    else
      let ws := writtenBytes l
      let k := if badDpa s (key * 256) then Clock.zero else writeClock s (key * 256) (writtenClock l)
      let s := nearDone (homeWrite s (writtenClock l) ws) core key k
      putLine s core { l with written := 0, clks := sputAll Clock.zero l.clks (ws.map fun w => (w.1 % 256, k)) }

/-- A fresh L1 line. -/
def L1Line.fresh (key stamp : Nat) : L1Line := ⟨key, 0, 0, [], [], 0, false, none, List.replicate 4 Clock.zero, stamp⟩

/-- The line a full set gives up: unpinned, a line not marked keep first, the oldest in use (R78; log entry 9). -/
def victim (ls : List L1Line) : Option L1Line :=
  let free := ls.filter fun l => l.pin.isNone
  let pick := if free.any (fun l => !l.keep) then free.filter fun l => !l.keep else free
  pick.foldl (fun (best : Option L1Line) l =>
    match best with
    | none => some l
    | some b => if l.used < b.used then some l else some b) none

/-- Room for one more line in a set of 8 ways: a victim's written bytes go home first (R77, R78). -/
def makeRoom (s : State) (core key : Nat) : State :=
  let same := (l1Of s core).filter fun l => l.key % 256 == key % 256
  if same.length < 8 then s
  else
    match victim same with
    | none => s
    | some v => dropLine (writeBack s core v.key) core v.key

/-- A line of the L1, allocated without a fill when absent (R79). -/
def allocLine (s : State) (core key : Nat) (keep : Bool) : State :=
  match l1Line s core key with
  | some l => if keep then putLine s core { l with keep := true } else s
  | none =>
    let s := makeRoom s core key
    putLine { s with stamp := s.stamp + 1 } core { L1Line.fresh key s.stamp with keep := keep }

/-- A line has been used: it is the last that its set gives up (R78). -/
def touchLine (s : State) (core key : Nat) : State :=
  modCore { s with stamp := s.stamp + 1 } core fun c => { c with l1 := c.l1.map fun l => if l.key == key then { l with used := s.stamp + 1 } else l }

/-- A line goes to the least-recent position of its set (R70). -/
def lowLine (s : State) (core key : Nat) : State :=
  modCore s core fun c => { c with l1 := c.l1.map fun l => if l.key == key then { l with used := 0 } else l }

/-- A flight's bytes of a line that it has still to write, each with what the write is ordered after. -/
def flightBytes (f : Flight) (key : Nat) : List (Nat × Byte × Clock) :=
  if f.todo.contains key then (f.bytes.filter fun w => w.1 / 256 == key).map fun w => (w.1, w.2, f.clock) else []

/-- The plain writes of a core to a line that have issued and are not yet performed, oldest first; a release is seen by nobody before it is performed (R244). -/
def pendingBytes (s : State) (core key : Nat) : List (Nat × Byte × Clock) :=
  (s.flights.filter fun f => f.core == core && f.op != .strel).flatMap fun f => flightBytes f key

/-- Whether byte `i` of a line lies in a set of sectors. -/
def inSectors (m : BitVec 4) (i : Nat) : Bool := m.getLsbD (i / 64)

/-- Sectors filled from the home slice: written bytes stay, writes in flight of this core lie over the home's bytes, with what they are ordered after (R248),
and each filled sector is stamped with the die's applied clock (R77, R79, R256). -/
def fillLine (s : State) (core key : Nat) (sectors : BitVec 4) (keep : Bool) : State :=
  let s := allocLine s core key keep
  let s := mesiRead s (((List.range 4).filter sectors.getLsbD).map (key * 4 + ·))
  match l1Line s core key with
  | none => s
  | some l =>
    let idx := (List.range 256).filter fun i => inSectors sectors i && !l.written.getLsbD i
    let base := sputAll (0 : Byte) l.data (idx.map fun i => (i, readByte s.mem (key * 256 + i)))
    let mine := (pendingBytes s core key).filter fun w => inSectors sectors (w.1 % 256) && !l.written.getLsbD (w.1 % 256)
    let data := sputAll (0 : Byte) base (mine.map fun w => (w.1 % 256, w.2.1))
    let home := sputAll Clock.zero l.clks (idx.map fun i => (i, sget Clock.zero s.wclk (key * 256 + i)))
    let clks := sputAll Clock.zero home (mine.map fun w => (w.1 % 256, w.2.2))
    let st := appliedClock s (dieOfCore core)
    let pz : BitVec 4 := BitVec.ofNat 4 ((List.range 4).foldr (fun i acc => (if sectors.getLsbD i && poisoned s (key * 256 + 64 * i) then 1 else 0) + 2 * acc) 0)
    let stamps := (List.range 4).map fun i => if sectors.getLsbD i then st else l.stamps.getD i Clock.zero
    putLine { s with stamp := s.stamp + 1 } core
      { l with valid := l.valid ||| sectors, data := data, clks := clks, stamps := stamps, used := s.stamp
               poison := (l.poison &&& ~~~sectors) ||| pz }

/-- The sectors of a core's copy that hold data are filled again: what its home slice holds now, with written bytes and writes in flight over it. -/
def refreshLine (s : State) (core key : Nat) (sectors : BitVec 4) : State :=
  match l1Line s core key with
  | none => s
  | some l => if l.valid &&& sectors = 0 then s else fillLine s core key (l.valid &&& sectors) false

/-- The sectors that a list of byte offsets touches. -/
def sectorsOf (offs : List Nat) : BitVec 4 :=
  offs.foldl (fun m o => m ||| BitVec.ofNat 4 (2 ^ (o / 64 % 4))) 0

/-- The line serves the sectors to an access that carries clock `c`: valid, and stamped to cover it (R256). -/
def lineServes (l : L1Line) (sectors : BitVec 4) (c : Clock) : Bool :=
  (List.range 4).all fun i => !sectors.getLsbD i || (l.valid.getLsbD i && (l.stamps.getD i Clock.zero).covers c)

/-- A core-scope store in the L1, ordered after `k`: the bytes are written and marked (R79, R253). -/
def l1Store (s : State) (core : Nat) (keep : Bool) (k : Clock) : List (Nat × Byte) → State
  | [] => s
  | (a, b) :: ws =>
    let s := allocLine s core (a / 256) keep
    let s := match l1Line s core (a / 256) with
      | none => s
      | some l => putLine s core { l with data := sput 0 l.data (a % 256) b, written := l.written ||| BitVec.ofNat 256 (2 ^ (a % 256))
                                          clks := sput Clock.zero l.clks (a % 256) k }
    l1Store s core keep k ws

/-- The lines of a core-scope store at the positions of its policy: a held line has been used, and a line that a stream access allocates goes to
the least-recent position (R70, R78). -/
def placeLines (old new : State) (core : Nat) (low : Bool) (keys : List Nat) : State :=
  keys.foldl (fun s k =>
    if low then (if (l1Line old core k).isNone then lowLine s core k else s) else touchLine s core k) new

/-- A crew's core-scope writes wait in its L1 lines (R79, R254). -/
def nearWrites (s : State) (crew : Nat) (ws : List (Nat × Byte)) : State :=
  { s with crews := s.crews.map fun c =>
      if c.id == crew then { c with near := (c.near ++ ws.map fun (w : Nat × Byte) => w.1 / 256).eraseDups } else c }

/-- A write-through store's bytes in the L1 copy, when there is one, with what the store is ordered after; the written marks of those bytes clear (R79, R248). -/
def l1Through (s : State) (core : Nat) (ws : List (Nat × Byte)) (k : Clock) : State :=
  modCore s core fun c => { c with l1 := c.l1.map fun l =>
    let mine := ws.filter fun w => w.1 / 256 == l.key
    if mine.isEmpty then l
    else { l with data := sputAll 0 l.data (mine.map fun w => (w.1 % 256, w.2))
                  clks := sputAll Clock.zero l.clks (mine.map fun w => (w.1 % 256, k))
                  written := mine.foldl (fun m w => m &&& ~~~(BitVec.ofNat 256 (2 ^ (w.1 % 256)))) l.written } }

/-- One byte as a core's load finds it: its L1 copy when the sector is valid or the byte is written, else the home's. -/
def coreByte (s : State) (core a : Nat) : Byte :=
  match l1Line s core (a / 256) with
  | none => readByte s.mem a
  | some l => if l.valid.getLsbD (a % 256 / 64) || l.written.getLsbD (a % 256) then sget 0 l.data (a % 256) else readByte s.mem a

/-- The byte that a core's access at core scope reads is poisoned: its L1 copy's sector where that holds data, else its home's (R44). -/
def corePoisoned (s : State) (core a : Nat) : Bool :=
  match l1Line s core (a / 256) with
  | none => poisoned s a
  | some l =>
    if l.valid.getLsbD (a % 256 / 64) then l.poison.getLsbD (a % 256 / 64)
    else !l.written.getLsbD (a % 256) && poisoned s a

/-- The byte that a core's access reads at the home slice is poisoned; its own written bytes count (R44, R80). -/
def homePoisoned (s : State) (core a : Nat) : Bool :=
  poisoned s a && !(match l1Line s core (a / 256) with | some l => l.written.getLsbD (a % 256) | none => false)

/-- The clock of the write that a core's load of a byte reads (R85, R253). -/
def coreClock (s : State) (core a : Nat) : Clock :=
  match l1Line s core (a / 256) with
  | none => sget Clock.zero s.wclk a
  | some l => if l.valid.getLsbD (a % 256 / 64) || l.written.getLsbD (a % 256) then sget Clock.zero l.clks (a % 256) else sget Clock.zero s.wclk a

/-- A core other than `core` holds the line pinned (R246). -/
def pinnedElsewhere (s : State) (core key : Nat) : Bool :=
  s.cores.any fun c => c.id != core && c.l1.any fun l => l.key == key && l.pin.isSome

/-- The link stands between a die and a line's home (R65). -/
def linkBarsDie (s : State) (die line : Nat) : Bool := s.link.retraining && homeDie s (line * 256) != die

/-- The link stands between a core's die and a line's home (R65). -/
def linkBars (s : State) (core line : Nat) : Bool := linkBarsDie s (dieOfCore core) line

/-! ### Pins in the stack cache -/

/-- A pin's partition, first 64 KiB unit and units (Table 3-3). -/
def pinPart (v : BitVec 64) : Nat := v.toNat / 2 % 16
/-- BASE in 64 KiB units (Table 3-3). -/
def pinBase (v : BitVec 64) : Nat := v.toNat / 2 ^ 16 % 2 ^ 20
/-- LEN (Table 3-3). -/
def pinLen (v : BitVec 64) : Nat := v.toNat / 2 ^ 36 % 2 ^ 16

/-- A DPA lies in the range of an active pin, so its home slice holds all of its line (R50). -/
def slicePinned (s : State) (pk : Nat) : Bool :=
  s.dies.any fun d => (d.pins.zip d.pinStatus).any fun (v, st) =>
    st == 2 && decide (pinBase v ≤ pk / 2 ^ 16) && decide (pk / 2 ^ 16 < pinBase v + pinLen v)

/-! ### The host's hold on sectors -/

/-- The host holds the sector. -/
def hostHolds (s : State) (sec : Nat) : Bool := s.hostHeld.any fun h => h.1 == sec

/-- The host holds the sector exclusive. -/
def hostOwns (s : State) (sec : Nat) : Bool := s.hostHeld.any fun h => h.1 == sec && h.2 == .exclusive

/-- The sectors of a list that the host must give up before the device writes, or reads, them (R46). -/
def hostBars (s : State) (write : Bool) (secs : List Nat) : List Nat := secs.filter fun x => if write then hostHolds s x else hostOwns s x

/-- Back-invalidate snoops for sectors that the host holds and that no snoop is out for (R46). -/
def askHost (s : State) (secs : List Nat) : State :=
  secs.foldl (fun s x =>
    if hostHolds s x && !s.biWait.contains x then { s with biWait := s.biWait ++ [x], out := s.out ++ [.biSnoop x] } else s) s

/-! ### Writes of the device on its own account -/

/-- Pinned copies of a line give the home slice their bytes for an access of the host, and stay pinned (R247). -/
def syncLine (s : State) (key : Nat) : State :=
  (s.cores.filter fun c => c.l1.any fun l => l.key == key && l.pin.isSome).foldl (fun s c => writeBack s c.id key) s

/-- Pinned copies of a line take bytes that have been written at the home slice (R247). -/
def refillPins (s : State) (ws : List (Nat × Byte)) : State :=
  { s with cores := s.cores.map fun c =>
      { c with l1 := c.l1.map fun l =>
          let mine := ws.filter fun w => w.1 / 256 == l.key
          if l.pin.isSome && !mine.isEmpty then { l with data := sputAll 0 l.data (mine.map fun w => (w.1 % 256, w.2)) } else l } }

/-- The lines that bytes with addresses lie in, each once. -/
def lineKeys (ws : List (Nat × Byte)) : List Nat := (ws.map (·.1 / 256)).eraseDups

/-- The sectors that bytes with addresses lie in, each once. -/
def sectorKeys (ws : List (Nat × Byte)) : List Nat := (ws.map (·.1 / 64)).eraseDups

/-- Bytes of some sectors still wait at their home slice (R46). -/
def postedIn (s : State) (secs : List Nat) : Bool := s.posted.any fun p => p.bytes.any fun w => secs.contains (w.1 / 64)

/-- Sectors cannot be changed now by a core, or by a die under the number of `isleUnit`: the host holds one, the link stands between, another core has one's line
pinned, or an earlier write of one waits (R46, R65, R246). -/
def sectorsBarred (s : State) (core : Nat) (secs : List Nat) : Bool :=
  secs.any (hostHolds s) || secs.any (fun x => linkBars s core (x / 4) || pinnedElsewhere s core (x / 4)) || postedIn s secs

/-- A write by a core or a die cannot be performed now (R46, R65, R246). -/
def writeBarred (s : State) (core : Nat) (ws : List (Nat × Byte)) : Bool := sectorsBarred s core (sectorKeys ws)

/-- A write of the device on its own account, by a core or by a die under the number of `isleUnit`, with no ordering of its own: at once, or once the host has
answered the snoops that it needs, the link is up and no other core's pin is in its way; until then it waits at its home slice, behind the writes before it.  `va`
names the PASID and the address that it was translated from, if it was (R46, R65, R246; DESIGN CHOICE, log entry 29). -/
def post (s : State) (core : Nat) (va : Option (Nat × Nat)) (ws : List (Nat × Byte)) : State :=
  if writeBarred s core ws then
    let s := askHost s (sectorKeys ws)
    { s with posted := s.posted ++ [⟨core, va, ws⟩] }
  else homeWrite s Clock.zero ws

/-- Writes that wait are tried again, in order. -/
def drainPosted (s : State) : State := s.posted.foldl (fun s p => post s p.core p.va p.bytes) { s with posted := [] }

/-- A write by a die of bytes from an address up. -/
def poke (s : State) (die a : Nat) (bs : List Byte) : State := post s (isleUnit die) none (addrs a bs)

/-- The pins that a block holds on one core end: the lines' written bytes go home and the lines stay (R246). -/
def endPinsAt (s : State) (core block : Nat) : State :=
  ((l1Of s core).filter fun l => l.pin == some block).foldl (fun s l =>
    let s := writeBack s core l.key
    match l1Line s core l.key with
    | none => s
    | some l => putLine s core { l with pin := none }) s

/-- Every pin that a block holds ends (R246). -/
def endPins (s : State) (block : Nat) : State :=
  (s.cores.filter fun c => c.l1.any fun l => l.pin == some block).foldl (fun s c => endPinsAt s c.id block) s

/-- Every written byte of a core's L1 goes home (R244, step 3). -/
def writeBackAll (s : State) (core : Nat) : State :=
  (l1Of s core).foldl (fun s l => writeBack s core l.key) s

/-- A device write outside the L1 path (save areas, frames, tables), translated from `va` where it has one: performed at home, and the writing core's copy follows. -/
def pokeVia (s : State) (core : Nat) (va : Option (Nat × Nat)) (ws : List (Nat × Byte)) : State := l1Through (post s core va ws) core ws Clock.zero

end Sys2Proof.Machine
end

