-- ==== Sys2Proof/Machine/Translate.lean ====
section
/-!
DEFINITION. Translation (R53-R61): the PASID table, the five-level walk, the caches, and the outcome of one line.
-/

namespace Sys2Proof.Machine

/-- What the PASID table says of a PASID (R53). -/
inductive PasidOut where
  | bad
  | pageTable (root : Nat)
  | ats
deriving DecidableEq, Repr

/-- The DPA of a PASID's entry in the table; none when the table is disabled or too small (R53). -/
def pasidEntry (s : State) (pasid : Nat) : Option Nat :=
  match dieAt s 0 with
  | none => none
  | some d =>
    let r := d.pasidBase.toNat
    let size := r / 2 % 32
    if r % 2 = 0 ∨ size = 0 ∨ 20 < size ∨ 2 ^ size ≤ pasid then none else some (r / 2 ^ 12 % 2 ^ 24 * 2 ^ 12 + 16 * pasid)

/-- A PASID's entry lies behind a link that retrains (R65). -/
def pasidAway (s : State) (core pasid : Nat) : Bool :=
  match pasidEntry s pasid with
  | some a => linkBars s core (a / 256)
  | none => false

/-- The sector of a PASID's entry, where the host holds it exclusive, so that no read of it can be made yet (R46). -/
def pasidHeld (s : State) (pasid : Nat) : List Nat :=
  match pasidEntry s pasid with
  | some a => hostBars s false [a / 64]
  | none => []

/-- The registers' table and its entry: bad when the table is disabled, too small, or the entry is invalid or reserved (R53), and when
the entry's DPA lies beyond memory or on a fenced die (DESIGN CHOICE, log entry 50: R53 does not name that case).  A poisoned entry is used as it stands (DESIGN
CHOICE, log entry 72). -/
def pasidLookup (s : State) (pasid : Nat) : PasidOut :=
  match pasidEntry s pasid with
  | none => .bad
  | some a =>
      let w := peek s a 8
      if badDpa s a then .bad
      else if w % 2 = 0 ∨ w / 4 % 2 ^ 10 ≠ 0 ∨ w / 2 ^ 36 ≠ 0 ∨ peek s (a + 8) 8 ≠ 0 then .bad
      else if w / 2 % 2 = 1 then .ats
      else .pageTable (w / 2 ^ 12 % 2 ^ 24 * 2 ^ 12)

/-- The physical key of an HPA under some HDM decoders: a decoder's DPA, or host memory (R45, R47, R59).  A DPA is never the key of host memory, however
large the skip: one of 2^52 or more stands for the last line below that, where there is no memory either.  Where both decoders accept an HPA, the first maps it
(DESIGN CHOICE, log entry 80). -/
def hpaKeyIn (hdm : List (Nat × Nat × Nat)) (h : Nat) : Nat :=
  match hdm.find? fun (base, size, _) => decide (base ≤ h) && decide (h < base + size) with
  | some (base, _, skip) => let d := h - base + skip
                            if d < hostBase then d else hostBase - 256 + d % 256
  | none => hostBase + h

/-- The physical key of an HPA under the decoders as they stand (R45). -/
def hpaKey (s : State) (h : Nat) : Nat := hpaKeyIn s.hdm h

/-- The physical key at an offset in a cached page: an HPA goes through the decoders byte by byte, so a page may cross a decoder's end (R45, R59). -/
def TlbEntry.key (e : TlbEntry) (off : Nat) : Nat :=
  match e.hdm with
  | some ds => hpaKeyIn ds (e.pk + off)
  | none => e.pk + off

/-- What a walk comes to (Table 3-7, orders 3 and 4). -/
inductive WalkOut where
  | entry (e : TlbEntry)
  | fault
  | access
deriving DecidableEq, Repr

/-- Page size by level and span bit; none where the leaf is illegal (Table 3-6). -/
def leafSize (level : Nat) (span : Bool) : Option Nat :=
  match level, span with
  | 0, false => some 12
  | 0, true => some 16
  | 1, false => some 21
  | 2, false => some 30
  | 2, true => some 34
  | _, _ => none

/-- A leaf entry `w` at a level, standing at DPA `a` (Tables 3-5 and 3-6). -/
def leafOut (s : State) (pasid va level a w : Nat) : WalkOut :=
  match leafSize level (w / 2 ^ 8 % 2 == 1) with
  | none => .access
  | some size =>
    let pa := w / 2 ^ 12 % 2 ^ 40 * 2 ^ 12
    if 2 ≤ w / 2 ^ 10 % 4 ∨ w / 2 ^ 52 ≠ 0 ∨ pa % 2 ^ size ≠ 0 then .access
    else .entry
      { pasid := pasid, va := va / 2 ^ size * 2 ^ size, size := size
        pk := pa, hdm := if w / 2 ^ 9 % 2 = 1 then some s.hdm else none
        r := w / 4 % 2 == 1, w := w / 8 % 2 == 1, x := w / 16 % 2 == 1, p := w / 32 % 2 == 1
        uncached := w / 2 ^ 10 % 4 == 1, dirty := w / 2 ^ 7 % 2 == 1, ats := false, leaf := a }

/-- The walk from a table at a level downwards (R54); a table line outside memory ends it as an ACCESS outcome.  R44 names loads, atomics and fetches: an entry
in a poisoned sector is used as it stands (DESIGN CHOICE, log entry 72). -/
def walkFrom (s : State) (pasid va : Nat) : Nat → Nat → WalkOut
  | level, table =>
    let a := table + 8 * (va / 2 ^ (12 + 9 * level) % 512)
    let w := peek s a 8
    if badDpa s a then .access
    else if w % 2 = 0 then .fault
    else if w / 2 % 2 = 1 then leafOut s pasid va level a w
    else
      match level with
      | 0 => .access
      | l + 1 =>
        if w / 4 % 2 ^ 10 ≠ 0 ∨ w / 2 ^ 52 ≠ 0 then .access
        else walkFrom s pasid va l (w / 2 ^ 12 % 2 ^ 40 * 2 ^ 12)

/-- A walk under the device's page tables (R54-R56). -/
def walkVa (s : State) (pasid va : Nat) : WalkOut :=
  match pasidLookup s pasid with
  | .pageTable root => walkFrom s pasid va 4 root
  | _ => .access

/-- Set A, and D for a write, in a leaf entry by an atomic OR (R56). -/
def markLeaf (s : State) (leaf : Nat) (write : Bool) : State :=
  let w := peek s leaf 8
  let v := w ||| (if write then 0xC0 else 0x40)
  if v = w then s else homeWrite s Clock.zero (addrs leaf (leSplit 8 v))

/-- The entry covers an address of a PASID. -/
def TlbEntry.hits (e : TlbEntry) (pasid va : Nat) : Bool :=
  e.pasid == pasid && decide (e.va ≤ va) && decide (va < e.va + 2 ^ e.size)

/-- The cached translation of an address: the core's TLB, the die's, and for an ATS PASID the host-translation cache, which stands at die 0 and which a link that
retrains keeps from die 1 (R58, R59, R65). -/
def cached (s : State) (core pasid va : Nat) : Option TlbEntry :=
  let here := match coreAt s core with | some c => c.tlb | none => []
  let die := match dieAt s (dieOfCore core) with | some d => d.tlb | none => []
  let far := if s.link.retraining && dieOfCore core == 1 then [] else s.hostTc
  (here ++ die ++ far).find? fun e => e.hits pasid va

/-- Outcome of translating one line (Table 3-7). -/
inductive Xl where
  | hit (pk : Nat) (uncached : Bool)
  | miss
  | access
  | fault
deriving DecidableEq, Repr

/-- The access needs R, W or X that the entry lacks, or a privileged context (Table 3-7, orders 5 and 6).  A host translation with P = 1 used
outside a privileged context lacks a permission, so that order 5 decides (DEDUCED, log entry 51). -/
def lacks (e : TlbEntry) (acc : AccKind) (priv : Bool) : Bool :=
  (match acc with
    | .read => !e.r
    | .write => !e.w
    | .both => !e.r || !e.w
    | .fetch => !e.x) || (e.p && !priv)

/-- The access writes. -/
def AccKind.writes : AccKind → Bool
  | .write | .both => true
  | _ => false

/-- The outcome for one address with what the caches hold now (R53, R57). A first write through a clean entry walks again (R56).
For a host translation every missing permission, P among them, is order 5's (DEDUCED, log entry 51).  A leaf with H = 1 whose HPA a decoder accepts at a DPA that
does not exist comes to ACCESS like a DPA of order 7, which names H = 0 alone (DESIGN CHOICE, log entry 71). -/
def xlate (s : State) (core pasid va : Nat) (acc : AccKind) (priv : Bool) : Xl :=
  match pasidLookup s pasid with
  | .bad => .access
  | _ =>
    match cached s core pasid va with
    | none => .miss
    | some e =>
      if lacks e acc priv then (if e.ats then (if s.priOff then .access else .fault) else .access)
      else
        let pk := e.key (va - e.va)
        if badDpa s pk then .access
        else if acc.writes && !e.dirty && !e.ats then .miss
        else .hit pk e.uncached

/-- A list of at most `n` entries with a new one in front (the oldest gives way). -/
def pushFront {α : Type} (n : Nat) (e : α) (l : List α) : List α := (e :: l).take n

/-- A walked translation installed in the core's TLB and the die's, in place of an older one of its page (R58). -/
def installTlb (s : State) (core : Nat) (e : TlbEntry) : State :=
  let drop (l : List TlbEntry) := l.filter fun x => !(x.pasid == e.pasid && x.va == e.va)
  let s := modCore s core fun c => { c with tlb := pushFront 64 e (drop c.tlb) }
  { s with dies := s.dies.map fun d =>
      if d.id == dieOfCore core then { d with tlb := pushFront 8192 e (drop d.tlb) } else d }

/-- A walk carried out at once: what it comes to, with the leaf marked and the translation installed (R56, R58).  D is set for a write that
the leaf lets through, not for one that fails order 6 or 7. -/
def walkNow (s : State) (core pasid va : Nat) (acc : AccKind) (priv : Bool) : LineOut × State :=
  match walkVa s pasid va with
  | .access => (.access, s)
  | .fault => (.fault, s)
  | .entry e =>
    let write := acc.writes && !lacks e acc priv && !badDpa s (e.key (va - e.va))
    let s := markLeaf s e.leaf write
    (.ok, installTlb s core { e with dirty := e.dirty || write })

/-- Addresses of the entries that a walk reads, from a table at a level downwards (R54). -/
def walkReads (s : State) (va : Nat) : Nat → Nat → List Nat
  | 0, table => [table + 8 * (va / 2 ^ 12 % 512)]
  | l + 1, table =>
    let a := table + 8 * (va / 2 ^ (12 + 9 * (l + 1)) % 512)
    let w := peek s a 8
    if badDpa s a || w % 2 == 0 || w / 2 % 2 == 1 then [a] else a :: walkReads s va l (w / 2 ^ 12 % 2 ^ 40 * 2 ^ 12)

/-- The entries that a walk for a PASID reads, the last of which it marks when it is a leaf (R54, R56). -/
def walkEntries (s : State) (pasid va : Nat) : List Nat :=
  match pasidLookup s pasid with
  | .pageTable root => walkReads s va 4 root
  | _ => []

/-- A table line that a walk needs is pinned by another core, or lies behind a link that retrains (R65, R246). -/
def walkStuck (s : State) (core pasid va : Nat) : Bool :=
  (walkEntries s pasid va).any fun a => pinnedElsewhere s core (a / 256) || linkBars s core (a / 256)

/-- The sectors that the host must give up before a walk: those that it holds exclusive, and for the leaf, which is marked, any (R46, R56). -/
def walkHost (s : State) (pasid va : Nat) : List Nat :=
  let es := walkEntries s pasid va
  hostBars s false (es.map (· / 64)) ++ match es.getLast? with
    | some a => if peek s a 8 % 4 = 3 then hostBars s true [a / 64] else []
    | none => []

/-- A translation for the device's own accesses (save areas, frames, tables, images): a replayable miss is only a delay,
so a miss walks at once (R316, R318). -/
def xlateNow (s : State) (core pasid va : Nat) (acc : AccKind) (priv : Bool) : Xl × State :=
  match xlate s core pasid va acc priv with
  | .miss =>
    match pasidLookup s pasid with
    | .pageTable _ =>
      match walkNow s core pasid va acc priv with
      | (.ok, s') => (xlate s' core pasid va acc priv, s')
      | (.fault, s') => (.fault, s')
      | (_, s') => (.access, s')
    | _ => (.fault, s)
  | r => (r, s)

/-- The same for a device access that can wait: a walk that is held up stays a miss, with the snoops that it needs (R46, R65, R246). -/
def xlateSync (s : State) (core pasid va : Nat) (acc : AccKind) (priv : Bool) : Xl × State :=
  if pasidAway s core pasid || !(pasidHeld s pasid).isEmpty then (.miss, askHost s (pasidHeld s pasid))
  else if xlate s core pasid va acc priv == .miss && (walkStuck s core pasid va || !(walkHost s pasid va).isEmpty) then
    (.miss, askHost s (walkHost s pasid va))
  else xlateNow s core pasid va acc priv

/-- The 256 B lines that `n` bytes from `va` touch, in order. -/
def vlines (va n : Nat) : List Nat :=
  if n = 0 then [] else (List.range ((va + n - 1) / 256 - va / 256 + 1)).map fun i => (va / 256 + i) * 256

/-- Bytes with addresses, grouped where neighbours lie in one 256 B line. -/
def byLine : List (Nat × Byte) → List (Nat × List (Nat × Byte))
  | [] => []
  | (a, b) :: ws =>
    match byLine ws with
    | (l, xs) :: gs => if a / 256 = l then (l, (a, b) :: xs) :: gs else (a / 256, [(a, b)]) :: (l, xs) :: gs
    | [] => [(a / 256, [(a, b)])]

/-- Device bytes written at a VA, line by line; `none` when some line does not translate (R316). -/
def pokeVa (s : State) (core pasid : Nat) (priv : Bool) (ws : List (Nat × Byte)) : Option State :=
  (byLine ws).foldl (fun (o : Option State) g =>
    match o with
    | none => none
    | some s =>
      match xlateNow s core pasid (g.1 * 256) .write priv with
      | (.hit pk unc, s) =>
        let s := pokeVia s core (some (pasid, g.1 * 256)) (g.2.map fun w => (pk + w.1 % 256, w.2))
        some (if unc then mesiDrop s (sectorKeys (g.2.map fun w => (pk + w.1 % 256, w.2))) else s)
      | _ => none) (some s)

/-- Device bytes read at a VA, line by line; `none` when some line does not translate. -/
def peekVa (s : State) (core pasid : Nat) (priv : Bool) (va n : Nat) : Option (List Byte × State) :=
  (vlines va n).foldl (fun (o : Option (List Byte × State)) l =>
    match o with
    | none => none
    | some (bs, s) =>
      let a := max va l
      match xlateNow s core pasid a .read priv with
      | (.hit pk unc, s) =>
        let as := (List.range (min (va + n) (l + 256) - a)).map (pk + ·)
        some (bs ++ as.map (coreByte s core), if unc then s else mesiRead s ((as.map (· / 64)).eraseDups))
      | _ => none) (some ([], s))

end Sys2Proof.Machine
end

