-- ==== Sys2Proof/Machine/Operands.lean ====
section
/-!
DEFINITION. Operand forms: registers, latches and literals with their tags, writes under an active set, the latch ring,
load-tracking slots and buffer records (chapters 04 and 06).
-/

namespace Sys2Proof.Machine

/-- A crew by its number. -/
def crewAt (s : State) (id : Nat) : Option Crew := s.crews.find? fun c => c.id == id

/-- The machine with one crew replaced. -/
def setCrew (s : State) (c : Crew) : State := { s with crews := s.crews.map fun x => if x.id == c.id then c else x }

/-- The machine with one crew changed. -/
def modCrew (s : State) (id : Nat) (f : Crew → Crew) : State :=
  { s with crews := s.crews.map fun x => if x.id == id then f x else x }

/-- A block by its number. -/
def blockAt (s : State) (id : Nat) : Option Block := s.blocks.find? fun b => b.id == id

/-- The machine with one block replaced. -/
def setBlock (s : State) (b : Block) : State := { s with blocks := s.blocks.map fun x => if x.id == b.id then b else x }

/-- The machine with one block changed. -/
def modBlock (s : State) (id : Nat) (f : Block → Block) : State :=
  { s with blocks := s.blocks.map fun x => if x.id == id then f x else x }

/-- A task by its number. -/
def taskAt (s : State) (no : Nat) : Option Task := s.tasks.find? fun t => t.no == no

/-- The machine with one task changed. -/
def modTask (s : State) (no : Nat) (f : Task → Task) : State :=
  { s with tasks := s.tasks.map fun x => if x.no == no then f x else x }

/-- The block of a crew. -/
def blockOf (s : State) (c : Crew) : Option Block := blockAt s c.block

/-- The task of a crew. -/
def taskOf (s : State) (c : Crew) : Option Task :=
  match blockOf s c with
  | some b => taskAt s b.task
  | none => none

/-- The crew belongs to no block but was formed by REORD (R306). -/
def isFormed (s : State) (c : Crew) : Bool :=
  match blockOf s c with
  | some b => b.formed.isSome
  | none => false

/-- The set of a crew, its number and the crew's rank (R123, R279). -/
def setOf (s : State) (c : Crew) : Option (Nat × Nat × CrewSet) :=
  match blockOf s c with
  | none => none
  | some b =>
    (b.sets.zipIdx).findSome? fun (o, n) =>
      match o with
      | none => none
      | some g => if g.members.contains c.id then some (n, g.members.idxOf c.id, g) else none

/-- Registers the crew owns (R119). -/
def ownedRegs (s : State) (c : Crew) : Nat := match blockOf s c with | some b => b.regsN | none => 60

/-- A vector register. -/
def vreg (c : Crew) (n : Nat) : Reg := c.regs.getD n Reg.zero

/-- A source register code: v0-v59, or a latch; none for an invalid latch or code 63 (R21, R133). -/
def srcReg (c : Crew) (code : Nat) : Option Reg :=
  if code < 60 then some (vreg c code)
  else if code < 63 then (if c.lvalid.getD (code - 60) false then some (c.latch.getD (code - 60) Reg.zero) else none)
  else none

/-- The lane value of a register. -/
def Reg.at (r : Reg) (l : Nat) : Word := r.lanes.getD l 0

/-- A literal as a source: shape U, no taint, a format given by the reader (R22). -/
def litReg (w : Word) (f : Fmt) : Reg := ⟨.u, f, 0, List.replicate 32 w⟩

/-- A second source; a literal takes the format `f` (R22). -/
def srcVal (c : Crew) (b : Src) (f : Fmt) : Option Reg :=
  match b with
  | .reg r => srcReg c r.toNat
  | .lit w => some (litReg w f)

/-- The lanes of `act` from `new`, the others from `old` (R19). -/
def mergeLanes (act : Mask) (old new : List Word) : List Word :=
  laneIds.map fun l => if laneIn act l then new.getD l 0 else old.getD l 0

/-- The lowest lane of a mask. -/
def firstLane (act : Mask) : Nat := (laneIds.find? (laneIn act)).getD 0

/-- The lanes that a write leaves: a full write of shape U or A gives every lane its value, the exited ones too (R125). -/
def newLanes (old res : Reg) (act : Mask) (full : Bool) : List Word :=
  match full, res.shape with
  | true, .u => List.replicate 32 (res.at (firstLane act))
  | true, .a => laneIds.map res.at
  | _, _ => mergeLanes act old.lanes res.lanes

/-- The register that a write leaves.  A full write takes the result's shape, any other gives shape G (R125); either way the register's
taint becomes the result's (R85, R147; R131 has a write that is not full remove none: DEDUCED, log entry 49).  With `act` empty nothing is written. -/
def regWrite (old res : Reg) (act : Mask) (full : Bool) : Reg :=
  if act = 0 then old
  else
    { shape := if full then res.shape else .g, fmt := res.fmt, taint := res.taint
      lanes := newLanes old res act full }

/-- A crew with one vector register set. -/
def setReg (c : Crew) (n : Nat) (r : Reg) : Crew := { c with regs := c.regs.set n r }

/-- A result written to a vector register under `act`; code 63 writes nothing (R21). -/
def writeVd (c : Crew) (d : Nat) (res : Reg) (act : Mask) (full : Bool) : Crew :=
  if d < 60 then setReg c d (regWrite (vreg c d) res act full) else c

/-- A latch that takes a value in a push: one that is not full keeps the taint that the latch held (R132). -/
def latchWrite (old res : Reg) (act : Mask) (full : Bool) : Reg :=
  { regWrite old res act full with taint := if full then res.taint else res.taint ||| old.taint }

/-- The latch ring after a push (R132): lanes of `act` shift, tags shift, and a push that is not full makes the shapes G and keeps the taint that each latch
held.  The other lanes of a latch that was not valid before keep what the latch last held (DESIGN CHOICE, log entry 78). -/
def pushLatch (c : Crew) (res : Reg) (act : Mask) (full : Bool) : Crew :=
  if act = 0 then c
  else
    let b0 := c.latch.getD 0 Reg.zero
    let b1 := c.latch.getD 1 Reg.zero
    let b2 := c.latch.getD 2 Reg.zero
    { c with latch := [latchWrite b0 res act full, latchWrite b1 b0 act full, latchWrite b2 b1 act full]
             lvalid := [true, c.lvalid.getD 0 false, c.lvalid.getD 1 false] }

/-- The common end of a pushing instruction: vd and the ring take the same result (R132, R147). -/
def writeResult (c : Crew) (d : Nat) (res : Reg) (act : Mask) (full : Bool) : Crew :=
  if act = 0 then c else pushLatch (writeVd c d res act full) res act full

/-- Every value U gives U, everything else G (Table 6-2's first and last rows). -/
def uShape (ss : List Shape) : Shape := if ss.all (· == .u) then .u else .g

/-- A result built lane by lane. -/
def laneReg (sh : Shape) (f : Fmt) (t : BitVec 9) (v : Nat → Word) : Reg := ⟨sh, f, t, laneIds.map v⟩

/-- The bit of slot `k` in a taint (Table 6-1). -/
def slotBit (k : Nat) : BitVec 9 := BitVec.ofNat 9 (2 ^ k)

/-- The FLOOR bit of a taint (Table 6-1). -/
def floorBit : BitVec 9 := 256

/-- A slot as it is when free (R120). -/
def LSlot.free : LSlot := ⟨false, false, 0, Clock.zero⟩

/-- Slot `k` of a crew. -/
def slotAt (c : Crew) (k : Nat) : LSlot := c.slots.getD k LSlot.free

/-- Some register, latch or record of the crew carries the slot's bit (R128). -/
def slotHeld (c : Crew) (k : Nat) : Bool :=
  c.regs.any (fun r => r.taint.getLsbD k) ||
  (c.latch.zip c.lvalid).any (fun (r, v) => v && r.taint.getLsbD k) ||
  c.recs.any (fun r => r.taint.getLsbD k)

/-- A slot is free when its load has returned and nothing carries its bit (R128). -/
def slotFree (c : Crew) (k : Nat) : Bool := !(slotAt c k).live || (!(slotAt c k).pending && !slotHeld c k)

/-- The oldest of the eight slots, by allocation (R129). -/
def oldestSlot (c : Crew) : Nat :=
  (List.range 8).foldl (fun b k => if (slotAt c k).age < (slotAt c b).age then k else b) 0

/-- The age that a new allocation takes. -/
def nextAge (c : Crew) : Nat := (c.slots.map (·.age)).foldl max 0 + 1

/-- A taint with slot `k` folded: its bit cleared and FLOOR set, when it held the slot (R129). -/
def foldTaint (k : Nat) (t : BitVec 9) : BitVec 9 := if t.getLsbD k then (t &&& ~~~slotBit k) ||| floorBit else t

/-- Slot `k` folded into the floor clock and out of every register, latch and record (R129, steps 2 and 3). -/
def foldSlot (c : Crew) (k : Nat) : Crew :=
  { c with floor := c.floor.sup (slotAt c k).clock
           regs := c.regs.map fun r => { r with taint := foldTaint k r.taint }
           latch := c.latch.map fun r => { r with taint := foldTaint k r.taint }
           recs := c.recs.map fun r => { r with taint := foldTaint k r.taint } }

/-- The slot is taken, its load pending (R128). -/
def takeSlot (c : Crew) (k : Nat) : Crew :=
  { c with slots := c.slots.set k ⟨true, true, nextAge c, Clock.zero⟩
           newSlots := c.newSlots ||| BitVec.ofNat 8 (2 ^ k) }

/-- A slot for a load: the lowest free one, else the oldest when its load has returned; none means the load waits (R128, R129). -/
def allocSlot (c : Crew) : Option (Nat × Crew) :=
  match (List.range 8).find? (slotFree c) with
  | some k => some (k, takeSlot c k)
  | none => let k := oldestSlot c
            if (slotAt c k).pending then none else some (k, takeSlot { foldSlot c k with folded := c.folded ||| BitVec.ofNat 8 (2 ^ k) } k)

/-- A slot's load has returned with the clock of the write it read (R128); the history takes it too (R254). -/
def returnSlot (c : Crew) (k : Nat) (cl : Clock) : Crew :=
  { c with slots := c.slots.set k { slotAt c k with pending := false, clock := cl.sup (slotAt c k).clock }, hist := c.hist.sup cl }

/-- Some of a slot's data have returned: it stays pending (R143). -/
def gainSlot (c : Crew) (k : Nat) (cl : Clock) : Crew :=
  { c with slots := c.slots.set k { slotAt c k with clock := cl.sup (slotAt c k).clock }, hist := c.hist.sup cl }

/-- A crew's history clock (R254): its floor clock, and the clocks of everything that it has written, read or acquired. -/
def crewClock (c : Crew) : Clock := (c.hist.sup c.acq).sup c.floor

/-- The clock that a taint stands for: its slots' clocks, and the floor clock with FLOOR (R128, R253). -/
def taintClock (c : Crew) (t : BitVec 9) : Clock :=
  let k := (List.range 8).foldl (fun a k => if t.getLsbD k then a.sup (slotAt c k).clock else a) Clock.zero
  if t.getLsbD 8 then k.sup c.floor else k

/-- A buffer record of the crew. -/
def recAt (c : Crew) (m : Nat) : Rec := c.recs.getD m ⟨0, 0⟩

/-- Bits [lo+n-1:lo] of a record. -/
def rbits (r : BitVec 128) (lo n : Nat) : Nat := r.toNat / 2 ^ lo % 2 ^ n

/-- The fields of Table 4-1. -/
def rBase (r : BitVec 128) : Nat := rbits r 0 57
/-- SCOPE (Table 4-1). -/
def rScope (r : BitVec 128) : Nat := rbits r 57 2
/-- RD (Table 4-1). -/
def rRd (r : BitVec 128) : Bool := rbits r 59 1 == 1
/-- WR (Table 4-1). -/
def rWr (r : BitVec 128) : Bool := rbits r 60 1 == 1
/-- POLICY (Table 4-1). -/
def rPolicy (r : BitVec 128) : Nat := rbits r 61 2
/-- OOBZ (Table 4-1). -/
def rOobz (r : BitVec 128) : Bool := rbits r 63 1 == 1
/-- EXTENT (Table 4-1). -/
def rExtentField (r : BitVec 128) : Nat := rbits r 64 40
/-- STRIDE (Table 4-1). -/
def rStride (r : BitVec 128) : Nat := rbits r 104 16
/-- SWIZZLE (Table 4-1). -/
def rSwizzle (r : BitVec 128) : Nat := rbits r 120 4
/-- FORMAT (Table 4-1). -/
def rFormat (r : BitVec 128) : Nat := rbits r 124 4
/-- A flat record (Table 4-1). -/
def rFlat (r : BitVec 128) : Bool := rExtentField r == 2 ^ 40 - 1
/-- The extent in bytes: 2^57 for a flat record (R73). -/
def rExtent (r : BitVec 128) : Nat := if rFlat r then 2 ^ 57 else rExtentField r

/-- The record checks made at each use (R71): the record itself, then the rights needed. -/
def recordOk (r : BitVec 128) (needRd needWr : Bool) : Bool :=
  rExtentField r != 0 && decide (rFormat r < 14) && (rSwizzle r == 0 || rBase r % 256 == 0) &&
  (!needRd || rRd r) && (!needWr || rWr r)

/-- The record's format; codes 14 and 15 never pass `recordOk`. -/
def recordFmt (r : BitVec 128) : Fmt :=
  match rFormat r with
  | 0 => .raw32 | 1 => .i32 | 2 => .i16x2 | 3 => .i8x4 | 4 => .i4x8 | 5 => .fp32 | 6 => .fp16x2
  | 7 => .e4m3x4 | 8 => .e5m2x4 | 9 => .e2m1x8 | 10 => .e3m5x4 | 11 => .idx | 12 => .fp16x1 | _ => .bf16x2

/-- Bytes of a swizzle unit (Table 4-3). -/
def swzUnit (sw : Nat) : Nat := 4 * 2 ^ (sw % 4)

/-- The swizzle of a byte offset (R72). -/
def swz (sw x : Nat) : Nat :=
  if sw = 0 then x
  else
    let k := 2 + sw % 4
    let w := 8 - k
    x ^^^ (x / 2 ^ (8 + sw / 4) % 2 ^ w * 2 ^ k)

/-- The effective address of an offset through a record (R73). -/
def effAddr (r : BitVec 128) (x : Nat) : Nat := (rBase r + swz (rSwizzle r) x) % 2 ^ 57

/-- The policy in force: the hint when it is not 0, else the record's (R70). -/
def policyOf (r : BitVec 128) (hint : Nat) : Nat := if hint = 0 then rPolicy r else hint

/-- The FORMAT code of a tag. -/
def fmtCode : Fmt → Nat
  | .raw32 => 0 | .i32 => 1 | .i16x2 => 2 | .i8x4 => 3 | .i4x8 => 4 | .fp32 => 5 | .fp16x2 => 6
  | .e4m3x4 => 7 | .e5m2x4 => 8 | .e2m1x8 => 9 | .e3m5x4 => 10 | .idx => 11 | .fp16x1 => 12 | .bf16x2 => 13

/-- The format of a code, if it is one (R69). -/
def fmtCode? : Nat → Option Fmt
  | 0 => some .raw32 | 1 => some .i32 | 2 => some .i16x2 | 3 => some .i8x4 | 4 => some .i4x8 | 5 => some .fp32
  | 6 => some .fp16x2 | 7 => some .e4m3x4 | 8 => some .e5m2x4 | 9 => some .e2m1x8 | 10 => some .e3m5x4
  | 11 => some .idx | 12 => some .fp16x1 | 13 => some .bf16x2
  | _ => none

/-- The code of a shape (Table 6-1). -/
def shapeCode : Shape → Nat
  | .u => 0 | .a => 1 | .g => 2

/-- The shape of a code, if it is one (Table 6-1). -/
def shapeCode? : Nat → Option Shape
  | 0 => some .u
  | 1 => some .a
  | 2 => some .g
  | _ => none

/-- The tag word of a register (Table 6-1). -/
def tagWord (r : Reg) : Word :=
  BitVec.ofNat 32 (shapeCode r.shape + 4 * fmtCode r.fmt + 64 * r.taint.toNat)

/-- The data words after a tag word: one, two or thirty-two (Table 6-3). -/
def recordWords (r : Reg) : List Word :=
  match r.shape with
  | .u => [r.at 0]
  | .a => [r.at 0, r.at 1 - r.at 0]
  | .g => laneIds.map r.at

/-- A register from its tag word and data words; none when the tag word is reserved (R134). -/
def regOfRecord (tag : Word) (ws : List Word) : Option Reg :=
  let t := tag.toNat
  match shapeCode? (t % 4), fmtCode? (t / 4 % 16) with
  | some sh, some f =>
    if t / 2 ^ 15 ≠ 0 then none
    else
      let lanes := match sh with
        | .u => List.replicate 32 (ws.getD 0 0)
        | .a => laneIds.map fun l => ws.getD 0 0 + BitVec.ofNat 32 l * ws.getD 1 0
        | .g => laneIds.map fun l => ws.getD l 0
      some ⟨sh, f, BitVec.ofNat 9 (t / 64), lanes⟩
  | _, _ => none

end Sys2Proof.Machine
end

