-- ==== Sys2Proof/Machine/Trace.lean ====
section
/-!
DEFINITION. Emitting trace records (R339-R347): which are written, where code is named, and the event classes.
-/

namespace Sys2Proof.Machine

/-- Event classes (Table 15-5). -/
inductive EvClass where
  | sched | fault | mem | copy | matrix | island | user | sample
  /-- Records that need EN alone (R344). -/
  | always
deriving DecidableEq, Repr

/-- The enable bit of an event class (Table 15-5). -/
def EvClass.bit : EvClass → Option Nat
  | .sched => some 0 | .fault => some 1 | .mem => some 2 | .copy => some 3 | .matrix => some 4 | .island => some 5
  | .user => some 6 | .sample => some 7 | .always => none

/-- Payload bytes of a length class (Table 15-1). -/
def clsBytes : Nat → Nat
  | 0 => 0 | 1 => 4 | 2 => 8 | 3 => 12 | 4 => 16 | 5 => 24 | 6 => 32 | _ => 48

/-- The trace control of die 0 (R342). -/
def trace0 (s : State) : Option TraceBlk := match dieAt s 0 with | some d => some d.trace | none => none

/-- The buffer's size in bytes; none when TR_BASE names no buffer (Table 15-4). -/
def TraceBlk.size (t : TraceBlk) : Option Nat :=
  let z := t.base.toNat % 32
  if 4 ≤ z ∧ z ≤ 20 then some (2 ^ z * 1024) else none

/-- Damgon writes the buffer (Table 15-4). -/
def TraceBlk.on (t : TraceBlk) : Bool := t.ctl.getLsbD 0 && t.size.isSome

/-- Die 0's trace control changed: a new run of records begins when EN comes to act as 1, and when it comes to act as 0, what the merger still holds is
not written (R340, Table 15-4; DEDUCED, log entry 22). -/
def setTrace (s : State) (f : TraceBlk → TraceBlk) : State :=
  match dieAt s 0 with
  | none => s
  | some d =>
    let t := f d.trace
    let s := setDie s { d with trace := if t.on && !d.trace.on then { t with drops := 0, lost := 0, started := false } else t }
    if d.trace.on && !t.on then { s with traceQ := [] } else s

/-- A die's copy of the timebase (R337). -/
def dieTime (s : State) (die : Nat) : Nat := if die = 0 then s.time else s.time1

/-- A core's own sources emit a class (Table 15-5). -/
def coreEmits (s : State) (core : Nat) (k : EvClass) : Bool :=
  match coreAt s core with
  | none => false
  | some c =>
    match k.bit with
    | none => true
    | some b => c.traceCtl.getLsbD 0 && c.traceCtl.getLsbD (1 + b)

/-- A die's sources emit a class (Table 15-4). -/
def dieEmits (s : State) (die : Nat) (k : EvClass) : Bool :=
  match dieAt s die with
  | none => false
  | some d =>
    match k.bit with
    | none => true
    | some b => d.trace.ctl.getLsbD (2 + b)

/-- A core's filter passes a task (R344); a requester that is no core, an island or the distributor, has no filter (DEDUCED, log entry 22). -/
def filterPasses (s : State) (core : Nat) (t : Option Task) : Bool :=
  match t, coreAt s core with
  | some t, some c =>
    c.traceFilter.getLsbD t.tenant &&
    (!c.traceFilter.getLsbD 16 ||
      (match dieAt s (dieOfCore core) with
        | some d => d.trace.pasid.toNat % 2 ^ 20 == t.pasid
        | none => false))
  | none, _ => true
  | _, none => decide (96 ≤ core)

/-- A record queued in the merger (R338). -/
def queueRec (s : State) (r : TraceRec) : State := { s with traceQ := s.traceQ ++ [r] }

/-- The bytes that the merger holds. -/
def mergerBytes (s : State) : Nat := (s.traceQ.map fun r => r.payload.length + 5).sum

/-- A record dropped and counted (R345). -/
def dropRec (s : State) : State :=
  { s with dies := s.dies.map fun d =>
      if d.id = 0 then { d with trace := { d.trace with drops := min (d.trace.drops + 1) (2 ^ 32 - 1), lost := d.trace.lost + 1 } } else d }

/-- A payload of its class's length, zeros after the named bytes (Table 15-2). -/
def padTo (n : Nat) (bs : List Byte) : List Byte := (bs ++ List.replicate n 0).take n

/-- A record emitted, when Damgon is on and the emitter's class is enabled; a full merger drops it in lossy mode (R344, R345).  `loc` is the place whose LOC is to
be found when the record is written (R341). -/
def emitAt (s : State) (die src typ cls : Nat) (crew : Option Nat) (loc : Option TraceLoc) (bs : List Byte) : State :=
  match trace0 s with
  | none => s
  | some t =>
    if !t.on then s
    else if 4096 < mergerBytes s + clsBytes cls + 5 ∧ (t.ctl.getLsbD 1 = false ∨ 321 ≤ src) then dropRec s
    else queueRec s ⟨dieTime s die, die, src, typ, cls, padTo (clsBytes cls) bs, crew, loc⟩

/-- A record that names no code. -/
def emit (s : State) (die src typ cls : Nat) (crew : Option Nat) (bs : List Byte) : State := emitAt s die src typ cls crew none bs

/-- A record of a core source for a crew: bytes 0 and 1 are the core and the slot (Table 15-2). -/
def emitCrew (s : State) (c : Crew) (k : EvClass) (typ cls : Nat) (bs : List Byte) : State :=
  if coreEmits s c.core k && filterPasses s c.core (taskOf s c) then
    emit s (dieOfCore c.core) c.core typ cls (some c.id) ([BitVec.ofNat 8 c.core, BitVec.ofNat 8 c.slot] ++ bs)
  else s

/-- A record of a die source (Table 15-2). -/
def emitDie (s : State) (die src : Nat) (k : EvClass) (typ cls : Nat) (bs : List Byte) : State :=
  if dieEmits s die k then emit s die src typ cls none bs else s

/-- The core that holds a line pinned. -/
def pinHolder (s : State) (line : Nat) : Option Nat :=
  (s.cores.find? fun c => c.l1.any fun l => l.key == line && l.pin.isSome).map (·.id)

/-- A RETRY record of a line's home slice, for a requester that a core's filter passes with its task; `who` is its core, 0xFF for a copy unit, an
island or a walker, and `slot` its slot (R246, R344, Table 15-2). -/
def emitRetry (s : State) (line core : Nat) (t : Option Task) (who slot : Nat) : State :=
  match pinHolder s line with
  | some h =>
    if filterPasses s core t then
      emitDie s (homeDie s (line * 256)) 321 .mem 9 2 ([BitVec.ofNat 8 who, BitVec.ofNat 8 slot, BitVec.ofNat 8 h, 0] ++ leSplit 4 (line % 2 ^ 28))
    else s
  | none => s

/-- RETRY records for accesses of a requester to lines that another core holds pinned: a write-back of a core, or, under the number of a die's islands, an access that the
device makes on its own account (R246, Table 15-2). -/
def retryOwn (s : State) (core : Nat) (lines : List Nat) : State :=
  lines.eraseDups.foldl (fun s l => if pinnedElsewhere s core l then emitRetry s l core none (if core < 96 then core else 0xFF) 0 else s) s

/-- RETRY records that an attempt has emitted stay, whatever else of the attempt is undone. -/
def keepRetries (s t : State) : State := { s with traceQ := s.traceQ ++ (t.traceQ.drop s.traceQ.length).filter fun r => r.typ == 9 }

/-- A record of a distributor that belongs to a task, under the placing core's filter (R344). -/
def emitTask (s : State) (core : Nat) (t : Option Task) (typ cls : Nat) (bs : List Byte) : State :=
  if filterPasses s core t then emitDie s (dieOfCore core) 320 .sched typ cls bs else s

/-- The position of the last entry at or below an offset, in ascending entries of 16 bytes (R341). -/
def lastAtOrBelow (offs : List Nat) (pc : Nat) : Option (Nat × Nat) :=
  (offs.zipIdx.filter fun (o, _) => decide (o ≤ pc)).getLast?.map fun (o, i) => (i, o)

/-- A word's bytes. -/
def wordBytes (w : Word) : List Byte := leSplit 4 w.toNat

/-- A core record whose bytes 2 and 3 are `b2` and `b3`, with LOC in bytes 4 to 7, which is found when the record is written, then further bytes (R341). -/
def emitLoc (s : State) (c : Crew) (k : EvClass) (typ cls b2 b3 : Nat) (pc : Word) (rest : List Byte) : State :=
  match taskOf s c with
  | some t =>
    if coreEmits s c.core k && filterPasses s c.core (some t) then
      emitAt s (dieOfCore c.core) c.core typ cls (some c.id) (some ⟨t.pasid, t.rtab, pc⟩)
        ([c.core, c.slot, b2, b3].map (BitVec.ofNat 8) ++ leSplit 4 0 ++ rest)
    else s
  | none => s

end Sys2Proof.Machine
end

