-- ==== Sys2Proof/Machine/Frontier.lean ====
section
/-!
DEFINITION. The frontier of a crew (R263-R272): entries, splits, merges, the stack, demotion, exits, ordered sections,
the end of a crew, and the end of a task's crews.
-/

namespace Sys2Proof.Machine

/-- The core's FRONT_QUANTUM; values below 8 act as 8 (Table 12-1). -/
def quantumOf (s : State) (core : Nat) : Nat :=
  match coreAt s core with
  | some c => max 8 (c.quantum.toNat % 2 ^ 11)
  | none => 8

/-- The entry at a code address; merging keeps one per address (R266). -/
def entryAt (c : Crew) (pc : Word) : Option Entry := c.entries.find? fun e => e.pc == pc

/-- Two entries at one address become one (R266). -/
def mergeTwo (a b : Entry) : Entry :=
  { pc := a.pc, prio := max a.prio b.prio, mask := a.mask ||| b.mask
    wait := if a.wait == some .rendezvous || b.wait == some .rendezvous then some .rendezvous else none
    demoted := a.demoted && b.demoted, quantum := min a.quantum b.quantum, left := min a.left b.left }

/-- An entry added to a list, merged when its address is there (R266). -/
def addEntry (es : List Entry) (e : Entry) : List Entry :=
  if es.any (fun x => x.pc == e.pc) then es.map fun x => if x.pc == e.pc then mergeTwo x e else x else es ++ [e]

/-- Entries merged by address, those with no lane left out (R266, R269). -/
def mergeAll (es : List Entry) : List Entry := (es.filter fun e => e.mask != 0).foldl addEntry []

/-- The flight of a PREF: a read without a destination, which orders nothing and which nothing of its crew waits for (R90). -/
def Flight.isPref (f : Flight) : Bool := f.vd == 63 && f.op == .load 1 1 false

/-- Flights of a crew that are not complete, those of its PREFs aside. -/
def flightsOf (s : State) (id : Nat) : List Flight := s.flights.filter fun f => f.crew == id && !f.isPref

/-- The access returns something to its crew: a load or an atomic. -/
def MemOp.returns : MemOp → Bool
  | .load .. | .ldacq | .atomic .. | .ldm _ => true
  | _ => false

/-- A load or an atomic of the crew has not returned, one in the operand log counted: its slot is still taken (R262). -/
def crewOut (s : State) (c : Crew) : Bool :=
  (flightsOf s c.id).any (fun f => f.op.returns) || (match c.log with | some e => e.req.slot.isSome | none => false)

/-- The crew holds its slot and its instruction-buffer entries: it is resident, or it has ended and a load or an atomic of it is still to return (R262, R269). -/
def resident (s : State) (c : Crew) : Bool :=
  (!c.ended || crewOut s c) && (match blockOf s c with
    | some b => (match b.state with
      | .waking | .running | .stopping | .saving _ | .draining => true
      | .retired | .terminated => true
      | _ => false)
    | none => false)

/-- Instruction-buffer entries that a crew holds: one for each frontier entry; in a handler also those of the entries in its trap frame, the first of which
the handler's paths use (R269, R322). -/
def bufEntries (c : Crew) : Nat := max c.kept c.entries.length

/-- Shared instruction-buffer entries still free on a core: 128 less two a crew less those in use (R269). -/
def sharedFree (s : State) (core : Nat) : Nat :=
  let cs := s.crews.filter fun c => c.core == core && resident s c
  128 - 2 * cs.length - (cs.map fun c => bufEntries c - 2).sum

/-- Shared entries that a crew may hold in all: those still free and those that it holds already, `held` entries being its own (R269, R270). -/
def sharedFor (s : State) (core held : Nat) : Nat := sharedFree s core + (held - 2)

/-- A crew that holds `n` entries can take one more, with `room` shared entries for it in all (R270). -/
def canTake (room n : Nat) : Bool := decide (n < 8) && (decide (n < 2) || decide (n - 1 ≤ room))

/-- The frontier stack's base and whether it may be used (Table 12-2). -/
def stackBase (s : State) (core : Nat) : Option Nat :=
  match coreAt s core with
  | some c => if c.stackBase.getLsbD 31 then some (c.stackBase.toNat % 2 ^ 20 * 2 ^ 16) else none
  | none => none

/-- The words of an entry or a record (Table 12-3). -/
def entryWords (e : Entry) : List Word :=
  [e.pc, e.mask, BitVec.ofNat 32 (e.prio % 16 + (if e.wait == some .rendezvous then 16 else 0) + (if e.demoted then 32 else 0)), 0]

/-- The entry of a record's words (Table 12-3). -/
def entryOfWords (pc mask w2 : Nat) : Entry :=
  { pc := BitVec.ofNat 32 pc, mask := BitVec.ofNat 32 mask, prio := w2 % 16
    wait := if w2 / 16 % 2 = 1 then some .rendezvous else none
    demoted := w2 / 32 % 2 == 1, quantum := 0, left := 1 }

/-- Address of record `i` of a crew's stack (R271). -/
def stackAddr (base slot i : Nat) : Nat := base + 1024 * slot + 16 * i

/-- `n` bytes at a DPA as the core reads them at core scope (R271). -/
def corePeek (s : State) (core a n : Nat) : Nat := leValue ((List.range n).map fun i => coreByte s core (a + i))

/-- Record `i` of a crew's stack as it stands in memory (R271). -/
def stackRec (s : State) (core base slot i : Nat) : Entry :=
  let a := stackAddr base slot i
  entryOfWords (corePeek s core a 4) (corePeek s core (a + 4) 4) (corePeek s core (a + 8) 4)

/-- The crew's stacked records, oldest first (R271, R272). -/
def stackRecs (s : State) (c : Crew) : List Entry :=
  match stackBase s c.core with
  | some base => (List.range c.nrec).map (stackRec s c.core base c.slot)
  | none => []

/-- Bytes of a list of words. -/
def wordsBytes (ws : List Word) : List Byte := ws.flatMap wordBytes

/-- The crew's stacked records written anew, oldest first, by core-scope stores (R271). -/
def putStack (s : State) (c : Crew) (es : List Entry) : State :=
  match stackBase s c.core with
  | none => s
  | some base =>
    let ws := (es.zipIdx).flatMap fun (e, i) => addrs (stackAddr base c.slot i) (wordsBytes (entryWords e))
    modCrew (l1Store s c.core false Clock.zero ws) c.id fun c => { c with nrec := es.length }

/-- Lanes that lie in stacked records. -/
def stackedLanes (s : State) (c : Crew) : Mask := (stackRecs s c).foldl (fun m e => m ||| e.mask) 0

/-- Why a change of the frontier cannot be made. -/
inductive FrontErr where
  /-- The stack overflows or is not enabled (R271). -/
  | frontier
  /-- An instruction-buffer entry must free first, in a privileged context (R270). -/
  | busy
  /-- A record to restore is poisoned (R271). -/
  | soft
deriving DecidableEq, Repr

/-- Paths placed as entries while the crew can take one, with `room` shared entries for it in all; the rest are left over (R265, R270). -/
def place (room : Nat) : List Entry → List Entry → List Entry × List Entry
  | es, [] => (es, [])
  | es, p :: ps =>
    if es.any (fun x => x.pc == p.pc) || canTake room es.length then place room (addEntry es p) ps
    else
      let r := place room es ps
      (r.1, p :: r.2)

/-- Of two paths, the one that keeps the entry when they serialise: higher priority, then lower PC (R270). -/
def keepFirst (a b : Entry) : Bool := decide (b.prio < a.prio) || (a.prio == b.prio && decide (a.pc.toNat ≤ b.pc.toNat))

/-- Record `i` of the crew's stack is poisoned (R44, R271). -/
def recPoisoned (s : State) (c : Crew) (i : Nat) : Bool :=
  match stackBase s c.core with
  | some base => decide (i < c.nrec) && (List.range 16).any fun j => corePoisoned s c.core (stackAddr base c.slot i + j)
  | none => false

/-- The oldest record is poisoned (R271). -/
def stackPoisoned (s : State) (c : Crew) : Bool := recPoisoned s c 0

/-- Every record of the crew's stack can be met, and its stack pushed to: none is poisoned, and EN is set (R271). -/
def stackSound (s : State) (c : Crew) : Bool :=
  c.nrec = 0 || c.priv || ((stackBase s c.core).isSome && (List.range c.nrec).all fun i => !recPoisoned s c i)

/-- The oldest record becomes an entry, merged when its address is there (R272). -/
def restoreOldest (s : State) (id : Nat) : State :=
  match crewAt s id with
  | none => s
  | some c =>
    match stackRecs s c with
    | [] => s
    | r :: rs =>
      modCrew (putStack s c rs) id fun c => { c with entries := addEntry c.entries r }

/-- Every entry is blocked at a rendezvous (R272). -/
def allHeld (c : Crew) : Bool := !c.entries.isEmpty && c.entries.all fun e => e.wait == some .rendezvous

/-- The crew's last entry goes to the stack and the oldest record comes in its place (R272). -/
def exchangeRec (s : State) (c : Crew) : State :=
  match c.entries.getLast?, stackRecs s c with
  | some e, r :: rs => modCrew (putStack s c (rs ++ [e])) c.id fun c => { c with entries := addEntry c.entries.dropLast r }
  | _, _ => s

/-- With every entry blocked at a rendezvous and some record not, the most recently blocked entry, the last one, goes to the
stack and the oldest record comes in, at most `n` times (R272); a poisoned record stays where it is, and while EN is 0 the push cannot be made (R271). -/
def rotateHeldN (s : State) (id : Nat) : Nat → Except FrontErr State
  | 0 => .ok s
  | n + 1 =>
    match crewAt s id with
    | none => .ok s
    | some c =>
      if !allHeld c || c.priv || c.nrec = 0 then .ok s
      else if (stackBase s c.core).isNone then .error .frontier
      else if !(stackRecs s c).any (fun r => r.wait.isNone) then .ok s
      else if stackPoisoned s c then .error .soft
      else rotateHeldN (exchangeRec s c) id n

/-- The rotation of R272 for a crew. -/
def rotateHeld (s : State) (id : Nat) : Except FrontErr State :=
  match crewAt s id with
  | some c => if c.nrec = 0 then .ok s else rotateHeldN s id (c.nrec + 1)
  | none => .ok s

/-- Records come in, oldest first, while the crew has fewer than `most` entries, at most `n` times: an entry that has been freed lets one in, and a
record that merges on its way in lets in the next (R266, R272). -/
def refillN (s : State) (id most : Nat) : Nat → Except FrontErr State
  | 0 => .ok s
  | n + 1 =>
    match crewAt s id with
    | none => .ok s
    | some c =>
      if c.nrec = 0 || c.priv || decide (most ≤ c.entries.length) then .ok s
      else if stackPoisoned s c then .error .soft
      else refillN (restoreOldest s id) id most n

/-- What follows when entries of a crew that had `most` of them are freed: records come in, and the rotation of R272 when all that is left waits. -/
def refill (s : State) (id most : Nat) : Except FrontErr State :=
  match crewAt s id with
  | none => .ok s
  | some c =>
    if c.nrec = 0 || c.priv then .ok s
    else
      match refillN s id most c.nrec with
      | .ok s => rotateHeld s id
      | .error e => .error e

/-- Other entries of the crew after one has issued: counts reset, demotions run down (R267, R284). -/
def otherIssued (e : Entry) : Entry :=
  if e.demoted then (if e.left ≤ 1 then { e with quantum := 0, demoted := false, left := 0 } else { e with quantum := 0, left := e.left - 1 })
  else { e with quantum := 0 }

/-- The issuing entry's count, and its demotion when the quantum is reached while another entry is not blocked (R267); a demotion
ends when no other entry can issue, and one of YIELD's that still lasts is not cut short (R284). -/
def countIssue (q : Nat) (others : List Entry) (e : Entry) : Entry :=
  let e := if e.demoted && others.all (fun o => o.wait.isSome) then { e with demoted := false, left := 0 } else e
  if others.isEmpty then { e with quantum := 0 }
  else if q ≤ e.quantum + 1 && others.any (fun o => o.wait.isNone) then { e with quantum := 0, demoted := true, left := if e.demoted then max e.left 1 else 1 }
  else { e with quantum := e.quantum + 1 }

/-- The entry of a crew at `pc` has issued and goes on as `paths`, the first of which keeps its instruction-buffer entry (R265,
R266, R270, R272).  `swap` lets the higher priority keep it when the paths must serialise. -/
def goOn (s : State) (id : Nat) (pc : Word) (swap : Bool) (paths : List Entry) : Except FrontErr State :=
  match crewAt s id with
  | none => .ok s
  | some c =>
    let before := c.entries.length
    let others := (c.entries.filter fun e => e.pc != pc).map otherIssued
    let paths := paths.filter fun p => p.mask != 0
    match paths with
    | [] =>
      refill (setCrew s { c with entries := mergeAll others }) id before
    | p :: ps =>
      let first := addEntry others p
      let room := sharedFor s c.core (bufEntries c)
      let (es, left) := place room first ps
      let (es, left) := if swap then
          match left with
          | [q] => if keepFirst p q then (es, left) else (place room (addEntry others q) [p])
          | _ => (es, left)
        else (es, left)
      if left.isEmpty then refill (setCrew s { c with entries := mergeAll es }) id before
      else if c.priv then (if 8 ≤ es.length then .error .frontier else .error .busy)
      else if (stackBase s c.core).isNone || 64 < c.nrec + left.length then .error .frontier
      else
        let recs := stackRecs s c
        let s := setCrew s { c with entries := mergeAll es }
        match crewAt s id with
        | none => .ok s
        | some c => .ok (putStack s c (recs ++ left))

/-- A demoted entry of a crew with stacked records goes to the stack, and the oldest record takes its place (R267), unless it is poisoned; while EN is 0
the push cannot be made (R271). -/
def rotateDemoted (s : State) (id : Nat) (pc : Word) : Except FrontErr State :=
  match crewAt s id with
  | none => .ok s
  | some c =>
    match entryAt c pc with
    | none => .ok s
    | some e =>
      if e.demoted && decide (0 < c.nrec) && decide (c.nrec < 64) && !c.priv then
        if (stackBase s c.core).isNone then .error .frontier
        else if stackPoisoned s c then .error .soft
        else
          let recs := stackRecs s c
          let s := putStack s c (recs ++ [e])
          let s := modCrew s id fun c => { c with entries := c.entries.filter fun x => x.pc != pc }
          rotateHeld (restoreOldest s id) id
      else .ok s

/-- The ordering-table counter of a slot on a die (R286). -/
def orderCounter (s : State) (die slot : Nat) : BitVec 16 :=
  match dieAt s die with
  | some d => sget 0 d.ordering slot
  | none => 0

/-- A lane's ordered section ends: its slot's counter becomes SEQ + 1 (R287). -/
def endSection (s : State) (core : Nat) (key : Word) : State :=
  { s with dies := s.dies.map fun d =>
      if d.id == dieOfCore core then
        let slot := key.toNat % 2 ^ 16
        let turn := BitVec.ofNat 16 (key.toNat / 2 ^ 16 + 1)
        { d with ordering := sput 0 d.ordering slot turn
                 rasterAhead := if sget 0 d.ordering slot = turn then d.rasterAhead else sput 0 d.rasterAhead slot (sget 0 d.rasterAhead slot - 1) }
      else d }

/-- The sections that the lanes of a mask hold. -/
def heldIn (c : Crew) (m : Mask) : List Word :=
  (c.sect.zipIdx).filterMap fun (o, l) => if laneIn m l then o else none

/-- Sections of a mask's lanes end; those lanes hold none (R283, R287). -/
def endSections (s : State) (id : Nat) (m : Mask) : State :=
  match crewAt s id with
  | none => s
  | some c =>
    let s := (heldIn c m).foldl (fun s k => endSection s c.core k) s
    modCrew s id fun c => { c with sect := (c.sect.zipIdx).map fun (o, l) => if laneIn m l then none else o }

/-- A crew leaves its set: ranks above it move down, and an empty set dissolves (R280). -/
def leaveSet (s : State) (c : Crew) : State :=
  modBlock s c.block fun b =>
    { b with sets := b.sets.map fun o =>
        match o with
        | none => none
        | some g =>
          if g.members.contains c.id then
            let m := g.members.filter (· != c.id)
            if m.isEmpty then none else some { g with members := m }
          else some g }

/-- The CRC-64 of R356 over one byte: polynomial ECMA-182, bits not reflected. -/
def crcByte (h : BitVec 64) (b : Byte) : BitVec 64 :=
  (List.range 8).foldl (fun h _ => if h.getLsbD 63 then (h <<< 1) ^^^ 0x42F0E1EBA9EA3693 else h <<< 1)
    (h ^^^ (BitVec.ofNat 64 (b.toNat * 2 ^ 56)))

/-- The hash over bytes (R356). -/
def crcBytes (h : BitVec 64) (bs : List Byte) : BitVec 64 := bs.foldl crcByte h

/-- Hash items whose bytes are known are taken in issue order; an atomic still out holds the later ones (R356). -/
def settleHash (c : Crew) : Crew :=
  let rec go (h : BitVec 64) : List (Option Nat × List Byte) → BitVec 64 × List (Option Nat × List Byte)
    | [] => (h, [])
    | (some f, bs) :: r => (h, (some f, bs) :: r)
    | (none, bs) :: r => go (crcBytes h bs) r
  let (h, q) := go c.hash c.hashQ
  { c with hash := h, hashQ := q }

/-- The region's task is the crew's (R351). -/
def inRegion (s : State) (c : Crew) : Bool :=
  match s.region, taskOf s c with
  | some r, some t => r == t.no && !isFormed s c
  | _, _ => false

/-- The 12-bit requester of a region crew: block index and crew index (R353). -/
def requester (s : State) (c : Crew) : Nat :=
  match blockOf s c with
  | some b => b.index % 128 * 32 + c.index
  | none => 0

/-- A DIVERGE record, and the die's DIVERGE bit (R358); `crew`: the crew that a lossless trace holds for it (R345). -/
def diverge (s : State) (die src : Nat) (crew : Option Nat) (kind n : Nat) (req : Nat) : State :=
  let s := { s with dies := s.dies.map fun d => if d.id == die then { d with rp := { d.rp with diverge := true } } else d }
  emit s die src 14 3 crew ([BitVec.ofNat 8 req, BitVec.ofNat 8 (req / 256), BitVec.ofNat 8 kind, BitVec.ofNat 8 die] ++ leSplit 4 n)

/-- A checkpoint of a region crew (R357, R358): the hash is written when recording, compared when replaying.
The answer is true when it differs. -/
def checkpoint (s : State) (id : Nat) (kind : Nat) : Bool × State :=
  match crewAt s id with
  | none => (false, s)
  | some c =>
    let n := c.checkpoints
    let s1 := modCrew s id fun c => { c with checkpoints := n + 1 }
    if !inRegion s c ∨ 64 ≤ n then (false, s1)
    else
      let die := dieOfCore c.core
      match dieAt s die with
      | none => (false, s1)
      | some d =>
        let a := d.rp.hash.toNat / 2 ^ 12 % 2 ^ 24 * 2 ^ 12 + (requester s c * 64 + n) * 16
        match d.rp.ctl.toNat % 4 with
        | 1 => (false, pokeVia s1 c.core none (addrs a (leSplit 8 c.hash.toNat ++ leSplit 4 1 ++ leSplit 4 0)))
        | 2 =>
          if peek s (a + 8) 4 % 2 = 1 ∧ peek s a 8 ≠ c.hash.toNat then
            (true, diverge s1 die c.core (some c.id) kind n (requester s c))
          else (false, s1)
        | _ => (false, s1)

/-- Rejected instructions of a crew that wait no more: all but the one that its operand log holds (R82). -/
def dropRejects (s : State) (id : Nat) : State :=
  let keep (r : Reject) : Bool := r.crew != id || match crewAt s id with
    | some c => (match c.log with | some e => e.req.pc == r.pc | none => false)
    | none => false
  { s with cores := s.cores.map fun k => { k with rejects := k.rejects.filter keep } }

/-- A crew whose last lane is gone ends: it leaves its set, takes its last checkpoint, and holds no entry (R262, R357). -/
def endCrew (s : State) (id : Nat) : State :=
  match crewAt s id with
  | none => s
  | some c =>
    if c.ended then s
    else
      let s := leaveSet s c
      let s := (checkpoint s id 2).2
      dropRejects (modCrew s id fun c => { c with ended := true, entries := [], kept := 0, nrec := 0, live := 0, priv := false }) id

/-- Lanes leave the crew for good: their sections end, and a crew with no lane left ends (R283). -/
def exitLanes (s : State) (id : Nat) (m : Mask) : State :=
  let s := endSections s id m
  let s := modCrew s id fun c => { c with live := c.live &&& ~~~m }
  match crewAt s id with
  | some c => if c.live = 0 then endCrew s id else s
  | none => s

/-- A crew ended by the device: its sections advance with no release, each with an ORD_ABANDON record (R288).  An access in its operand log has issued, and a write
there goes on, unless it stands in a save area (R293). -/
def killCrew (s : State) (c : Crew) : State :=
  let keys := heldIn c (BitVec.allOnes 32)
  let s := keys.foldl (fun s k => emitCrew s c .fault 12 2 ([0, 0] ++ wordBytes k)) s
  let s := endSections s c.id (BitVec.allOnes 32)
  let s := leaveSet s c
  let s := { s with walks := s.walks.filter (fun w => w.who != .fetch c.id && w.who != .wait c.id)
                    cores := s.cores.map fun k => { k with asParts := k.asParts.filter fun p => p.crew != c.id } }
  modCrew (dropRejects s c.id) c.id fun c => { c with ended := true, entries := [], kept := 0, nrec := 0, live := 0, gated := none, priv := false }

/-- A block holds its place on a core: placed, or bound there by its streams (R231); a formed crew belongs to no block (R306). -/
def holdsCore (b : Block) : Bool :=
  b.formed.isNone && match b.state with
  | .waking | .running | .stopping | .saving _ | .draining => true
  | .preempted | .swapped => b.bound
  | .retired | .terminated => false

/-- The block holds crew slots and local stores on its core (Table 13-7). -/
def Block.placed (b : Block) : Bool :=
  match b.state with
  | .waking | .running | .stopping | .saving _ | .draining => true
  | _ => false

/-- A task's shape records leave a core where no block of it is resident any more; a formed crew is none (R189, R306). -/
def dropShapes (s : State) (core task : Nat) : State :=
  if s.blocks.any fun x => x.task == task && x.core == core && x.placed && x.formed.isNone then s
  else modCore s core fun c => { c with shapes := c.shapes.filter fun x => x.task != task }

/-- A block ends before its time (Table 13-7): its crews end and its pins end, and its task's shape records go with the last block on the core; stores, atomics and copies
go on. -/
def killBlock (s : State) (id : Nat) : State :=
  match blockAt s id with
  | none => s
  | some b =>
    if b.state == .retired || b.state == .terminated then s
    else
      let placed := match b.state with | .preempted | .swapped => false | _ => true
      let mine := s.crews.filter fun c => c.block == id
      let s := mine.foldl killCrew s
      let s := if placed then s else mine.foldl (fun s c => dropRejects (modCrew s c.id fun c => { c with log := none }) c.id) s
      let s := endPins s id
      let s := if placed then
          emitTask s b.core (taskAt s b.task) 4 2
            ([BitVec.ofNat 8 b.core, BitVec.ofNat 8 ((mine.map (·.slot)).foldl min 64), BitVec.ofNat 8 b.crews, 3] ++ leSplit 4 b.task)
        else s
      let s := { s with dies := s.dies.map fun d => { d with resume := d.resume.map fun l => l.filter (· != id) } }
      let s := if placed then modCore s b.core fun c => { c with scrub := c.scrub ++ [(b.asBytes, b.wsBytes)] } else s
      dropShapes (modBlock s id fun b => { b with state := .terminated }) b.core b.task

/-- Blocks of a task, formed crews' places among them. -/
def blocksOf (s : State) (no : Nat) : List Block := s.blocks.filter fun b => b.task == no

/-- Blocks of a task's grid (R294). -/
def Task.total (t : Task) : Nat := t.grid.1 * t.grid.2.1 * t.grid.2.2

/-- A task's work ends with an error: unplaced blocks go, placed blocks and formed crews end, bins drop its lanes; the task
retires when its writes have been performed (R292, R293). -/
def endTask (s : State) (no err code : Nat) : State :=
  match taskAt s no with
  | none => s
  | some t =>
    if t.err ≠ 0 ∨ t.state == .retired ∨ t.state == .error then s
    else
      let s := (blocksOf s no).foldl (fun s b => killBlock s b.id) s
      let s := { s with dies := s.dies.map fun d =>
          { d with queues := d.queues.map (fun q => q.filter (· != no)), bins := d.bins.filter fun r => r.task != no } }
      modTask s no fun t => { t with err := err, trapCode := code, next := t.total }

end Sys2Proof.Machine
end

