-- ==== Sys2Proof/Machine/Ops.lean ====
section
/-!
DEFINITION. The shared operations of every instruction: instruction fetch, translation requests, page faults, taking a trap and
its frame, the return from one, the issue checks of R29 with the rendezvous, and retirement.
-/

namespace Sys2Proof.Machine

/-- Trap codes (Table 14-3). -/
def trapIllegal : Nat := 0x01
/-- OPERAND (Table 14-3). -/
def trapOperand : Nat := 0x02
/-- FORMAT (Table 14-3). -/
def trapFormat : Nat := 0x03
/-- BOUNDS (Table 14-3). -/
def trapBounds : Nat := 0x04
/-- AS_BOUNDS (Table 14-3). -/
def trapAsBounds : Nat := 0x05
/-- WS_BOUNDS (Table 14-3). -/
def trapWsBounds : Nat := 0x06
/-- PARTIAL (Table 14-3). -/
def trapPartial : Nat := 0x07
/-- RENDEZVOUS (Table 14-3). -/
def trapRendezvous : Nat := 0x08
/-- FRONTIER (Table 14-3). -/
def trapFrontier : Nat := 0x09
/-- STALE_HANDLE (Table 14-3). -/
def trapStale : Nat := 0x0A
/-- SCOPE (Table 14-3). -/
def trapScope : Nat := 0x0B
/-- BREAK (Table 14-3). -/
def trapBreak : Nat := 0x0C
/-- PRIV (Table 14-3). -/
def trapPriv : Nat := 0x0D
/-- ACCESS (Table 14-3). -/
def trapAccess : Nat := 0x0E
/-- MISALIGN (Table 14-3). -/
def trapMisalign : Nat := 0x0F
/-- REORDER_SCOPE (Table 14-3). -/
def trapReorder : Nat := 0x10
/-- REPLAY_DIVERGE (Table 14-3). -/
def trapDiverge : Nat := 0x11
/-- SOFT (Table 14-3). -/
def trapSoft : Nat := 0x12

/-! ### Translation requests -/

/-- The crew whose instruction or fetch asks. -/
def WalkFor.crew? : WalkFor → Option Nat
  | .fetch c | .wait c | .log c => some c
  | _ => none

/-- A page request that the host refused makes the crew's access to its page an ACCESS outcome when the block has resumed (R60, R61, R313). -/
def answeredNo (s : State) (who : WalkFor) (va : Nat) (acc : AccKind) : Bool :=
  match who.crew? with
  | none => false
  | some c => s.crews.any fun x => x.id == c && x.faults.any fun r => r.refused && r.page == va / 4096 && r.wr == acc.writes && r.fetch == (acc == .fetch)

/-- A translation asked for by `who`: what the caches give, or the refusal that a walk of his has come to, or a miss, for which a
walk or an ATS request is started; die 1's requests wait for a link that retrains, and all of them until the host has given up the PASID's entry (R46, R56,
R59, R65). -/
def xlateFor (s : State) (who : WalkFor) (core pasid va : Nat) (acc : AccKind) (priv : Bool) : Xl × State :=
  if pasidAway s core pasid || !(pasidHeld s pasid).isEmpty then (.miss, askHost s (pasidHeld s pasid))
  else if answeredNo s who va acc then (.access, s)
  else match xlate s core pasid va acc priv with
  | .miss =>
    let page := va / 4096 * 4096
    match s.walks.find? fun w => w.who == who && w.pasid == pasid && w.va == page && w.acc == acc with
    | some w =>
      match w.result with
      | .access => (.access, s)
      | .fault => (.fault, s)
      | _ => (.miss, s)
    | none =>
      let ats := pasidLookup s pasid == .ats
      if ats && s.link.retraining && dieOfCore core == 1 then (.miss, s) else
      let w : Walk := ⟨s.nextId, dieOfCore core, core, pasid, page, acc, priv, who, ats, .pending, false⟩
      let s := { s with walks := s.walks ++ [w], nextId := s.nextId + 1 }
      (.miss, if ats then { s with out := s.out ++ [.atsRequest w.id pasid page (acc == .fetch) priv] } else s)
  | r => (r, s)

/-- The refusals that `who` has acted on are forgotten. -/
def forget (s : State) (who : WalkFor) : State := { s with walks := s.walks.filter fun w => !(w.who == who && w.result != .pending) }

/-- The PASID of a crew's task (R289). -/
def pasidOf (s : State) (c : Crew) : Nat := match taskOf s c with | some t => t.pasid | none => 0

/-! ### Instruction fetch -/

/-- What fetching bytes comes to (R17, R41); a refusal names the byte's VA. -/
inductive Fetched where
  | bytes (bs : List Byte)
  | miss
  | access (va : Nat)
  | fault (va : Nat)
  | soft (va : Nat)
deriving DecidableEq, Repr

/-- The 256 bytes of a line of home memory. -/
def homeLine (s : State) (key : Nat) : Sparse Byte :=
  (List.range 256).filterMap fun i =>
    let b := readByte s.mem (key * 256 + i)
    if b = 0 then none else some (i, b)

/-- Poisoned sectors of a line of home memory (R44). -/
def homePoison (s : State) (key : Nat) : BitVec 4 :=
  BitVec.ofNat 4 ((List.range 4).foldr (fun i a => (if poisoned s (key * 256 + 64 * i) then 1 else 0) + 2 * a) 0)

/-- The instruction cache of a core holds a line, or takes it from its home slice (R332: until it is invalidated, it answers). -/
def icLine (s : State) (core pasid line pk : Nat) (unc : Bool) : IcLine × State :=
  match coreAt s core with
  | none => (⟨pasid, line, [], 0⟩, s)
  | some c =>
    match c.icache.find? fun l => l.pasid == pasid && l.line == line with
    | some l => (l, s)
    | none =>
      let l : IcLine := ⟨pasid, line, homeLine s (pk / 256), homePoison s (pk / 256)⟩
      (l, modCore (if unc then s else mesiRead s ((List.range 4).map (pk / 256 * 4 + ·))) core fun c => { c with icache := l :: c.icache })

/-- The instruction cache of a core holds the line of a VA. -/
def icHolds (s : State) (core pasid line : Nat) : Bool :=
  match coreAt s core with
  | some c => c.icache.any fun l => l.pasid == pasid && l.line == line
  | none => false

/-- What keeps a core from fetching a line of text from its home slice: another core's pin or the link, and the sectors that the host holds
exclusive (R46, R65, R246). -/
def fetchStuck (s : State) (core pk : Nat) : Bool := pinnedElsewhere s core (pk / 256) || linkBars s core (pk / 256)

/-- A RETRY record for a crew's access to a line that another core holds pinned (R246). -/
def retryCrew (s : State) (id line : Nat) : State :=
  match crewAt s id with
  | some c => if pinnedElsewhere s c.core line then emitRetry s line c.core (taskOf s c) c.core c.slot else s
  | none => s

/-- `n` bytes of instruction at a VA, for a crew.  `sync`: the device waits for a walk by itself (R263's check). -/
def fetchFrom (s : State) (who : WalkFor) (sync : Bool) (core pasid : Nat) (priv : Bool) : Nat → Nat → Fetched × State
  | _, 0 => (.bytes [], s)
  | va, n + 1 =>
    let r := if sync then xlateSync s core pasid va .fetch priv else xlateFor s who core pasid va .fetch priv
    match r with
    | (.hit pk unc, s) =>
      let held := hostBars s false ((List.range 4).map (pk / 256 * 4 + ·))
      if !icHolds s core pasid (va / 256) && (fetchStuck s core pk || !held.isEmpty) then
        (.miss, askHost (match who.crew? with | some c => retryCrew s c (pk / 256) | none => s) held)
      else
        let (l, s) := icLine s core pasid (va / 256) pk unc
        if l.poison.getLsbD (va % 256 / 64) then (.soft va, s)
        else
          match fetchFrom s who sync core pasid priv (va + 1) n with
          | (.bytes bs, s) => (.bytes (sget 0 l.data (va % 256) :: bs), s)
          | r => r
    | (.miss, s) => (.miss, s)
    | (.access, s) => (.access va, s)
    | (.fault, s) => (.fault va, s)

/-- A crew's text address of a code address (R263, R289). -/
def textVa (s : State) (c : Crew) (pc : Word) : Nat :=
  match taskOf s c with
  | some t => t.text + pc.toNat
  | none => pc.toNat

/-- What the check of an indirect target comes to (R263). -/
inductive Target where
  | valid | invalid | fault | wait
deriving DecidableEq, Repr

/-- An indirect target is valid when it is even and its halfword has bits 0 and 1 set (R263); `who` none: the device waits for a walk by itself. -/
def checkTarget (s : State) (who : Option WalkFor) (c : Crew) (pc : Word) : Target × State :=
  if pc.toNat % 2 = 1 then (.invalid, s)
  else
    match fetchFrom s (who.getD (.wait c.id)) who.isNone c.core (pasidOf s c) c.priv (textVa s c pc) 2 with
    | (.bytes bs, s) => (if leValue bs % 4 = 3 then .valid else .invalid, s)
    | (.fault _, s) => (.fault, s)
    | (.miss, s) => (.wait, s)
    | (_, s) => (.invalid, s)

/-- A walk for a device access that is sent back from pinned lines, with a record for each (R246). -/
def walkPins (s : State) (core pasid va : Nat) : State :=
  (((walkEntries s pasid va).map (· / 256)).eraseDups.filter (pinnedElsewhere s core)).foldl (fun s l => emitRetry s l core none 0xFF 0) s

/-- Pages that the device needs at once for its own accesses: under ATS a page that no cache holds is asked for first, and the
access waits (R59); under page tables a miss walks, at once unless its walk is held up.  The access also waits for the link and for another core's
pins, each of which sends it back with a record, until the host has given up the sectors of the page that are in its way, and until no write to the page waits (R46, R65,
R246; DESIGN CHOICE, log entry 29). -/
def pagesReady (s : State) (who : WalkFor) (core pasid : Nat) (priv : Bool) : List (Nat × AccKind) → Bool × State
  | [] => (true, s)
  | (va, acc) :: ps =>
    let ats := pasidLookup s pasid == .ats
    let r := if ats then xlateFor s who core pasid va acc priv else xlateSync s core pasid va acc priv
    match r with
    | (.miss, s) =>
      let s := if ats then s else walkPins s core pasid va
      (false, (pagesReady s who core pasid priv ps).2)
    | (.hit pk _, s) =>
      let held := hostBars s acc.writes ((List.range 64).map (pk / 4096 * 64 + ·))
      let stuck := (List.range 16).any fun i => pinnedElsewhere s core (pk / 4096 * 16 + i) || linkBars s core (pk / 4096 * 16 + i)
      let late := postedIn s ((List.range 64).map (pk / 4096 * 64 + ·))
      let q := pagesReady (retryOwn (askHost s held) core ((List.range 16).map (pk / 4096 * 16 + ·))) who core pasid priv ps
      (q.1 && held.isEmpty && !stuck && !late, q.2)
    | (_, s) => pagesReady s who core pasid priv ps

/-! ### Save areas and trap frames -/

/-- The save area of a block, or of a formed crew (R294, R307). -/
def saveArea (s : State) (b : Block) : Nat :=
  match taskAt s b.task with
  | none => 0
  | some t => t.save + (match b.formed with | some k => t.total + k | none => b.index) * t.savestr

/-- The crew section of a crew (R318). -/
def crewSection (s : State) (c : Crew) : Nat :=
  match blockOf s c with
  | some b => saveArea s b + 0x6000 + 0x5000 * c.index
  | none => 0

/-- The trap frame of a crew (Table 14-8). -/
def frameVa (s : State) (c : Crew) : Nat := crewSection s c + 0x4000

/-- The words of a clock, each component's low word first (R319). -/
def clockWords (k : Clock) : List Word :=
  [k.d0, k.d1, k.host].flatMap fun v => [BitVec.ofNat 32 v, BitVec.ofNat 32 (v / 2 ^ 32)]

/-- The clock of 24 bytes (R319). -/
def clockOf (bs : List Byte) : Clock := ⟨leValue (bs.take 8), leValue ((bs.drop 8).take 8), leValue ((bs.drop 16).take 8)⟩

/-- The rank of a slot's age among the live slots; 0 is the oldest (R319). -/
def ageRank (c : Crew) (k : Nat) : Nat :=
  ((List.range 8).filter fun j => !slotFree c j && decide ((slotAt c j).age < (slotAt c k).age)).length

/-- The 32 bytes of a slot record; `logged` when its load waits in the operand log (R319). -/
def slotBytes (c : Crew) (k : Nat) (logged : Bool) : List Byte :=
  wordsBytes (clockWords (slotAt c k).clock) ++
    leSplit 4 ((if slotFree c k then 0 else 1) + (if logged then 2 else 0) + 4 * (ageRank c k % 8)) ++ leSplit 4 0

/-- The slot's load waits in the operand log (R319). -/
def slotLogged (c : Crew) (k : Nat) : Bool := match c.log with | some e => e.req.slot == some k | none => false

/-- The 132 bytes of a register's image: tag word, data words, zeros (R319, Table 6-3). -/
def regImage (r : Reg) : List Byte := padTo 132 (wordsBytes (tagWord r :: recordWords r))

/-- The words of 4 bytes each in a byte list. -/
def wordsOf : Nat → List Byte → List Word
  | 0, _ => []
  | n + 1, bs => BitVec.ofNat 32 (leValue (bs.take 4)) :: wordsOf n (bs.drop 4)

/-- The register of a 132-byte image; none when its tag word is reserved (R134). -/
def regOfImage (bs : List Byte) : Option Reg :=
  match wordsOf 33 bs with
  | t :: ws => regOfRecord t ws
  | [] => none

/-- The 16 bytes of a fault record (Table 14-2). -/
def faultBytes (f : FaultRec) : List Byte :=
  leSplit 4 (f.code + (if f.wr then 2 ^ 8 else 0) + (if f.fetch then 2 ^ 9 else 0) + (if f.answered then 2 ^ 10 else 0) + (if f.refused then 2 ^ 11 else 0)) ++
  wordBytes f.lanes ++ leSplit 4 (f.page * 4096 % 2 ^ 32) ++ leSplit 4 (f.page * 4096 / 2 ^ 32)

/-- Bit `i` of a number, for each true of a list. -/
def boolBits : List Bool → Nat
  | [] => 0
  | b :: bs => (if b then 1 else 0) + 2 * boolBits bs

/-- Lanes that hold an ordered section. -/
def sectMask (c : Crew) : Mask := maskOf fun l => (c.sect.getD l none).isSome

/-- What a trap reports. -/
structure TrapInfo where
  code : Nat
  lanes : Mask
  pc : Word
  iword : Word
  lit : Word
  next : Word
  recs : List FaultRec
  done : Option Nat
deriving DecidableEq, Repr

/-- CAUSE (Table 14-8). -/
def TrapInfo.cause (t : TrapInfo) : Nat :=
  t.code + (match t.done with | some d => 2 ^ 8 * (d % 8) + 2 ^ 11 | none => 0)

/-- The trapping entry first, then the others (R322). -/
def trapEntries (c : Crew) (pc : Word) : List Entry :=
  (c.entries.filter fun e => e.pc == pc) ++ c.entries.filter fun e => e.pc != pc

/-- The bytes of a trap frame with their offsets (Table 14-8). -/
def frameBytes (c : Crew) (at_ : Word) (t : TrapInfo) : List (Nat × Byte) :=
  let es := trapEntries c at_
  let es := match es with | e :: r => { e with pc := t.pc } :: r | [] => []
  addrs 0x000 (wordsBytes [BitVec.ofNat 32 t.cause, t.pc, t.lanes, t.iword, t.lit, t.next,
    BitVec.ofNat 32 (es.length + 16 * boolBits (c.lvalid.take 3)), BitVec.ofNat 32 t.recs.length]) ++
  addrs 0x020 (wordsBytes (c.pred.take 3 ++ [sectMask c])) ++
  addrs 0x030 (leSplit 16 (recAt c 15).bits.toNat) ++
  addrs 0x040 (leSplit 4 (64 * (recAt c 15).taint.toNat)) ++
  addrs 0x050 (wordsBytes (clockWords c.floor)) ++
  addrs 0x070 ((List.range 8).flatMap fun k => slotBytes c k (slotLogged c k)) ++
  addrs 0x180 (padTo 128 (es.flatMap fun e => wordsBytes (entryWords e))) ++
  addrs 0x200 (padTo 512 (t.recs.flatMap faultBytes)) ++
  addrs 0x400 ((List.range 3).flatMap fun k => regImage (c.latch.getD k Reg.zero)) ++
  addrs 0x590 ((List.range 12).flatMap fun i => regImage (vreg c (48 + i))) ++
  addrs 0xBC0 (List.replicate (0x1000 - 0xBC0) 0)

/-- A uniform register (R322). -/
def uReg (f : Fmt) (w : Word) : Reg := ⟨.u, f, 0, List.replicate 32 w⟩

/-- The frame record that m15 holds in a handler (R322). -/
def frameRecord (va : Nat) : BitVec 128 :=
  BitVec.ofNat 128 (va % 2 ^ 57 + 2 ^ 59 + 2 ^ 60 + 0x1000 * 2 ^ 64 + 4 * 2 ^ 104)

/-- The crew as its handler finds it (R322, step 4). -/
def handlerCrew (s : State) (c : Crew) (t : TrapInfo) : Crew :=
  let va := frameVa s c
  let vec := match blockOf s c with | some b => b.trapVector | none => 0xFFFFFFFF
  let lanes := c.live &&& ~~~stackedLanes s c
  let regs := (List.range 12).foldl (fun (rs : List Reg) i =>
    rs.set (48 + i) (if i = 0 then uReg .i32 (BitVec.ofNat 32 t.cause) else if i = 1 then uReg .i32 t.pc else Reg.zero)) c.regs
  { c with entries := [⟨vec, 15, lanes, none, false, 0, 0⟩], kept := c.entries.length, regs := regs, pred := [t.lanes, 0, 0]
           lvalid := [false, false, false], recs := c.recs.set 15 ⟨frameRecord va, 0⟩, priv := true, newSlots := 0, folded := 0, gated := none
           cause := BitVec.ofNat 32 t.cause, tpc := t.pc, tlanes := t.lanes, faults := if c.log.isSome then c.faults else [], ldmDone := none }

/-- A frame's bytes put at a VA. -/
def shiftAddrs (va : Nat) (ws : List (Nat × Byte)) : List (Nat × Byte) := ws.map fun w => (va + w.1, w.2)

/-- Row group of a slot's register row (R118, R121). -/
def rowGroup (slot reg : Nat) : Nat := (60 * (slot / 4) + reg) / 64

/-- Row groups that hold some of a slot's registers are powered (R121). -/
def powerRows (s : State) (core slot lo hi : Nat) : State :=
  modCore s core fun c =>
    let g := (List.range (hi - lo)).foldl (fun g i => g ||| BitVec.ofNat 15 (2 ^ rowGroup slot (lo + i))) c.groups
    { c with groups := g }

/-! ### Page faults -/

/-- A demand-paging fault of a crew: its records are kept, its block swaps out, and its page requests are noted, to be sent in
record order (R313, R314, R60, R61).  `both`: an atomic, which needs to read and to write (R237). -/
def pageFault (s : State) (c : Crew) (both : Bool) (recs : List FaultRec) : State :=
  let pri := pasidLookup s (pasidOf s c) == .ats
  let reqs := (recs.filter fun r => r.code == 0).zipIdx.map fun (r, i) =>
    (⟨s.nextId + i, dieOfCore c.core, pri, c.block, c.id, r.page, pasidOf s c, r.wr, both || (!r.wr && !r.fetch), r.fetch, false, none⟩ : PageReq)
  let s := { s with pageReqs := s.pageReqs ++ reqs, nextId := s.nextId + reqs.length }
  let s := modCrew s c.id fun c => { c with faults := recs }
  modBlock s c.block fun b => { b with state := match b.state with
    | .running | .stopping | .waking => .saving true
    | .saving _ => .saving true
    | st => st }

/-- The die's page-fault queue: its size in records and its base; none while disabled (Table 3-3, R61). -/
def pfqOf (d : Die) : Option (Nat × Nat) :=
  let z := d.pfqBase.toNat % 32
  if 4 ≤ z ∧ z ≤ 16 then some (2 ^ z, d.pfqBase.toNat / 2 ^ 12 % 2 ^ 24 * 2 ^ 12) else none

/-- A demand-paging fault of a PASID counts as an ACCESS outcome now: the queue is disabled, or PRI is off (R60, R61). -/
def faultRefused (s : State) (core pasid : Nat) : Bool :=
  if pasidLookup s pasid == .ats then s.priOff
  else match dieAt s (dieOfCore core) with
    | some d => (pfqOf d).isNone
    | none => true

/-! ### Taking a trap -/

/-- The check of TRAP_VECTOR at trap entry: a demand-paging fault that was refused, or that cannot be raised, fails it (R61, R263, R321). -/
def vectorCheck (s : State) (c : Crew) (vec : Word) : Target × State :=
  match checkTarget s none c vec with
  | (.fault, s) =>
    if faultRefused s c.core (pasidOf s c) || answeredNo s (.wait c.id) (textVa s c vec) .fetch then (.invalid, s) else (.fault, s)
  | r => r

/-- A demand-paging fault at the check of TRAP_VECTOR swaps the block out at the trapping instruction, which traps again when it resumes (R263). -/
def vectorFault (s : State) (c : Crew) (vec : Word) : State :=
  pageFault (forget s (.wait c.id)) c false [⟨0, false, true, false, false, c.live, textVa s c vec / 4096⟩]

/-- Taking a synchronous trap (R321, R322): fatal in a privileged context or without a valid handler; otherwise the frame is
written, the crew goes on alone at TRAP_VECTOR in a privileged context, and the frontier is one entry.
`at_` is the address of the entry that traps. -/
def enterTrap (s : State) (id : Nat) (at_ : Word) (t : TrapInfo) : State :=
  match crewAt s id with
  | none => s
  | some c =>
    match blockOf s c with
    | none => s
    | some b =>
      let note (s : State) : State := emitLoc s c .fault 5 3 t.code 0 t.pc (wordBytes t.lanes)
      if c.priv || b.trapVector == 0xFFFFFFFF then endTask (note s) b.task 6 t.code
      else
        match vectorCheck s c b.trapVector with
        | (.invalid, s) => endTask (note s) b.task 6 t.code
        | (.fault, s) => vectorFault s c b.trapVector
        | (.wait, s) => s
        | (.valid, s) =>
          match pokeVa s c.core (pasidOf s c) true (shiftAddrs (frameVa s c) (frameBytes c at_ t)) with
          | none => endTask (note s) b.task 8 0
          | some s => powerRows (dropRejects (setCrew (note s) (handlerCrew s c t)) c.id) c.core c.slot 48 60

/-! ### Page requests -/

/-- Tags of the faults of a die that are outstanding (Table 3-8). -/
def pfqTags (s : State) (die : Nat) : List Nat :=
  (s.pageReqs.filter fun r => !r.pri && r.sent && r.tag / 2 ^ 32 == die + 1).map fun r => r.tag % 2 ^ 16

/-- The first tag from `t` on that is not in use, after at most `n` that are (R61). -/
def nextTag (used : List Nat) (t : Nat) : Nat → Nat
  | 0 => t
  | n + 1 => if used.contains t then nextTag used ((t + 1) % 2 ^ 16) n else t

/-- An MSI-X vector, while MSI-X is enabled (R360, R363, R373). -/
def raiseVec (s : State) (v : Nat) : State := if s.boot.msixOn then { s with out := s.out ++ [.msix v] } else s

/-- Page requests that can be sent are sent, in order: page-fault records while the queue is not full, Page Requests while fewer
than 1,024 are outstanding; those of die 1 wait for a link that retrains, and a record also until the host has given up its sector and its home can be reached
(R46, R60, R61, R65). -/
def sendRequests (s : State) : State :=
  (s.pageReqs.filter fun r => !r.sent).foldl (fun s r =>
    if s.link.retraining && r.die == 1 then s
    else if r.pri then
      if 1024 ≤ (s.pageReqs.filter fun x => x.pri && x.sent).length ∨ s.priOff then s
      else { s with out := s.out ++ [.pageRequest r.tag r.pasid (r.page * 4096) r.rd r.wr r.fetch]
                    pageReqs := s.pageReqs.map fun x => if x.tag == r.tag then { x with sent := true } else x }
    else
      match dieAt s r.die with
      | none => s
      | some d =>
        match pfqOf d with
        | none => s
        | some (n, base) =>
          if (d.pfqHead + 1) % n = d.pfqTail % n then s
          else if writeBarred s (isleUnit d.id) (addrs (base + 16 * (d.pfqHead % n)) (List.replicate 16 0)) then
            askHost s (sectorKeys (addrs (base + 16 * (d.pfqHead % n)) (List.replicate 16 0)))
          else
            let w0 := (if r.wr then 1 else 0) + (if r.fetch then 2 else 0) + r.page * 4096
            let tag := nextTag (pfqTags s d.id) (d.pfqTag % 2 ^ 16) (pfqTags s d.id).length
            let w1 := r.pasid + tag * 2 ^ 32
            let s := poke s d.id (base + 16 * (d.pfqHead % n)) (leSplit 8 w0 ++ leSplit 8 w1)
            let s := modDie s d.id fun x => { x with pfqHead := (d.pfqHead + 1) % n, pfqTag := (tag + 1) % 2 ^ 16 }
            { raiseVec s d.id with
                     pageReqs := s.pageReqs.map fun x => if x.tag == r.tag then { x with sent := true, tag := 2 ^ 32 * (d.id + 1) + tag } else x }) s

/-- Lane failures as fault records: one for each distinct pair of code and page, ordered by lowest lane (R313). -/
def groupFaults (fs : List (Nat × Nat × Nat)) (wr fetch : Bool) : List FaultRec :=
  fs.foldl (fun acc (l, code, page) =>
    let bit : Mask := BitVec.ofNat 32 (2 ^ l)
    if acc.any fun r => r.code == code && r.page == page then
      acc.map fun r => if r.code == code && r.page == page then { r with lanes := r.lanes ||| bit } else r
    else acc ++ [⟨code, wr, fetch, false, false, bit, page⟩]) []

/-! ### Issue -/

/-- An operand as the issue checks see it (R21, R119). -/
inductive Opnd where
  /-- A source register or latch. -/
  | src (c : RCode)
  /-- A second source. -/
  | srcB (b : Src)
  /-- A destination, `_` allowed. -/
  | dst (c : RCode)
  /-- A vector register and nothing else: a destination or a third source that cannot be suppressed. -/
  | vec (c : RCode)
  /-- A group of registers. -/
  | grp (c : RCode) (n : Nat)
deriving DecidableEq, Repr

/-- Registers a crew may name now (R119, R321).  In a handler those from its .regs count to v47 belong to no block: they hold 0 at the crew's start, keep what
handlers write while the crew stays placed, and are not in the save area (DESIGN CHOICE, log entry 77). -/
def nameable (s : State) (c : Crew) : Nat := if c.priv then 60 else Nat.min 60 (ownedRegs s c)

/-- One operand passes the OPERAND check (R21, R119, R133). -/
def opndOk (s : State) (c : Crew) : Opnd → Bool
  | .src r => if r.toNat < 60 then decide (r.toNat < nameable s c) else decide (r.toNat < 63) && c.lvalid.getD (r.toNat - 60) false
  | .srcB (.reg r) => if r.toNat < 60 then decide (r.toNat < nameable s c) else decide (r.toNat < 63) && c.lvalid.getD (r.toNat - 60) false
  | .srcB (.lit _) => true
  | .dst r => decide (r.toNat < nameable s c) || r == 63
  | .vec r => decide (r.toNat < nameable s c)
  | .grp r n => decide (r.toNat + n ≤ nameable s c)

/-- Vector registers that an operand names. -/
def opndRegs : Opnd → List Nat
  | .src r => [r.toNat]
  | .srcB (.reg r) => [r.toNat]
  | .srcB (.lit _) => []
  | .dst r => [r.toNat]
  | .vec r => [r.toNat]
  | .grp r n => (List.range n).map (r.toNat + ·)

/-- Registers an access writes. -/
def MemOp.dests (o : MemOp) (vd : Nat) : List Nat :=
  match o with
  | .load _ n _ => (List.range n).map (vd + ·)
  | .ldacq => [vd]
  | .atomic _ _ => [vd]
  | .ldm n => (List.range n).map (vd + ·)
  | _ => []

/-- An access instruction: its operation, data register, index register, record and cache hint. -/
structure Acc where
  op : MemOp
  reg : RCode
  idx : RCode
  m : BitVec 4
  hint : BitVec 2
deriving DecidableEq, Repr

/-- The access that an instruction makes through a record (Tables 4-8 and 11-2, R142, R241). -/
def accOf : Instr → Option Acc
  | .ldb _ h m d a => some ⟨.load 1 1 false, d, a, m, h⟩
  | .ldbs _ h m d a => some ⟨.load 1 1 true, d, a, m, h⟩
  | .ldh _ h m d a => some ⟨.load 2 1 false, d, a, m, h⟩
  | .ldhs _ h m d a => some ⟨.load 2 1 true, d, a, m, h⟩
  | .ldw _ h m d a => some ⟨.load 4 1 false, d, a, m, h⟩
  | .ldd _ h m d a => some ⟨.load 8 2 false, d, a, m, h⟩
  | .ldq _ h m d a => some ⟨.load 16 4 false, d, a, m, h⟩
  | .stb _ h m d a => some ⟨.store 1 1, d, a, m, h⟩
  | .sth _ h m d a => some ⟨.store 2 1, d, a, m, h⟩
  | .stw _ h m d a => some ⟨.store 4 1, d, a, m, h⟩
  | .std _ h m d a => some ⟨.store 8 2, d, a, m, h⟩
  | .stq _ h m d a => some ⟨.store 16 4, d, a, m, h⟩
  | .ldm _ h m n d a => some ⟨.ldm (n.toNat + 1), d, a, m, h⟩
  | .stm _ h m n d a => some ⟨.stm (n.toNat + 1), d, a, m, h⟩
  | .axchg _ o m d a => some ⟨.atomic .xchg o, d, a, m, 0⟩
  | .acas _ o m d a => some ⟨.atomic .cas o, d, a, m, 0⟩
  | .aadd _ o m d a => some ⟨.atomic .add o, d, a, m, 0⟩
  | .amin _ o m d a => some ⟨.atomic .min o, d, a, m, 0⟩
  | .amax _ o m d a => some ⟨.atomic .max o, d, a, m, 0⟩
  | .aminu _ o m d a => some ⟨.atomic .minu o, d, a, m, 0⟩
  | .amaxu _ o m d a => some ⟨.atomic .maxu o, d, a, m, 0⟩
  | .aand _ o m d a => some ⟨.atomic .and o, d, a, m, 0⟩
  | .aor _ o m d a => some ⟨.atomic .or o, d, a, m, 0⟩
  | .axor _ o m d a => some ⟨.atomic .xor o, d, a, m, 0⟩
  | .afadd _ o m d a => some ⟨.atomic .fadd o, d, a, m, 0⟩
  | .ldacq _ m d a => some ⟨.ldacq, d, a, m, 0⟩
  | .strel _ m d a => some ⟨.strel, d, a, m, 0⟩
  | _ => none

/-- The access of a captured instruction (R317: what the words say when it replays). -/
def MemReq.acc? (q : MemReq) : Option Acc :=
  match decodeWord q.iword.toNat q.lit.toNat with
  | .ok i => accOf i
  | .error _ => none

/-- Registers that the crew's operand-log entry will write (R311). -/
def logDests (c : Crew) : List Nat :=
  match c.log with
  | none => []
  | some e => match e.req.acc? with
    | some a => a.op.dests a.reg.toNat
    | none => []

/-- Registers of a crew that still wait for data (R85, R238, R311): loads and atomics in flight, and those of its log entry. -/
def pendingRegs (s : State) (c : Crew) : List Nat :=
  ((flightsOf s c.id).flatMap fun f => f.op.dests f.vd) ++ logDests c

/-- How an instruction meets the issue checks: `waits` for those that wait behind a log entry (R311), `unordered` for one that no acquire holds up (R90), `localOnly` for those that
a crew formed by REORD may not run (R95), `ok` the instruction's own operand rules. -/
structure Spec where
  i : Instr
  ops : List Opnd := []
  ok : Crew → Bool := fun _ => true
  waits : Bool := false
  unordered : Bool := false
  localOnly : Bool := false

/-- A participating crew with its active set; `full` says that a write is full (R125). -/
structure Part where
  crew : Nat
  act : Mask
  full : Bool
deriving DecidableEq, Repr

/-- What a body is given: the instruction's place and its participants, in rank or index order (R274). -/
structure Ctx where
  crew : Nat
  scope : Scope
  pc : Word
  next : Word
  iword : Word
  lit : Word
  parts : List Part
deriving DecidableEq, Repr

/-- What a body comes to. -/
inductive Res where
  /-- Performed; every participant goes on at the next instruction. -/
  | done (s : State)
  /-- Performed, frontier included. -/
  | moved (s : State)
  /-- An instruction-level trap of every participant. -/
  | trap (code : Nat) (s : State)
  /-- Lane-level failures: crew and records. -/
  | lanes (recs : List (Nat × List FaultRec)) (s : State)
  /-- The entry waits, and the crew's other entries go on (R264). -/
  | stall (s : State)
  /-- The crew waits as on an interlock (R264). -/
  | hold (s : State)
deriving Repr

/-- The lanes of an entry for which the guard holds (R19). -/
def actOf (c : Crew) (e : Entry) (g : Guard) : Mask := e.mask &&& guardLanes c.pred g

/-- The crews that take part at a scope (Table 12-4); none at set scope when the set is not complete. -/
def participants (s : State) (c : Crew) : Scope → Option (List Nat)
  | .lane | .crew => some [c.id]
  | .set => match setOf s c with
    | some (_, _, g) => if g.complete then some g.members else none
    | none => none
  | .block => some ((s.crews.filter fun x => x.block == c.block && !x.ended).map (·.id))

/-- Lanes of a crew that stand at an instruction: entries and stacked records blocked there (R274). -/
def arrivedLanes (s : State) (c : Crew) (pc : Word) : Mask :=
  let es := (c.entries.filter fun e => e.pc == pc && e.wait == some .rendezvous)
  let rs := (stackRecs s c).filter fun e => e.pc == pc && e.wait == some .rendezvous
  (es ++ rs).foldl (fun m e => m ||| e.mask) 0

/-- Lanes of a crew that a rendezvous needs: its live lanes; in a handler, those not in stacked records (R274, R322). -/
def neededLanes (s : State) (c : Crew) : Mask := if c.priv then c.live &&& ~~~stackedLanes s c else c.live

/-- Another member of the crew's set is in its trap handler, and the crew itself is not (R326). -/
def heldBySet (s : State) (c : Crew) : Bool :=
  !c.priv && match setOf s c with
  | none => false
  | some (_, _, g) => g.members.any fun m => m != c.id && (match crewAt s m with | some x => x.priv | none => false)

/-- The crew's block is placed and its crews issue (Table 13-7). -/
def running (s : State) (c : Crew) : Bool :=
  match blockOf s c with
  | some b => b.state == .running || b.state == .stopping
  | none => false

/-- A record of the crew waits for room in a lossless trace (R345). -/
def traceHolds (s : State) (c : Crew) : Bool :=
  match trace0 s with
  | some t => t.on && t.ctl.getLsbD 1 && s.traceQ.any fun r => r.crew == some c.id
  | none => false

/-- The crew's logged instruction is about to trap: every line has its outcome, and some line is refused (R312, R322). -/
def logTraps (c : Crew) : Bool :=
  match c.log with
  | some e => e.lines.all (fun l => l.2 != .pending) && e.lines.any fun l => l.2 == .access
  | none => false

/-- The lane port has still to grant a part of the crew's LDA or STA (R97). -/
def partOwed (s : State) (c : Crew) : Bool :=
  match coreAt s c.core with
  | some k => k.asParts.any fun p => p.crew == c.id
  | none => false

/-- The crew may issue: live, on a running block, not suspended, not held by its set, by the trace, by the lane port or by a trap that
its logged instruction is about to take (R97, R322, R326, R330, R345). -/
def mayIssue (s : State) (c : Crew) : Bool :=
  !c.ended && running s c && !c.susp && !heldBySet s c && !traceHolds s c && !logTraps c && !partOwed s c

/-- The crew has arrived with all its lanes and may issue (R274). -/
def crewArrived (s : State) (id : Nat) (pc : Word) : Bool :=
  match crewAt s id with
  | some c => c.ended || (neededLanes s c &&& ~~~arrivedLanes s c pc == 0 && mayIssue s c)
  | none => true

/-- The rendezvous of a crew's instruction is complete (R274). -/
def rendezvousDone (s : State) (c : Crew) (pc : Word) (sc : Scope) : Bool :=
  match participants s c sc with
  | none => false
  | some ids => ids.all fun id => crewArrived s id pc

/-- The entry waits at a rendezvous, as the most recently blocked one (R272, R274). -/
def block (s : State) (id : Nat) (pc : Word) (w : Wait) : State :=
  modCrew s id fun c =>
    match entryAt c pc with
    | none => c
    | some e => { c with entries := (c.entries.filter fun x => x.pc != pc) ++ [{ e with wait := some w }] }

/-- The entry arrives at a rendezvous of a scope (R274). -/
def arrive (s : State) (id : Nat) (pc : Word) (sc : Scope) : State :=
  modCrew (block s id pc .rendezvous) id fun c => { c with rdv := (pc, sc) :: c.rdv.filter fun r => r.1 != pc }

/-- Lanes held in stacked records at the instruction join the entry when its rendezvous completes (R272, R274). -/
def gather (s : State) (id : Nat) (pc : Word) : State :=
  match crewAt s id with
  | none => s
  | some c =>
    let recs := stackRecs s c
    let mine := recs.filter fun e => e.pc == pc && e.wait == some .rendezvous
    if mine.isEmpty || c.priv then s
    else
      let s := putStack s c (recs.filter fun e => !(e.pc == pc && e.wait == some .rendezvous))
      modCrew s id fun c => { c with entries := mine.foldl addEntry c.entries }

/-- A stacked record that would join at the instruction is poisoned (R271). -/
def gatherPoisoned (s : State) (id : Nat) (pc : Word) : Bool :=
  match crewAt s id with
  | none => false
  | some c => !c.priv && (stackRecs s c).zipIdx.any fun (e, i) => e.pc == pc && e.wait == some .rendezvous && recPoisoned s c i

/-- A list of numbers with each number once. -/
def distinct : List Nat → List Nat
  | [] => []
  | a :: l => a :: (distinct l).filter fun b => b != a

/-- The participants of an instruction that issues now, with their active sets (R19, R125, R274). -/
def partsOf (s : State) (c : Crew) (x : Pfx) (pc : Word) : List Part :=
  let ids := distinct ((participants s c x.scope).getD [])
  let raw := ids.filterMap fun id =>
    match crewAt s id with
    | none => none
    | some p => match entryAt p pc with
      | none => none
      | some e => some (id, actOf p e x.guard, p.live)
  let allFull := raw.all fun (_, a, l) => l &&& ~~~a == 0
  raw.map fun (id, a, l) => ⟨id, a, if x.scope == .set then allFull else l &&& ~~~a == 0⟩

/-- An entry that leaves its instruction for `pc`. -/
def Entry.to (e : Entry) (pc : Word) : Entry := { e with pc := pc, wait := none }

/-- The crew's entry at `pc` goes to `next` after issuing (R265, R267). -/
def advance (s : State) (id : Nat) (pc next : Word) : Except FrontErr State :=
  match crewAt s id with
  | none => .ok s
  | some c =>
    match entryAt c pc with
    | none => .ok s
    | some e =>
      let e := countIssue (quantumOf s c.core) (c.entries.filter fun x => x.pc != pc) e
      match goOn s id pc false [e.to next] with
      | .ok s => rotateDemoted s id next
      | .error x => .error x

/-- A trap of the issuing instruction for one crew. -/
def trapOne (x : Ctx) (s : State) (id : Nat) (code : Nat) (lanes : Mask) (recs : List FaultRec) : State :=
  enterTrap s id x.pc ⟨code, lanes, x.pc, x.iword, x.lit, x.next, recs,
    match crewAt s id with
    | some c => match c.ldmDone with
      | some (p, d) => if p == x.pc then some d else none
      | none => none
    | none => none⟩

/-- Every participant has nothing in flight, so a trap can be taken; an access that its operand log holds is the one exception (R322, R383). -/
def drained (s : State) (ids : List Nat) : Bool :=
  ids.all fun id => (flightsOf s id).isEmpty && match crewAt s id with | some c => !partOwed s c | none => true

/-- The crew waits as on an interlock. -/
def holdCrew (s : State) (id : Nat) : State := { modCrew s id (fun c => { c with idle := true }) with progress := false }

/-- The pages that a crew's trap entry reads and writes (R321, R322). -/
def trapPages (s : State) (c : Crew) : List (Nat × AccKind) :=
  match blockOf s c with
  | some b =>
    if c.priv || b.trapVector == 0xFFFFFFFF then []
    else [(frameVa s c, .write), (frameVa s c + 4095, .write), (textVa s c b.trapVector, .fetch)]
  | none => []

/-- One crew can take a trap now: the pages of its trap entry and its handler's first halfword are at hand; a demand-paging fault at that
halfword swaps its block out first (R263). -/
def crewReady (s : State) (id : Nat) : Bool × State :=
  match crewAt s id with
  | none => (true, s)
  | some c =>
    match pagesReady s (.wait id) c.core (pasidOf s c) true (trapPages s c) with
    | (false, s) => (false, s)
    | (true, s) =>
      match blockOf s c with
      | none => (true, s)
      | some b =>
        if c.priv || b.trapVector == 0xFFFFFFFF then (true, s)
        else
          match vectorCheck s c b.trapVector with
          | (.wait, s) => (false, s)
          | (.fault, s) => (false, vectorFault s c b.trapVector)
          | (_, s) => (true, s)

/-- Every crew can take a trap now: nothing of it is in flight, and what its trap entry needs is at hand. -/
def trapReady (s : State) (ids : List Nat) : Bool × State :=
  if drained s ids then
    ids.foldl (fun r id =>
      let q := crewReady r.2 id
      (r.1 && q.1, q.2)) (true, s)
  else (false, s)

/-- Every participant takes a trap, once nothing is in flight (R320, R322). -/
def trapAll (x : Ctx) (s : State) (code : Nat) (lanesOf : Part → Mask) (recsOf : Nat → List FaultRec) : State :=
  match trapReady s (x.parts.map (·.crew)) with
  | (true, s) => x.parts.foldl (fun s p => trapOne x s p.crew code (lanesOf p) (recsOf p.crew)) s
  | (false, s) => holdCrew s x.crew

/-- Union of the records' lanes (R320). -/
def recLanes (rs : List FaultRec) : Mask := rs.foldl (fun m r => m ||| r.lanes) 0

/-- A frontier error becomes the trap of R271 or a wait (R270). -/
def frontTrap (x : Ctx) (s : State) (id : Nat) : FrontErr → State
  | .frontier => trapAll { x with parts := x.parts.filter fun p => p.crew == id } s trapFrontier (·.act) (fun _ => [])
  | .soft => trapAll { x with parts := x.parts.filter fun p => p.crew == id } s trapSoft (·.act) (fun _ => [])
  | .busy => { block s id x.pc .stall with progress := false }

/-- All participants go on at the next instruction. -/
def retire (x : Ctx) (s : State) : State :=
  x.parts.foldl (fun s p =>
    match advance s p.crew x.pc x.next with
    | .ok s => s
    | .error e => frontTrap x s p.crew e) s

/-- No participant meets a poisoned record of its stack when it goes on (R271). -/
def stacksSound (x : Ctx) (s : State) : Bool := x.parts.all fun p => match crewAt s p.crew with | some c => stackSound s c | none => true

/-- The participant that cannot go on at the next instruction, and why. -/
def retireErr (x : Ctx) : List Part → State → Option (Nat × FrontErr)
  | [], _ => none
  | p :: ps, s =>
    match advance s p.crew x.pc x.next with
    | .ok s => retireErr x ps s
    | .error e => some (p.crew, e)

/-- What a body came to, applied to the machine; `pre` is the machine before it.  An instruction that cannot go on, because a stacked record that
would come in is poisoned, traps and performs nothing (R271, R322). -/
def conclude (x : Ctx) (pre : State) : Res → State
  | .done s =>
    if stacksSound x pre then retire x s
    else match retireErr x x.parts s with
      | some (id, e) => frontTrap x pre id e
      | none => retire x s
  | .moved s => s
  | .trap code s => trapAll x s code (·.act) (fun _ => [])
  | .lanes recs s =>
    let code := ((recs.flatMap (·.2)).head?.map (·.code)).getD trapAccess
    trapAll x s code (fun p => recLanes ((recs.filter fun r => r.1 == p.crew).flatMap (·.2)))
      (fun id => (recs.filter fun r => r.1 == id).flatMap (·.2))
  | .stall s => { x.parts.foldl (fun s p => block s p.crew x.pc .stall) s with progress := false }
  | .hold s => holdCrew s x.crew

/-- The SCOPE and REORDER_SCOPE conditions that lie in the crew's state: none, or the trap (R95, R274, R288, R321).  Those rules say "at issue" and give no place
among the checks of R29: the model takes them before OPERAND, and REORDER_SCOPE before SCOPE (DESIGN CHOICE, log entry 69). -/
def scopeTrap (s : State) (c : Crew) (e : Entry) (sp : Spec) (sc : Scope) : Option Nat :=
  if sp.localOnly && isFormed s c then some trapReorder
  else match sc with
    | .lane => none
    | .crew => if !c.priv && (sectMask c &&& e.mask) != 0 then some trapScope else none
    | .set =>
      if isFormed s c then some trapReorder
      else if c.priv || (sectMask c &&& e.mask) != 0 || (setOf s c).isNone then some trapScope else none
    | .block =>
      if isFormed s c then some trapReorder
      else if c.priv || (sectMask c &&& e.mask) != 0 then some trapScope else none

/-- The lanes that a PARTIAL trap reports: live participating lanes outside `act`, or `act` when there are none (R320). -/
def partialLanes (s : State) (p : Part) : Mask :=
  match crewAt s p.crew with
  | some c => if c.live &&& ~~~p.act = 0 then p.act else c.live &&& ~~~p.act
  | none => p.act

/-- The trap that the checks before the rendezvous raise, if any: PRIV, SCOPE, OPERAND, in that order (R29). -/
def preTrap (s : State) (c : Crew) (e : Entry) (sp : Spec) : Option Nat :=
  if sp.i.privileged && !c.priv then some trapPriv
  else match scopeTrap s c e sp sp.i.pfx.scope with
    | some t => some t
    | none => if sp.ops.all (opndOk s c) && sp.ok c then none else some trapOperand

/-- A participant cannot issue yet: a register it names waits for data, or a log entry or an acquire is in its way (R85, R311, R244). -/
def mustWait (s : State) (sp : Spec) (ids : List Nat) : Bool :=
  ids.any fun id =>
    match crewAt s id with
    | none => false
    | some c => (sp.ops.flatMap opndRegs).any (fun r => (pendingRegs s c).contains r) || (sp.waits && (c.log.isSome || (c.acqWait && !sp.unordered)))

/-- The instruction issues over its participants: PARTIAL, then the body (R29). -/
def issueNow (sp : Spec) (body : Ctx → State → Res) (x : Ctx) (s : State) : State :=
  if sp.i.full && x.parts.any (fun p => !p.full) then trapAll x s trapPartial (partialLanes s) (fun _ => [])
  else conclude x s (body x s)

/-- The issue of an instruction by an entry of a crew (R29). -/
def issueAt (sp : Spec) (body : Ctx → State → Res) (u : Cur) (c : Crew) (e : Entry) (s : State) : State :=
  let x : Ctx := ⟨c.id, sp.i.pfx.scope, u.pc, u.pc + BitVec.ofNat 32 u.len, u.iword, u.lit, []⟩
  match preTrap s c e sp with
  | some t => trapAll { x with parts := [⟨c.id, actOf c e sp.i.pfx.guard, false⟩] } s t (·.act) (fun _ => [])
  | none =>
    match sp.i.pfx.scope with
    | .lane =>
      if mustWait s sp [c.id] then holdCrew s c.id
      else issueNow sp body { x with parts := partsOf s c sp.i.pfx u.pc } s
    | sc =>
      let s := arrive s c.id u.pc sc
      if rendezvousDone s c u.pc sc then
        let ids := (participants s c sc).getD []
        if mustWait s sp ids then holdCrew s c.id
        else
          let one (id : Nat) : Ctx := { x with parts := [⟨id, (match crewAt s id with | some k => arrivedLanes s k u.pc | none => 0), false⟩] }
          match ids.find? fun id => gatherPoisoned s id u.pc with
          | some id => trapAll (one id) s trapSoft (·.act) (fun _ => [])
          | none =>
            let s := ids.foldl (fun s id => gather s id u.pc) s
            issueNow sp body { x with parts := partsOf s c sp.i.pfx u.pc } s
      else
        match rotateHeld s c.id with
        | .ok s => s
        | .error err => frontTrap { x with parts := [⟨c.id, actOf c e sp.i.pfx.guard, false⟩] } s c.id err

/-- The meaning of every encoded instruction: the issue of the instruction that the step has fetched. -/
def issue (sp : Spec) (body : Ctx → State → Res) (s : State) : Host.Outcome State Fault Refusal :=
  match s.cur with
  | none => .refused .noIssuingCrew
  | some u =>
    match crewAt s u.crew with
    | none => .refused .noIssuingCrew
    | some c =>
      match entryAt c u.pc with
      | none => .refused .noIssuingCrew
      | some e => .next (issueAt sp body u c e { s with cur := none })

/-- One participant in the turn of such a body: after a trap, none acts. -/
def eachStep (f : Part → Crew → Option Nat × Crew) (acc : Option Nat × State) (p : Part) : Option Nat × State :=
  match acc.1 with
  | some t => (some t, acc.2)
  | none =>
    match crewAt acc.2 p.crew with
    | none => acc
    | some c =>
      match f p c with
      | (some t, _) => (some t, acc.2)
      | (none, c') => (none, setCrew acc.2 c')

/-- A body that acts on each participant's crew by itself (DEDUCED, log entry 11). -/
def eachCrew (f : Part → Crew → Option Nat × Crew) (x : Ctx) (s : State) : Res :=
  match x.parts.foldl (eachStep f) (none, s) with
  | (some t, _) => .trap t s
  | (none, s') => .done s'

end Sys2Proof.Machine
end

