-- ==== Sys2Proof/Machine/Replay.lean ====
section
/-!
DEFINITION. Record and replay (R351-R358): the log of each home slice, the gate, the region's start and end, and the store hash.
-/

namespace Sys2Proof.Machine

/-- The mode in force: 0 off, 1 record, 2 replay; 3 acts as 0 (Table 15-4). -/
def ReplayBlk.mode (r : ReplayBlk) : Nat := if r.ctl.toNat % 4 = 3 then 0 else r.ctl.toNat % 4

/-- The log's size in bytes and its base; none without a log (Table 15-4). -/
def ReplayBlk.area (r : ReplayBlk) : Option (Nat × Nat) :=
  let z := r.log.toNat % 32
  if 4 ≤ z ∧ z ≤ 20 then some (2 ^ z * 1024, r.log.toNat / 2 ^ 12 % 2 ^ 24 * 2 ^ 12) else none

/-- The machine with the replay half of one die's block changed. -/
def modRp (s : State) (die : Nat) (f : ReplayBlk → ReplayBlk) : State := modDie s die fun d => { d with rp := f d.rp }

/-- The region requester that a crew's access names; none for any other agent (R353). -/
def regionReq (s : State) (crew : Nat) : Option Nat :=
  match crewAt s crew with
  | some c => if inRegion s c then some (requester s c) else none
  | none => none

/-- The requester field of a DIVERGE record (Table 15-2). -/
def reqField (who : Option Nat) : Nat := match who with | some r => r | none => 2 ^ 12

/-- A pair's three bytes (Table 15-8). -/
def pairBytes (p : Nat × Bool × Nat) : List Byte := leSplit 3 (p.1 + p.2.2 * 2 ^ 12 + (if p.2.1 then 2 ^ 20 else 0))

/-- A chunk's 32 bytes (Table 15-8). -/
def chunkBytes (c : Chunk) : List Byte :=
  padTo 32 (leSplit 4 (c.line % 2 ^ 28 + (c.pairs.length - 1) * 2 ^ 28 + 2 ^ 31) ++ c.pairs.flatMap pairBytes)

/-- A closed chunk goes to the die's log; one that does not fit ends the logging (R354). -/
def closeChunk (s : State) (die : Nat) (who : Option Nat) (c : Chunk) : State :=
  match dieAt s die with
  | none => s
  | some d =>
    match d.rp.area with
    | none => s
    | some (size, base) =>
      if d.rp.stopped then s
      else if size < d.rp.head + 32 then
        diverge (modRp s die fun r => { r with overflow := true, stopped := true, chunks := [] }) die 321 none 5 c.line (reqField who)
      else modRp (poke s die (base + d.rp.head) (chunkBytes c)) die fun r => { r with head := r.head + 32 }

/-- The open chunks with one put in front. -/
def frontChunk (r : ReplayBlk) (c : Chunk) : ReplayBlk := { r with chunks := c :: r.chunks.filter fun x => x.line != c.line }

/-- The chunk's pairs with one more access by the same requester, when its last pair can take it (R354). -/
def bumpPair (ps : List (Nat × Bool × Nat)) (r : Nat) (o : Bool) : Option (List (Nat × Bool × Nat)) :=
  match ps.getLast? with
  | some (r', o', n) => if r' = r ∧ o' = o ∧ n < 255 then some (ps.dropLast ++ [(r', o', n + 1)]) else none
  | none => none

/-- One access of one instruction to a line, logged by its home slice while a region is recorded (R354). -/
def logAccess (s : State) (line : Nat) (who : Option Nat) : State :=
  let die := homeDie s (line * 256)
  match dieAt s die with
  | none => s
  | some d =>
    if hostBase ≤ line * 256 || !d.rp.active || d.rp.mode != 1 || d.rp.stopped then s
    else
      let (r, o) := match who with | some r => (r, false) | none => (0, true)
      match d.rp.chunks.find? fun c => c.line == line with
      | some c =>
        match bumpPair c.pairs r o with
        | some ps => modRp s die fun b => frontChunk b { c with pairs := ps }
        | none =>
          if c.pairs.length < 8 then modRp s die fun b => frontChunk b { c with pairs := c.pairs ++ [(r, o, 1)] }
          else modRp (closeChunk s die who c) die fun b => if b.stopped then b else frontChunk b ⟨line, [(r, o, 1)]⟩
      | none =>
        let s := match d.rp.chunks.getLast? with
          | some v => if 256 ≤ d.rp.chunks.length then
              modRp (closeChunk s die who v) die fun b => { b with chunks := b.chunks.filter fun x => x.line != v.line }
            else s
          | none => s
        modRp s die fun b => if b.stopped then b else frontChunk b ⟨line, [(r, o, 1)]⟩

/-- A chunk read back from the log, with the pairs that gate (R355); none when its V is 0. -/
def readChunk (s : State) (a : Nat) : Option Chunk :=
  let w := peek s a 4
  if w / 2 ^ 31 = 0 then none
  else
    let ps := (List.range (w / 2 ^ 28 % 8 + 1)).map fun i =>
      let p := peek s (a + 4 + 3 * i) 3
      (p % 2 ^ 12, p / 2 ^ 20 % 2 == 1, p / 2 ^ 12 % 2 ^ 8)
    some ⟨w % 2 ^ 28, ps.filter fun p => !p.2.1 && p.2.2 != 0⟩

/-- The die's log in replay, chunk by chunk with offsets, up to RP_END (R355). -/
def loadGates (s : State) (d : Die) : List (Nat × Chunk) :=
  match d.rp.area with
  | none => []
  | some (size, base) => (List.range (min d.rp.lend size / 32)).filterMap fun i => (readChunk s (base + 32 * i)).map fun c => (32 * i, c)

/-- RP_HEAD in replay: the first chunk not used up (R355). -/
def gateHead (r : ReplayBlk) : Nat :=
  match r.gates.find? fun g => !g.2.pairs.isEmpty with
  | some g => g.1
  | none => r.lend / 32 * 32

/-- What the gate says of a region access to a line (R355). -/
inductive Gate where
  /-- Not gated. -/
  | free
  /-- The pending pair is the requester's. -/
  | turn
  /-- Another requester's turn: held. -/
  | held
  /-- The line's pairs are used up while log remains: the line is abandoned. -/
  | spent
deriving DecidableEq, Repr

/-- The gate of a line for an access (R355). -/
def gateOf (s : State) (line : Nat) (who : Option Nat) : Gate :=
  match who, dieAt s (homeDie s (line * 256)) with
  | some r, some d =>
    if hostBase ≤ line * 256 || !d.rp.active || d.rp.mode != 2 || d.rp.free.contains line then .free
    else
      let mine := d.rp.gates.filter fun g => g.2.line == line
      if mine.isEmpty then .free
      else
        match mine.flatMap fun g => g.2.pairs with
        | (q, _, _) :: _ => if q = r then .turn else .held
        | [] => if d.rp.gates.any fun g => !g.2.pairs.isEmpty then .spent else .free
  | _, _ => .free

/-- One count of the line's pending pair used up (R355). -/
def takeTurn (line : Nat) : List (Nat × Chunk) → List (Nat × Chunk)
  | [] => []
  | (o, c) :: r =>
    if c.line = line then
      match c.pairs with
      | (q, b, n) :: ps => (o, { c with pairs := if n ≤ 1 then ps else (q, b, n - 1) :: ps }) :: r
      | [] => (o, c) :: takeTurn line r
    else (o, c) :: takeTurn line r

/-- The gate abandons a line (R355). -/
def abandonLine (s : State) (line kind : Nat) (who : Option Nat) : State :=
  let die := homeDie s (line * 256)
  diverge (modRp s die fun r => { r with free := line :: r.free }) die 321 none kind line (reqField who)

/-- An access performed at a line's home slice: logged in a recording, counted by the gate in a replay (R354, R355). -/
def sliceAccess (s : State) (line : Nat) (who : Option Nat) : State :=
  let s := logAccess s line who
  match gateOf s line who with
  | .turn => modRp s (homeDie s (line * 256)) fun r =>
      let r := { r with gates := takeTurn line r.gates }
      { r with head := gateHead r }
  | .spent => abandonLine s line 4 who
  | _ => s

/-- The gate lets the access through now (R355). -/
def gateOpen (s : State) (line : Nat) (who : Option Nat) : Bool := gateOf s line who != .held

/-- The recorded or replayed region that an accepted task starts (R351, R352): the task whose TCB some die's RP_TASK names while some die's
mode is not 0; refused where a condition of R352 fails (DEDUCED, log entry 17). -/
def startRegion (s : State) (t : Task) : State :=
  match dieAt s 0, dieAt s 1 with
  | some a, some b =>
    let names (d : Die) : Bool := d.rp.task.toNat % 2 ^ 29 == t.tcb / 128 % 2 ^ 29
    if s.region.isSome || (a.rp.mode == 0 && b.rp.mode == 0) || !(names a || names b) then s
    else if names a && names b && a.rp.mode == b.rp.mode && decide (t.total ≤ 128) && decide (t.affinity < 2) &&
        a.rp.area.isSome && b.rp.area.isSome then
      { s with region := some t.no
               dies := s.dies.map fun d =>
                 let g := if d.rp.mode = 2 then loadGates s d else []
                 let r := { d.rp with active := true, chunks := [], gates := g, free := [], stopped := false }
                 { d with rp := { r with head := if d.rp.mode = 2 then gateHead r else 0 } } }
    else { s with dies := s.dies.map fun d => { d with rp := { d.rp with refused := true } } }
  | _, _ => s

/-- Chunks in ascending order of their lines. -/
def chunksByLine (cs : List Chunk) : List Chunk := cs.foldr (fun c acc => (acc.takeWhile fun x => decide (x.line < c.line)) ++ c :: acc.dropWhile fun x => decide (x.line < c.line)) []

/-- The region ends with its task: open chunks close in ascending order of LINE (R351, R354, R388). -/
def endRegion (s : State) (no : Nat) : State :=
  if s.region == some no then
    let s := s.dies.foldl (fun s d => (chunksByLine d.rp.chunks).foldl (fun s c => closeChunk s d.id none c) s) s
    { s with region := none
             dies := s.dies.map fun d => { d with rp := { d.rp with active := false, chunks := [], gates := [], free := [], stopped := false } } }
  else s

/-- Bytes for the store hash of a region crew, in issue order; `tag` names a flight whose bytes are not known yet (R356). -/
def hashPush (s : State) (crew : Nat) (tag : Option Nat) (bs : List Byte) : State :=
  match regionReq s crew with
  | none => s
  | some _ => modCrew s crew fun c => settleHash { c with hashQ := c.hashQ ++ [(tag, bs)] }

/-- The bytes of a returned atomic take their place in the store hash (R356). -/
def hashFill (s : State) (crew flight : Nat) (bs : List Byte) : State :=
  modCrew s crew fun c => settleHash { c with hashQ := c.hashQ.map fun q => if q.1 == some flight then (none, bs) else q }

end Sys2Proof.Machine
end

