-- ==== Sys2Proof/Machine/Access.lean ====
section
/-!
DEFINITION. Accesses through buffer records (chapters 04 and 11): the checks of Table 4-4, translation line by line, the operand log,
issue, and what happens when a line of an access is served, performed or returned.
-/

namespace Sys2Proof.Machine

/-! ### Operations -/

/-- Bytes that one lane, or one word of an image, accesses (Tables 4-8, 11-2; R142). -/
def MemOp.size : MemOp → Nat
  | .load n _ _ => n
  | .store n _ => n
  | _ => 4

/-- The access reads memory. -/
def MemOp.reads : MemOp → Bool
  | .load .. | .ldacq | .atomic .. | .ldm _ => true
  | _ => false

/-- The access writes memory. -/
def MemOp.writes : MemOp → Bool
  | .store .. | .strel | .atomic .. | .stm _ => true
  | _ => false

/-- The rights that its translation needs (Table 3-7). -/
def MemOp.kind (o : MemOp) : AccKind := if o.reads then (if o.writes then .both else .read) else .write

/-- A release (R236, R241). -/
def MemOp.releases : MemOp → Bool
  | .strel => true
  | .atomic _ o => o.getLsbD 1
  | _ => false

/-- An acquire (R236, R241). -/
def MemOp.acquires : MemOp → Bool
  | .ldacq => true
  | .atomic _ o => o.getLsbD 0
  | _ => false

/-- Data registers read. -/
def MemOp.dataRegs : MemOp → Nat
  | .store _ n => n
  | .strel => 1
  | .atomic .cas _ => 2
  | .atomic _ _ => 1
  | .stm n => n
  | _ => 0

/-- LDM and STM: the registers of the group. -/
def MemOp.group : MemOp → Option Nat
  | .ldm n | .stm n => some n
  | _ => none

/-- New memory word of an atomic: none where it does not write (Table 11-2). -/
def AOp.apply (o : AOp) (f : Fmt) (m x y : Word) : Option Word :=
  match o with
  | .xchg => some x
  | .cas => if m = x then some y else none
  | .add => some (m + x)
  | .min => some (if sgn 32 x.toNat < sgn 32 m.toNat then x else m)
  | .max => some (if sgn 32 x.toNat > sgn 32 m.toNat then x else m)
  | .minu => some (if x.toNat < m.toNat then x else m)
  | .maxu => some (if x.toNat > m.toNat then x else m)
  | .and => some (m &&& x)
  | .or => some (m ||| x)
  | .xor => some (m ^^^ x)
  | .fadd => some (FOp.add.word f m x)

/-- Data formats that an access accepts (R84, R237). -/
def dataFmtOk (o : MemOp) (fs : List Fmt) (rf : Fmt) : Bool :=
  let near (f : Fmt) : Bool := f == rf || f == .raw32 || rf == .raw32
  match o with
  | .store n _ => decide (n < 4) || fs.all near
  | .strel => fs.all near
  | .atomic a _ =>
    fs.all near && fs.all (fun f => f == fs.headD .raw32) &&
    (match a with
      | .xchg | .cas => true
      | .fadd => fs.all fun f => f == .fp32 || f == .fp16x2 || f == .bf16x2
      | _ => fs.all Fmt.isIndex)
  | _ => true

/-! ### Checks -/

/-- What the checks of Table 4-4, orders 1 to 7, come to: the in-bounds units with their VAs (a unit is a lane, or word `33 i + w`
of an LDM or STM), an instruction-level trap, or failing lanes with code and page beside the units that pass. -/
inductive Chk where
  | pass (us : List (Nat × Nat))
  | trap (code : Nat)
  | lanes (fs : List (Nat × Nat × Nat)) (us : List (Nat × Nat))
deriving DecidableEq, Repr

/-- Number of index images: a flat record takes a pair (R73). -/
def idxImages (r : BitVec 128) : Nat := if rFlat r then 2 else 1

/-- A captured register. -/
def MemReq.image (q : MemReq) (i : Nat) : Reg := q.images.getD i Reg.zero

/-- The index in a lane (R73). -/
def MemReq.index (q : MemReq) (l : Nat) : Nat :=
  ((q.image 0).at l).toNat + (if rFlat q.record then ((q.image 1).at l).toNat * 2 ^ 32 else 0)

/-- Data register `i`. -/
def MemReq.data (q : MemReq) (i : Nat) : Reg := q.image (idxImages q.record + i)

/-- Orders 6 and 7 for one lane: its unit, nothing, or its failure (R73, R74). -/
def laneCheck (q : MemReq) (size l : Nat) : List (Nat × Nat) × List (Nat × Nat × Nat) :=
  let x := q.index l * rStride q.record
  let ea := effAddr q.record x
  if rExtent q.record < x + size then (if rOobz q.record then ([], []) else ([], [(l, trapBounds, ea / 4096)]))
  else if ea % size ≠ 0 then ([], [(l, trapMisalign, ea / 4096)])
  else ([(l, ea)], [])

/-- Words of an image that a group access touches: the tag word, the lanes of act, and for a full LDM words 1 and 2, which give the
value, or base and stride, of a U or A register (R143). -/
def imageWords (ldm full : Bool) (act : Mask) : List Nat :=
  0 :: (laneIds.filter fun l => laneIn act l || (ldm && full && decide (l < 2))).map (· + 1)

/-- The units of an LDM or STM from register `done` on. -/
def groupUnits (q : MemReq) (ldm full : Bool) (n : Nat) : List (Nat × Nat) :=
  let ea := effAddr q.record (q.index 0 * rStride q.record)
  ((List.range n).filter fun i => decide (q.done ≤ i)).flatMap fun i =>
    (imageWords ldm full q.act).map fun w => (33 * i + w, (ea + 132 * i + 4 * w) % 2 ^ 57)

/-- Checks of an LDM or STM (R142). -/
def groupCheck (o : MemOp) (q : MemReq) (full : Bool) (n : Nat) : Chk :=
  let x := q.index 0 * rStride q.record
  let ea := effAddr q.record x
  if !recordOk q.record o.reads o.writes then .trap trapAccess
  else if !(q.images.take (idxImages q.record)).all fun r => r.fmt.isIndex then .trap trapFormat
  else if rSwizzle q.record != 0 then .trap trapMisalign
  else
    let lanes := laneIds.filter (laneIn q.act)
    if rExtent q.record < x + 132 * n then .lanes (lanes.map fun l => (l, trapBounds, ea / 4096)) []
    else if ea % 4 ≠ 0 then .lanes (lanes.map fun l => (l, trapMisalign, ea / 4096)) []
    else .pass (groupUnits q o.reads full n)

/-- Orders 1 and 3 to 7 of Table 4-4 on a captured access. -/
def reqCheck (o : MemOp) (q : MemReq) (full : Bool) : Chk :=
  match o.group with
  | some n => groupCheck o q full n
  | none =>
    let sw := rSwizzle q.record
    if !recordOk q.record o.reads o.writes then .trap trapAccess
    else if !(q.images.take (idxImages q.record)).all fun r => r.fmt.isIndex then .trap trapFormat
    else if !dataFmtOk o ((q.images.drop (idxImages q.record)).map (·.fmt)) (recordFmt q.record) then .trap trapFormat
    else if sw != 0 && decide (swzUnit sw < o.size) then .trap trapMisalign
    else
      let rs := (laneIds.filter (laneIn q.act)).map (laneCheck q o.size)
      let fs := rs.flatMap (·.2)
      if fs.isEmpty then .pass (rs.flatMap (·.1)) else .lanes fs (rs.flatMap (·.1))

/-- The access as it is captured at issue: index, or flat pair, and data registers (R310). -/
def captureReq (c : Crew) (a : Acc) (pc iword lit : Word) (act : Mask) : MemReq :=
  let r := (recAt c a.m.toNat).bits
  let idx := if rFlat r then [a.idx.toNat, a.idx.toNat + 1] else [a.idx.toNat]
  let data := (List.range a.op.dataRegs).map (a.reg.toNat + ·)
  { pc := pc, iword := iword, lit := lit, act := act, record := r, slot := none
    done := match c.ldmDone with | some (p, d) => if p = pc then d else 0 | none => 0
    images := (idx ++ data).map fun n => (srcReg c n).getD Reg.zero }

/-- The issue-time conditions that need the crew: a group's index has shape U (R142), and a flat pair's second register is owned (R73). -/
def crewCheck (s : State) (c : Crew) (a : Acc) (q : MemReq) : Option Nat :=
  if a.op.group.isSome && (q.image 0).shape != .u then some trapOperand
  else if rFlat q.record && recordOk q.record a.op.reads a.op.writes && decide (59 ≤ a.idx.toNat ∨ nameable s c ≤ a.idx.toNat + 1) then some trapOperand
  else if a.op.group.isSome && rFlat q.record && (q.image 1).shape != .u then some trapOperand
  else none

/-- The lanes that a unit stands for. -/
def unitLanes (o : MemOp) (act : Mask) (u : Nat) : List Nat :=
  match o.group with
  | none => [u]
  | some _ => if u % 33 = 0 then laneIds.filter (laneIn act) else [u % 33 - 1]

/-- Failing lanes in lane order (R313). -/
def inLaneOrder (fs : List (Nat × Nat × Nat)) : List (Nat × Nat × Nat) := laneIds.flatMap fun l => fs.filter fun f => f.1 == l

/-- Failing lanes of the units that lie in lines with a given outcome (R313). -/
def lineFails (o : MemOp) (act : Mask) (us : List (Nat × Nat)) (bad : Nat → Bool) (code : Nat) : List (Nat × Nat × Nat) :=
  inLaneOrder (us.flatMap fun u => if bad (u.2 / 256 * 256) then (unitLanes o act u.1).map fun l => (l, code, u.2 / 4096) else [])

/-- The virtual lines of an access, each once (R76). -/
def unitLines (us : List (Nat × Nat)) : List Nat := (us.map fun u => u.2 / 256 * 256).eraseDups

/-- Each line's translation (R57, R76); the lines of a page share one request. -/
def xlateLines (s : State) (who : WalkFor) (core pasid : Nat) (k : AccKind) (priv : Bool) : List Nat → List (Nat × Xl) × State
  | [] => ([], s)
  | l :: ls =>
    let (x, s) := xlateFor s who core pasid l k priv
    let (xs, s) := xlateLines s who core pasid k priv ls
    ((l, x) :: xs, s)

/-- A unit with its physical key and TYPE 01, once its line has translated. -/
structure KeyUnit where
  no : Nat
  va : Nat
  pk : Nat
  unc : Bool
deriving DecidableEq, Repr

/-- The units' physical keys. -/
def keyUnits (xs : List (Nat × Xl)) (us : List (Nat × Nat)) : List KeyUnit :=
  us.filterMap fun u =>
    match xs.find? fun x => x.1 == u.2 / 256 * 256 with
    | some (l, .hit pk unc) => some ⟨u.1, u.2, pk + (u.2 - l), unc⟩
    | _ => none

/-! ### The host's hold on sectors, and write-backs -/

/-- The sectors of a line that hold written bytes. -/
def writtenSectors (l : L1Line) : List Nat :=
  ((List.range 4).filter fun i => (List.range 64).any fun j => l.written.getLsbD (64 * i + j)).map fun i => l.key * 4 + i

/-- A line's write-back must wait: its home line is pinned by another core or lies behind a link that retrains, or the host holds a sector (R46, R65, R246). -/
def wbBlocked (s : State) (core key : Nat) : Bool :=
  match l1Line s core key with
  | some l => l.written != 0 && (pinnedElsewhere s core key || linkBars s core key || (writtenSectors l).any (hostHolds s))
  | none => false

/-- The snoops that a line's write-back needs, and a RETRY record where another core's pin sends it back (R46, R246). -/
def wbAsk (s : State) (core key : Nat) : State :=
  match l1Line s core key with
  | some l => retryOwn (askHost s (writtenSectors l)) core [key]
  | none => s

/-- The lines of a list that cannot be written back now. -/
def wbWaits (s : State) (core : Nat) (keys : List Nat) : List Nat := keys.filter (wbBlocked s core)

/-- The key of the line that an allocation would push out. -/
def roomVictim (s : State) (core key : Nat) : Option Nat :=
  let same := (l1Of s core).filter fun l => l.key % 256 == key % 256
  if same.any (fun l => l.key == key) || same.length < 8 then none else (victim same).map (·.key)

/-- Lines whose write-back an allocation of `keys` waits for. -/
def roomWaits (s : State) (core : Nat) (keys : List Nat) : List Nat :=
  keys.filterMap fun k => match roomVictim s core k with
    | some v => if wbBlocked s core v then some v else none
    | none => none

/-- Written bytes of lines go home, and unpinned lines are dropped (R80, R91). -/
def purge (s : State) (core : Nat) (keys : List Nat) : State :=
  keys.foldl (fun s k =>
    let s := writeBack s core k
    match l1Line s core k with
    | some l => if l.pin.isNone then dropLine s core k else s
    | none => s) s

/-! ### Releases and acquires -/

/-- The lines with written bytes in a core's L1. -/
def dirtyLines (s : State) (core : Nat) : List Nat := ((l1Of s core).filter fun l => l.written != 0).map (·.key)

/-- The steps of a release before its own write (R244): none while they cannot be taken, with the snoops they need. -/
def releaseNow (s : State) (c : Crew) (scope : Nat) : Bool × State :=
  if !(flightsOf s c.id).isEmpty || c.log.isSome then (false, s)
  else if scope = 0 then (true, s)
  else
    match wbWaits s c.core (dirtyLines s c.core) with
    | [] => (true, endPins (writeBackAll s c.core) c.block)
    | ks => (false, ks.foldl (fun s k => wbAsk s c.core k) s)

/-- A crew's later accesses are ordered after a clock (R244, R256). -/
def acquireClock (s : State) (id : Nat) (k : Clock) : State := modCrew s id fun c => { c with acq := c.acq.sup k, acqWait := false }

/-! ### Samples and rejections -/

/-- One access instruction accepted by a core: counted once, and whether it is the sampled one (R347). -/
def countSample (s : State) (core : Nat) : Bool × State :=
  match coreAt s core with
  | none => (false, s)
  | some k =>
    let e := k.traceSample.toNat % 32
    if 4 ≤ e ∧ e ≤ 16 then
      if 2 ^ e ≤ k.sampleCount + 1 then (true, modCore s core fun k => { k with sampleCount := 0 })
      else (false, modCore s core fun k => { k with sampleCount := k.sampleCount + 1 })
    else (false, s)

/-- A free 16-bit number (DESIGN CHOICE, log entry 43). -/
def freeHalf (s : State) (i : Nat) : Nat := (Config.freeWord (s.free + i)).toNat % 2 ^ 16

/-- What serves a physical key that the L1 does not (Table 15-6): host memory over CXL where die 0's stack cache does not hold the sector (R47, R57), else a home slice,
or GDDR7 where no active pin keeps the line in its slice (R50). -/
def servedFrom (s : State) (core pk : Nat) (unc : Bool) : Nat :=
  let slice := if homeDie s pk = dieOfCore core then 1 else 2
  if hostBase ≤ pk then (if unc || sget .invalid s.mesi (pk / 64) == .invalid then 4 else slice)
  else if slicePinned s pk || freeHalf s 6 % 2 == 1 then slice
  else 3

/-- Whether a request that Table 15-6's OUTCOME `by_` ended passes each stage: L1, crossbar, stack cache, link, and memory controller or CXL (R347). -/
def sampleStages (by_ : Nat) (far : Bool) : List Bool := [true, by_ != 0, by_ != 0, by_ != 0 && far, decide (3 ≤ by_)]

/-- The SAMPLE record of a request that has completed, served by what `by_` says: the time in each stage that it passes is the hardware's, and a stage that it does not
pass adds nothing (R347; DESIGN CHOICE, log entry 43). -/
def emitSample (s : State) (f : Flight) (by_ : Nat) : State :=
  match crewAt s f.crew, f.lanes.head? with
  | some c, some (_, pk) =>
    let st := (sampleStages by_ (homeDie s pk != dieOfCore f.core)).zipIdx.map fun (on, i) => if on then freeHalf s i else 0
    let total := min (2 ^ 16 - 1) (st.sum + freeHalf s 5)
    let s := { s with free := s.free + 7 }
    emitLoc s c .sample 10 5 (by_ + (if f.op.writes then 8 else 0)) 0 f.req.pc ((st ++ [total]).flatMap (leSplit 2))
  | _, _ => s

/-- Lines of a core's flights for which miss entries are taken: those that missed and have not been served yet (R81; of a store's entry DESIGN CHOICE, log
entry 53). -/
def missLines (s : State) (core : Nat) : List Nat :=
  ((s.flights.filter fun f => f.core == core).flatMap fun f => f.missed.filter f.todo.contains).eraseDups

/-- A rejected instruction of the crews that issue an instruction together. -/
def Reject.isOf (r : Reject) (ids : List Nat) (pc : Word) : Bool := r.pc == pc && ids.contains r.crew

/-- A rejected instruction still waits: its crew stands at it, or the operand log holds it (R82). -/
def Reject.stands (s : State) (r : Reject) : Bool :=
  match crewAt s r.crew with
  | none => false
  | some c => (match c.log with | some e => e.req.pc == r.pc | none => false) || (!c.ended && (entryAt c r.pc).isSome)

/-- A rejected instruction can use miss entries now: its crew may issue it, or the operand log holds it (R82). -/
def Reject.ready (s : State) (r : Reject) : Bool :=
  match crewAt s r.crew with
  | none => false
  | some c =>
    (match c.log with | some e => e.req.pc == r.pc && running s c | none => false) ||
    (mayIssue s c && (match entryAt c r.pc with | some e => e.wait != some .rendezvous && e.wait != some .order | none => false))

/-- Rejected instructions of a core that go before an instruction of the crews `ids`: all of them, or those older than its own rejection (R82). -/
def rejectsBefore (k : CoreSt) (ids : List Nat) (pc : Word) : List Reject := k.rejects.takeWhile fun r => !r.isOf ids pc

/-- An access of the crews `ids` that needs `need` further miss entries is accepted now (R81, R82): 128 a core, and a rejected instruction
that can use entries goes before newer ones; after the ageing limit nothing else takes an entry.  An instruction of several crews that needs more
than 128 by itself is never accepted, because R81 accepts none that cannot have all at once (DEDUCED, log entry 53). -/
def entriesFree (s : State) (core : Nat) (ids : List Nat) (pc : Word) (need : Nat) : Bool :=
  match coreAt s core with
  | none => false
  | some k =>
    need = 0 ||
    (decide ((missLines s core).length + need ≤ 128) &&
      (rejectsBefore k ids pc).all fun r => !(r.aged && r.stands s) && !r.ready s)

/-- The instruction is among the rejected ones of its core. -/
def rejected (s : State) (c : Crew) (pc : Word) : Bool :=
  match coreAt s c.core with
  | some k => k.rejects.any fun r => r.isOf [c.id] pc
  | none => false

/-- A rejection: ranked by its first time, with a trace record at each (R81, R82). -/
def reject (s : State) (c : Crew) (pc : Word) : State :=
  let s := modCore s c.core fun k =>
    if k.rejects.any fun r => r.crew == c.id && r.pc == pc then k else { k with rejects := k.rejects ++ [⟨c.id, pc, false⟩] }
  emitLoc s c .mem 8 2 0 0 pc []

/-- The instruction is no longer rejected. -/
def accept (s : State) (c : Crew) (pc : Word) : State :=
  modCore s c.core fun k => { k with rejects := k.rejects.filter fun r => !(r.crew == c.id && r.pc == pc) }

/-! ### Flights -/

/-- A flight by its number. -/
def flightAt (s : State) (id : Nat) : Option Flight := s.flights.find? fun f => f.id == id

/-- The machine with one flight replaced. -/
def setFlight (s : State) (f : Flight) : State := { s with flights := s.flights.map fun x => if x.id == f.id then f else x }

/-- The machine without a flight. -/
def endFlight (s : State) (id : Nat) : State := { s with flights := s.flights.filter fun x => x.id != id }

/-- Byte offsets of the flight's units in a line. -/
def flightOffs (f : Flight) (line : Nat) : List Nat :=
  (f.lanes.filter fun u => u.2 / 256 == line).flatMap fun u => (List.range f.op.size).map fun k => u.2 % 256 + k

/-- An older flight of the same crew stands on the line (R87); a PREF is ordered with nothing (R90). -/
def crewAhead (s : State) (f : Flight) (line : Nat) : Bool :=
  !f.isPref && s.flights.any fun g => g.crew == f.crew && !g.isPref && decide (g.id < f.id) && g.todo.contains line

/-- An older write of the same core stands on the line: writes of a core to a line are performed in issue order. -/
def coreAhead (s : State) (f : Flight) (line : Nat) : Bool :=
  s.flights.any fun g => g.core == f.core && decide (g.id < f.id) && g.op.writes && g.todo.contains line

/-- The line is served without a place in the L1 (R80, R57, R241). -/
def Flight.direct (f : Flight) (line : Nat) : Bool := f.noalloc || f.home || f.uncached.contains line

/-- The flight's bytes of a line, as sectors. -/
def flightSectors (f : Flight) (line : Nat) : BitVec 4 := sectorsOf (flightOffs f line)

/-- The access pins: core scope, cached, and its policy is not "no L1" (R240, R245). -/
def Flight.pins (f : Flight) (line : Nat) : Bool := f.scope = 0 && !f.noalloc && !f.uncached.contains line

/-- Every sector of a mask has data of its own in the line: it is filled, or bytes of it are written. -/
def sectorsHeld (l : L1Line) (m : BitVec 4) : Bool :=
  (List.range 4).all fun i => !m.getLsbD i || l.valid.getLsbD i || (List.range 64).any fun j => l.written.getLsbD (64 * i + j)

/-- A core can pin one more line: at most 64, and 6 in a set (R245). -/
def canPin (k : CoreSt) (line : Nat) : Bool :=
  decide ((k.l1.filter fun x => x.pin.isSome).length < 64) && decide ((k.l1.filter fun x => x.pin.isSome && x.key % 256 == line % 256).length < 6)

/-- An ordered access of core scope is performed in the L1: its line is pinned, or the core can pin it (R245). -/
def pinsHere (s : State) (f : Flight) (line : Nat) : Bool :=
  (match f.op with | .atomic .. | .strel => f.pins line | _ => false) &&
  match coreAt s f.core with
  | some k => !k.pinPolicy.getLsbD 0 && ((k.l1.any fun l => l.key == line && l.pin.isSome) || canPin k line)
  | none => false

/-- A line that a flight needs is missing in the L1: a read's sectors are not there or too old, an access that is to be performed at home goes past it, or
a store finds no data of its sectors (R79, R81, R85, R245). -/
def lineMisses (s : State) (f : Flight) (line : Nat) : Bool :=
  f.direct line ||
    (match l1Line s f.core line with
      | none => true
      | some l =>
        match f.op with
        | .load .. | .ldacq | .ldm _ => !lineServes l (flightSectors f line) f.clock
        | .atomic .. => !(f.pins line && l.pin.isSome && l.valid &&& flightSectors f line == flightSectors f line)
        | .store .. | .stm _ | .strel => !sectorsHeld l (flightSectors f line))

/-- The access of a flight to a line is performed at the line's home slice: not one that the L1 serves, and not an ordered access of core scope, which the
L1 performs (R85, R245, R354). -/
def reachesSlice (s : State) (f : Flight) (line : Nat) : Bool :=
  match f.op with
  | .load .. | .ldacq | .ldm _ => lineMisses s f line
  | .atomic .. | .strel => !pinsHere s f line
  | .store .. | .stm _ => true

/-- The sectors of a line that serving a flight reads or writes at the home slice: none of a load that the L1 serves; those that a pin fills, which for a line that is
not yet pinned are all that the access needs or the L1 holds (R245); else those that the access touches. -/
def homeSectors (s : State) (f : Flight) (line : Nat) : List Nat :=
  let own (i : Nat) : Bool := (flightOffs f line).any (· / 64 == i)
  (List.range 4).filter fun i =>
    if pinsHere s f line then
      match l1Line s f.core line with
      | some l => if l.pin.isSome then own i && !l.valid.getLsbD i else own i || l.valid.getLsbD i
      | none => own i
    else own i && (f.op.writes || lineMisses s f line)

/-- Sectors that the host must give up before the flight's line is served: those it reads at home, or writes there (R46). -/
def hostSectors (s : State) (f : Flight) (line : Nat) : List Nat :=
  hostBars s (f.op.writes && !pinsHere s f line) ((homeSectors s f line).map (line * 4 + ·))

/-- A store of the core under way on the line whose bytes the crew has read in the L1: a read at the home slice waits for it, so that the crew's reads of a byte
agree with their order (R87, R250). -/
def seenAhead (s : State) (f : Flight) (line : Nat) : Bool :=
  match crewAt s f.crew with
  | some c => s.flights.any fun g => c.seen.contains g.id && g.todo.contains line
  | none => false

/-- The lines whose write-back must come first: the line itself where the access is performed at home, or one that an allocation pushes out. -/
def flightRoom (s : State) (f : Flight) (line : Nat) : List Nat :=
  if f.direct line then wbWaits s f.core [line]
  else match f.op with
    | .load .. | .ldacq | .ldm _ => roomWaits s f.core [line]
    | .atomic .. => if pinsHere s f line then roomWaits s f.core [line] else wbWaits s f.core [line]
    | .strel => if pinsHere s f line then roomWaits s f.core [line] else []
    | .store .. | .stm _ => []

/-- The first registers of the flight's LDM or STM have reached the line's home slice (R354). -/
def partCounted (s : State) (f : Flight) (line : Nat) : Bool :=
  f.req.done != 0 && match crewAt s f.crew with
  | some c => c.partLines.contains (f.req.pc, line)
  | none => false

/-- The flight's access to a line as its home slice counts it: once for an instruction, the first registers of an LDM or STM and the rest together (R354, R355). -/
def flightAccess (s : State) (f : Flight) (line : Nat) : State :=
  if !reachesSlice s f line || partCounted s f line then s
  else
    let s := sliceAccess s line (regionReq s f.crew)
    if f.part then modCrew s f.crew fun c => { c with partLines := (f.req.pc, line) :: c.partLines } else s

/-- The line can be served now, but for the host's hold and for room (R65, R87, R246, R255, R355). -/
def lineReady (s : State) (f : Flight) (line : Nat) : Bool :=
  f.todo.contains line && !crewAhead s f line && (!f.op.writes || !coreAhead s f line) &&
  !pinnedElsewhere s f.core line && !linkBars s f.core line && !(f.direct line && seenAhead s f line) &&
  (appliedClock s (dieOfCore f.core)).covers f.clock && (!reachesSlice s f line || partCounted s f line || gateOpen s line (regionReq s f.crew))

/-- The state in which a line is served, or none with the snoops that it waits for. -/
def lineGo (s : State) (f : Flight) (line : Nat) : Option State × State :=
  if !lineReady s f line then (none, { s with progress := false })
  else
    let secs := hostSectors s f line
    let room := flightRoom s f line
    if secs.isEmpty && room.isEmpty then (some (flightAccess s f line), s)
    else
      let asked := room.foldl (fun s k => wbAsk s f.core k) (askHost s secs)
      (none, { asked with progress := asked.biWait != s.biWait })

/-- Word `i` of a unit's bytes. -/
def gotWord (f : Flight) (pk i : Nat) : Word := BitVec.ofNat 32 (readNat f.got (pk + 4 * i) 4)

/-- A loaded value in a register: bytes and halfwords extend (Table 4-8). -/
def extend (size : Nat) (sx : Bool) (v : Nat) : Word :=
  if size < 4 then BitVec.ofNat 32 (if sx then wrap 32 (sgn (8 * size) v) else v) else BitVec.ofNat 32 v

/-- The format given to loaded registers (Table 4-8). -/
def loadFmt (size : Nat) (sx : Bool) (rf : Fmt) : Fmt :=
  if size = 1 then .i32
  else if size = 2 then (if !sx && (rf == .fp16x2 || rf == .fp16x1) then .fp16x1 else .i32)
  else rf

/-- Taint of a destination: the instruction's slot. -/
def slotTaint (q : MemReq) : BitVec 9 := match q.slot with | some k => slotBit k | none => 0

/-- Word `i` of a load in a lane; 0 where the lane is out of bounds (R74). -/
def loadWord (f : Flight) (size : Nat) (sx : Bool) (i l : Nat) : Word :=
  match f.lanes.find? fun u => u.1 == l with
  | some (_, pk) => extend size sx (readNat f.got (pk + 4 * i) (min 4 size))
  | none => 0

/-- A returned slot, or nothing when the instruction has none (R128). -/
def giveSlot (c : Crew) (f : Flight) : Crew := match f.req.slot with | some k => returnSlot c k f.rclock | none => c

/-- The lanes that a returned access writes: those of its act that have not exited (R283; log entry 68 on Table 19-5). -/
def writeMask (f : Flight) (c : Crew) : Mask := f.req.act &&& c.live

/-- Destinations of a returned load (R85). -/
def writeLoad (f : Flight) (size n : Nat) (sx : Bool) (c : Crew) : Crew :=
  let sh : Shape := if f.uidx && f.full then .u else .g
  (List.range n).foldl (fun c i =>
    writeVd c (f.vd + i) (laneReg sh f.fmt (slotTaint f.req) (loadWord f size sx i)) (writeMask f c) f.full) c

/-- vd of a returned atomic (R238). -/
def writeAtomic (f : Flight) (c : Crew) : Crew :=
  writeVd c f.vd (laneReg .g f.fmt (slotTaint f.req) fun l => if f.lanes.any fun u => u.1 == l then sget 0 f.old l else 0) (writeMask f c) f.full

/-- Word `w` of image `i` of an LDM; 0 where it was not read. -/
def ldmWord (f : Flight) (i w : Nat) : Word :=
  match f.lanes.find? fun u => u.1 == 33 * i + w with
  | some (_, pk) => gotWord f pk 0
  | none => 0

/-- Register `i` of an LDM from its image; none when its tag word is reserved (R143). -/
def ldmReg (f : Flight) (c : Crew) (i : Nat) : Option Reg :=
  let t := (ldmWord f i 0).toNat
  match shapeCode? (t % 4), fmtCode? (t / 4 % 16) with
  | some sh, some fm =>
    if t / 2 ^ 15 ≠ 0 then none
    else
      let w (l : Nat) : Word := ldmWord f i (l + 1)
      let lanes := match f.full, sh with
        | true, .u => List.replicate 32 (w 0)
        | true, .a => laneIds.map fun l => w 0 + BitVec.ofNat 32 l * (w 1 - w 0)
        | _, _ => laneIds.map w
      some (regWrite (vreg c (f.vd + i)) ⟨sh, fm, slotTaint f.req, lanes⟩ (writeMask f c) f.full)
  | _, _ => none

/-- Registers of an LDM from `i` on, in order; the first bad image's number ends it (R143). -/
def ldmRegs (f : Flight) : Nat → Nat → Crew → Crew × Option Nat
  | 0, _, c => (c, none)
  | n + 1, i, c =>
    match ldmReg f c i with
    | some r => ldmRegs f n (i + 1) (setReg c (f.vd + i) r)
    | none => (c, some i)

/-- The entry that traps for an access that has left its instruction: the one that holds the lowest of its lanes. -/
def standIn (c : Crew) (q : MemReq) : Word :=
  if (entryAt c q.pc).isSome then q.pc
  else
    match laneIds.findSome? fun l => if laneIn q.act l then c.entries.find? fun e => laneIn e.mask l else none with
    | some e => e.pc
    | none => match c.entries.head? with
      | some e => e.pc
      | none => q.pc

/-- A trap at an access's instruction, from the operand log or from an LDM (R312, R324). -/
def trapAccessAt (s : State) (c : Crew) (q : MemReq) (code : Nat) (lanes : Mask) (recs : List FaultRec) (done : Option Nat) : State :=
  enterTrap s c.id (standIn c q) ⟨code, lanes, q.pc, q.iword, q.lit, q.pc + BitVec.ofNat 32 (instrLength q.iword.toNat), recs, done⟩

/-- The entry of a parked instruction goes on. -/
def unpark (s : State) (f : Flight) : State :=
  if f.parked then
    match advance s f.crew f.req.pc (f.req.pc + BitVec.ofNat 32 (instrLength f.req.iword.toNat)) with
    | .ok s => s
    | .error _ => s
  else s

/-- Why the entry of a parked instruction cannot go on. -/
def unparkErr (s : State) (f : Flight) : Option FrontErr :=
  if f.parked && !f.part then
    match advance s f.crew f.req.pc (f.req.pc + BitVec.ofNat 32 (instrLength f.req.iword.toNat)) with
    | .ok _ => none
    | .error e => some e
  else none

/-- The access stands in the crew's operand log, of which the flight carries the first registers. -/
def partLogged (c : Crew) (f : Flight) : Bool :=
  f.part && (match c.log with | some e => e.req.pc == f.req.pc && e.req.slot == f.req.slot | none => false)

/-- The crew after an LDM's data have come: its slot has returned, or for the first registers of a logged one has gained their clock, and its
place in the group is kept where the rest is to be tried again (R143). -/
def ldmReturn (c : Crew) (f : Flight) (n : Nat) : Crew :=
  if partLogged c f then (match f.req.slot with | some k => gainSlot c k f.rclock | none => c)
  else giveSlot { c with ldmDone := if f.part then some (f.req.pc, n) else none } f

/-- The flight is the program's under a handler: its slot was taken before the trap (R325). -/
def Flight.under (f : Flight) (c : Crew) : Bool :=
  c.priv && (match f.req.slot with | some k => !c.newSlots.getLsbD k | none => false)

/-- A flight's results written: where the crew runs a handler and the access was logged before the trap, v48 to v59 are those that the frame
holds (R311, R323). -/
def giveResult (s : State) (f : Flight) (c : Crew) (g : Crew → Crew) : State :=
  let va := frameVa s c + 0x590
  let some12 (rs : Nat → Reg) (c : Crew) : Crew := { c with regs := (List.range 12).foldl (fun l i => l.set (48 + i) (rs i)) c.regs }
  if !(f.under c && (f.op.dests f.vd).any (48 ≤ ·)) then setCrew s (g c)
  else match peekVa s c.core (pasidOf s c) true va 1584 with
    | none => setCrew s (g c)
    | some (bs, s) =>
      let c' := g (some12 (fun i => (regOfImage ((bs.drop (132 * i)).take 132)).getD Reg.zero) c)
      let s := (pokeVa s c.core (pasidOf s c) true (addrs va ((List.range 12).flatMap fun i => regImage (vreg c' (48 + i))))).getD s
      setCrew s (some12 (fun i => vreg c (48 + i)) c')

/-- An LDM with all its data: its registers are written in order; a reserved tag word traps with FORMAT once nothing else of the
crew is in flight (R143, R322, R324; DEDUCED, log entry 14).  Where its entry cannot go on, because a stacked record that would come in is poisoned or the
stack is disabled, it traps with SOFT or FRONTIER and writes nothing (R271). -/
def finishLdm (s : State) (f : Flight) (n : Nat) : State :=
  match crewAt s f.crew with
  | none => endFlight s f.id
  | some c =>
    if c.ended then endFlight s f.id
    else
      match ldmRegs f (n - f.req.done) f.req.done c with
      | (_, none) =>
        match unparkErr s f with
        | some .busy => s
        | some e => ldmTrap s f c (if e == .soft then trapSoft else trapFrontier) none c
        | none =>
        let s := giveResult (endFlight s f.id) f c fun c => ldmReturn (ldmRegs f (n - f.req.done) f.req.done c).1 f n
        if f.part then s else unpark s f
      | (c', some i) => ldmTrap s f c' trapFormat (some i) c
where
  /-- The LDM traps at its instruction with what it has written in `c'`, once nothing else of the crew is in flight. -/
  ldmTrap (s : State) (f : Flight) (c' : Crew) (code : Nat) (done : Option Nat) (c : Crew) : State :=
    match trapReady (endFlight s f.id) [c.id] with
    | (true, s) =>
      let c' := giveSlot { c' with ldmDone := none, log := if partLogged c' f then none else c'.log } f
      trapAccessAt (setCrew s c') c' f.req code f.req.act [] done
    | (false, t) => { t with flights := s.flights }

/-- An access whose lines have all been served ends (R85, R238, R241). -/
def endAccess (s : State) (f : Flight) : State :=
  match f.op with
  | .ldm n => finishLdm s f n
  | _ =>
    let s := endFlight s f.id
    match crewAt s f.crew with
    | none => s
    | some c =>
      match f.op with
      | .load size n sx => if c.ended then s else giveResult s f c fun c => giveSlot (writeLoad f size n sx c) f
      | .ldacq => if c.ended then s else acquireClock (giveResult s f c fun c => giveSlot (writeLoad f 4 1 false c) f) f.crew f.rclock
      | .atomic _ _ =>
        let s := if c.ended then s else giveResult s f c fun c => giveSlot (writeAtomic f c) f
        let bs := f.lanes.flatMap fun u => leSplit 8 ((effAddr f.req.record (f.req.index u.1 * rStride f.req.record))) ++ wordBytes (sget 0 f.old u.1)
        let s := hashFill s f.crew f.id bs
        if f.op.acquires && !c.ended then acquireClock s f.crew f.rclock else s
      | _ => s

/-- The trap frame that takes an access's results is at hand, where it takes them (R46, R65, R246, R311, R323; DESIGN CHOICE, log entry 29). -/
def frameReady (s : State) (f : Flight) (c : Crew) : Bool × State :=
  if f.under c && (f.op.dests f.vd).any (48 ≤ ·) then
    pagesReady s (.wait c.id) c.core (pasidOf s c) true [(frameVa s c + 0x590, .read), (frameVa s c + 0x590, .write)]
  else (true, s)

/-- An access with nothing left to serve stays under way. -/
def keepFlight (s : State) (f : Flight) : State :=
  if (flightAt s f.id).isSome then setFlight s f
  else { s with flights := s.flights ++ [{ f with id := s.nextId, todo := [] }], nextId := s.nextId + 1 }

/-- An access whose lines have all been served ends, or waits for the frame that takes its results. -/
def finishFlight (s : State) (f : Flight) : State :=
  match crewAt s f.crew with
  | none => endAccess s f
  | some c =>
    match if c.ended then (true, s) else frameReady s f c with
    | (true, s) => endAccess s f
    | (false, s) => keepFlight s f

/-- The flight with one line served, as OUTCOME `by_` of Table 15-6 says; the sampled line ends with its record, and the access with its last line (R347). -/
def lineDone (s : State) (f : Flight) (line by_ : Nat) : State :=
  let s := if f.sampled && f.lanes.head?.any (fun u => u.2 / 256 == line) then emitSample s f by_ else s
  let f := { f with todo := f.todo.filter (· != line) }
  let s := setFlight s f
  if f.todo.isEmpty then finishFlight s f else s

/-- One byte read at the home slice on behalf of a core: its own written bytes count (R80, R87). -/
def directByte (s : State) (core a : Nat) : Byte × Clock :=
  match l1Line s core (a / 256) with
  | some l => if l.written.getLsbD (a % 256) then (sget 0 l.data (a % 256), sget Clock.zero l.clks (a % 256))
    else (readByte s.mem a, sget Clock.zero s.wclk a)
  | none => (readByte s.mem a, sget Clock.zero s.wclk a)

/-- The line filled for a flight, at the position its policy gives (R70, R77). -/
def fillFor (s : State) (f : Flight) (line : Nat) : State :=
  let s := fillLine s f.core line (sectorsOf (flightOffs f line)) f.keep
  if f.low then
    match l1Line s f.core line with
    | some l => putLine s f.core { l with used := 0 }
    | none => s
  else s

/-- OUTCOME of Table 15-6 for a line of a flight that is about to be served. -/
def outcomeOf (s : State) (f : Flight) (line : Nat) : Nat :=
  if !lineMisses s f line then 0
  else servedFrom s f.core ((f.lanes.head?.map (·.2)).getD (line * 256)) (f.uncached.contains line)

/-- The crew has read bytes in its core's L1: the stores under way that they come from are noted (R87, R250). -/
def seeStores (s : State) (f : Flight) (as : List Nat) : State :=
  let gs := (s.flights.filter fun g => g.core == f.core && g.crew != f.crew && g.op != .strel &&
    as.any fun a => (flightBytes g (a / 256)).any fun w => w.1 == a).map (·.id)
  if gs.isEmpty then s
  else modCrew s f.crew fun c => { c with seen := (c.seen.filter fun n => s.flights.any fun g => g.id == n) ++ gs.filter fun n => !c.seen.contains n }

/-- The data of a load's line (R85, R252): read at the home slice, from an L1 line that serves it, or through a fill of the L1.  What the L1 holds of
a line read at its home follows the read, so that no later load of the core goes back behind it (R250). -/
def serveLoad (s : State) (f : Flight) (line : Nat) : State :=
  let d := f.direct line
  let hit := !lineMisses s f line
  let by_ := outcomeOf s f line
  let secs := ((List.range 4).filter (flightSectors f line).getLsbD).map (line * 4 + ·)
  let s := if d then refreshLine (if f.uncached.contains line then s else mesiRead s secs) f.core line (flightSectors f line)
    else if hit then (if f.low then s else touchLine s f.core line) else fillFor s f line
  let as := (flightOffs f line).map (line * 256 + ·)
  let s := if d then s else seeStores s f as
  let rd (a : Nat) : Byte × Clock := if d then directByte s f.core a else (coreByte s f.core a, coreClock s f.core a)
  let got := sputAll 0 f.got (as.map fun a => (a, (rd a).1))
  let k := as.foldl (fun k a => k.sup (rd a).2) f.rclock
  lineDone s { f with got := got, rclock := k } line by_

/-- The clocks of bytes in a core's L1 copy, younger written bytes left alone. -/
def l1Clocks (s : State) (core : Nat) (k : Clock) (as : List Nat) : State :=
  modCore s core fun c => { c with l1 := c.l1.map fun l =>
    { l with clks := sputAll Clock.zero l.clks ((as.filter fun a => a / 256 == l.key && !l.written.getLsbD (a % 256)).map fun a => (a % 256, k)) } }

/-- Bytes that younger stores of the core under way lie over in the L1: they keep what those stores are ordered after (R248). -/
def laterOver (s : State) (f : Flight) (as : List Nat) : List Nat :=
  as.filter fun a => s.flights.any fun g => g.core == f.core && decide (f.id < g.id) && g.op != .strel && (flightBytes g (a / 256)).any fun w => w.1 == a

/-- A write performed at its home slice for a crew, which no stack cache keeps where its page has TYPE 01 (R57): its clock, the crew's history and, for a release of fabric or system scope, the
release order (R250, R253, R254). -/
def homePerform (s : State) (f : Flight) (ws : List (Nat × Byte)) : State :=
  match ws.head? with
  | none => s
  | some (a, _) =>
    if badDpa s a then s
    else
      let wide := f.op.releases && decide (2 ≤ f.scope)
      let k := writeClock s a (if wide then f.clock.sup s.relClock else f.clock)
      let s := homeWrite s (if wide then f.clock.sup s.relClock else f.clock) ws
      let s := if f.uncached.contains (a / 256) then mesiDrop s (sectorKeys ws) else s
      let later := laterOver s f (ws.map (·.1))
      let s := l1Clocks s f.core k ((ws.map (·.1)).filter fun a => !later.contains a)
      let s := modCrew s f.crew fun c => { c with hist := c.hist.sup k }
      if wide then { s with relClock := s.relClock.sup k } else s

/-- The core pins a line for a block, its needed sectors filled, at the position that the policy gives (R70, R245): none when the access is to be
performed at its home slice instead.  A sector that holds data from before the pin is filled again with it, so that what a pinned line holds is current (R250). -/
def pinLine (s : State) (core block line : Nat) (secs : BitVec 4) (keep low : Bool) : Option State :=
  match coreAt s core with
  | none => none
  | some k =>
    if k.pinPolicy.getLsbD 0 then none
    else
      match l1Line s core line with
      | some l =>
        if l.pin.isSome then
          let s := if l.valid &&& secs = secs then s else fillLine s core line (secs &&& ~~~l.valid) keep
          some (if low then s else touchLine s core line)
        else pinNew k
      | none => pinNew k
where
  /-- A line that no block of the core has pinned. -/
  pinNew (k : CoreSt) : Option State :=
    if !canPin k line then none
    else
      let t := fillLine s core line (secs ||| match l1Line s core line with | some l => l.valid | none => 0) keep
      match l1Line t core line with
      | some l =>
        let t := putLine t core { l with pin := some block }
        some (if low && (l1Line s core line).isNone then lowLine t core line else t)
      | none => none

/-- A store's bytes in a line. -/
def storeBytes (f : Flight) (line : Nat) : List (Nat × Byte) := f.bytes.filter fun w => w.1 / 256 == line

/-- OUTCOME of Table 15-6 for a line of a flight that is about to be performed at its home slice. -/
def homeOutcome (s : State) (f : Flight) (line : Nat) : Nat :=
  servedFrom s f.core ((f.lanes.head?.map (·.2)).getD (line * 256)) (f.uncached.contains line)

/-- A write reaches the place where it is performed: its home slice, or for a core-scope STREL the pinned line.  A STREL performed at home is in the L1 copy
from then on, with its clock, and the written marks of its bytes clear (R79, R244, R245). -/
def performStore (s : State) (f : Flight) (line : Nat) : State :=
  let ws := storeBytes f line
  let by_ := outcomeOf s f line
  if f.op == .strel then
    match if f.pins line then pinLine s f.core f.block line (flightSectors f line) f.keep f.low else none with
    | some s => lineDone (nearWrites (l1Store s f.core false f.clock ws) f.crew ws) f line by_
    | none => lineDone (homePerform (l1Through s f.core ws f.clock) f ws) f line (homeOutcome s f line)
  else lineDone (homePerform s f ws) f line (homeOutcome s f line)

/-- One lane of an atomic: its word as it was, and the machine with the new one, whose write is ordered after what the word it replaces was: an atomic hands the
release on that it follows in its word (R238, R248; DEDUCED, log entry 89). -/
def atomicLane (inL1 : Bool) (o : AOp) (f : Flight) (acc : State × Sparse Word × Clock) (u : Nat × Nat) : State × Sparse Word × Clock :=
  let (s, old, k) := acc
  let as := (List.range 4).map (u.2 + ·)
  let m : Word := BitVec.ofNat 32 (leValue (as.map fun a => if inL1 then coreByte s f.core a else readByte s.mem a))
  let kw := as.foldl (fun k a => k.sup (if inL1 then coreClock s f.core a else sget Clock.zero s.wclk a)) Clock.zero
  let k := k.sup kw
  let old := sput 0 old u.1 m
  match o.apply f.fmt m ((f.req.data 0).at u.1) ((f.req.data 1).at u.1) with
  | none => (s, old, k)
  | some w =>
    let ws := addrs u.2 (wordBytes w)
    let f := { f with clock := f.clock.sup kw }
    (if inL1 then nearWrites (l1Store s f.core false f.clock ws) f.crew ws else homePerform s f ws, old, k)

/-- The lanes of an atomic on one line, in ascending order, as one group (R239, R240, R245); a sector of host memory is held exclusive, written or not.  After one performed at home the core's copy follows what
it has read and written, younger writes of the core over it (R250). -/
def performAtomic (s : State) (f : Flight) (o : AOp) (line : Nat) : State :=
  let us := f.lanes.filter fun u => u.2 / 256 == line
  let secs := ((List.range 4).filter (flightSectors f line).getLsbD).map (line * 4 + ·)
  let pinned := if f.pins line then pinLine s f.core f.block line (flightSectors f line) f.keep f.low else none
  let (s', inL1) := match pinned with
    | some s' => (s', true)
    | none => (if f.uncached.contains line then writeBack s f.core line else mesiOwn (writeBack s f.core line) secs, false)
  let (s', old, k) := us.foldl (atomicLane inL1 o f) (s', f.old, f.rclock)
  let s' := if inL1 then seeStores s' f ((flightOffs f line).map (line * 256 + ·)) else refreshLine s' f.core line (flightSectors f line)
  lineDone s' { f with old := old, rclock := k } line (if inL1 then outcomeOf s f line else homeOutcome s f line)

/-! ### Issue of an access -/

/-- What the start of an access comes to. -/
inductive Start where
  | ok (s : State)
  | stall (s : State)
  | reject
deriving Repr

/-- A unit's bytes are poisoned for the access: in the L1 copy when the L1 serves it, else at home, bytes that its core has written apart (R44). -/
def unitPoisoned (s : State) (f : Flight) (u : KeyUnit) : Bool :=
  let line := u.pk / 256
  match l1Line s f.core line with
  | none => poisoned s u.pk
  | some l =>
    if !lineMisses s f line then l.poison.getLsbD (u.pk % 256 / 64)
    else poisoned s u.pk && (f.direct line || (List.range f.op.size).any fun j => !l.written.getLsbD (u.pk % 256 + j))

/-- Bytes with addresses, each address once: a later one replaces an earlier one (R86). -/
def lastBytes (ws : List (Nat × Byte)) : List (Nat × Byte) :=
  ws.foldr (fun w acc => if acc.any fun x => x.1 == w.1 then acc else w :: acc) []

/-- The bytes that a unit stores (R86, R143). -/
def unitBytes (o : MemOp) (q : MemReq) (u : KeyUnit) : List (Nat × Byte) :=
  match o with
  | .store n _ => addrs u.pk (((List.range ((n + 3) / 4)).flatMap fun i => wordBytes ((q.data i).at u.no)).take n)
  | .strel => addrs u.pk (wordBytes ((q.data 0).at u.no))
  | .stm _ =>
    let r := q.data (u.no / 33)
    addrs u.pk (wordBytes (if u.no % 33 = 0 then tagWord { r with taint := 0 } else r.at (u.no % 33 - 1)))
  | _ => []

/-- Bytes of a store for the hash: each lane's VA and data (R356). -/
def hashBytes (o : MemOp) (q : MemReq) (us : List KeyUnit) : List Byte :=
  match o with
  | .store .. | .strel => us.flatMap fun u => leSplit 8 u.va ++ (unitBytes o q u).map (·.2)
  | _ => []

/-- The clock that an access waits for (R85, R86, R238): its registers' and its record's taint, and the crew's acquires; a read also waits for the copies that
the crew has waited for by BARO or BAR, which no write of it carries on (R113, R115, R116, R257). -/
def accessClock (c : Crew) (a : Acc) (q : MemReq) : Clock :=
  (taintClock c (q.images.foldl (fun t r => t ||| r.taint) (recAt c a.m.toNat).taint)).sup (if a.op.writes then c.acq else c.acq.sup c.copyAcq)

/-- The flight of an access.  A load through a flat record has a uniform address when both registers of its index pair have shape U (DEDUCED, log entry 55). -/
def newFlight (s : State) (c : Crew) (a : Acc) (q : MemReq) (full parked : Bool) (k : Clock) (us : List KeyUnit) : Flight :=
  let r := q.record
  let sc := rScope r
  let pol := policyOf r a.hint.toNat
  { id := s.nextId, crew := c.id, core := c.core, block := c.block, op := a.op, vd := a.reg.toNat
    fmt := match a.op with
      | .load n _ sx => loadFmt n sx (recordFmt r)
      | .ldacq => recordFmt r
      | _ => (q.data 0).fmt
    req := q, full := full, uidx := (q.images.take (idxImages r)).all fun x => x.shape == .u
    lanes := us.map fun u => (u.no, u.pk)
    bytes := if a.op.writes then lastBytes (us.flatMap (unitBytes a.op q)) else []
    todo := (us.map fun u => u.pk / 256).eraseDups, uncached := ((us.filter (·.unc)).map fun u => u.pk / 256).eraseDups
    home := a.op == .ldacq && decide (1 ≤ sc), scope := sc, noalloc := pol == 2, keep := pol == 3, low := pol == 1
    missed := [], clock := k, rclock := Clock.zero, got := [], old := [], parked := parked, part := false, sampled := false }

/-- A load whose lines all hit the L1 ends at issue (R76, R78, R85). -/
def hitLoad (s : State) (f : Flight) : State :=
  let as := f.todo.flatMap fun line => (flightOffs f line).map (line * 256 + ·)
  let got := { f with got := sputAll 0 [] (as.map fun a => (a, coreByte s f.core a)), todo := []
                      rclock := as.foldl (fun k a => k.sup (coreClock s f.core a)) Clock.zero }
  let s := seeStores (if f.sampled then emitSample s f 0 else s) f as
  finishFlight (if f.low then s else f.todo.foldl (fun s l => touchLine s f.core l) s) got

/-- An older read of the crew stands on one of the lines: a store behind it waits, so the read cannot see it (R87). -/
def readAhead (s : State) (crew : Nat) (lines : List Nat) : Bool :=
  (flightsOf s crew).any fun g => g.op.reads && g.todo.any lines.contains

/-- A wide write of the crew, or a core-scope STREL of it, is under way on one of the lines (R87). -/
def writeAhead (s : State) (crew : Nat) (lines : List Nat) : Bool :=
  (flightsOf s crew).any fun g => g.op.writes && g.todo.any lines.contains

/-- The lines of a flight for which a further miss entry must be taken (R81). -/
def newMisses (s : State) (f : Flight) : List Nat := (f.todo.filter (lineMisses s f)).filter fun l => !(missLines s f.core).contains l

/-- A plain store or STM: core-scope bytes go to the L1 at once, the others are on their way home, the L1 copy following (R79, R80).  Each line that misses
needs a miss entry, which a store in the L1 gives back at once (R81; DESIGN CHOICE, log entry 53). -/
def startStore (s : State) (ids : List Nat) (f : Flight) (hash : List Byte) : Start :=
  let inL1 (a : Nat) : Bool := f.scope = 0 && !f.noalloc && !f.uncached.contains (a / 256)
  let near := f.bytes.filter fun w => inL1 w.1
  let far := f.bytes.filter fun w => !inL1 w.1
  let nearL := (near.map fun w => w.1 / 256).eraseDups
  let direct := f.todo.filter f.direct
  if readAhead s f.crew f.todo || writeAhead s f.crew nearL || (!near.isEmpty && !(appliedClock s (dieOfCore f.core)).covers f.clock) then .stall s
  else if !entriesFree s f.core ids f.req.pc (newMisses s f).length then .reject
  else
    let miss := f.todo.filter (lineMisses s f)
    let waits := roomWaits s f.core nearL ++ wbWaits s f.core direct
    if !waits.isEmpty then .stall (waits.foldl (fun s k => wbAsk s f.core k) s)
    else
      let s := purge s f.core direct
      let s := placeLines s (nearWrites (l1Store s f.core f.keep f.clock near) f.crew near) f.core f.low nearL
      let s := l1Through s f.core far f.clock
      let s := hashPush s f.crew none hash
      let here := f.lanes.head?.any fun u => inL1 u.2
      let s := if f.sampled && here then emitSample s f 0 else s
      if far.isEmpty then .ok s
      else .ok { s with flights := s.flights ++ [{ f with bytes := far, todo := (far.map fun w => w.1 / 256).eraseDups, missed := miss, sampled := f.sampled && !here }], nextId := s.nextId + 1 }

/-- A load, LDACQ or LDM: ended at issue when every line hits, else on its way with its miss entries (R81, R85). -/
def startLoad (s : State) (ids : List Nat) (f : Flight) : Start :=
  let direct := f.todo.filter f.direct
  let miss := f.todo.filter (lineMisses s f)
  let quiet := (flightsOf s f.crew).all fun g => !g.todo.any f.todo.contains
  if miss.isEmpty && quiet && !f.parked && !f.part then .ok (hitLoad s f)
  else if !entriesFree s f.core ids f.req.pc (newMisses s f).length then .reject
  else
    match wbWaits s f.core direct with
    | [] =>
      let s := purge s f.core direct
      .ok { s with flights := s.flights ++ [{ f with missed := miss }], nextId := s.nextId + 1 }
    | ks => .stall (ks.foldl (fun s k => wbAsk s f.core k) s)

/-- An atomic or a STREL: on its way with its miss entries (R81, R238, R241).  A STREL's bytes are seen by nobody before they are performed (R244). -/
def startOrdered (s : State) (ids : List Nat) (f : Flight) (hash : List Byte) : Start :=
  if !f.op.reads && readAhead s f.crew f.todo then .stall s
  else if !entriesFree s f.core ids f.req.pc (newMisses s f).length then .reject
  else
    let direct := f.todo.filter f.direct
    match wbWaits s f.core direct with
    | [] =>
      let miss := f.todo.filter (lineMisses s f)
      let s := purge s f.core direct
      let s := if f.op.reads then hashPush s f.crew (some f.id) [] else hashPush s f.crew none hash
      .ok { s with flights := s.flights ++ [{ f with missed := miss }], nextId := s.nextId + 1 }
    | ks => .stall (ks.foldl (fun s k => wbAsk s f.core k) s)

/-- The crew as an acquire leaves it at issue: later accesses wait for the read (R244). -/
def beginAcquire (s : State) (o : MemOp) (id : Nat) : State :=
  if o.acquires then modCrew s id fun c => { c with acqWait := true } else s

/-- An instruction of a crew that has been accepted is rejected no longer, and its place in the ranking is given up (R82). -/
def Start.accepted (c : Crew) (pc : Word) : Start → Start
  | .ok s => .ok (accept s c pc)
  | r => r

/-- An access with every line translated and no unit poisoned is performed, or sets out (R75, R85, R86, R238, R241, R244).  `ids` are the crews that
issue it together, `part` says that it carries only the first registers of an LDM (R143), and `smp` that it is the sampled one (R347). -/
def startAccess (s : State) (ids : List Nat) (id : Nat) (a : Acc) (q : MemReq) (full parked part smp : Bool) (k : Clock) (us : List KeyUnit) : Start :=
  match crewAt s id with
  | none => .ok s
  | some c => (go c).accepted c q.pc
where
  /-- The access as its crew makes it. -/
  go (c : Crew) : Start :=
    let s := if a.op.group.isSome && q.done == 0 then modCrew s id fun c => { c with partLines := c.partLines.filter fun p => p.1 != q.pc } else s
    let (go, s) := if a.op.releases then releaseNow s c (rScope q.record) else (true, s)
    if !go then .stall s
    else
      let k := if a.op.releases then k.sup (crewClock ((crewAt s id).getD c)) else k
      let f := { newFlight s c a q full parked k us with sampled := smp, part := part }
      let hash := hashBytes a.op q us
      match a.op with
      | .store .. | .stm _ => startStore s ids f hash
      | .strel => if us.isEmpty then .ok s else startOrdered s ids f hash
      | .load .. | .ldm _ => if us.isEmpty then .ok (finishFlight s f) else startLoad s ids f
      | .ldacq =>
        let s := beginAcquire s a.op id
        if us.isEmpty then .ok (finishFlight s f) else startLoad s ids f
      | .atomic .. =>
        let s := beginAcquire s a.op id
        if us.isEmpty then .ok (finishFlight s f) else startOrdered s ids f hash

/-- A participant with its captured access and its units. -/
structure Prep where
  part : Part
  req : MemReq
  units : List (Nat × Nat)
  clock : Clock
deriving DecidableEq, Repr

/-- What one participant's checks come to; failing lanes stand beside the access and the units that pass. -/
inductive PrepOut where
  | skip
  | ready (p : Prep)
  | trap (code : Nat)
  | lanes (fs : List (Nat × Nat × Nat)) (p : Prep)
deriving DecidableEq, Repr

/-- Table 4-4, orders 1 to 7, for one participant; nothing with an empty active set (R88). -/
def prepPart (a : Acc) (x : Ctx) (s : State) (p : Part) : PrepOut :=
  match crewAt s p.crew with
  | none => .skip
  | some c =>
    if p.act = 0 then .skip
    else
      let q := captureReq c a x.pc x.iword x.lit p.act
      match crewCheck s c a q with
      | some t => .trap t
      | none =>
        match reqCheck a.op q p.full with
        | .trap t => .trap t
        | .lanes fs us => .lanes fs ⟨p, q, us, accessClock c a q⟩
        | .pass us => .ready ⟨p, q, us, accessClock c a q⟩

/-- The participant's access, whether its checks have passed or not. -/
def PrepOut.prep? : PrepOut → Option Prep
  | .ready p => some p
  | .lanes _ p => some p
  | _ => none

/-- Failing lanes as fault records (R313). -/
def failRecs (a : Acc) (fs : List (Nat × Nat × Nat)) : List FaultRec := groupFaults fs a.op.writes false

/-- The slot that an access takes, in the crew and in the captured access (R128, R129); none: it waits. -/
def withSlot (a : Acc) (c : Crew) (q : MemReq) : Option (Crew × MemReq) :=
  if a.op.dests 0 = [] then some (c, q)
  else match allocSlot c with
    | some (k, c') => some (c', { q with slot := some k })
    | none => none

/-- Operand-log entries in use on a core (R310). -/
def logsUsed (s : State) (core : Nat) : Nat := (s.crews.filter fun c => c.core == core && c.log.isSome).length

/-- A line's outcome as the log holds it. -/
def Xl.out : Xl → LineOut
  | .hit _ _ => .ok
  | .miss => .pending
  | .access => .access
  | .fault => .fault

/-- A participant with its lines' translations. -/
structure Look where
  prep : Prep
  lines : List (Nat × Xl)
deriving DecidableEq, Repr

/-- Every participant's lines translated, once each (R57, R76). -/
def lookAll (a : Acc) : State → List Prep → List Look × State
  | s, [] => ([], s)
  | s, p :: ps =>
    match crewAt s p.part.crew with
    | none => lookAll a s ps
    | some c =>
      let (xs, s) := xlateLines s (.log c.id) c.core (pasidOf s c) a.op.kind c.priv (unitLines p.units)
      let (ls, s) := lookAll a s ps
      (⟨p, xs⟩ :: ls, s)

/-- Some line has no translation yet, or needs a demand-paging fault. -/
def Look.waits (k : Look) : Bool := k.lines.any fun x => x.2 == .miss || x.2 == .fault

/-- The failures of order 8 and the poisoned units of one access, by unit: the unit, its code and its page (R44, R75, R237). -/
def badUnits (s : State) (c : Crew) (a : Acc) (q : MemReq) (full : Bool) (k : Clock) (us : List (Nat × Nat)) (xs : List (Nat × Xl))
    (bad : Xl → Bool) : List (Nat × Nat × Nat) :=
  let ks := keyUnits xs us
  let f := newFlight s c a q full false k ks
  us.filterMap fun u =>
    if xs.any fun x => x.1 == u.2 / 256 * 256 && bad x.2 then some (u.1, trapAccess, u.2 / 4096)
    else if a.op.reads && ks.any fun v => v.no == u.1 && v.va == u.2 && unitPoisoned s f v then some (u.1, trapSoft, u.2 / 4096)
    else none

/-- Bad units as failing lanes, in lane order (R313). -/
def unitFails (o : MemOp) (act : Mask) (bs : List (Nat × Nat × Nat)) : List (Nat × Nat × Nat) :=
  inLaneOrder (bs.flatMap fun b => (unitLanes o act b.1).map fun l => (l, b.2.1, b.2.2))

/-- The known failures of a participant. -/
def Look.bad (s : State) (a : Acc) (k : Look) : List (Nat × Nat × Nat) :=
  match crewAt s k.prep.part.crew with
  | none => []
  | some c => badUnits s c a k.prep.req k.prep.part.full k.prep.clock k.prep.units k.lines (· == .access)

/-- Failing lanes of the lane-level checks of every participant: orders 6 and 7, with what is known of order 8 and of poison in the others' lanes (R75,
R237, R320). -/
def allFails (a : Acc) (s : State) (outs : List (Nat × PrepOut)) : List (Nat × List FaultRec) :=
  outs.filterMap fun (id, o) =>
    match o.prep? with
    | none => none
    | some p =>
      let known := (lookAll a s [p]).1.flatMap fun k => unitFails a.op p.req.act (k.bad s a)
      let fs := match o with | .lanes fs _ => fs | _ => []
      let all := inLaneOrder (fs ++ known)
      if all.isEmpty then none else some (id, failRecs a all)

/-- The group access cut to its first `n` registers. -/
def Acc.cut (a : Acc) (n : Nat) : Acc :=
  { a with op := match a.op with
      | .ldm _ => .ldm n
      | .stm _ => .stm n
      | o => o }

/-- The first register of a group with a unit that a list names (R143). -/
def firstReg (bs : List Nat) : Option Nat := (bs.map (· / 33)).min?

/-- One participant's access, after its checks: it has set out or gone to the operand log, or it cannot go now. -/
inductive Went where
  | ok (s : State)
  | stall (s : State)
  | reject (crew : Nat)
deriving Repr

/-- One participant sets out, or goes to the operand log (R75, R310); `smp`: it is the sampled one of its instruction (R347). -/
def goPart (a : Acc) (ids : List Nat) (smp : Bool) (s : State) (k : Look) : Went :=
  let p := k.prep
  match crewAt s p.part.crew with
  | none => .ok s
  | some c =>
    if k.waits then
      if 16 ≤ logsUsed s c.core then .stall s
      else
        match withSlot a c p.req with
        | none => .stall s
        | some (c', q) =>
          .ok (setCrew s { c' with ldmDone := none, log := some ⟨q, k.lines.map fun x => (x.1, x.2.out), p.clock, p.part.full, c.priv, smp⟩ })
    else
      match withSlot a c p.req with
      | none => .stall s
      | some (c', q) =>
        match startAccess (setCrew s { c' with ldmDone := none }) ids c.id a q p.part.full (a.op.group.isSome && a.op.reads) false smp p.clock
            (keyUnits k.lines p.units) with
        | .ok s => .ok s
        | .stall s => .stall s
        | .reject => .reject c.id

/-- Participants in order; the first that cannot go decides.  Of the sampled instruction the first that has a unit carries the sample: its lowest active
in-bounds lane is the instruction's (R347).  Each crew's lanes are an indivisible group of their own for each word, in an atomic of several crews too (R239; DESIGN CHOICE, log entry 88). -/
def goParts (a : Acc) (ids : List Nat) : Bool → State → List Look → Went
  | _, s, [] => .ok s
  | smp, s, k :: ks =>
    let mine := smp && !k.prep.units.isEmpty
    match goPart a ids mine s k with
    | .ok s => goParts a ids (smp && !mine) s ks
    | w => w

/-- The first registers of a group access whose register `n` fails: transferred, with the place kept, before the instruction traps (R143, R324). -/
def partPart (a : Acc) (ids : List Nat) (s : State) (k : Look) (n : Nat) : Went :=
  let p := k.prep
  let us := p.units.filter fun u => u.1 / 33 < n
  match crewAt s p.part.crew with
  | none => .ok s
  | some c =>
    match withSlot a c p.req with
    | none => .stall s
    | some (c', q) =>
      match startAccess (setCrew s { c' with ldmDone := if a.op.reads then c.ldmDone else some (p.req.pc, n) }) ids c.id (a.cut n) q p.part.full a.op.reads
          a.op.reads false p.clock (keyUnits k.lines us) with
      | .ok s => .ok s
      | .stall s => .stall s
      | .reject => .reject c.id

/-- The participants of a group access that fail at a later register than their first, with that register. -/
def partLooks (s : State) (a : Acc) (ks : List Look) : List (Look × Nat) :=
  if a.op.group.isNone then []
  else ks.filterMap fun k => match firstReg ((k.bad s a).map (·.1)) with
    | some i => if k.prep.req.done < i then some (k, i) else none
    | none => none

/-- Their first registers set out, one participant after another. -/
def partGo (a : Acc) (ids : List Nat) : State → List (Look × Nat) → Went
  | s, [] => .ok s
  | s, (k, i) :: ks =>
    match partPart a ids s k i with
    | .ok s => partGo a ids s ks
    | w => w

/-- An instruction that cannot go now has done nothing but start its walks and send the snoops that it needs: `s` is the machine with the walks, and `t`
the one in which the last of its accesses could not go. -/
def goBack (s t : State) : State := askHost (keepRetries s t) (t.biWait.filter fun x => !s.biWait.contains x)

/-- Operand-log entries that an access of several crews needs at once are more than a core has: its demand-paging faults are taken at the instruction,
which is then issued again (DESIGN CHOICE, log entry 54). -/
def faultLooks (a : Acc) (s : State) (ks : List Look) : State :=
  if ks.any fun k => k.lines.any fun x => x.2 == .miss then s
  else ks.foldl (fun s k =>
    let bad := lineFails a.op k.prep.req.act k.prep.units (fun l => k.lines.any fun x => x.1 == l && x.2 == .fault) 0
    match crewAt s k.prep.part.crew with
    | some c => if bad.isEmpty then s else pageFault (forget s (.log c.id)) c (a.op.kind == .both) (failRecs a bad)
    | none => s) s

/-- What an access instruction comes to once its checks of orders 1 to 7 have passed. -/
inductive Issued where
  | ok (s : State)
  /-- The first registers of a group have set out; the instruction is tried again. -/
  | part (s : State)
  | stall (s : State)
  | lanes (recs : List (Nat × List FaultRec)) (s : State)
deriving Repr

/-- A result of `goParts` as what the instruction comes to; what cannot go leaves the machine as it was. -/
def Went.issued (s : State) (pc : Word) : Went → Issued
  | .ok t => .ok t
  | .stall t => .stall (goBack s t)
  | .reject id => .stall (match crewAt s id with | some c => Machine.reject s c pc | none => s)

/-- Orders 8 and on for all participants (R75, R310): the failures of every participant are reported together; then every participant whose lines have
all translated sets out, and every other goes to the operand log by itself (DEDUCED, log entry 54).  Nothing is performed in any of them until each can go. -/
def issueAccess (a : Acc) (pc : Word) (s : State) (ps : List Prep) : Issued :=
  let (ks, s) := lookAll a s ps
  let ids := ps.map (·.part.crew)
  let failed := ks.filter fun k => !k.waits && !(k.bad s a).isEmpty
  if !failed.isEmpty then
    match partLooks s a failed with
    | [] => .lanes ((ks.filter fun k => !(k.bad s a).isEmpty).map fun k =>
        (k.prep.part.crew, failRecs a (unitFails a.op k.prep.req.act (k.bad s a)))) s
    | parts => match (partGo a ids s parts).issued s pc with
      | .ok t => .part t
      | r => r
  else if 16 < (ks.filter (·.waits)).length then .stall (faultLooks a s ks)
  else
    let (smp, t) := match ks.head?.bind fun k => crewAt s k.prep.part.crew with
      | some c => countSample s c.core
      | none => (false, s)
    (goParts a ids smp t ks).issued s pc

/-- An LDM of the crew is under way at the instruction (R143). -/
def ldmUnderWay (s : State) (x : Ctx) : Bool :=
  x.parts.any fun p => (flightsOf s p.crew).any fun f => f.parked && f.req.pc == x.pc

/-- The second register of a flat pair still waits for data (R73). -/
def pairWaits (s : State) (x : Ctx) (m : BitVec 4) (idx : RCode) : Bool :=
  x.parts.any fun p => match crewAt s p.crew with
    | some c => p.act != 0 && rFlat (recAt c m.toNat).bits && (pendingRegs s c).contains (idx.toNat + 1)
    | none => false

/-- The body of LDB to LDQ, STB to STQ, LDM, STM, the atomics, LDACQ and STREL.  Where participants fail different instruction-level orders of Table 4-4, the
first participant's code is the trap's: R75 does not say whose (DESIGN CHOICE, log entry 73). -/
def accessBody (a : Acc) (x : Ctx) (s : State) : Res :=
  if ldmUnderWay s x then .stall s
  else if pairWaits s x a.m a.idx then .hold s
  else
    let outs := x.parts.map fun p => (p.crew, prepPart a x s p)
    match outs.findSome? fun o => match o.2 with | .trap t => some t | _ => none with
    | some t => .trap t s
    | none =>
      if outs.any fun o => match o.2 with | .lanes _ _ => true | _ => false then .lanes (allFails a s outs) s
      else
        match issueAccess a x.pc s (outs.filterMap fun o => o.2.prep?) with
        | .ok t =>
          if a.op.group.isSome && a.op.reads && ldmUnderWay t x then
            .moved (x.parts.foldl (fun s p =>
              if (flightsOf s p.crew).any fun f => f.parked && f.req.pc == x.pc then block s p.crew x.pc .stall
              else match advance s p.crew x.pc x.next with
                | .ok s => s
                | .error e => frontTrap x s p.crew e) t)
          else .done t
        | .part t => .moved (x.parts.foldl (fun s p => block s p.crew x.pc .stall) t)
        | .stall t => .stall t
        | .lanes recs t => .lanes recs t

/-! ### The operand log -/

/-- The crew's log entry is freed. -/
def dropLog (s : State) (id : Nat) : State := modCrew (forget s (.log id)) id fun c => { c with log := none, faults := [] }

/-- The slot of an access that will not be performed counts as returned with the zero clock (R317). -/
def loseSlot (s : State) (id : Nat) (q : MemReq) : State :=
  match q.slot with
  | some k => modCrew s id fun c => returnSlot c k Clock.zero
  | none => s

/-- The logged instruction traps at its PC once nothing of the crew is in flight (R312, R322; DEDUCED, log entry 13), with the registers of its group that
were transferred counted (R143, R324). -/
def logTrap (s : State) (c : Crew) (e : LogEntry) (code : Nat) (lanes : Mask) (recs : List FaultRec) : State :=
  if c.ended then loseSlot (dropLog s c.id) c.id e.req
  else
    match trapReady s [c.id] with
    | (true, s) =>
      let s := loseSlot (dropLog s c.id) c.id e.req
      match crewAt s c.id with
      | some c => trapAccessAt s c e.req code lanes recs (if e.req.done = 0 then none else some e.req.done)
      | none => s
    | (false, s) => s

/-- The first registers of a logged LDM or STM set out, and the log keeps their count (R143). -/
def partLog (s : State) (c : Crew) (a : Acc) (e : LogEntry) (us : List KeyUnit) (n : Nat) : State :=
  match startAccess s [c.id] c.id (a.cut n) e.req e.full false a.op.reads false e.clock (us.filter fun u => u.no / 33 < n) with
  | .ok s => modCrew s c.id fun c => { c with log := some { e with req := { e.req with done := n } } }
  | .stall t => goBack s t
  | .reject => reject s c e.req.pc

/-- The replay of a logged instruction from its entry (R312). -/
def replayLog (s : State) (c : Crew) (a : Acc) (e : LogEntry) (keys : List KeyUnit) : State :=
  match startAccess (dropLog s c.id) [c.id] c.id a e.req e.full false false e.sampled e.clock keys with
  | .ok s => s
  | .stall t => goBack s t
  | .reject => reject s c e.req.pc

/-- The demand-paging faults of a logged instruction (R312-R314). -/
def logFault (s : State) (c : Crew) (a : Acc) (e : LogEntry) (us : List (Nat × Nat)) (xs : List (Nat × Xl)) : State :=
  pageFault (forget s (.log c.id)) c (a.op.kind == .both)
    (failRecs a (lineFails a.op e.req.act us (fun l => xs.any fun x => x.1 == l && x.2 == .fault) 0))

/-- The logged instruction once every line has an outcome (R312): refused lines and poison trap, then demand-paging faults swap the block out, then the
replay; a group is transferred up to the first register that any of these concerns (R143). -/
def settleLog (s : State) (c : Crew) (a : Acc) (e : LogEntry) (us : List (Nat × Nat)) (xs : List (Nat × Xl)) : State :=
  let refuse := faultRefused s c.core (pasidOf s c)
  let bad (x : Xl) : Bool := x == .access || (x == .fault && refuse)
  let fs := badUnits s c a e.req e.full e.clock us xs bad
  let faults := us.filter fun u => xs.any fun x => x.1 == u.2 / 256 * 256 && x.2 == .fault
  let keys := keyUnits xs us
  match if a.op.group.isSome then firstReg (fs.map (·.1) ++ faults.map (·.1)) else none with
  | some i =>
    if e.req.done < i then partLog s c a e keys i else stop fs bad
  | none => if fs.isEmpty && faults.isEmpty then replayLog s c a e keys else stop fs bad
where
  /-- The trap or the page fault that ends the attempt. -/
  stop (fs : List (Nat × Nat × Nat)) (bad : Xl → Bool) : State :=
    let access := fs.filter fun f => f.2.1 == trapAccess
    let fs := if access.isEmpty then fs else access
    let faults := xs.any fun x => x.2 == .fault && !bad x.2
    if access.isEmpty && faults then logFault s c a e us xs
    else
      let rs := failRecs a (unitFails a.op e.req.act fs)
      let s := modCrew s c.id fun c => { c with log := some { e with lines := xs.map fun x => (x.1, if bad x.2 then .access else x.2.out) } }
      logTrap s c e ((rs.head?.map (·.code)).getD trapAccess) (recLanes rs) rs

/-- The lines of a logged instruction translated again, with the outcomes noted in its entry. -/
def logLook (s : State) (c : Crew) (a : Acc) (e : LogEntry) (us : List (Nat × Nat)) : List (Nat × Xl) × LogEntry × State :=
  let (xs, s) := xlateLines s (.log c.id) c.core (pasidOf s c) a.op.kind e.priv (unitLines us)
  let e := { e with lines := xs.map fun x => (x.1, x.2.out) }
  (xs, e, modCrew s c.id fun c => { c with log := some e })

/-- A logged instruction of a placed crew goes on as its lines' outcomes allow (R312). -/
def advanceHere (s : State) (c : Crew) (a : Acc) (e : LogEntry) : State :=
  let ref := (c.faults.filter fun r => r.refused && !r.fetch).map fun r => { r with code := trapAccess, answered := false, refused := false }
  if !ref.isEmpty then logTrap s c e trapAccess (recLanes ref) ref
  else
    match reqCheck a.op e.req e.full with
    | .trap t => logTrap s c e t e.req.act []
    | .lanes fs _ => logTrap s c e ((fs.head?.map (·.2.1)).getD trapAccess) (recLanes (failRecs a fs)) (failRecs a fs)
    | .pass us =>
      let (xs, e, s) := logLook s c a e us
      if xs.any fun x => x.2 == .miss then s else settleLog s c a e us xs

/-- A logged instruction of a block that swaps out is saved with it, but where its own lines come to a demand-paging fault before the save its crew records that too (R314). -/
def advanceSaving (s : State) (c : Crew) (a : Acc) (e : LogEntry) : State :=
  if c.faults.any fun r => r.refused || (r.code == 0 && !r.answered) then s
  else
    match reqCheck a.op e.req e.full with
    | .pass us =>
      let (xs, e, s) := logLook s c a e us
      let no := xs.any fun x => x.2 == .miss || x.2 == .access
      if no || !(xs.any fun x => x.2 == .fault) || faultRefused s c.core (pasidOf s c) then s else logFault s c a e us xs
    | _ => s

/-- A logged instruction of a crew that the device has ended has issued: a write is still performed when its lines have translated; a read, and a write that cannot be
performed so, is given up (R293; DESIGN CHOICE, log entry 91). -/
def advanceEnded (s : State) (c : Crew) (a : Acc) (e : LogEntry) : State :=
  let drop (s : State) : State := loseSlot (dropLog s c.id) c.id e.req
  if !a.op.writes then drop s
  else
    match reqCheck a.op e.req e.full with
    | .pass us =>
      let (xs, e, s) := logLook s c a e us
      if xs.any fun x => x.2 == .miss then s
      else if (badUnits s c a e.req e.full e.clock us xs fun x => x == .access || x == .fault).isEmpty then replayLog s c a e (keyUnits xs us)
      else drop s
    | _ => drop s

/-- The logged instruction of a crew goes on as the state of its block allows (R293, R312, R314). -/
def advanceLog (s : State) (id : Nat) : State :=
  match crewAt s id with
  | none => s
  | some c =>
    match c.log with
    | none => s
    | some e =>
      if (flightsOf s id).any (·.part) then s
      else
        match e.req.acc?, blockOf s c with
        | none, _ => loseSlot (dropLog s id) id e.req
        | some _, none => s
        | some a, some b =>
          match b.state with
          | .running | .stopping => advanceHere s c a e
          | .saving _ => advanceSaving s c a e
          | .terminated => advanceEnded s c a e
          | _ => s

/-- The crew's logged instruction has been rejected: it is retried when a miss entry frees, with a record at each rejection (R81, R82). -/
def logRejected (s : State) (c : Crew) : Bool := match c.log with | some e => rejected s c e.req.pc | none => false

/-- Logged instructions that are not rejected, and LDMs with all their data, are tried again after a step. -/
def retryLogs (s : State) : State :=
  let s := s.crews.foldl (fun s c => if c.log.isSome && !logRejected s c then advanceLog s c.id else s) s
  s.flights.foldl (fun s f => if f.todo.isEmpty then finishFlight s f else s) s

/-- The replay gate holds a crew's access to a line. -/
def gateHolds (s : State) (line crew : Nat) : Bool := gateOf s line (regionReq s crew) == .held

/-- The accesses that a replay gate holds: of flights, and reads of island images, each by its crew and line (R355). -/
def gatedNow (s : State) : List (Nat × Nat) :=
  ((s.flights.flatMap fun f => (f.todo.filter fun l => reachesSlice s f l && !partCounted s f l).map fun l => (f.crew, l)) ++
    s.crews.filterMap fun c => c.gated.map fun l => (c.id, l)).filter fun g => gateHolds s g.2 g.1

/-- REPLAY_GATE_TIMEOUT (R355): a region access held at the line has waited its limit; the line is ungated with DIVERGE kind 3 (DEDUCED, log entry 41). -/
def execReplayGateTimeout (die line : Nat) (s : State) : Host.Outcome State Fault Refusal :=
  match (gatedNow s).find? fun g => g.2 == line with
  | some g => .next (if homeDie s (line * 256) = die then abandonLine s line 3 (regionReq s g.1) else s)
  | none => .next { s with progress := false }

end Sys2Proof.Machine
end

