-- ==== Sys2Proof/Machine/Issue.lean ====
section
/-!
DEFINITION. What a step does before and after an instruction: which crew and entry issue (R264, R268), the fetch (R17, R28), what happens
when the agenda is empty (log entry 1), and the re-evaluation of what waits.
-/

namespace Sys2Proof.Machine

/-- The entry can be selected: not blocked, or blocked at a rendezvous that is complete (R264, R274). -/
def selectable (s : State) (c : Crew) (e : Entry) : Bool :=
  match e.wait with
  | none => true
  | some .rendezvous =>
    match c.rdv.find? fun r => r.1 == e.pc with
    | some (_, sc) => rendezvousDone s c e.pc sc
    | none => true
  | _ => false

/-- Selection order: not demoted first, then higher priority, then lower PC (R264, R267). -/
def before (a b : Entry) : Bool :=
  if a.demoted != b.demoted then !a.demoted
  else decide (b.prio < a.prio) || (a.prio == b.prio && decide (a.pc.toNat < b.pc.toNat))

/-- The first entry in selection order. -/
def pickEntry : List Entry → Option Entry
  | [] => none
  | e :: es =>
    match pickEntry es with
    | none => some e
    | some b => if before b e then some b else some e

/-- The instruction at a code address is a safe point: 32 bits long and carrying the stop bit (R37, R263). -/
def atSafePoint (s : State) (c : Crew) (pc : Word) : Bool :=
  match fetchFrom s (.fetch c.id) true c.core (pasidOf s c) c.priv (textVa s c pc) 2 with
  | (.bytes bs, _) => leValue bs % 4 == 3
  | _ => false

/-- No lane of a block holds an ordered section (R288). -/
def noSections (s : State) (b : Block) : Bool := (s.crews.filter fun c => c.block == b.id).all fun c => sectMask c == 0

/-- The block stops for pre-emption and its entries halt at safe points: not while a section is held or the
block's streams are not quiet (R288, R300); `quiet` tells the latter. -/
def halting (s : State) (c : Crew) (quiet : Block → Bool) : Bool :=
  match blockOf s c with
  | some b => b.state == .stopping && noSections s b && quiet b
  | none => false

/-- No vector pushed by a task's crews on a core is under way, one that a standard image's round has taken counted, and no demand is outstanding (R231). -/
def streamsQuiet (s : State) (core task : Nat) : Bool :=
  match coreAt s core with
  | none => true
  | some c =>
    c.queues.zipIdx.all fun (q, n) =>
      !(q.bound && q.task == task) ||
      (q.demand == 0 &&
        s.isles.all fun i =>
          i.inp.all (fun p => p.fifo.all fun v => !(v.core == core && v.q == n)) &&
          i.outp.all (fun p => p.part.all (fun t => !(t.core == core && t.q == n)) && p.done.all fun v => !(v.2.core == core && v.2.q == n)) &&
          i.cells.all (fun x => x.queues.all fun l => l.all fun t => !(t.core == core && t.q == n)) &&
          i.items.all (fun x => match x.what with
            | .token _ _ t => !(t.core == core && t.q == n)
            | .port _ t => !(t.core == core && t.q == n)
            | _ => true) &&
          match i.std with
          | some r => !r.ins.contains (core, n)
          | none => true)

/-- A block's streams are quiet (R231). -/
def blockQuiet (s : State) (b : Block) : Bool := streamsQuiet s b.core b.task

/-- Every stacked record of a crew stands at a safe point (R315). -/
def recsHalted (s : State) (c : Crew) : Bool := (stackRecs s c).all fun e => atSafePoint s c e.pc

/-- The entry that the crew issues next, if it can issue one (R264).  A block that stops leaves entries at safe points alone; a handler goes on while a stacked
record, which can only come in behind its RTT, has still to reach its own (R315, R321). -/
def choose (s : State) (c : Crew) : Option Entry :=
  if !mayIssue s c || c.idle then none
  else
    let es := c.entries.filter (selectable s c)
    let es := if halting s c (blockQuiet s) && !(c.priv && !recsHalted s c) then es.filter fun e => !atSafePoint s c e.pc else es
    pickEntry es

/-- Class of a crew's task (R268). -/
def classOf (s : State) (c : Crew) : Nat := match taskOf s c with | some t => t.cls | none => 0

/-- Round-robin distance of a slot behind the last one that issued. -/
def turn (last slot : Nat) : Nat := (slot + 64 - last - 1) % 64

/-- The crew and entry that a quarter of a core issues now (R268). -/
def selectCrew (s : State) (core quarter : Nat) : Option (Crew × Entry) :=
  let last := match coreAt s core with | some k => k.rr.getD quarter 0 | none => 0
  (s.crews.filter fun c => c.core == core && c.slot % 4 == quarter).foldl (fun (best : Option (Crew × Entry)) c =>
    match choose s c with
    | none => best
    | some e =>
      match best with
      | none => some (c, e)
      | some (b, f) =>
        if classOf s c < classOf s b || (classOf s c == classOf s b && turn last c.slot < turn last b.slot) then some (c, e)
        else some (b, f)) none

/-- What the fetch of an instruction comes to. -/
inductive FetchOut where
  | word (w lit len : Nat)
  | miss
  | access (va : Nat)
  | fault (va : Nat)
  | soft (va : Nat)
deriving DecidableEq, Repr

/-- A failed fetch as a fetch result. -/
def Fetched.out : Fetched → FetchOut
  | .bytes bs => .word (leValue bs) 0 bs.length
  | .miss => .miss
  | .access va => .access va
  | .fault va => .fault va
  | .soft va => .soft va

/-- Fetch of one instruction at a code address: its first halfword, its word, its literal (R17). -/
def fetchInstr (s : State) (c : Crew) (pc : Word) : FetchOut × State :=
  let go := fetchFrom s (.fetch c.id) false c.core (pasidOf s c) c.priv (textVa s c pc)
  match go 2 with
  | (.bytes h, s2) =>
    if leValue h % 2 = 0 then (.word (leValue h) 0 2, s2)
    else
      match go 4 with
      | (.bytes w, s4) =>
        if instrLength (leValue w) = 4 then (.word (leValue w) 0 4, s4)
        else
          match go 8 with
          | (.bytes b, s8) => (.word (leValue w) (leValue (b.drop 4)) 8, s8)
          | (r, s8) => (r.out, s8)
      | (r, s4) => (r.out, s4)
  | (r, s2) => (r.out, s2)

/-- The instruction of a fetched word; words that decode to none are the event that R28 describes. -/
def instrOf (w lit len : Nat) : Instr :=
  match decodeWord w lit with
  | .ok i => i
  | .error y => .illegalInstruction (BitVec.ofNat 32 w) (BitVec.ofNat 32 lit) len y

/-- A synchronous trap of the fetch itself: IWORD is 0 (R37, Table 14-8), and NEXT is PC, because the instruction's length is not known (DESIGN CHOICE, log
entry 52). -/
def fetchTrap (s : State) (c : Crew) (e : Entry) (code va : Nat) : State :=
  trapAll ⟨c.id, .lane, e.pc, e.pc, 0, 0, [⟨c.id, e.mask, false⟩]⟩ s code (·.act)
    (fun _ => [⟨code, false, true, false, false, e.mask, va / 4096⟩])

/-- A demand-paging fault of a fetch (R37, R314), or ACCESS when it cannot be raised. -/
def fetchFault (s : State) (c : Crew) (e : Entry) (va : Nat) : State :=
  if faultRefused s c.core (pasidOf s c) then fetchTrap s c e trapAccess va
  else pageFault s c false [⟨0, false, true, false, false, e.mask, va / 4096⟩]

/-- The place of an entry's instruction outside its issue, with the words that stand there when they are at hand, and the entry's lanes as its act. -/
def entryCtx (s : State) (c : Crew) (e : Entry) : Ctx :=
  match (fetchInstr s c e.pc).1 with
  | .word w lit len => ⟨c.id, .lane, e.pc, e.pc + BitVec.ofNat 32 len, BitVec.ofNat 32 w, BitVec.ofNat 32 lit, [⟨c.id, e.mask, false⟩]⟩
  | _ => ⟨c.id, .lane, e.pc, e.pc, 0, 0, [⟨c.id, e.mask, false⟩]⟩

/-- A poisoned record that a rotation outside an instruction's issue meets, or a push that it cannot make, traps at the crew's current instruction, that of `e`
(R271). -/
def rotateTrap (s : State) (c : Crew) (e : Entry) (why : FrontErr) : State :=
  trapAll (entryCtx s c e) s (if why = .frontier then trapFrontier else trapSoft) (·.act) (fun _ => [])

/-! ### The lane port of the activation store -/

/-- The word at an activation-store address. -/
def asWord (b : Block) (a : Nat) : Word := BitVec.ofNat 32 (readNat b.aStore a 4)

/-- Bytes over part of a unit that may still be read old. -/
def OldUnit.over (o : OldUnit) (a : Nat) (bs : List Byte) : OldUnit :=
  { o with bytes := (List.range 16).map fun i => if a ≤ o.addr + i ∧ o.addr + i < a + bs.length then bs.getD (o.addr + i - a) 0 else o.bytes.getD i 0 }

/-- Bytes written to the activation store; what may still be read old of earlier copies takes them too (R203). -/
def asWrite (a : Nat) (bs : List Byte) (b : Block) : Block :=
  { b with aStore := writeBytes b.aStore a bs, asOld := b.asOld.map fun o => o.over a bs }

/-- LDA on one crew whose lanes all pass (R99). -/
def ldaCrew (b : Block) (d : Nat) (ra : Reg) (act : Mask) (full : Bool) (c : Crew) : Crew :=
  writeVd c d (laneReg (if ra.shape == .u then .u else .g) .raw32 ra.taint fun l => asWord b (ra.at l).toNat) act full

/-- STA on one crew whose lanes all pass: lanes in ascending order (R99). -/
def staBlock (ra rd : Reg) (act : Mask) (b : Block) : Block :=
  (laneIds.filter (laneIn act)).foldl (fun b l => asWrite (ra.at l).toNat (wordBytes (rd.at l)) b) b

/-- One part of an LDA or STA performed (R97, R99). -/
def AsPart.perform (s : State) (p : AsPart) : State :=
  match crewAt s p.crew with
  | none => s
  | some c =>
    if p.wr then modBlock s c.block (staBlock p.addr p.data p.act)
    else match blockOf s c with
      | some b => modCrew s c.id (ldaCrew b p.dest p.addr p.act p.full)
      | none => s

/-- The part that the lane port grants next: round-robin among the quarters that present one, from the quarter granted last (R97); of two on one quarter the
earlier in rank, or in index, goes first (DESIGN CHOICE, log entry 57). -/
def nextPart (k : CoreSt) : Option AsPart :=
  ((List.range 4).map fun i => (k.asPort + 1 + i) % 4).findSome? fun q => k.asParts.find? fun p => p.quarter == q

/-- The lane port grants a part, which is performed (R97). -/
def grantPort (s : State) (core : Nat) : State :=
  match (coreAt s core).bind nextPart with
  | none => s
  | some p => modCore (p.perform s) core fun k => { k with asPort := p.quarter, asParts := k.asParts.filter fun q => q.crew != p.crew }

/-- A quarter waits for the lane port: it issues nothing, but for the part itself when that is the next to be granted (R97). -/
def portSlot (s : State) (core quarter : Nat) : Option State :=
  match coreAt s core with
  | none => none
  | some k =>
    if !k.asParts.any fun p => p.quarter == quarter then none
    else if (nextPart k).any fun p => p.quarter == quarter then some (grantPort s core)
    else some { s with progress := false }

/-! ### Issue slots -/

/-- What an issue slot comes to: an instruction to run, or nothing to run. -/
inductive Slot where
  | run (i : Instr) (s : State)
  | done (s : State)
deriving Repr

/-- An issue slot of a quarter: a grant of the lane port, or selection, fetch, and the instruction with its place in `cur` (R97, R264, R268). -/
def issueSlot (s : State) (core quarter : Nat) : Slot :=
  match portSlot s core quarter with
  | some s => .done s
  | none =>
  match selectCrew s core quarter with
  | none => .done { s with progress := false }
  | some (c, e) =>
    let s := modCore s core fun k => { k with rr := k.rr.set quarter c.slot }
    match fetchInstr s c e.pc with
    | (.word w lit len, s) =>
      .run (instrOf w lit len) { s with cur := some ⟨c.id, e.pc, len, BitVec.ofNat 32 w, BitVec.ofNat 32 lit⟩ }
    | (.miss, s) => .done (holdCrew s c.id)
    | (.access va, s) => .done (fetchTrap (forget s (.fetch c.id)) c e trapAccess va)
    | (.soft va, s) => .done (fetchTrap s c e trapSoft va)
    | (.fault va, s) => .done (fetchFault (forget s (.fetch c.id)) c e va)

/-! ### What waits is tried again -/

/-- A blocked entry other than at a rendezvous is tried again. -/
def wakeEntry (e : Entry) : Entry :=
  match e.wait with
  | some .stall | some .order => { e with wait := none }
  | _ => e

/-- Every crew's waits are tried again after something has happened. -/
def wakeAll (s : State) : State :=
  { s with crews := s.crews.map fun c => { c with idle := false, entries := c.entries.map wakeEntry } }

/-- The signed offset that die 0 still slews, and what is left of it after `m` runs of 1,024 ticks, with the ticks gained (R337). -/
def slew (adj : Word) (m : Nat) : Int × Word :=
  let k : Int := min (m : Int) adj.toInt.natAbs
  let g := if 0 ≤ adj.toInt then k else -k
  (g, BitVec.ofInt 32 (adj.toInt - g))

/-- Time goes on: cycle counters of the cores and the timebase, by amounts that the spec leaves open (R11, R40; log entry 4); an offset
in TR_ADJ is slewed out at one tick in 1,024, and die 1's copy stays within 2 ns, 8 ticks, and never goes back (R337; log entry 67). -/
def tick (s : State) : State :=
  let run := s.slewed + Config.timeTick s.ticks
  let adj := match trace0 s with | some t => t.adj | none => 0
  let (g, left) := slew adj (run / 1024)
  let time := ((s.time + Config.timeTick s.ticks : Int) + g).toNat % 2 ^ 64
  let near := min (time + 8) (time - 8 + Config.timeSkew s.ticks % 17)
  { s with ticks := s.ticks + 1, time := time, slewed := if adj = 0 then 0 else run % 1024
           time1 := if time < s.time then time else max s.time1 (near % 2 ^ 64)
           cores := s.cores.map fun c => { c with clock := (c.clock + Config.coreTick s.ticks) % 2 ^ 64 }
           dies := if adj = 0 then s.dies else s.dies.map fun d => if d.id = 0 then { d with trace := { d.trace with adj := left } } else d }

end Sys2Proof.Machine
end

