-- ==== Sys2Proof/Machine/Atomics.lean ====
section
/-!
DEFINITION. Atomics, ordered accesses and fences (chapter 11), and the events of the memory system (R44, R56, R79, R82, R85, R238, R246).
-/

namespace Sys2Proof.Machine

/-- AXCHG (R238). -/
def execAxchg (x : Pfx) (h : BitVec 2) (m : BitVec 4) (d a : RCode) (s : State) : Host.Outcome State Fault Refusal :=
  issue { i := .axchg x h m d a, ops := [.vec d, .src a], waits := true } (accessBody ⟨.atomic .xchg h, d, a, m, 0⟩) s

/-- ACAS (R238). -/
def execAcas (x : Pfx) (h : BitVec 2) (m : BitVec 4) (d a : RCode) (s : State) : Host.Outcome State Fault Refusal :=
  issue { i := .acas x h m d a, ops := [.grp d 2, .src a], waits := true } (accessBody ⟨.atomic .cas h, d, a, m, 0⟩) s

/-- AADD (R238). -/
def execAadd (x : Pfx) (h : BitVec 2) (m : BitVec 4) (d a : RCode) (s : State) : Host.Outcome State Fault Refusal :=
  issue { i := .aadd x h m d a, ops := [.vec d, .src a], waits := true } (accessBody ⟨.atomic .add h, d, a, m, 0⟩) s

/-- AMIN (R238). -/
def execAmin (x : Pfx) (h : BitVec 2) (m : BitVec 4) (d a : RCode) (s : State) : Host.Outcome State Fault Refusal :=
  issue { i := .amin x h m d a, ops := [.vec d, .src a], waits := true } (accessBody ⟨.atomic .min h, d, a, m, 0⟩) s

/-- AMAX (R238). -/
def execAmax (x : Pfx) (h : BitVec 2) (m : BitVec 4) (d a : RCode) (s : State) : Host.Outcome State Fault Refusal :=
  issue { i := .amax x h m d a, ops := [.vec d, .src a], waits := true } (accessBody ⟨.atomic .max h, d, a, m, 0⟩) s

/-- AMINU (R238). -/
def execAminu (x : Pfx) (h : BitVec 2) (m : BitVec 4) (d a : RCode) (s : State) : Host.Outcome State Fault Refusal :=
  issue { i := .aminu x h m d a, ops := [.vec d, .src a], waits := true } (accessBody ⟨.atomic .minu h, d, a, m, 0⟩) s

/-- AMAXU (R238). -/
def execAmaxu (x : Pfx) (h : BitVec 2) (m : BitVec 4) (d a : RCode) (s : State) : Host.Outcome State Fault Refusal :=
  issue { i := .amaxu x h m d a, ops := [.vec d, .src a], waits := true } (accessBody ⟨.atomic .maxu h, d, a, m, 0⟩) s

/-- AAND (R238). -/
def execAand (x : Pfx) (h : BitVec 2) (m : BitVec 4) (d a : RCode) (s : State) : Host.Outcome State Fault Refusal :=
  issue { i := .aand x h m d a, ops := [.vec d, .src a], waits := true } (accessBody ⟨.atomic .and h, d, a, m, 0⟩) s

/-- AOR (R238). -/
def execAor (x : Pfx) (h : BitVec 2) (m : BitVec 4) (d a : RCode) (s : State) : Host.Outcome State Fault Refusal :=
  issue { i := .aor x h m d a, ops := [.vec d, .src a], waits := true } (accessBody ⟨.atomic .or h, d, a, m, 0⟩) s

/-- AXOR (R238). -/
def execAxor (x : Pfx) (h : BitVec 2) (m : BitVec 4) (d a : RCode) (s : State) : Host.Outcome State Fault Refusal :=
  issue { i := .axor x h m d a, ops := [.vec d, .src a], waits := true } (accessBody ⟨.atomic .xor h, d, a, m, 0⟩) s

/-- AFADD (R238). -/
def execAfadd (x : Pfx) (h : BitVec 2) (m : BitVec 4) (d a : RCode) (s : State) : Host.Outcome State Fault Refusal :=
  issue { i := .afadd x h m d a, ops := [.vec d, .src a], waits := true } (accessBody ⟨.atomic .fadd h, d, a, m, 0⟩) s

/-- LDACQ (R241). -/
def execLdacq (x : Pfx) (m : BitVec 4) (d a : RCode) (s : State) : Host.Outcome State Fault Refusal :=
  issue { i := .ldacq x m d a, ops := [.vec d, .src a], waits := true } (accessBody ⟨.ldacq, d, a, m, 0⟩) s

/-- STREL (R241). -/
def execStrel (x : Pfx) (m : BitVec 4) (d a : RCode) (s : State) : Host.Outcome State Fault Refusal :=
  issue { i := .strel x m d a, ops := [.src d, .src a], waits := true } (accessBody ⟨.strel, d, a, m, 0⟩) s

/-- Releases of the participants in turn; none while one of them must wait (R242, R244). -/
def releaseParts (scope : Nat) : List Part → State → Bool × State
  | [], s => (true, s)
  | p :: ps, s =>
    match crewAt s p.crew with
    | none => releaseParts scope ps s
    | some c =>
      if p.act = 0 then releaseParts scope ps s
      else
        match releaseNow s c scope with
        | (true, s) => releaseParts scope ps s
        | (false, s) => (false, s)

/-- FENCE: once for each crew, a release and an acquire of the scope (R242). -/
def execFence (x : Pfx) (sc : BitVec 2) (s : State) : Host.Outcome State Fault Refusal :=
  issue { i := .fence x sc, waits := true }
    (fun u s =>
      match releaseParts sc.toNat u.parts s with
      | (false, s) => .stall s
      | (true, s) => .done (u.parts.foldl (fun s p =>
          if p.act = 0 then s else modCrew s p.crew fun c => { c with acq := c.acq.sup (crewClock c) }) s)) s

/-! ### Events of the memory system -/

/-- An event that finds nothing to do (DESIGN CHOICE, log entry 6). -/
def noEvent (s : State) : Host.Outcome State Fault Refusal := .next { s with progress := false }

/-- The host reaches the device's registers and memory: the link is up, and the device is not in recovery mode (R369, R372). -/
def hostUp (s : State) : Bool := s.boot.linkUp && !s.boot.recovery

/-- An access of the host to what only a booted device exposes (R369, R372). -/
def hostDoes (s : State) (f : State → State) : Host.Outcome State Fault Refusal := if hostUp s then .next (f s) else noEvent s

/-- LOAD_DATA_RETURN: a line of a load, LDACQ or LDM is served (R85, R87, R252). -/
def execLoadDataReturn (flight line : Nat) (s : State) : Host.Outcome State Fault Refusal :=
  match flightAt s flight with
  | none => noEvent s
  | some f =>
    if !f.op.reads || f.op.writes then noEvent s
    else match lineGo s f line with
      | (some s, _) => .next (serveLoad s f line)
      | (none, s) => .next s

/-- ATOMIC_RETURN: the lanes of an atomic on a line are performed and their old values return (R238, R239). -/
def execAtomicReturn (flight line : Nat) (s : State) : Host.Outcome State Fault Refusal :=
  match flightAt s flight with
  | none => noEvent s
  | some f =>
    match f.op with
    | .atomic o _ =>
      match lineGo s f line with
      | (some s, _) => .next (performAtomic s f o line)
      | (none, s) => .next s
    | _ => noEvent s

/-- WRITE_PERFORMED: a store's bytes of a line are performed (R79, R253). -/
def execWritePerformed (flight line : Nat) (s : State) : Host.Outcome State Fault Refusal :=
  match flightAt s flight with
  | none => noEvent s
  | some f =>
    if f.op.reads || !f.op.writes then noEvent s
    else match lineGo s f line with
      | (some s, _) => .next (performStore s f line)
      | (none, s) => .next s

/-- A walk cannot be carried out now: a table line is pinned by another core or lies behind a link that retrains, or the host holds a sector that the
walk reads or marks (R46, R65, R246). -/
def walkBlocked (s : State) (w : Walk) : Bool := walkStuck s w.core w.pasid w.va || !(walkHost s w.pasid w.va).isEmpty

/-- The task of whoever asked for a walk. -/
def walkTask (s : State) (w : Walk) : Option Task :=
  match w.who.crew? with
  | some c => (crewAt s c).bind (taskOf s)
  | none => s.tasks.find? fun t => t.pasid == w.pasid

/-- A walk that is held up: sent back from a pinned line with a trace record, and the snoops that it needs go out (R46, R246). -/
def walkRetry (s : State) (w : Walk) : State :=
  let t := match (walkEntries s w.pasid w.va).find? fun a => pinnedElsewhere s w.core (a / 256) with
    | some a => emitRetry s (a / 256) w.core (walkTask s w) 0xFF 0
    | none => s
  askHost t (walkHost s w.pasid w.va)

/-- What a walk came to, told to whoever asked (R56, R312). -/
def walkEnd (s : State) (w : Walk) (o : LineOut) : State :=
  let s := match o with
    | .ok | .pending => { s with walks := s.walks.filter fun x => x.id != w.id }
    | r => { s with walks := s.walks.map fun x => if x.id == w.id then { x with result := r } else x }
  match w.who with
  | .log c => advanceLog s c
  | _ => s

/-- WALK_COMPLETE (R56): the walk named by `unit` ends. -/
def execWalkComplete (s : State) : Host.Outcome State Fault Refusal :=
  match s.walks.find? fun w => w.id == s.unit with
  | none => noEvent s
  | some w =>
    if w.ats || w.result != .pending then noEvent s
    else if walkBlocked s w then noEvent (walkRetry s w)
    else
      let (o, s) := walkNow s w.core w.pasid w.va w.acc w.priv
      .next (walkEnd s w o)

/-- The crew's entry at an address is no longer stalled. -/
def unstall (pc : Word) (c : Crew) : Crew :=
  let es := c.entries.map fun e => if e.pc == pc && e.wait == some Wait.stall then { e with wait := none } else e
  { c with idle := false, entries := es }

/-- MISS_ENTRY_FREE: the oldest rejected instruction of the core named by `unit` that can use entries now, or else the oldest of all, is tried again, at its
entry or in its operand log (R82). -/
def execMissEntryFree (s : State) : Host.Outcome State Fault Refusal :=
  match coreAt s s.unit with
  | none => noEvent s
  | some k =>
    let rs := k.rejects.filter (Reject.stands s)
    let s := modCore s k.id fun k => { k with rejects := rs }
    match (rs.find? (Reject.ready s)).orElse fun _ => rs.head? with
    | none => noEvent s
    | some r =>
      let logged : Bool := match (crewAt s r.crew).bind (·.log) with
        | some e => e.req.pc == r.pc
        | none => false
      .next (if logged = true then advanceLog s r.crew else modCrew s r.crew (unstall r.pc))

/-- MSHR_AGE_LIMIT_REACHED: from now on only the oldest rejected instruction of the core named by `unit` takes entries (R82); the
age does not advance during a link retrain (R67). -/
def execMshrAgeLimitReached (s : State) : Host.Outcome State Fault Refusal :=
  match coreAt s s.unit with
  | none => noEvent s
  | some k =>
    match k.rejects.filter (Reject.stands s) with
    | [] => noEvent s
    | r :: rs => if s.link.retraining then noEvent s else .next (modCore s k.id fun k => { k with rejects := { r with aged := true } :: rs })

end Sys2Proof.Machine
end

