-- ==== Sys2Proof/Machine/Crypto.lean ====
section
/-!
DEFINITION. SHA-384 and the check of an ECDSA P-384 signature, which R219 and R371 name (PRESUMED, log entry 40: the algorithms and
their constants are those of FIPS 180-4 and FIPS 186, which are outside the spec).
-/

namespace Sys2Proof.Machine

/-! ### SHA-384 -/

/-- A 64-bit word of the digest's arithmetic. -/
abbrev ShaWord := BitVec 64

/-- The primes below 529, in rising order: what no smaller prime up to 19 divides. -/
def primesBelow (bound : Nat) : List Nat :=
  (List.range bound).filter fun n => decide (2 ≤ n) && [2, 3, 5, 7, 11, 13, 17, 19].all fun d => n == d || n % d != 0

/-- The largest number whose `e`-th power is at most `v`, searched from bit `n - 1` down above what is found already. -/
def rootFrom (e v : Nat) : Nat → Nat → Nat
  | 0, found => found
  | n + 1, found => rootFrom e v n (if (found + 2 ^ n) ^ e ≤ v then found + 2 ^ n else found)

/-- The first 64 bits behind the point of a prime's `e`-th root, for a root below 2^6. -/
def rootFraction (e p : Nat) : ShaWord := BitVec.ofNat 64 (rootFrom e (p * 2 ^ (64 * e)) 70 0)

/-- The constants of the 80 rounds: from the cube roots of the first 80 primes. -/
def shaConstants : List ShaWord := (primesBelow 410).map (rootFraction 3)

/-- The hash a digest starts from: from the square roots of the ninth to the sixteenth prime. -/
def shaStart : List ShaWord := ((primesBelow 54).drop 8).map (rootFraction 2)

/-- A number as big-endian bytes. -/
def beSplit (n v : Nat) : List Byte := (leSplit n v).reverse

/-- Big-endian bytes as a number. -/
def beValue (bs : List Byte) : Nat := leValue bs.reverse

/-- The message with its bit 1, its zeros and its length in 16 bytes: a multiple of 128 bytes. -/
def shaPad (m : List Byte) : List Byte :=
  m ++ (0x80 : Byte) :: List.replicate ((239 - m.length % 128) % 128) 0 ++ beSplit 16 (8 * m.length)

/-- The exclusive or of a word turned right by each of some amounts. -/
def turnedXor (x : ShaWord) (amounts : List Nat) : ShaWord := amounts.foldl (fun acc n => acc ^^^ x.rotateRight n) 0

/-- The schedule word that follows 16 words, the latest first. -/
def nextScheduled (recent : List ShaWord) : ShaWord :=
  let back (k : Nat) : ShaWord := recent.getD (k - 1) 0
  let near := turnedXor (back 2) [19, 61] ^^^ back 2 >>> 6
  let far := turnedXor (back 15) [1, 8] ^^^ back 15 >>> 7
  back 7 + back 16 + near + far

/-- The eight working words of a digest. -/
structure ShaVars where
  a : ShaWord
  b : ShaWord
  c : ShaWord
  d : ShaWord
  e : ShaWord
  f : ShaWord
  g : ShaWord
  h : ShaWord
deriving DecidableEq, Repr

/-- The working words of a hash. -/
def shaVars (hash : List ShaWord) : ShaVars :=
  let w (k : Nat) : ShaWord := hash.getD k 0
  ⟨w 0, w 1, w 2, w 3, w 4, w 5, w 6, w 7⟩

/-- One round with a constant and a schedule word: where `e` has a 1 the choice is `f`, else `g`; the majority is of `a`, `b` and `c`. -/
def ShaVars.round (v : ShaVars) (constant scheduled : ShaWord) : ShaVars :=
  let choice := v.g ^^^ (v.e &&& (v.f ^^^ v.g))
  let majority := (v.a &&& (v.b ||| v.c)) ||| (v.b &&& v.c)
  let into := constant + scheduled + v.h + choice + turnedXor v.e [14, 18, 41]
  ⟨into + majority + turnedXor v.a [28, 34, 39], v.a, v.b, v.c, v.d + into, v.e, v.f, v.g⟩

/-- The rounds over the constants left: each takes the oldest of the latest 16 schedule words (given latest first) and schedules one more. -/
def shaRounds : List ShaWord → List ShaWord → ShaVars → ShaVars
  | [], _, v => v
  | k :: ks, recent, v => shaRounds ks (nextScheduled recent :: recent.take 15) (v.round k (recent.getD 15 0))

/-- The hash after a block of 128 bytes. -/
def shaBlock (hash : List ShaWord) (block : List Byte) : List ShaWord :=
  let words := (List.range 16).map fun k => BitVec.ofNat 64 (beValue ((block.drop (120 - 8 * k)).take 8))
  let v := shaRounds shaConstants words (shaVars hash)
  List.zipWith (· + ·) hash [v.a, v.b, v.c, v.d, v.e, v.f, v.g, v.h]

/-- SHA-384 of a byte list: 48 bytes. -/
def sha384 (m : List Byte) : List Byte :=
  let p := shaPad m
  let h := (List.range (p.length / 128)).foldl (fun h k => shaBlock h ((p.drop (128 * k)).take 128)) shaStart
  (h.take 6).flatMap fun w => beSplit 8 w.toNat

/-! ### P-384 -/

/-- The field's prime. -/
def curveP : Nat := 2 ^ 384 - 2 ^ 128 - 2 ^ 96 + 2 ^ 32 - 1

/-- The order of the base point. -/
def curveN : Nat := 0xffffffffffffffffffffffffffffffffffffffffffffffffc7634d81f4372ddf581a0db248b0a77aecec196accc52973

/-- The curve's coefficient b; a is -3. -/
def curveB : Nat := 0xb3312fa7e23ee7e4988e056be3f82d19181d9c6efe8141120314088f5013875ac656398d8a2ed19d2a85c8edd3ec2aef

/-- A point in Jacobian coordinates: (X / Z^2, Y / Z^3), and no point at all where Z is 0. -/
structure CurvePoint where
  x : Nat
  y : Nat
  z : Nat
deriving DecidableEq, Repr

/-- The base point. -/
def curveG : CurvePoint :=
  ⟨0xaa87ca22be8b05378eb1c71ef320ad746e1d3b628ba79b9859f741e082542a385502f25dbf55296c3a545e3872760ab7,
   0x3617de4a96262c6f5d9e98bf9292dc29f8f41dbd289a147ce9da3113b5f0b8c00a60b1ce1d7e819d7a431d7c90ea0e5f, 1⟩

/-- `b ^ e` modulo `m`, over the bits of `e` from bit `k - 1` down. -/
def powMod (m b e : Nat) : Nat → Nat → Nat
  | 0, r => r
  | k + 1, r => powMod m b e k (if e.testBit k then r * r % m * b % m else r * r % m)

/-- The inverse modulo a prime of at most 384 bits. -/
def invMod (m a : Nat) : Nat := powMod m (a % m) (m - 2) 384 1

/-- `a - b` in the field, for `b` below the prime. -/
def fieldSub (a b : Nat) : Nat := (a + (curveP - b)) % curveP

/-- Twice a point. -/
def curveDouble (u : CurvePoint) : CurvePoint :=
  let zz := u.z * u.z % curveP
  let yy := u.y * u.y % curveP
  let s := 4 * u.x * yy % curveP
  let m := 3 * fieldSub u.x zz * (u.x + zz) % curveP
  let x := fieldSub (m * m % curveP) (2 * s % curveP)
  ⟨x, fieldSub (m * fieldSub s x % curveP) (8 * yy * yy % curveP), 2 * u.y * u.z % curveP⟩

/-- The sum of two points. -/
def curveAdd (u v : CurvePoint) : CurvePoint :=
  if u.z = 0 then v
  else if v.z = 0 then u
  else
    let zu := u.z * u.z % curveP
    let zv := v.z * v.z % curveP
    let a := u.x * zv % curveP
    let b := v.x * zu % curveP
    let c := u.y * v.z % curveP * zv % curveP
    let d := v.y * u.z % curveP * zu % curveP
    if a = b then (if c = d then curveDouble u else ⟨1, 1, 0⟩)
    else
      let h := fieldSub b a
      let r := fieldSub d c
      let hh := h * h % curveP
      let hhh := h * hh % curveP
      let w := a * hh % curveP
      let x := fieldSub (fieldSub (r * r % curveP) hhh) (2 * w % curveP)
      ⟨x, fieldSub (r * fieldSub w x % curveP) (c * hhh % curveP), u.z * v.z % curveP * h % curveP⟩

/-- `k` times a point, added to twice `n` times over the bits of `k` from bit `n - 1` down. -/
def curveMul (k : Nat) (u : CurvePoint) : Nat → CurvePoint → CurvePoint
  | 0, r => r
  | n + 1, r =>
    let r := curveDouble r
    curveMul k u n (if k.testBit n then curveAdd r u else r)

/-- The point of a public key, 0x04 then X and Y; none where it is no point of the curve (Table 10-7). -/
def keyPoint (key : List Byte) : Option CurvePoint :=
  let x := beValue ((key.drop 1).take 48)
  let y := beValue ((key.drop 49).take 48)
  if key.length = 97 ∧ key.head? = some 4 ∧ x < curveP ∧ y < curveP ∧ y * y % curveP = (x * x * x + (curveP - 3) * x + curveB) % curveP then some ⟨x, y, 1⟩
  else none

/-- A signature r then s, 48 big-endian bytes each, over the SHA-384 digest of a message verifies under a key (R219, R371). -/
def sigVerifies (key msg sig : List Byte) : Bool :=
  match keyPoint key with
  | none => false
  | some q =>
    let r := beValue (sig.take 48)
    let t := beValue (sig.drop 48)
    if sig.length = 96 ∧ 0 < r ∧ r < curveN ∧ 0 < t ∧ t < curveN then
      let w := invMod curveN t
      let z := beValue (sha384 msg)
      let p := curveAdd (curveMul (z * w % curveN) curveG 384 ⟨1, 1, 0⟩) (curveMul (r * w % curveN) q 384 ⟨1, 1, 0⟩)
      let i := invMod curveP p.z
      p.z != 0 && p.x * (i * i % curveP) % curveP % curveN == r
    else false

end Sys2Proof.Machine
end

