-- ==== Sys2Proof/Machine/Fun.lean ====
section
/-!
DEFINITION. The FUN functions (R169-R172).  Functions 2 to 8 return the exact mathematical value rounded once.
Reciprocal, roots and their inverse carry a sticky bit, so they are exact before rounding.  Exponential, logarithm,
sine and cosine are evaluated in integers with several hundred fraction bits, far beyond what separates any FP32
input's value from a rounding boundary, and a sticky bit is set where the value is irrational (log entry 12).
-/

namespace Sys2Proof.Machine

/-- Integer square root by bits: `k` rounds, the root so far `r` (floor). -/
def isqrtBits : Nat → Nat → Nat → Nat
  | 0, _, r => r
  | k + 1, n, r => if (r + 2 ^ k) * (r + 2 ^ k) ≤ n then isqrtBits k n (r + 2 ^ k) else isqrtBits k n r

/-- Floor of the square root. -/
def isqrt (n : Nat) : Nat := isqrtBits (Nat.log2 n / 2 + 1) n 0

/-- Square root of a value, with a sticky bit (Table 8-5). -/
def fSqrt : FVal → FVal
  | .nan => .nan
  | .inf a => if a then .nan else .inf false
  | .fin a m e =>
    if m = 0 then .fin a 0 0
    else if a then .nan
    else
      let odd := (e % 2).toNat
      let x := m * 2 ^ (odd + 128)
      let r := isqrt x
      .fin false (2 * r + (if r * r = x then 0 else 1)) ((e - odd - 128) / 2 - 1)

/-- Reciprocal (Table 8-5). -/
def fRcp (v : FVal) : FVal := fDiv (.fin false 1 0) v

/-- Reciprocal square root, with a sticky bit (Table 8-5): floor(2^k / sqrt m) is the root of floor(2^2k / m). -/
def fRsq : FVal → FVal
  | .nan => .nan
  | .inf a => if a then .nan else .fin false 0 0
  | .fin a m e =>
    if m = 0 then .inf a
    else if a then .nan
    else
      let odd := (e % 2).toNat
      let n := m * 2 ^ odd
      let k := 64 + Nat.log2 n
      let r := isqrt (2 ^ (2 * k) / n)
      .fin false (2 * r + (if r * r * n = 2 ^ (2 * k) then 0 else 1)) (-((e - odd) / 2) - k - 1)

/-- Fraction bits of the fixed-point evaluations. -/
def fracBits : Nat := 640

/-- Sum of the first `k` terms of arctan(1/q) in units of 2^-fracBits: +-(1/q^(2i+1))/(2i+1), term `p` first. -/
def atanInv (q : Nat) : Nat → Nat → Nat → Int
  | 0, _, _ => 0
  | k + 1, i, p => (if i % 2 = 0 then ((p / (2 * i + 1) : Nat) : Int) else -((p / (2 * i + 1) : Nat) : Int)) + atanInv q k (i + 1) (p / (q * q))

/-- Pi in units of 2^-fracBits, by 16 arctan(1/5) - 4 arctan(1/239). -/
def piFix : Nat := (16 * atanInv 5 150 0 (2 ^ fracBits / 5) - 4 * atanInv 239 50 0 (2 ^ fracBits / 239)).toNat

/-- Sum of `k` terms of 2 artanh(1/3) from term `i`, in units of 2^-fracBits. -/
def artanhThird : Nat → Nat → Nat → Nat
  | 0, _, _ => 0
  | k + 1, i, p => 2 * (p / (2 * i + 1)) + artanhThird k (i + 1) (p / 9)

/-- The natural logarithm of 2 in units of 2^-fracBits, by 2 artanh(1/3). -/
def ln2Fix : Nat := artanhThird 210 0 (2 ^ fracBits / 3)

/-- Sum of `k` terms of the exponential series at `t`, from term `i` with value `p`. -/
def expSeries (t : Nat) : Nat → Nat → Nat → Nat
  | 0, _, _ => 0
  | k + 1, i, p => p + expSeries t k (i + 1) (p * t / (2 ^ fracBits * (i + 1)))

/-- Alternating series of sine (start 1) or cosine (start 0): terms t^i/i!, step 2, from term `p` of degree `i`. -/
def trigSeries (t : Nat) : Nat → Nat → Int → Int
  | 0, _, _ => 0
  | k + 1, i, p => p + trigSeries t k (i + 2) (-(p * t * t) / ((2 ^ (2 * fracBits) * ((i + 1) * (i + 2)) : Nat) : Int))

/-- Sine of `t` in [0, pi/2], both in units of 2^-fracBits. -/
def sinFix (t : Nat) : Nat := (trigSeries t 80 1 (t : Int)).toNat

/-- Cosine of `t` in [0, pi/2], both in units of 2^-fracBits. -/
def cosFix (t : Nat) : Nat := (trigSeries t 80 0 ((2 ^ fracBits : Nat) : Int)).toNat

/-- A positive fixed-point value that is irrational, as a value with its sticky bit. -/
def sticky (neg : Bool) (v : Nat) : FVal := .fin neg (2 * v + 1) (-(fracBits : Int) - 1)

/-- 2^x (Table 8-5): far outside the range of FP32 a value beyond it stands for the result, which rounds alike. -/
def fExp2 : FVal → FVal
  | .nan => .nan
  | .inf a => if a then .fin false 0 0 else .inf false
  | .fin a m e =>
    if m = 0 then .fin false 1 0
    else
      let n := roundInt .rdn a m e
      if 2 ^ 10 < n then (if a then .fin false 1 (-2000) else .fin false 1 2000)
      else
        let whole : Int := if a then -(n : Int) else n
        let fr : Int := atExp a m e (-(fracBits : Int)) - whole * ((2 ^ fracBits : Nat) : Int)
        if fr = 0 then .fin false 1 whole
        else
          let t := fr.toNat * ln2Fix / 2 ^ fracBits
          match sticky false (expSeries t 130 0 (2 ^ fracBits)) with
          | .fin b v g => .fin b v (g + whole)
          | v => v

/-- The first `k` fraction bits of the base-2 logarithm of y in [1, 2), y in units of 2^-fracBits, by squaring. -/
def log2Bits : Nat → Nat → Nat → Nat
  | 0, _, acc => acc
  | k + 1, y, acc =>
    let z := y * y / 2 ^ fracBits
    if 2 ^ (fracBits + 1) ≤ z then log2Bits k (z / 2) (2 * acc + 1) else log2Bits k z (2 * acc)

/-- Base-2 logarithm (Table 8-5). -/
def fLog2 : FVal → FVal
  | .nan => .nan
  | .inf a => if a then .nan else .inf false
  | .fin a m e =>
    if m = 0 then .inf true
    else if a then .nan
    else
      let l := Nat.log2 m
      let whole : Int := e + l
      if m = 2 ^ l then ofInt whole
      else
        let fr := log2Bits 300 (m * 2 ^ (fracBits - l)) 0
        let v : Int := 2 * (whole * ((2 ^ 300 : Nat) : Int) + fr) + 1
        .fin (decide (v < 0)) v.natAbs (-301)

/-- Quadrant and remainder of |x|, x = m 2^e, modulo pi/2. -/
def reduceTrig (m : Nat) (e : Int) : Nat × Nat :=
  let x := (atExp false m e (-(fracBits : Int))).toNat
  (2 * x / piFix, (2 * x % piFix) / 2)

/-- Sine of |x| with sign and quadrant applied. -/
def trigValue (neg : Bool) (quad t : Nat) : FVal :=
  match quad % 4 with
  | 0 => sticky neg (sinFix t)
  | 1 => sticky neg (cosFix t)
  | 2 => sticky (!neg) (sinFix t)
  | _ => sticky (!neg) (cosFix t)

/-- The magnitude lies below 2^-13. -/
def tiny (m : Nat) (e : Int) : Bool := decide (e + (Nat.log2 m : Int) < -13)

/-- Sine; below 2^-13 the value rounds as x itself, from which it differs by less than 2^-27 of it (Table 8-5). -/
def fSin : FVal → FVal
  | .nan => .nan
  | .inf _ => .nan
  | .fin a m e =>
    if m = 0 ∨ tiny m e then .fin a m e
    else trigValue a (reduceTrig m e).1 (reduceTrig m e).2

/-- Cosine; below 2^-13 the value rounds to 1 (Table 8-5). -/
def fCos : FVal → FVal
  | .nan => .nan
  | .inf _ => .nan
  | .fin _ m e =>
    if m = 0 ∨ tiny m e then .fin false 1 0
    else trigValue false ((reduceTrig m e).1 + 1) (reduceTrig m e).2

/-- The FUN functions (Table 8-5). -/
inductive FunOp where
  | neg | abs | rcp | rsq | sqrt | exp2 | log2 | sin | cos | flr | ceil | trnc | rint | cls
deriving DecidableEq, Repr

/-- The value of a function at a value, for functions 2 to 12 (Table 8-5). -/
def FunOp.value (o : FunOp) (v : FVal) : FVal :=
  match o with
  | .rcp => fRcp v
  | .rsq => fRsq v
  | .sqrt => fSqrt v
  | .exp2 => fExp2 v
  | .log2 => fLog2 v
  | .sin => fSin v
  | .cos => fCos v
  | .flr => fRoundInt .rdn v
  | .ceil => fRoundInt .rup v
  | .trnc => fRoundInt .rtz v
  | .rint => fRoundInt .rne v
  | .neg | .abs | .cls => v

/-- One element of a FUN function: evaluated in FP32 and then rounded to the element format (R169, R170). -/
def FunOp.elem (o : FunOp) (F : FloatFmt) (x : Nat) : Nat :=
  match o with
  | .neg => if 2 ^ (F.width - 1) ≤ x then x - 2 ^ (F.width - 1) else x + 2 ^ (F.width - 1)
  | .abs => x % 2 ^ (F.width - 1)
  | .cls => fclsElem F x
  | .flr | .ceil | .trnc | .rint => rne F (o.value (decodeF F x))
  | _ => rne F (decodeF fp32F (rne fp32F (o.value (decodeF F x))))

/-- A FUN function on a word of a floating-point format. -/
def FunOp.word (o : FunOp) (f : Fmt) (x : Word) : Word :=
  match floatFmt f with
  | some F => mapElems (fmtWidth f) (fmtCount f) (o.elem F) x
  | none => x

/-- FUN's result format (R165, R171). -/
def FunOp.fmt (o : FunOp) (a : Fmt) : Option Fmt :=
  if a.isFloat then some (if o = .cls then fclsFmt a else a) else none

end Sys2Proof.Machine
end

