-- ==== Sys2Proof/Machine/Local.lean ====
section
/-!
DEFINITION. Local stores, bulk copies, batches and barrier objects (chapter 05): LDA, STA, BCOPY, BATCH, BARO and the copy unit.
-/

namespace Sys2Proof.Machine

/-! ### LDA and STA -/

/-- Failing lanes of an LDA or STA (R99); a local-store address is no VA, so the records name page 0 (R313; DEDUCED, log entry 19). -/
def asFails (alloc : Nat) (ra : Reg) (act : Mask) : List (Nat × Nat × Nat) :=
  (laneIds.filter (laneIn act)).filterMap fun l =>
    let a := (ra.at l).toNat
    if a % 4 ≠ 0 then some (l, trapMisalign, 0) else if alloc < a + 4 then some (l, trapAsBounds, 0) else none

/-- The activation-store bytes that a copy reads or writes: base and length; none for direction 1 (R108). -/
def Copy.asRange (k : Copy) : Option (Nat × Nat) :=
  match k.dir with
  | 0 | 2 => some (k.localAddr.toNat, k.bytes)
  | 3 => some (k.localAddr.toNat % 2 ^ 18, k.bytes)
  | _ => none

/-- A copy of the crew in flight overlaps some lane's word (R108). -/
def rangeHits (k : Copy) (as : List Nat) : Bool :=
  match k.asRange with
  | some (b, n) => as.any fun a => decide (a < b + n) && decide (b < a + 4)
  | none => false

/-- The block is to be swapped out (R314). -/
def swapBlock (s : State) (id : Nat) : State :=
  modBlock s id fun b => { b with state := match b.state with
    | .running | .stopping | .waking | .saving _ => .saving true
    | st => st }

/-- A crew waits on copies at BATCH.WAIT, BARO.WAIT, BAR or an LDA or STA: when one of them is held on a page, its block swaps out
(R106). -/
def waitOn (s : State) (block : Nat) (ks : List Copy) : State := if ks.any (·.held) then swapBlock s block else s

/-- Copies of a crew in flight. -/
def copiesOf (s : State) (crew : Nat) : List Copy := s.copies.filter fun k => k.crew == crew

/-- The participants of an LDA or STA with non-empty act, with their address registers. -/
def asSides (x : Ctx) (s : State) (a : RCode) : List (Part × Crew × Reg) :=
  x.parts.filterMap fun p => match crewAt s p.crew with
    | some c => if p.act = 0 then none else (srcReg c a.toNat).map fun r => (p, c, r)
    | none => none

/-- What an LDA or STA presents on the lane port for each participant, and the first grant (R97). -/
def present (s : State) (core : Nat) (ps : List AsPart) : State := grantPort (modCore s core fun k => { k with asParts := k.asParts ++ ps }) core

/-- The body of LDA and STA (`wr`): checks of every participant, the range scoreboard, then the access, part by part (R97-R99, R108). -/
def asBody (wr : Bool) (d a : RCode) (x : Ctx) (s : State) : Res :=
  let ps := asSides x s a
  if ps.any fun q => !q.2.2.fmt.isIndex then .trap trapFormat s
  else
    let alloc (c : Crew) : Nat := match blockOf s c with | some b => b.asBytes | none => 0
    let fails := ps.filterMap fun q =>
      let fs := asFails (alloc q.2.1) q.2.2 q.1.act
      if fs.isEmpty then none else some (q.2.1.id, groupFaults fs wr false)
    if !fails.isEmpty then .lanes fails s
    else
      let hits := ps.flatMap fun q => (copiesOf s q.2.1.id).filter fun k =>
        rangeHits k ((laneIds.filter (laneIn q.1.act)).map fun l => (q.2.2.at l).toNat)
      match hits with
      | [] => .done (present s (((crewAt s x.crew).map (·.core)).getD 0) (ps.map fun q =>
          { crew := q.2.1.id, quarter := q.2.1.slot % 4, wr := wr, dest := d.toNat, addr := q.2.2, data := (srcReg q.2.1 d.toNat).getD Reg.zero
            act := q.1.act, full := q.1.full }))
      | k :: _ => .hold (waitOn s k.block hits)

/-- LDA (R99). -/
def execLda (x : Pfx) (d a : RCode) (s : State) : Host.Outcome State Fault Refusal :=
  issue { i := .lda x d a, ops := [.vec d, .src a], waits := true, localOnly := true } (asBody false d a) s

/-- STA (R99). -/
def execSta (x : Pfx) (d a : RCode) (s : State) : Host.Outcome State Fault Refusal :=
  issue { i := .sta x d a, ops := [.src d, .src a], waits := true, localOnly := true } (asBody true d a) s

/-! ### Bulk copies -/

/-- No barrier object (Table 5-4). -/
def noBarrier : Word := 0xFFFFFFFF

/-- The quad's checks of Table 5-5: none, or the trap. -/
def bcopyCheck (dir : Nat) (r : BitVec 128) (q : List Reg) (asBytes wsBytes : Nat) : Option Nat :=
  let w (i : Nat) : Word := (q.getD i Reg.zero).at 0
  let n := (w 2).toNat
  let x := (w 0).toNat * rStride r
  let loc := (w 1).toNat
  let bar := (w 3).toNat
  let as := if dir = 3 then loc % 2 ^ 18 else loc
  let ws := if dir = 3 then loc / 2 ^ 18 * 16 else loc
  if q.any fun r => r.shape != .u then some trapOperand
  else if q.any fun r => !r.fmt.isIndex then some trapFormat
  else if dir ≠ 3 ∧ (rFlat r ∨ recordOk r (dir != 2) (dir == 2) = false) then some trapAccess
  else if n < 16 ∨ 65536 < n ∨ n % 16 ≠ 0 then some trapOperand
  else if as % 16 ≠ 0 ∨ (dir ≠ 3 ∧ x % 16 ≠ 0) ∨ (w 3 ≠ noBarrier ∧ bar % 8 ≠ 0) then some trapMisalign
  else if (dir ≠ 1 ∧ asBytes < as + n) ∨ (w 3 ≠ noBarrier ∧ asBytes < bar + 8) then some trapAsBounds
  else if (dir = 1 ∨ dir = 3) ∧ wsBytes < ws + n then some trapWsBounds
  else if dir ≠ 3 ∧ rExtent r < x + n ∧ rOobz r = false then some trapBounds
  else none

/-- Fault records of a BCOPY's BOUNDS, which is reported per lane (R313, Table 14-3). -/
def bcopyRecs (r : BitVec 128) (q : List Reg) (dir : Nat) (act : Mask) : List FaultRec :=
  let x := ((q.getD 0 Reg.zero).at 0).toNat * rStride r
  [⟨trapBounds, dir == 2, false, false, false, act, effAddr r x / 4096⟩]

/-- The BCOPYs of a core that wait for a copy slot, in the order of their first stall: those whose crew is still on the core and stands at the instruction,
suspended or not (R104). -/
def copyLine (s : State) (k : CoreSt) : List (Nat × Word) :=
  k.copyWait.filter fun w => match crewAt s w.1 with
    | some c => c.core == k.id && !c.ended && (entryAt c w.2).isSome
    | none => false

/-- A BCOPY of the line would take a slot that frees now: its crew may issue it and is not at its own limit (R102, R104). -/
def copyClaims (s : State) (w : Nat × Word) : Bool :=
  decide ((copiesOf s w.1).length < 16) && match crewAt s w.1 with
    | some c => mayIssue s c
    | none => false

/-- A copy slot of the core is free for the crew's BCOPY: below 64 on the core with the slots that earlier stalls are to take, and below 16 for the crew
(R102, R104). -/
def copyRoom (s : State) (k : CoreSt) (crew : Nat) (pc : Word) : Bool :=
  let ahead := (copyLine s k).takeWhile (· != (crew, pc))
  decide ((s.copies.filter fun x => x.core == k.id).length + (ahead.filter (copyClaims s)).length < 64) && decide ((copiesOf s crew).length < 16)

/-- A copy accepted or, with no slot free, its instruction entered in the line of those that wait (R104, R105). -/
def bcopyBody (dir : Nat) (m : BitVec 4) (d : RCode) (x : Ctx) (s : State) : Res :=
  match x.parts.head?, crewAt s x.crew with
  | some p, some c =>
    match blockOf s c with
    | none => .done s
    | some b =>
      let q := (List.range 4).map fun i => vreg c (d.toNat + i)
      let r := (recAt c m.toNat).bits
      match bcopyCheck dir r q b.asBytes b.wsBytes with
      | some t => if t = trapBounds then .lanes [(c.id, bcopyRecs r q dir p.act)] s else .trap t s
      | none =>
        let core := (coreAt s c.core).getD (CoreSt.reset c.core)
        let line := copyLine s core
        if !copyRoom s core c.id x.pc then
          .stall (modCore s c.core fun k => { k with copyWait := if line.contains (c.id, x.pc) then line else line ++ [(c.id, x.pc)] })
        else
          let s := modCore s c.core fun k => { k with copyWait := line.filter (· != (c.id, x.pc)) }
          let w (i : Nat) : Word := (q.getD i Reg.zero).at 0
          let t := q.foldl (fun t r => t ||| r.taint) (if dir = 3 then 0 else (recAt c m.toNat).taint)
          let k : Copy :=
            { id := s.nextId, crew := c.id, block := c.block, core := c.core, dir := dir, index := w 0, localAddr := w 1
              bytes := (w 2).toNat, barrier := w 3, record := if dir = 3 then 0 else r, clock := (taintClock c t).sup (if dir = 2 then c.acq else c.acq.sup c.copyAcq)
              batch := none, next := 0, ahead := [], denied := [], sliced := [], held := false, failed := .none, priv := c.priv }
          .done { s with copies := s.copies ++ [k], nextId := s.nextId + 1 }
  | _, _ => .done s

/-- BCOPY, global to activation store (R105). -/
def execBcopyG2a (x : Pfx) (m : BitVec 4) (d : RCode) (s : State) : Host.Outcome State Fault Refusal :=
  issue { i := .bcopyG2a x m d, ops := [.grp d 4], waits := true, localOnly := true } (bcopyBody 0 m d) s

/-- BCOPY, global to weight store (R105). -/
def execBcopyG2w (x : Pfx) (m : BitVec 4) (d : RCode) (s : State) : Host.Outcome State Fault Refusal :=
  issue { i := .bcopyG2w x m d, ops := [.grp d 4], waits := true, localOnly := true } (bcopyBody 1 m d) s

/-- BCOPY, activation store to global (R105). -/
def execBcopyA2g (x : Pfx) (m : BitVec 4) (d : RCode) (s : State) : Host.Outcome State Fault Refusal :=
  issue { i := .bcopyA2g x m d, ops := [.grp d 4], waits := true, localOnly := true } (bcopyBody 2 m d) s

/-- BCOPY, activation store to weight store (R105). -/
def execBcopyA2w (x : Pfx) (d : RCode) (s : State) : Host.Outcome State Fault Refusal :=
  issue { i := .bcopyA2w x d, ops := [.grp d 4], waits := true, localOnly := true } (bcopyBody 3 0 d) s

/-! ### Barrier objects -/

/-- A barrier object's fields (Table 5-7). -/
structure Barrier where
  bytes : Nat
  arrivals : Nat
  err : Nat
deriving DecidableEq, Repr

/-- The object at an address of the activation store. -/
def barAt (b : Block) (a : Nat) : Barrier :=
  let v := readNat b.aStore a 8
  ⟨v % 2 ^ 32, v / 2 ^ 32 % 2 ^ 16, v / 2 ^ 62⟩

/-- The object's 8 bytes. -/
def Barrier.bits (o : Barrier) : List Byte := leSplit 8 (o.bytes + o.arrivals * 2 ^ 32 + o.err * 2 ^ 62)

/-- A count lowered; below zero it stays at 0 and ERR becomes 3 unless it is set (R114). -/
def Barrier.lower (o : Barrier) (bytes arrivals : Nat) : Barrier :=
  let low := o.bytes < bytes || o.arrivals < arrivals
  ⟨o.bytes - bytes, o.arrivals - arrivals, if low && o.err == 0 then 3 else o.err⟩

/-- The object at an address changed in one step; a write ordered after `k` stands behind the change (R115). -/
def modBar (s : State) (block a : Nat) (k : Clock) (f : Barrier → Barrier) : State :=
  modBlock s block fun b => { asWrite a (f (barAt b a)).bits b with barClk := sput Clock.zero b.barClk a ((sget Clock.zero b.barClk a).sup k) }

/-- A copy's barrier object lowered by bytes moved, whose writes have the clock `w`: its waiters observe them, and no release of theirs carries the copy
(R105, R113, R115, R257). -/
def lowerBar (s : State) (k : Copy) (w : Clock) (n : Nat) : State :=
  let a := k.barrier.toNat
  if k.barrier = noBarrier then s
  else modBlock (modBar s k.block a Clock.zero fun o => o.lower n 0) k.block fun b =>
    { b with barCopies := sput Clock.zero b.barCopies a ((sget Clock.zero b.barCopies a).sup w) }

/-! ### The copy unit -/

/-- The global offset of unit `u` (R105). -/
def Copy.offset (k : Copy) (u : Nat) : Nat := k.index.toNat * rStride k.record + 16 * u

/-- The VAs of the unit's bytes that lie below the extent; the others are written as zeros, or not written (R105). -/
def Copy.vas (k : Copy) (u : Nat) : List Nat :=
  if k.dir = 3 then []
  else ((List.range 16).filter fun i => decide (k.offset u + i < rExtent k.record)).map fun i => effAddr k.record (k.offset u + i)

/-- The number of units that have moved (R107). -/
def Copy.moved (k : Copy) : Nat := k.next + k.ahead.length

/-- The unit has moved. -/
def Copy.hasMoved (k : Copy) (u : Nat) : Bool := decide (u < k.next) || k.ahead.contains u

/-- The copy has a unit of this number that has not moved. -/
def Copy.awaits (k : Copy) (u : Nat) : Bool := decide (16 * u < k.bytes) && !k.hasMoved u

/-- The first unit not moved, passing over those that have moved ahead of it. -/
def skipMoved (ahead : List Nat) : Nat → Nat → Nat
  | 0, n => n
  | f + 1, n => if ahead.contains n then skipMoved ahead f (n + 1) else n

/-- The copy with one more unit moved (R105). -/
def Copy.mark (k : Copy) (u : Nat) : Copy :=
  if u = k.next then
    let n := skipMoved k.ahead k.ahead.length (u + 1)
    { k with next := n, ahead := k.ahead.filter fun v => decide (n ≤ v) }
  else { k with ahead := k.ahead ++ [u] }

/-- The code of an error mark. -/
def ErrMark.code : ErrMark → Nat
  | .none => 0 | .access => 1 | .soft => 2

/-- A record of a copy unit (Table 15-2): like a core's, under the copy unit's source number. -/
def emitCopy (s : State) (k : Copy) : State :=
  match crewAt s k.crew with
  | none => s
  | some c =>
    if coreEmits s k.core .copy && filterPasses s k.core (taskOf s c) then
      emit s (dieOfCore k.core) (96 + k.core) 18 2 none
        ([BitVec.ofNat 8 k.core, BitVec.ofNat 8 c.slot, BitVec.ofNat 8 (k.dir + 4 * k.failed.code), BitVec.ofNat 8 (k.batch.getD 0)] ++
          leSplit 4 (16 * k.moved))
    else s

/-- The error mark of a copy in its batch: that of the first-issued copy that failed (R110). -/
def markBatch (k : Copy) (c : Crew) : Crew :=
  let i := k.batch.getD 8
  let old := if i = 8 then c.openErr else c.batchErr.getD i .none
  if old == .none || decide (k.id < c.errIds.getD i 0) then
    { c with openErr := if i = 8 then k.failed else c.openErr
             batchErr := if i = 8 then c.batchErr else c.batchErr.set i k.failed
             errIds := c.errIds.set i k.id }
  else c

/-- A copy retires: out of its batch and the range scoreboard, with its error in its batch (R105, R106, R110). -/
def retireCopy (s : State) (k : Copy) : State :=
  let s := emitCopy s k
  let s := { s with copies := s.copies.filter fun x => x.id != k.id }
  if k.failed == .none then s else modCrew s k.crew (markBatch k)

/-- A copy ends with an error: its object first takes ERR, then loses the unmoved bytes (R106). -/
def failCopy (s : State) (k : Copy) (e : ErrMark) : State :=
  let left := k.bytes - 16 * k.moved
  let s := if k.barrier = noBarrier then s else modBar s k.block k.barrier.toNat Clock.zero fun o =>
    { o.lower left 0 with err := if o.err = 0 then e.code else o.err }
  retireCopy (forget s (.copy k.id)) { k with failed := e }

/-- The unit has moved, its writes with the clock `w`: the object falls by 16, and the copy retires with its last unit (R105).  The crew's history
takes the clock only at the BATCH.WAIT that covers the copy (R113). -/
def unitMoved (s : State) (k : Copy) (u : Nat) (w : Clock) : State :=
  let i := k.batch.getD 8
  let s := modCrew (lowerBar s k w 16) k.crew fun c => { c with batchClk := c.batchClk.set i ((c.batchClk.getD i Clock.zero).sup w) }
  let k := k.mark u
  if k.bytes ≤ 16 * k.next then retireCopy s k
  else { s with copies := s.copies.map fun x => if x.id == k.id then k else x }

/-- The local address of a unit in the activation store. -/
def Copy.asAddr (k : Copy) (u : Nat) : Nat := (if k.dir = 3 then k.localAddr.toNat % 2 ^ 18 else k.localAddr.toNat) + 16 * u

/-- The local address of a unit in the weight store. -/
def Copy.wsAddr (k : Copy) (u : Nat) : Nat := (if k.dir = 3 then k.localAddr.toNat / 2 ^ 18 * 16 else k.localAddr.toNat) + 16 * u

/-- A matrix instruction of the copy's block occupies the macro that the unit would write (R109). -/
def macroBusy (s : State) (k : Copy) (u : Nat) : Bool :=
  if k.dir = 1 ∨ k.dir = 3 then
    match coreAt s k.core with
    | some c => match c.matrix with
      | some m => m.macros.getLsbD (k.wsAddr u / 2 ^ 14) && m.crews.any fun id => s.crews.any fun x => x.id == id && x.block == k.block
      | none => false
    | none => false
  else false

/-- The core's L1 line that serves a byte at the copy's clock (R105, R256). -/
def copyLine? (s : State) (k : Copy) (a : Nat) : Option L1Line :=
  (l1Line s k.core (a / 256)).filter fun l => lineServes l (sectorsOf [a % 256]) k.clock

/-- One byte read for a copy: the core's L1 copy when it serves the copy's clock, else the home slice (R105). -/
def copyByte (s : State) (k : Copy) (a : Nat) : Byte :=
  match copyLine? s k a with
  | some l => sget 0 l.data (a % 256)
  | none => (directByte s k.core a).1

/-- The byte that a copy reads is poisoned: in the L1 copy that serves it, else at its home unless the L1 has written it (R44, R106). -/
def copyPoisoned (s : State) (k : Copy) (a : Nat) : Bool :=
  match copyLine? s k a with
  | some l => l.poison.getLsbD (a % 256 / 64)
  | none => homePoisoned s k.core a

/-- The keys of a unit's bytes, which lie in one line, with its TYPE 01, or what stands in the way. -/
inductive CopyKeys where
  | keys (as : List Nat) (unc : Bool)
  | wait
  | access
  | fault (va : Nat)
deriving DecidableEq, Repr

/-- Translation of a unit's bytes (R41, R106). -/
def copyKeys (s : State) (k : Copy) (pasid : Nat) (acc : AccKind) : List Nat → CopyKeys × State
  | [] => (.keys [] false, s)
  | va :: vs =>
    match xlateFor s (.copy k.id) k.core pasid va acc k.priv with
    | (.hit pk unc, s) =>
      match copyKeys s k pasid acc vs with
      | (.keys as _, s) => (.keys (pk :: as) unc, s)
      | r => r
    | (.miss, s) => (.wait, s)
    | (.access, s) => (.access, s)
    | (.fault, s) => (.fault va, s)

/-- A unit held on a page: the request is raised, and the copy waits for its answer (R106). -/
def holdCopy (s : State) (k : Copy) (pasid va : Nat) : State :=
  let pri := pasidLookup s pasid == .ats
  let r : PageReq := ⟨s.nextId, dieOfCore k.core, pri, k.block, k.crew, va / 4096, pasid, k.dir == 2, k.dir != 2, false, false, some k.id⟩
  let s := forget s (.copy k.id)
  { s with pageReqs := s.pageReqs ++ [r], nextId := s.nextId + 1
           copies := s.copies.map fun x => if x.id == k.id then { x with held := true } else x }

/-- A slice access of the copy, counted once a line (R354): the machine, and the copy with its lines. -/
def copyAccess (s : State) (k : Copy) : List Nat → State × Copy
  | a :: _ => if k.sliced.contains (a / 256) then (s, k) else (sliceAccess s (a / 256) none, { k with sliced := a / 256 :: k.sliced })
  | [] => (s, k)

/-- A unit of a copy into the activation store: what stood there may still be read by a matrix instruction of the crew (R203). -/
def asUnit (k : Copy) (u : Nat) (bs : List Byte) (b : Block) : Block :=
  let a := k.asAddr u
  { asWrite a bs b with asOld := ⟨k.crew, k.batch.getD 8, a, readBytes b.aStore a 16⟩ :: (asWrite a bs b).asOld }

/-- A unit from global memory to a local store; a page of TYPE 01 is read at the home slice and kept in no cache (R57). -/
def moveIn (s : State) (k : Copy) (u : Nat) (unc : Bool) (as : List Nat) : State :=
  let far := as.filter fun a => unc || (copyLine? s k a).isNone
  let (s, k) := copyAccess s k far
  let s := if unc then s else mesiRead s ((far.map (· / 64)).eraseDups)
  let bs := padTo 16 (as.map fun a => if unc then (directByte s k.core a).1 else copyByte s k a)
  let s := if k.dir = 0 then modBlock s k.block (asUnit k u bs)
    else modBlock s k.block fun b => { b with wStore := writeBytes b.wStore (k.wsAddr u) bs }
  unitMoved s k u Clock.zero

/-- A unit from the activation store to global memory: through to the home slice, the L1 copy following (R105). -/
def moveOut (s : State) (k : Copy) (u : Nat) (unc : Bool) (as : List Nat) : State :=
  match blockAt s k.block with
  | none => s
  | some b =>
    let ws := as.zip (readBytes b.aStore (k.asAddr u) 16)
    let (s, k) := copyAccess s k as
    match as with
    | [] => unitMoved s k u Clock.zero
    | a :: _ =>
      let c := writeClock s a k.clock
      let s := homeWrite s k.clock ws
      let s := if unc then mesiDrop s (sectorKeys ws) else s
      unitMoved (l1Clocks (l1Through s k.core ws k.clock) k.core c as) k u c

/-- A unit between the local stores. -/
def moveLocal (s : State) (k : Copy) (u : Nat) : State :=
  unitMoved (modBlock s k.block fun b =>
    { b with wStore := writeBytes b.wStore (k.wsAddr u) (readBytes b.aStore (k.asAddr u) 16) }) k u Clock.zero

/-- The copy's task has a PASID (R289). -/
def copyPasid (s : State) (k : Copy) : Nat :=
  match blockAt s k.block with
  | some b => match taskAt s b.task with
    | some t => t.pasid
    | none => 0
  | none => 0

/-- A lossless trace holds the copy unit (R345). -/
def copyTraceHeld (s : State) (k : Copy) : Bool :=
  match trace0 s with
  | some t => t.on && t.ctl.getLsbD 1 && s.traceQ.any fun r => r.src == 96 + k.core
  | none => false

/-- The copy has one of the 64 places of its core's copy unit: a copy restored beyond them waits for one (R102, R107; DESIGN CHOICE, log entry 58). -/
def inUnit (s : State) (k : Copy) : Bool := decide (((s.copies.filter fun x => x.core == k.core).takeWhile fun x => x.id != k.id).length < 64)

/-- A unit sent back from a line that another core holds pinned, with a trace record (R246). -/
def copyRetry (s : State) (k : Copy) (as : List Nat) : State :=
  match as.find? fun a => pinnedElsewhere s k.core (a / 256) with
  | some a => emitRetry s (a / 256) k.core ((crewAt s k.crew).bind (taskOf s)) 0xFF 0
  | none => s

/-- One unit of a copy; one on a page that the host has refused the copy fails (R60, R61, R105-R107, R109, R246, R255). -/
def moveUnit (s : State) (k : Copy) (u : Nat) : State :=
  let wait : State := { s with progress := false }
  if k.held || !inUnit s k || macroBusy s k u || copyTraceHeld s k then wait
  else if k.dir = 3 then moveLocal s k u
  else
    let pasid := copyPasid s k
    if (k.vas u).any fun va => k.denied.contains (va / 4096) then failCopy s k .access
    else match copyKeys s k pasid (if k.dir = 2 then .write else .read) (k.vas u) with
    | (.wait, s) => s
    | (.access, s) => failCopy s k .access
    | (.fault va, s) => if faultRefused s k.core pasid then failCopy s k .access else holdCopy s k pasid va
    | (.keys as unc, s) =>
      let far := if k.dir = 2 then as else as.filter fun a => unc || (copyLine? s k a).isNone
      let host := hostBars s (k.dir == 2) ((far.map (· / 64)).eraseDups)
      if far.any (fun a => pinnedElsewhere s k.core (a / 256) || linkBars s k.core (a / 256)) ||
          !(appliedClock s (dieOfCore k.core)).covers k.clock then { copyRetry s k far with progress := false }
      else if k.dir != 2 && as.any (fun a => if unc then homePoisoned s k.core a else copyPoisoned s k a) then failCopy s k .soft
      else if !host.isEmpty then
        let t := askHost s host
        { t with progress := t.biWait != s.biWait }
      else if k.dir = 2 then moveOut s k u unc as
      else moveIn s k u unc as

/-- BCOPY_UNIT_MOVE (R105): a unit of a copy moves, any of those that have not moved. -/
def execBcopyUnitMove (copy unit : Nat) (s : State) : Host.Outcome State Fault Refusal :=
  match s.copies.find? fun k => k.id == copy && k.awaits unit with
  | some k => .next (moveUnit s k unit)
  | none => .next { s with progress := false }

/-! ### Batches -/

/-- Copies of a crew's sealed batches. -/
def batchCopies (s : State) (crew : Nat) (ns : List Nat) : List Copy :=
  (copiesOf s crew).filter fun k => match k.batch with | some n => ns.contains n | none => false

/-- Batch `n` and the batches sealed before it, in the order of sealing (R111). -/
def batchesTo (c : Crew) (n : Nat) : List Nat :=
  if c.sealed.getD n false then
    ((List.range ((n + 8 - c.nextBatch) % 8 + 1)).map fun i => (c.nextBatch + i) % 8).filter fun i => c.sealed.getD i false
  else []

/-- The error mark of the earliest of those batches that has one (R112). -/
def batchMark (c : Crew) (ns : List Nat) : Option ErrMark := (ns.map fun n => c.batchErr.getD n .none).find? (· != .none)

/-- The trap of an error mark (R106). -/
def ErrMark.trap : ErrMark → Nat
  | .soft => trapSoft
  | _ => trapAccess

/-- SEAL on a crew: what no WAIT has covered of an earlier batch with its number joins those whose number has been taken again (R111). -/
def sealCrew (d : RCode) (p : Part) (c : Crew) : Crew :=
  let n := c.nextBatch
  let c := { c with nextBatch := (n + 1) % 8, sealed := c.sealed.set n true, batchErr := c.batchErr.set n c.openErr
                    batchClk := ((c.batchClk.set 9 ((c.batchClk.getD 9 Clock.zero).sup (c.batchClk.getD n Clock.zero))).set n (c.batchClk.getD 8 Clock.zero)).set 8 Clock.zero
                    errIds := (c.errIds.set n (c.errIds.getD 8 0)).set 8 0, openErr := .none }
  writeVd c d.toNat (uReg .i32 (BitVec.ofNat 32 n)) p.act p.full

/-- A unit that may still be read old, once its crew has sealed a batch as number `n` (R111, R203). -/
def OldUnit.sealed (crew n : Nat) (o : OldUnit) : OldUnit :=
  if o.crew != crew then o else if o.batch = n then { o with batch := 9 } else if o.batch = 8 then { o with batch := n } else o

/-- BATCH.SEAL (R111). -/
def execBatchSeal (x : Pfx) (d : RCode) (s : State) : Host.Outcome State Fault Refusal :=
  issue { i := .batchSeal x d, ops := [.dst d], waits := true, localOnly := true }
    (fun u s =>
      match u.parts.head?, crewAt s u.crew with
      | some p, some c =>
        if p.act = 0 then .done s
        else
          let old := if c.sealed.getD c.nextBatch false then batchCopies s c.id [c.nextBatch] else []
          if !old.isEmpty then .stall s
          else
            let s := { s with copies := s.copies.map fun k => if k.crew == c.id && k.batch.isNone then { k with batch := some c.nextBatch } else k }
            let s := modBlock s c.block fun b => { b with asOld := b.asOld.map (·.sealed c.id c.nextBatch) }
            .done (setCrew s (sealCrew d p c))
      | _, _ => .done s) s

/-- The batch number in va, or the trap (R111). -/
def batchNo (c : Crew) (a : RCode) : Except Nat Nat :=
  match srcReg c a.toNat with
  | none => .error trapOperand
  | some r =>
    if r.shape != .u then .error trapOperand
    else if !r.fmt.isIndex then .error trapFormat
    else if 7 < (r.at 0).toNat then .error trapOperand
    else .ok (r.at 0).toNat

/-- After the WAIT the crew observes what the copies of the batches wrote, and its releases order it; batches whose number has been taken again come before any that is
waited for (R111, R113, R203). -/
def batchSeen (s : State) (c : Crew) (ns : List Nat) : State :=
  let ns := if ns.isEmpty then [] else ns ++ [9]
  let w := ns.foldl (fun k n => k.sup (c.batchClk.getD n Clock.zero)) Clock.zero
  modBlock (setCrew s { c with acq := c.acq.sup w, batchClk := ns.foldl (fun l n => l.set n Clock.zero) c.batchClk }) c.block
    fun b => { b with asOld := b.asOld.filter fun o => !(o.crew == c.id && ns.contains o.batch) }

/-- BATCH.WAIT (R111, R112). -/
def batchWaitBody (a : RCode) (x : Ctx) (s : State) : Res :=
  match x.parts.head?, crewAt s x.crew with
  | some p, some c =>
    if p.act = 0 then .done s
    else
      match batchNo c a with
      | .error t => .trap t s
      | .ok n =>
        let ns := batchesTo c n
        let ks := batchCopies s c.id ns
        if !ks.isEmpty then .stall (waitOn s c.block ks)
        else
          match batchMark c ns with
          | none => .done (batchSeen s c ns)
          | some e =>
            match trapReady s [c.id] with
            | (false, s) => .hold s
            | (true, s) => .trap e.trap (setCrew s { c with batchErr := ns.foldl (fun l i => l.set i .none) c.batchErr })
  | _, _ => .done s

/-- BATCH.WAIT (R111, R112). -/
def execBatchWait (x : Pfx) (a : RCode) (s : State) : Host.Outcome State Fault Refusal :=
  issue { i := .batchWait x a, ops := [.src a], waits := true, localOnly := true } (batchWaitBody a) s

/-- BATCH.POLL (R111, R112). -/
def execBatchPoll (x : Pfx) (d a : RCode) (s : State) : Host.Outcome State Fault Refusal :=
  issue { i := .batchPoll x d a, ops := [.dst d, .src a], waits := true, localOnly := true }
    (fun u s => eachCrew (fun p c =>
      if p.act = 0 then (none, c)
      else
        match batchNo c a with
        | .error t => (some t, c)
        | .ok n =>
          let ns := batchesTo c n
          let v : Word := if !(batchCopies s c.id ns).isEmpty then 0 else if (batchMark c ns).isSome then 3 else 1
          (none, writeVd c d.toNat (uReg .i32 v) p.act p.full)) u s) s

/-! ### BARO -/

/-- The clock that the participants' releases give (R285). -/
def partsClock (s : State) (ps : List Part) : Clock :=
  ps.foldl (fun k p => match crewAt s p.crew with | some c => k.sup (crewClock c) | none => k) Clock.zero

/-- The crew that a BARO acts for: the first participant with lanes in act, since BARO performs once per issue (R115; DEDUCED, log entry 16). -/
def baroPart (x : Ctx) (s : State) : Option (Part × Crew × Block) :=
  match x.parts.find? fun p => p.act != 0 with
  | none => none
  | some p => match crewAt s p.crew with
    | none => none
    | some c => (blockOf s c).map fun b => (p, c, b)

/-- The object's address, or the trap (R115). -/
def baroAddr (c : Crew) (b : Block) (a : RCode) : Except Nat Nat :=
  match srcReg c a.toNat with
  | none => .error trapOperand
  | some r =>
    let v := (r.at 0).toNat
    if r.shape != .u then .error trapOperand
    else if !r.fmt.isIndex then .error trapFormat
    else if v % 8 ≠ 0 then .error trapMisalign
    else if b.asBytes < v + 8 then .error trapAsBounds
    else .ok v

/-- The body of a BARO: `f` acts on the object's address. -/
def baroBody (a : RCode) (f : Part → Crew → Block → Nat → State → Res) (x : Ctx) (s : State) : Res :=
  match baroPart x s with
  | none => .done s
  | some (p, c, b) =>
    match baroAddr c b a with
    | .error t => .trap t s
    | .ok v => f p c b v s

/-- BARO.INIT (R115): the address is checked before va+1 and va+2 (DESIGN CHOICE, log entry 60). -/
def execBaroInit (x : Pfx) (a : RCode) (s : State) : Host.Outcome State Fault Refusal :=
  issue { i := .baroInit x a, ops := [.grp a 3], waits := true, localOnly := true }
    (baroBody a fun _ c b v s =>
      let r1 := vreg c (a.toNat + 1)
      let r2 := vreg c (a.toNat + 2)
      if r1.shape != .u || r2.shape != .u || decide (0xFFFF < (r2.at 0).toNat) then .trap trapOperand s
      else .done (modBar { s with blocks := s.blocks.map fun x => if x.id == b.id then { x with barClk := sput Clock.zero x.barClk v Clock.zero, barCopies := sput Clock.zero x.barCopies v Clock.zero } else x }
        b.id v Clock.zero fun _ => ⟨(r1.at 0).toNat, (r2.at 0).toNat, 0⟩)) s

/-- The clock of the copies that the participants have observed and that their releases do not carry (R113, R257). -/
def partsCopies (s : State) (ps : List Part) : Clock :=
  ps.foldl (fun k p => match crewAt s p.crew with | some c => k.sup c.copyAcq | none => k) Clock.zero

/-- BARO.ARRIVE (R115): after the participants' earlier core-scope stores; a waiter observes the writes ordered before it, those of copies that a participant has
waited for at an object or a BAR among them. -/
def execBaroArrive (x : Pfx) (a : RCode) (s : State) : Host.Outcome State Fault Refusal :=
  issue { i := .baroArrive x a, ops := [.src a], waits := true, localOnly := true }
    (fun u s => baroBody a (fun _ _ b v s =>
      if u.parts.any fun p => (flightsOf s p.crew).any fun f => f.op.writes && f.scope == 0 then .stall s
      else .done (modBlock (modBar s b.id v (partsClock s u.parts) fun o => o.lower 0 1) b.id fun b =>
        { b with barCopies := sput Clock.zero b.barCopies v ((sget Clock.zero b.barCopies v).sup (partsCopies s u.parts)) })) u s) s

/-- The trap of an object's ERR (R115). -/
def barTrap (e : Nat) : Option Nat :=
  match e with
  | 1 => some trapAccess
  | 2 => some trapSoft
  | 3 => some trapOperand
  | _ => none

/-- BARO.WAIT (R115): its participants then observe what the object has counted and what was ordered before its arrivals; of the former no release of theirs
carries anything (R113, R257). -/
def execBaroWait (x : Pfx) (a : RCode) (s : State) : Host.Outcome State Fault Refusal :=
  issue { i := .baroWait x a, ops := [.src a], waits := true, localOnly := true }
    (fun u s => baroBody a (fun _ _ b v s =>
      let o := barAt b v
      if o.bytes ≠ 0 ∨ o.arrivals ≠ 0 then
        .stall (waitOn s b.id (s.copies.filter fun k => k.block == b.id && k.barrier.toNat == v))
      else match barTrap o.err with
        | some t => .trap t s
        | none =>
          let k := sget Clock.zero b.barClk v
          let w := sget Clock.zero b.barCopies v
          .done (u.parts.foldl (fun s p => modCrew s p.crew fun c => { c with acq := c.acq.sup k, copyAcq := c.copyAcq.sup w }) s)) u s) s

end Sys2Proof.Machine
end

