-- ==== Sys2Proof/Machine/Control.lean ====
section
/-!
DEFINITION. Control transfer, sets, barriers and ordered sections (chapter 12), and the device's own events on frontiers: the quantum,
rendezvous that can never complete, and words that are no instruction.
-/

namespace Sys2Proof.Machine

/-- A branch offset in halfwords from an instruction (R281). -/
def branchTarget (pc : Word) (off : Int) : Word := BitVec.ofInt 32 (pc.toNat + 2 * off)

/-- The issuing entry of a participant, its issue counted (R267). -/
def issuing (s : State) (c : Crew) (pc : Word) : Option Entry :=
  (entryAt c pc).map fun e => countIssue (quantumOf s c.core) (c.entries.filter fun x => x.pc != pc) e

/-- An entry that a split adds (R265). -/
def Entry.fresh (pc : Word) (prio : Nat) (mask : Mask) : Entry := ⟨pc, prio, mask, none, false, 0, 0⟩

/-- The paths of a direct transfer of entry `e` with taken lanes `act` (R265); the first keeps the entry. -/
def branchPaths (e : Entry) (act : Mask) (next target : Word) (t : Nat) : List Entry :=
  let rest := e.mask &&& ~~~act
  if rest = 0 then [{ e.to target with prio := t }]
  else if act = 0 then [e.to next]
  else [{ e.to next with mask := rest }, Entry.fresh target t act]

/-- One participant's entry leaves its instruction by the paths that `f` gives (R265, R267, R270). -/
def leaveBy (x : Ctx) (f : Part → Crew → Entry → Bool × List Entry) (p : Part) (s : State) : Except FrontErr State :=
  match crewAt s p.crew with
  | none => .ok s
  | some c =>
    match issuing s c x.pc with
    | none => .ok s
    | some e =>
      let (swap, paths) := f p c e
      match goOn s c.id x.pc swap paths with
      | .error r => .error r
      | .ok s =>
        match paths.head? with
        | some q => rotateDemoted s c.id q.pc
        | none => .ok s

/-- The participants in turn, with what stops the first that cannot go. -/
def leaveAll (x : Ctx) (f : Part → Crew → Entry → Bool × List Entry) : List Part → State → Except FrontErr State
  | [], s => .ok s
  | p :: ps, s =>
    match leaveBy x f p s with
    | .ok s => leaveAll x f ps s
    | .error r => .error r

/-- A transfer of every participant: nothing is transferred where a frontier cannot take it (R270, R271, R282). -/
def transfer (x : Ctx) (s : State) (f : Part → Crew → Entry → Bool × List Entry) (after : State → State) : Res :=
  match leaveAll x f x.parts s with
  | .ok s => .moved (after s)
  | .error .frontier => .trap trapFrontier s
  | .error .soft => .trap trapSoft s
  | .error .busy => .stall s

/-- The body of BRA and BRL (R281). -/
def branchBody (target : Word → Word) (t : BitVec 4) (x : Ctx) (s : State) : Res :=
  transfer x s (fun p _ e => (true, branchPaths e p.act x.next (target x.pc) t.toNat)) id

/-- BRA (R281). -/
def execBra (x : Pfx) (off : BitVec 14) (t : BitVec 4) (s : State) : Host.Outcome State Fault Refusal :=
  issue { i := .bra x off t } (branchBody (fun pc => branchTarget pc off.toInt) t) s

/-- BRL (R281). -/
def execBrl (x : Pfx) (off : Word) (t : BitVec 4) (s : State) : Host.Outcome State Fault Refusal :=
  issue { i := .brl x off t } (branchBody (fun pc => branchTarget pc off.toInt) t) s

/-- The links of a CALL (R281): v59 in the lanes of act. -/
def writeLinks (x : Ctx) (s : State) : State :=
  x.parts.foldl (fun s p => if p.act = 0 then s else modCrew s p.crew fun c => writeVd c 59 (uReg .i32 x.next) p.act p.full) s

/-- CALL (R281). -/
def execCall (x : Pfx) (off : BitVec 14) (t : BitVec 4) (s : State) : Host.Outcome State Fault Refusal :=
  issue { i := .call x off t, ops := [.vec 59] }
    (fun u s => transfer u s (fun p _ e => (true, branchPaths e p.act u.next (branchTarget u.pc off.toInt) t.toNat)) (writeLinks u)) s

/-! ### Indirect transfer -/

/-- The values of a register in some lanes, each once, ascending. -/
def laneValues (r : Reg) (m : Mask) : List Nat := sortBy (fun a b => decide (a ≤ b)) (distinct ((laneIds.filter (laneIn m)).map fun l => (r.at l).toNat))

/-- The lanes of a mask in which a register holds a value. -/
def lanesWith (r : Reg) (m : Mask) (v : Nat) : Mask := maskOf fun l => laneIn m l && (r.at l).toNat == v

/-- What the checks of a participant's indirect targets come to, over its distinct targets (R263). -/
structure TargetChecks where
  bad : List Nat
  faults : List Nat
  wait : Bool
deriving DecidableEq, Repr

/-- The targets checked in turn. -/
def checkTargets (c : Crew) : List Nat → State → TargetChecks × State
  | [], s => (⟨[], [], false⟩, s)
  | v :: vs, s =>
    let (r, s) := checkTarget s (some (.wait c.id)) c (BitVec.ofNat 32 v)
    let (k, s) := checkTargets c vs s
    match r with
    | .valid => (k, s)
    | .invalid => ({ k with bad := v :: k.bad }, s)
    | .fault => ({ k with faults := v :: k.faults }, s)
    | .wait => ({ k with wait := true }, s)

/-- The fault records of failing targets (R282, R313). -/
def targetRecs (s : State) (c : Crew) (r : Reg) (act : Mask) (code : Nat) (fetch : Bool) (vs : List Nat) : List FaultRec :=
  groupFaults ((laneIds.filter (laneIn act)).filterMap fun l =>
    if vs.contains (r.at l).toNat then some (l, code, textVa s c (r.at l) / 4096) else none) false fetch

/-- What the target check of an indirect transfer comes to over its participants. -/
inductive JumpCheck where
  | go (s : State)
  | fails (recs : List (Nat × List FaultRec)) (s : State)
  | swap (s : State)
  | wait (s : State)
deriving Repr

/-- The targets of the participants checked in turn (R263, R282). -/
def checkJumps (a : RCode) : List Part → State → JumpCheck
  | [], s => .go s
  | p :: ps, s =>
    match crewAt s p.crew with
    | none => checkJumps a ps s
    | some c =>
      match srcReg c a.toNat with
      | none => checkJumps a ps s
      | some r =>
        let (k, s1) := checkTargets c (laneValues r p.act) s
        if k.wait then .wait s1
        else
          let refuse := faultRefused s c.core (pasidOf s c)
          let bad := if refuse then k.bad ++ k.faults else k.bad
          if !bad.isEmpty then
            match checkJumps a ps (forget s1 (.wait c.id)) with
            | .wait s => .wait s
            | .fails rs s => .fails ((c.id, targetRecs s c r p.act trapAccess false bad) :: rs) s
            | .go s => .fails [(c.id, targetRecs s c r p.act trapAccess false bad)] s
            | .swap s => .fails [(c.id, targetRecs s c r p.act trapAccess false bad)] s
          else if !k.faults.isEmpty then .swap (pageFault (forget s1 (.wait c.id)) c false (targetRecs s1 c r p.act 0 true k.faults))
          else checkJumps a ps s1

/-- The paths of an indirect transfer: one for each target, ascending, the lowest keeping the entry, then the lanes outside act (R282). -/
def jumpPaths (r : Reg) (e : Entry) (act : Mask) (next : Word) (t : Nat) : List Entry :=
  let rest := e.mask &&& ~~~act
  match laneValues r act with
  | [] => [e.to next]
  | v :: vs =>
    { e.to (BitVec.ofNat 32 v) with prio := t, mask := lanesWith r act v } ::
      (vs.map fun v => Entry.fresh (BitVec.ofNat 32 v) t (lanesWith r act v)) ++
      (if rest = 0 then [] else [Entry.fresh next e.prio rest])

/-- The body of JMPI and RET (R282). -/
def jumpBody (a : RCode) (t : Nat) (x : Ctx) (s : State) : Res :=
  let fmtBad := x.parts.any fun p => p.act != 0 && (match crewAt s p.crew with
    | some c => match srcReg c a.toNat with
      | some r => !r.fmt.isIndex
      | none => false
    | none => false)
  if fmtBad then .trap trapFormat s
  else
    match checkJumps a (x.parts.filter fun p => p.act != 0) s with
    | .wait s => .hold s
    | .swap s => .moved s
    | .fails rs s => .lanes rs s
    | .go s => transfer x s (fun p c e => (false, jumpPaths ((srcReg c a.toNat).getD Reg.zero) e p.act x.next t)) id

/-- JMPI (R282). -/
def execJmpi (x : Pfx) (t : BitVec 4) (a : RCode) (s : State) : Host.Outcome State Fault Refusal :=
  issue { i := .jmpi x t a, ops := [.src a] } (jumpBody a t.toNat) s

/-- RET (R282). -/
def execRet (x : Pfx) (t : BitVec 4) (a : RCode) (s : State) : Host.Outcome State Fault Refusal :=
  issue { i := .ret x t a, ops := [.src a] } (jumpBody a t.toNat) s

/-- RET, 16-bit: va is v59 and the priority 0 (R25, R282). -/
def execRet16 (s : State) : Host.Outcome State Fault Refusal :=
  issue { i := .ret16, ops := [.src 59] } (jumpBody 59 0) s

/-! ### Ordered sections and exits -/

/-- Sections of a crew's lanes end after the crew's die-scope release, for the next fragments to acquire (R287). -/
def closeSections (s : State) (c : Crew) (m : Mask) : State :=
  let k := crewClock ((crewAt s c.id).getD c)
  endSections (modDie s (dieOfCore c.core) fun d => { d with ordClock := d.ordClock.sup k }) c.id m

/-- The body of EXIT (R283): sections of the lanes end first, as ORD.END ends them. -/
def exitBody (x : Ctx) (s : State) : Res :=
  match x.parts.head?, crewAt s x.crew with
  | some p, some c =>
    if p.act = 0 then .done s
    else
      let held := sectMask c &&& p.act
      -- the checkpoint at the crew's end waits for the atomics that its hash still lacks (R356, R357)
      let last := c.live &&& ~~~p.act == 0 && !c.hashQ.isEmpty
      let (go, s) := if last then (false, s) else if held = 0 then (true, s) else releaseNow s c 1
      if !go then .stall s
      else
        match leaveBy x (fun p _ e => (false, [{ e.to x.next with mask := e.mask &&& ~~~p.act }])) p s with
        | .error .soft => .trap trapSoft s
        | .error .frontier => .trap trapFrontier s
        | .error .busy => .stall s
        | .ok s =>
          let s := if held = 0 then s else closeSections s c held
          .moved (exitLanes s c.id p.act)
  | _, _ => .done s

/-- EXIT (R283). -/
def execExit (x : Pfx) (s : State) : Host.Outcome State Fault Refusal := issue { i := .exit x } exitBody s

/-- EXIT, 16-bit (R25, R283). -/
def execExit16 (s : State) : Host.Outcome State Fault Refusal := issue { i := .exit16 } exitBody s

/-- The ready lanes of an ORD.BEGIN: the lanes whose turn it is, the lowest of each slot (R287). -/
def readyLanes (s : State) (c : Crew) (r : Reg) (act : Mask) : Mask :=
  let key (l : Nat) : Nat := (r.at l).toNat
  let turns (l : Nat) : Bool := laneIn act l && (orderCounter s (dieOfCore c.core) (key l % 2 ^ 16)).toNat == key l / 2 ^ 16
  maskOf fun l => turns l && !(List.range l).any fun j => turns j && key j % 2 ^ 16 == key l % 2 ^ 16

/-- The crew with the ready lanes in their sections, after its die-scope acquire (R287). -/
def beginSections (die : Clock) (r : Reg) (m : Mask) (c : Crew) : Crew :=
  { c with acq := c.acq.sup die
           sect := (c.sect.zipIdx).map fun (o, l) => if laneIn m l then some (r.at l) else o }

/-- The body of ORD.BEGIN (R287; DEDUCED, log entry 20). -/
def ordBeginBody (a : RCode) (x : Ctx) (s : State) : Res :=
  match x.parts.head?, crewAt s x.crew with
  | some p, some c =>
    if p.act = 0 then .done s
    else
      match srcReg c a.toNat with
      | none => .trap trapOperand s
      | some r =>
        if !r.fmt.isIndex then .trap trapFormat s
        else if sectMask c &&& p.act ≠ 0 then .trap trapOperand s
        else
          let ready := readyLanes s c r p.act
          if ready = 0 then .moved { block s c.id x.pc .order with progress := false }
          else
            let die := match dieAt s (dieOfCore c.core) with | some d => d.ordClock | none => Clock.zero
            let stay := p.act &&& ~~~ready
            transfer x s (fun _ _ e => (true, [{ e.to x.next with mask := e.mask &&& ~~~stay }, Entry.fresh x.pc e.prio stay]))
              (fun s => modCrew s c.id (beginSections die r ready))
  | _, _ => .done s

/-- ORD.BEGIN (R287). -/
def execOrdBegin (x : Pfx) (a : RCode) (s : State) : Host.Outcome State Fault Refusal :=
  issue { i := .ordBegin x a, ops := [.src a], waits := true } (ordBeginBody a) s

/-- ORD.END (R287): a die-scope release, then the sections of the lanes of act end. -/
def execOrdEnd (x : Pfx) (s : State) : Host.Outcome State Fault Refusal :=
  issue { i := .ordEnd x, waits := true }
    (fun u s =>
      match u.parts.head?, crewAt s u.crew with
      | some p, some c =>
        if p.act = 0 then .done s
        else
          match releaseNow s c 1 with
          | (false, s) => .stall s
          | (true, s) => .done (closeSections s c (sectMask c &&& p.act))
      | _, _ => .done s) s

/-! ### YIELD, BAR, JOIN, LEAVE, NOP -/

/-- The body of YIELD (R284). -/
def yieldBody (x : Ctx) (s : State) : Res :=
  match x.parts.head?, crewAt s x.crew with
  | some p, some c =>
    if p.act = 0 || (c.entries.length ≤ 1 && (c.nrec = 0 || c.priv)) then .done s
    else transfer x s (fun _ c e => (false, [{ e.to x.next with demoted := true, quantum := 0, left := quantumOf s c.core }])) id
  | _, _ => .done s

/-- YIELD (R284). -/
def execYield (x : Pfx) (s : State) : Host.Outcome State Fault Refusal := issue { i := .yield x } yieldBody s

/-- YIELD, 16-bit (R25, R284). -/
def execYield16 (s : State) : Host.Outcome State Fault Refusal := issue { i := .yield16 } yieldBody s

/-- NOP, 16-bit (R25): an issue slot only. -/
def execNop (s : State) : Host.Outcome State Fault Refusal := issue { i := .nop } (fun _ s => .done s) s

/-- Core-scope releases of every participant (R285). -/
def releaseEach : List Part → State → Bool × State
  | [], s => (true, s)
  | p :: ps, s =>
    match crewAt s p.crew with
    | none => releaseEach ps s
    | some c =>
      match releaseNow s c 0 with
      | (true, s) => releaseEach ps s
      | (false, s) => (false, s)

/-- A BAR orders the copies of a crew: each of its participants, and at block scope every crew of the block, ended crews too (R116, R285). -/
def barCovers (s : State) (x : Ctx) (block crew : Nat) : Bool :=
  x.parts.any (fun p => p.crew == crew) || (x.scope == .block && (match crewAt s x.crew with | some c => c.block == block | none => false))

/-- The copies that a BAR waits for: those of its participants, and at block scope those of every crew of the block, ended crews too (R116, R285). -/
def barCopies (s : State) (x : Ctx) : List Copy := s.copies.filter fun k => barCovers s x k.block k.crew

/-- After the BAR the copies of those crews that have retired are observed: in memory by the clocks of their writes, those that a BATCH.WAIT of a crew that has
ended has covered among them, and in the local stores (R116, R285; DEDUCED, log entry 56). -/
def barSeen (s : State) (x : Ctx) (block : Nat) : Clock × State :=
  let mine := s.crews.filter fun c => barCovers s x c.block c.id
  (mine.foldl (fun k c => c.batchClk.foldl Clock.sup (if c.ended then k.sup (crewClock c) else k)) Clock.zero,
   modBlock s block fun b => { b with asOld := b.asOld.filter fun o => !mine.any fun c => c.id == o.crew })

/-- The body of BAR, whatever its guard (R285). -/
def barBody (x : Ctx) (s : State) : Res :=
  match releaseEach x.parts s with
  | (false, s) => .stall s
  | (true, s) =>
    match barCopies s x with
    | k :: ks => .stall (waitOn s k.block (k :: ks))
    | [] =>
      let k := partsClock s x.parts
      let (w, s) := barSeen s x (((crewAt s x.crew).map (·.block)).getD 0)
      .done (x.parts.foldl (fun s p => modCrew s p.crew fun c => { c with acq := c.acq.sup k, copyAcq := c.copyAcq.sup w }) s)

/-- BAR (R285). -/
def execBar (x : Pfx) (s : State) : Host.Outcome State Fault Refusal := issue { i := .bar x, waits := true } barBody s

/-- The crew's block with the crew joined to set `n`, or the trap (R279). -/
def joinSet (c : Crew) (n expected : Nat) (b : Block) : Option Block :=
  match b.sets.getD n none with
  | none => some { b with sets := b.sets.set n (some ⟨expected, decide (expected = 1), [c.id]⟩) }
  | some g =>
    if g.expected ≠ expected ∨ g.complete then none
    else
      let m := g.members ++ [c.id]
      some { b with sets := b.sets.set n (some ⟨g.expected, decide (m.length = g.expected), m⟩) }

/-- JOIN (R279). -/
def execJoin (x : Pfx) (n k : BitVec 3) (s : State) : Host.Outcome State Fault Refusal :=
  issue { i := .join x n k, localOnly := true }
    (fun u s =>
      match u.parts.head?, crewAt s u.crew with
      | some p, some c =>
        if p.act = 0 then .done s
        else if (setOf s c).isSome then .trap trapOperand s
        else match blockOf s c with
          | none => .done s
          | some b => match joinSet c k.toNat (n.toNat + 1) b with
            | none => .trap trapOperand s
            | some b => .done (setBlock s b)
      | _, _ => .done s) s

/-- LEAVE (R280). -/
def execLeave (x : Pfx) (k : BitVec 3) (s : State) : Host.Outcome State Fault Refusal :=
  issue { i := .leave x k, localOnly := true }
    (fun u s =>
      match u.parts.head?, crewAt s u.crew with
      | some p, some c =>
        if p.act = 0 then .done s
        else match setOf s c with
          | some (n, _, _) => if n = k.toNat then .done (leaveSet s c) else .trap trapOperand s
          | none => .trap trapOperand s
      | _, _ => .done s) s

/-! ### Events -/

/-- FRONT_QUANTUM_EXPIRE: the crew named by `unit` has an entry that has issued FRONT_QUANTUM times in a row while another entry is
not blocked; it is demoted, or rotated with the frontier stack (R267). -/
def execFrontQuantumExpire (s : State) : Host.Outcome State Fault Refusal :=
  match crewAt s s.unit with
  | none => noEvent s
  | some c =>
    match c.entries.find? fun e => !e.demoted && decide (quantumOf s c.core ≤ e.quantum) && c.entries.any fun o => o.pc != e.pc && o.wait.isNone with
    | none => noEvent s
    | some e =>
      let down (x : Entry) : Entry := if x.pc == e.pc then { x with quantum := 0, demoted := true, left := 1 } else x
      match rotateDemoted (setCrew s { c with entries := c.entries.map down }) c.id e.pc with
      | .ok s => .next s
      | .error r => .next (rotateTrap s c e r)

/-- The crews that an entry's rendezvous names (R276). -/
def rdvNames (s : State) (c : Crew) (pc : Word) : List Nat :=
  let all := (s.crews.filter fun x => x.block == c.block && !x.ended).map (·.id)
  match c.rdv.find? fun r => r.1 == pc with
  | some (_, .set) => match setOf s c with
    | some (_, _, g) => if g.complete then g.members else all
    | none => all
  | some (_, .block) => all
  | _ => [c.id]

/-- The entries and stacked records of a crew (R276). -/
def allPaths (s : State) (c : Crew) : List Entry := c.entries ++ stackRecs s c

/-- The crews reached from a list of crews in at most `n` rounds (R276). -/
def rdvClosure (s : State) : Nat → List Nat → List Nat
  | 0, ids => ids
  | n + 1, ids =>
    rdvClosure s n ((ids ++ ids.flatMap fun id => match crewAt s id with
      | some c => (allPaths s c).flatMap fun e => if e.wait == some .rendezvous then rdvNames s c e.pc else []
      | none => []).eraseDups)

/-- The crew cannot move by itself: every path stands at a rendezvous that is not complete, and the crew is neither held nor in its
handler (R276, R326). -/
def crewStuck (s : State) (id : Nat) : Bool :=
  match crewAt s id with
  | some c => c.ended || (mayIssue s c && !c.priv && (allPaths s c).all (fun e => e.wait == some .rendezvous) && !c.entries.any (selectable s c))
  | none => true

/-- The blocked entry that traps: highest priority, then lower PC, then lower slot (R276). -/
def stuckEntry (s : State) (ids : List Nat) : Option (Crew × Entry) :=
  (ids.filterMap (crewAt s)).foldl (fun (best : Option (Crew × Entry)) c =>
    c.entries.foldl (fun best e =>
      match best with
      | none => some (c, e)
      | some (b, f) =>
        if f.prio < e.prio || (f.prio == e.prio && (decide (e.pc.toNat < f.pc.toNat) || (e.pc == f.pc && decide (c.slot < b.slot)))) then some (c, e)
        else best) best) none

/-- RENDEZVOUS_DEADLOCK (R276), from the crew named by `unit`. -/
def execRendezvousDeadlock (s : State) : Host.Outcome State Fault Refusal :=
  match crewAt s s.unit with
  | none => noEvent s
  | some c =>
    let ids := rdvClosure s s.crews.length [c.id]
    if !(allHeld c && ids.all (crewStuck s)) then noEvent s
    else
      match stuckEntry s ids with
      | none => noEvent s
      | some (c, e) =>
        match fetchInstr s c e.pc with
        | (.word w lit len, s) =>
          let i := instrOf w lit len
          let x : Ctx := ⟨c.id, i.pfx.scope, e.pc, e.pc + BitVec.ofNat 32 len, BitVec.ofNat 32 w, BitVec.ofNat 32 lit, [⟨c.id, e.mask, false⟩]⟩
          .next (trapAll x s (if i.full then trapPartial else trapRendezvous) (·.act) (fun _ => []))
        | (_, s) => .next s

/-- The guard of a fetched word; a 16-bit instruction is under pT (R18, R24). -/
def wordGuard (w : Word) (len : Nat) : Guard := if len = 2 then Pfx.sixteen.guard else (pfxOf w.toNat).guard

/-- ILLEGAL_INSTRUCTION: the issue of a word that decodes to no instruction (R28). -/
def execIllegalInstruction (word lit : Word) (len : Nat) (why : Why) (s : State) : Host.Outcome State Fault Refusal :=
  match s.cur with
  | none => .refused .noIssuingCrew
  | some u =>
    match crewAt s u.crew with
    | none => .refused .noIssuingCrew
    | some c =>
      match entryAt c u.pc with
      | none => .refused .noIssuingCrew
      | some e =>
        let code := match why with
          | .scope priv => if priv && !c.priv then trapPriv else trapScope
          | _ => trapIllegal
        .next (trapAll ⟨c.id, .lane, u.pc, u.pc + BitVec.ofNat 32 len, word, lit, [⟨c.id, actOf c e (wordGuard word len), false⟩]⟩
          { s with cur := none } code (·.act) (fun _ => []))

end Sys2Proof.Machine
end

