-- ==== Sys2Proof/Machine/CtlRegs.lean ====
section
/-!
DEFINITION. Control registers (Table 14-11) and system registers (Table 6-6): what each reads and what a write changes.
-/

namespace Sys2Proof.Machine

/-- Enabled cores of a die (R14). -/
def enabledCores (s : State) (die : Nat) : Nat := (s.cores.filter fun c => c.enabled && dieOfCore c.id == die).length

/-- A core's control register as MOVC and the host read it (R335, Tables 12-1, 12-2, 4-7, 14-12, 15-5). -/
def coreCtl (s : State) (k : CoreSt) : CtlReg → Word
  | .ctlId => BitVec.ofNat 32 (k.id % 128 + 128 * dieOfCore k.id + 256 * Config.rev.toNat + 0x0A96 * 2 ^ 16)
  | .ctlCaps => BitVec.ofNat 32 (1 + 256 * enabledCores s (dieOfCore k.id))
  | .frontQuantum => k.quantum
  | .frontStackBase => k.stackBase
  | .mshrAgeLimit => k.ageLimit
  | .pinPolicy => k.pinPolicy
  | .traceCtl => k.traceCtl
  | .traceFilter => k.traceFilter
  | .traceSample => k.traceSample
  | .replayCtl => k.replayCtl
  | _ => 0

/-- The RW bits of a core's control register. -/
def ctlMask : CtlReg → Word
  | .frontQuantum => 0x7FF
  | .frontStackBase => 0x800FFFFF
  | .mshrAgeLimit => 0xFFFF
  | .pinPolicy => 0x1
  | .traceCtl => 0x1FF
  | .traceFilter => 0x1FFFF
  | .traceSample => 0x1F
  | .replayCtl => 0x1
  | _ => 0

/-- A core with a control register written; RO and RSV fields keep their values, and TRACE_SAMPLE restarts the sample count (R347). -/
def CoreSt.setCtl (k : CoreSt) (r : CtlReg) (v : Word) : CoreSt :=
  let w := v &&& ctlMask r
  match r with
  | .frontQuantum => { k with quantum := w }
  | .frontStackBase => { k with stackBase := w }
  | .mshrAgeLimit => { k with ageLimit := w }
  | .pinPolicy => { k with pinPolicy := w }
  | .traceCtl => { k with traceCtl := w }
  | .traceFilter => { k with traceFilter := w }
  | .traceSample => { k with traceSample := w, sampleCount := 0 }
  | .replayCtl => { k with replayCtl := w }
  | _ => k

/-- A control register as a crew reads it (R140). -/
def readCtl (s : State) (c : Crew) : CtlReg → Word
  | .trapVector => match blockOf s c with | some b => b.trapVector | none => 0xFFFFFFFF
  | .trapFrameBase => BitVec.ofNat 32 (frameVa s c)
  | .trapCause => c.cause
  | .trapPc => c.tpc
  | .trapLanes => c.tlanes
  | r => match coreAt s c.core with | some k => coreCtl s k r | none => 0

/-- A control register written by a crew (R140, Table 14-12). -/
def writeCtl (s : State) (c : Crew) (r : CtlReg) (v : Word) : State :=
  match r with
  | .trapVector => modBlock s c.block fun b => { b with trapVector := v }
  | .trapFrameBase | .trapCause | .trapPc | .trapLanes => s
  | r => modCore s c.core fun k => k.setCtl r v

/-- A lane's identity (R13). -/
def identAt (c : Crew) (l : Nat) : Ident := c.idents.getD l ⟨0, 0, 0, 0, 0, 0⟩

/-- The shape that a system register's read has when its write is full (Table 6-6). -/
def sysShape (formed : Bool) : SysReg → Shape
  | .lane => .a
  | .blockx | .blocky | .blockz | .task => if formed then .g else .u
  | .tidx | .tidy | .tidz => .g
  | _ => .u

/-- The core's cycle count (Table 6-6). -/
def coreClockCount (s : State) (c : Crew) : Nat := match coreAt s c.core with | some k => k.clock | none => 0

/-- The half that a read of an upper half returns: of the crew's capture, else of the current count (R139). -/
def upperHalf (cap : Option Nat) (now : Nat) : Word := BitVec.ofNat 32 (cap.getD now / 2 ^ 32)

/-- A system register in a lane (Table 6-6). -/
def sysValue (s : State) (c : Crew) (l : Nat) : SysReg → Word
  | .lane => BitVec.ofNat 32 l
  | .crew => BitVec.ofNat 32 c.slot
  | .blockx => (identAt c l).bx
  | .blocky => (identAt c l).byy
  | .blockz => (identAt c l).bz
  | .tidx => (identAt c l).tx
  | .tidy => (identAt c l).ty
  | .tidz => (identAt c l).tz
  | .setid => match setOf s c with | some (n, _, _) => BitVec.ofNat 32 n | none => 0xFFFFFFFF
  | .setrank => match setOf s c with | some (_, r, _) => BitVec.ofNat 32 r | none => 0xFFFFFFFF
  | .core => BitVec.ofNat 32 c.core
  | .die => BitVec.ofNat 32 (dieOfCore c.core)
  | .task => match taskOf s c with | some t => BitVec.ofNat 32 t.no | none => 0
  | .clocklo => BitVec.ofNat 32 (coreClockCount s c)
  | .clockhi => upperHalf c.clkCap (coreClockCount s c)
  | .ptplo => BitVec.ofNat 32 (dieTime s (dieOfCore c.core))
  | .ptphi => upperHalf c.ptpCap (dieTime s (dieOfCore c.core))
  | .bcrew => if isFormed s c then 0xFFFFFFFF else BitVec.ofNat 32 c.index

/-- What a read of a system register captures for the crew (R139). -/
def sysCapture (s : State) (c : Crew) : SysReg → Crew
  | .clocklo => { c with clkCap := some (coreClockCount s c) }
  | .ptplo => { c with ptpCap := some (dieTime s (dieOfCore c.core)) }
  | _ => c

end Sys2Proof.Machine
end

