-- ==== Sys2Proof/Machine/System.lean ====
section
/-!
DEFINITION. SYS (R327-R334): software traps and system calls, the return from a trap, suspension, the context of held crews, instruction-cache
refresh, translation shootdown and HALT.
-/

namespace Sys2Proof.Machine

/-- The first participant with lanes in act, and its crew. -/
def actor (x : Ctx) (s : State) : Option (Part × Crew) :=
  match x.parts.find? fun p => p.act != 0 with
  | some p => (crewAt s p.crew).map fun c => (p, c)
  | none => none

/-- The words of `n` operand registers from `a`, all of shape U and an index format, or the trap (R327). -/
def sysWords (c : Crew) (a : RCode) (n : Nat) : Except Nat (List Word) :=
  let rs := if n = 1 then [(srcReg c a.toNat).getD Reg.zero] else (List.range n).map fun i => vreg c (a.toNat + i)
  if rs.any fun r => r.shape != .u then .error trapOperand
  else if rs.any fun r => !r.fmt.isIndex then .error trapFormat
  else .ok (rs.map fun r => r.at 0)

/-- A SYS result: format I32, empty taint, shape U when the write is full (R327). -/
def sysResult (d : RCode) (p : Part) (v : Word) (c : Crew) : Crew := writeVd c d.toNat (uReg .i32 v) p.act p.full

/-! ### TRAP and SYSC -/

/-- TRAP (R328). -/
def execSysTrap (x : Pfx) (n : BitVec 6) (s : State) : Host.Outcome State Fault Refusal :=
  issue { i := .sysTrap x n }
    (fun u s => if (actor u s).isNone then .done s else .trap (0x40 + n.toNat) s) s

/-- A trap whose frame names the next instruction (R328, R358). -/
def trapNext (x : Ctx) (p : Part) (code : Nat) (s : State) : State :=
  match trapReady s [p.crew] with
  | (true, s) => enterTrap s p.crew x.pc ⟨code, p.act, x.next, x.iword, x.lit, x.next, [], none⟩
  | (false, s) => holdCrew s p.crew

/-- SYSC (R328). -/
def execSysSysc (x : Pfx) (n : BitVec 6) (s : State) : Host.Outcome State Fault Refusal :=
  issue { i := .sysSysc x n }
    (fun u s => match actor u s with
      | none => .done s
      | some (p, _) => .moved (trapNext u p (0x80 + n.toNat) s)) s

/-! ### RTT -/

/-- `n` bytes of a frame from an offset. -/
def cut (bs : List Byte) (off n : Nat) : List Byte := (bs.drop off).take n

/-- The number in `n` bytes of a frame. -/
def num (bs : List Byte) (off n : Nat) : Nat := leValue (cut bs off n)

/-- The slot of a slot record (R319). -/
def slotOfBytes (bs : List Byte) : LSlot :=
  let w := num bs 24 4
  ⟨w % 2 == 1, w / 2 % 2 == 1, w / 4 % 8, clockOf bs⟩

/-- The entry of a record of 16 bytes (Table 12-3). -/
def entryOfBytes (bs : List Byte) : Entry := entryOfWords (num bs 0 4) (num bs 4 4) (num bs 8 4)

/-- A trap frame as RTT reads it (Table 14-8). -/
structure Frame where
  cause : Nat
  pc : Word
  ent : Nat
  nfault : Nat
  preds : List Mask
  m15 : BitVec 128
  taint : Nat
  floor : Clock
  slots : List LSlot
  slotBad : Bool
  entries : List Entry
  entryBad : Bool
  latches : List (Option Reg)
  regs : List (Option Reg)
  restBad : Bool
deriving DecidableEq, Repr

/-- The 4 KiB of a frame taken apart (Table 14-8). -/
def frameOf (bs : List Byte) : Frame :=
  let n := num bs 0x18 4 % 16
  let sl := (List.range 8).map fun k => cut bs (0x70 + 32 * k) 32
  let es := (List.range (min n 8)).map fun i => cut bs (0x180 + 16 * i) 16
  { cause := num bs 0 4, pc := BitVec.ofNat 32 (num bs 4 4), ent := num bs 0x18 4, nfault := num bs 0x1C 4
    preds := (List.range 3).map fun k => BitVec.ofNat 32 (num bs (0x20 + 4 * k) 4)
    m15 := BitVec.ofNat 128 (num bs 0x30 16), taint := num bs 0x40 4, floor := clockOf (cut bs 0x50 24)
    slots := sl.map slotOfBytes, slotBad := sl.any fun b => num b 24 4 / 32 != 0 || num b 28 4 != 0
    entries := es.map entryOfBytes, entryBad := es.any fun b => num b 8 4 / 64 != 0 || num b 12 4 != 0
    latches := (List.range 3).map fun k => regOfImage (cut bs (0x400 + 132 * k) 132)
    regs := (List.range 12).map fun i => regOfImage (cut bs (0x590 + 132 * i) 132)
    restBad := (List.range (min 32 (num bs 0x1C 4 % 2 ^ 6))).any (fun i => recordBad (cut bs (0x200 + 16 * i) 16)) || (bs.drop 0xBC0).any (· != 0) }
where
  /-- A fault record with a reserved bit set (Table 14-2). -/
  recordBad (bs : List Byte) : Bool := num bs 0 4 / 2 ^ 12 != 0 || num bs 8 4 % 2 ^ 12 != 0 || num bs 12 4 / 2 ^ 25 != 0

/-- NENT (Table 14-8). -/
def Frame.nent (f : Frame) : Nat := f.ent % 16

/-- No two masks share a lane, and none meets `m`. -/
def disjoint : Mask → List Entry → Bool
  | _, [] => true
  | m, e :: es => m &&& e.mask == 0 && disjoint (m ||| e.mask) es

/-- The check of RTT, step 1 (R329; DEDUCED, log entry 21). -/
def frameOk (s : State) (c : Crew) (f : Frame) : Bool :=
  decide (1 ≤ f.nent) && decide (f.nent ≤ 8) && disjoint (stackedLanes s c) f.entries &&
  f.entries.all (fun e => e.mask &&& ~~~c.live == 0) &&
  f.cause / 2 ^ 12 == 0 && f.ent / 2 ^ 7 == 0 && f.nfault / 2 ^ 6 == 0 && f.taint % 64 == 0 && f.taint / 2 ^ 15 == 0 &&
  !f.slotBad && !f.entryBad && !f.restBad && f.latches.all Option.isSome && f.regs.all Option.isSome

/-- The slots that the handler took, folded into the floor clock (R325). -/
def foldNew (c : Crew) : Crew :=
  (List.range 8).foldl (fun c k => if c.newSlots.getLsbD k then foldSlot c k else c) c

/-- The entries that RTT restores: entry 0 takes the frame's PC; equal addresses merge (R266, R329). -/
def Frame.paths (f : Frame) : List Entry :=
  match f.entries with
  | [] => []
  | e :: es => mergeAll ({ e with pc := f.pc } :: es)

/-- A taint that the frame held, with the slots folded that the handler gave up by saturation (R129, R323). -/
def frameTaint (c : Crew) (t : BitVec 9) : BitVec 9 := (List.range 8).foldl (fun t k => if c.folded.getLsbD k then foldTaint k t else t) t

/-- A slot of the frame as RTT restores it: one whose load waited in the operand log takes what the crew's slot has come to since (R319, R325). -/
def frameSlot (c : Crew) (k : Nat) (f : LSlot) : LSlot :=
  if !f.pending then f
  else if c.folded.getLsbD k then { f with pending := false, clock := Clock.zero }
  else { f with pending := (slotAt c k).pending, clock := (slotAt c k).clock }

/-- The crew as RTT leaves it (R323-R325, R329). -/
def Frame.restore (f : Frame) (c : Crew) : Crew :=
  let held (r : Option Reg) : Reg := let r := r.getD Reg.zero; { r with taint := frameTaint c r.taint }
  let slots := (f.slots.zipIdx).map fun (x, k) => frameSlot c k x
  let c := foldNew c
  let regs := (f.regs.zipIdx).foldl (fun (rs : List Reg) (r, i) => rs.set (48 + i) (held r)) c.regs
  let again := f.cause / 2 ^ 11 % 2 == 1 && f.pc == c.tpc
  { c with regs := regs, latch := f.latches.map held
           lvalid := (List.range 3).map fun k => f.ent / 2 ^ (4 + k) % 2 == 1
           pred := f.preds, recs := c.recs.set 15 ⟨f.m15, frameTaint c (BitVec.ofNat 9 (f.taint / 64))⟩
           slots := slots, floor := f.floor.sup c.floor, entries := f.paths, kept := 0, priv := false, newSlots := 0, folded := 0
           ldmDone := if again then some (f.pc, f.cause / 2 ^ 8 % 8) else none }

/-- RTT after its check (R329, steps 2 to 4): live lanes in no entry and no stacked record exit, and records come in for the entries that are
freed (R272); one that is poisoned traps at the instruction that the crew goes on at (R271). -/
def rttGo (s : State) (c : Crew) (f : Frame) : State :=
  let kept := f.entries.foldl (fun m e => m ||| e.mask) (stackedLanes s c)
  let gone := c.live &&& ~~~kept
  let s := setCrew s (f.restore c)
  let s := if sectMask c &&& gone = 0 then s else closeSections s c (sectMask c &&& gone)
  let s := if gone = 0 then s else exitLanes s c.id gone
  match refill s c.id f.nent with
  | .ok s => s
  | .error r => match crewAt s c.id with
    | some x => rotateTrap s x (x.entries.headD (Entry.fresh f.pc 0 x.live)) r
    | none => s

/-- The entries that RTT restores have instruction-buffer entries: those that the crew holds, and shared ones that are free (R269, R270). -/
def rttFits (s : State) (c : Crew) (f : Frame) : Bool := decide (f.paths.length - 2 ≤ sharedFor s c.core (bufEntries c))

/-- RTT, whatever its guard (R329); a frame that a handler has given more entries than there is room for waits until one frees (R270). -/
def rttBody (x : Ctx) (s : State) : Res :=
  match crewAt s x.crew with
  | none => .done s
  | some c =>
    if !(flightsOf s c.id).isEmpty || (match c.log with | some e => e.priv | none => false) then .hold s
    else
      let va := frameVa s c
      match pagesReady s (.wait c.id) c.core (pasidOf s c) true [(va, .read), (va + 4095, .read)] with
      | (false, s) => .hold s
      | (true, s) =>
        match blockOf s c, peekVa s c.core (pasidOf s c) true va 4096 with
        | some b, none => .moved (endTask s b.task 8 0)
        | none, _ => .moved s
        | some b, some (bs, s) =>
          let f := frameOf bs
          if !frameOk s c f then .moved (endTask (emitLoc s c .fault 5 3 trapOperand 0 x.pc (wordBytes c.live)) b.task 6 trapOperand)
          else if !rttFits s c f then .stall s
          else
            match releaseNow s c 1 with
            | (false, t) => if sectMask c = 0 then .moved (rttGo s c f) else .hold t
            | (true, t) => .moved (rttGo (if sectMask c = 0 then s else t) c f)

/-- RTT (R329). -/
def execSysRtt (x : Pfx) (s : State) : Host.Outcome State Fault Refusal := issue { i := .sysRtt x } rttBody s

/-! ### SUSP and RESM -/

/-- The live crew of the issuing crew's block with an index; in a formed crew every index is its own (R330; DEDUCED, log entry 45). -/
def crewByIndex (s : State) (c : Crew) (n : Nat) : Option Crew :=
  if isFormed s c then some c
  else s.crews.find? fun x => x.block == c.block && x.index == n && !x.ended

/-- The crew index in va, or the trap (R330). -/
def crewIndex (c : Crew) (a : RCode) : Except Nat Nat :=
  match sysWords c a 1 with
  | .error t => .error t
  | .ok ws => if 32 ≤ (ws.headD 0).toNat then .error trapOperand else .ok (ws.headD 0).toNat

/-- SUSP (R330): complete when the target has nothing in flight, its part of an LDA or STA on the lane port among it. -/
def execSysSusp (x : Pfx) (a : RCode) (s : State) : Host.Outcome State Fault Refusal :=
  issue { i := .sysSusp x a, ops := [.src a] }
    (fun u s => match actor u s with
      | none => .done s
      | some (_, c) => match crewIndex c a with
        | .error t => .trap t s
        | .ok n => match crewByIndex s c n with
          | none => .done s
          | some t =>
            if t.id = c.id then .done s
            else
              let s := modCrew s t.id fun t => { t with susp := true }
              if drained s [t.id] then .done s else .hold s) s

/-- RESM (R330). -/
def execSysResm (x : Pfx) (a : RCode) (s : State) : Host.Outcome State Fault Refusal :=
  issue { i := .sysResm x a, ops := [.src a] }
    (fun u s => match actor u s with
      | none => .done s
      | some (_, c) => match crewIndex c a with
        | .error t => .trap t s
        | .ok n => match crewByIndex s c n with
          | none => .done s
          | some t => .done (if t.id = c.id then s else modCrew s t.id fun t => { t with susp := false })) s

/-! ### RDCV and WRCV -/

/-- Fields of a selector (R331). -/
structure CtxSel where
  crew : Nat
  item : Nat
  lane : Nat
deriving DecidableEq, Repr

/-- A selector; none when a reserved bit is set (R331). -/
def ctxSel (w : Word) : Option CtxSel :=
  let v := w.toNat
  if v / 2 ^ 17 ≠ 0 then none else some ⟨v % 32, v / 32 % 128, v / 2 ^ 12 % 32⟩

/-- The target's context may be read and written: the issuing crew's own, or of a crew that SUSP or R326 holds (R331). -/
def ctxHeld (s : State) (c t : Crew) : Bool := t.id == c.id || t.susp || heldBySet s t

/-- A context item in a lane (Table 14-10). -/
def ctxRead (s : State) (t : Crew) (k : CtxSel) : Word :=
  if k.item < 60 then (vreg t k.item).at k.lane
  else if k.item < 63 then (t.latch.getD (k.item - 60) Reg.zero).at k.lane
  else if k.item = 63 then
    match (allPaths s t).find? fun e => laneIn e.mask k.lane with
    | some e => e.pc
    | none => 0xFFFFFFFF
  else if k.item < 124 then tagWord (vreg t (k.item - 64))
  else if k.item < 127 then
    tagWord (t.latch.getD (k.item - 124) Reg.zero) ||| (if t.lvalid.getD (k.item - 124) false then 0 else 0x80000000)
  else
    BitVec.ofNat 32 (boolBits ((t.pred.take 3).map (fun p => laneIn p k.lane) ++
      [laneIn t.live k.lane, laneIn (sectMask t) k.lane, t.susp, t.priv]))

/-- What RDCV returns in a lane (R331). -/
def rdcvLane (s : State) (c : Crew) (k : CtxSel) : Word :=
  match crewByIndex s c k.crew with
  | some t => if ctxHeld s c t || k.item = 127 then ctxRead s t k else 0xFFFFFFFF
  | none => 0xFFFFFFFF

/-- An item of the issuing crew's own registers still waits for data (R85). -/
def ctxPending (s : State) (c : Crew) (k : CtxSel) : Bool :=
  match crewByIndex s c k.crew with
  | some t => t.id == c.id && (pendingRegs s c).contains (if k.item < 60 then k.item else k.item - 64)
  | none => false

/-- RDCV (R331). -/
def execSysRdcv (x : Pfx) (d a : RCode) (s : State) : Host.Outcome State Fault Refusal :=
  issue { i := .sysRdcv x d a, ops := [.dst d, .src a] }
    (fun u s => match actor u s with
      | none => .done s
      | some (p, c) => match srcReg c a.toNat with
        | none => .trap trapOperand s
        | some r =>
          let ks := (laneIds.filter (laneIn p.act)).map fun l => ctxSel (r.at l)
          if !r.fmt.isIndex then .trap trapFormat s
          else if ks.any Option.isNone then .trap trapOperand s
          else if ks.any fun k => ctxPending s c (k.getD ⟨0, 0, 0⟩) then .hold s
          else
            let v (l : Nat) : Word := match ctxSel (r.at l) with | some k => rdcvLane s c k | none => 0
            .done (modCrew s c.id fun c => writeVd c d.toNat (laneReg (if r.shape == .u then .u else .g) .raw32 0 v) p.act p.full)) s

/-- A tag word that WRCV may write: its bit 31 is the validity of a latch (R331, Table 14-10). -/
def wrcvTagOk (item : Nat) (w : Word) : Bool :=
  let t := if item < 124 then w.toNat else w.toNat % 2 ^ 31
  (shapeCode? (t % 4)).isSome && (fmtCode? (t / 4 % 16)).isSome && t / 2 ^ 15 == 0

/-- WRCV of an item with this word traps (R331). -/
def wrcvBad (k : CtxSel) (w : Word) : Bool :=
  k.item == 63 || (decide (64 ≤ k.item) && decide (k.item < 127) && !wrcvTagOk k.item w)

/-- A register with one lane written (R125, R331). -/
def pokeLane (r : Reg) (l : Nat) (w : Word) : Reg := { r with shape := .g, taint := r.taint ||| floorBit, lanes := r.lanes.set l w }

/-- A register under a new shape and format (Table 14-10). -/
def retag (r : Reg) (w : Word) : Reg :=
  let sh := (shapeCode? (w.toNat % 4)).getD .g
  { shape := sh, fmt := (fmtCode? (w.toNat / 4 % 16)).getD .raw32, taint := r.taint ||| floorBit
    lanes := match sh with
      | .u => List.replicate 32 (r.at 0)
      | .a => laneIds.map fun l => r.at 0 + BitVec.ofNat 32 l * (r.at 1 - r.at 0)
      | .g => r.lanes }

/-- A mask with one lane set or cleared. -/
def setLane (m : Mask) (l : Nat) (b : Bool) : Mask := maskOf fun j => if j = l then b else laneIn m j

/-- A context item written (Table 14-10); the target's floor takes the writer's history (R331). -/
def ctxWrite (hist : Clock) (k : CtxSel) (w : Word) (t : Crew) : Crew :=
  let t := { t with floor := t.floor.sup hist }
  if k.item < 60 then setReg t k.item (pokeLane (vreg t k.item) k.lane w)
  else if k.item < 63 then
    { t with latch := t.latch.set (k.item - 60) (pokeLane (t.latch.getD (k.item - 60) Reg.zero) k.lane w), lvalid := t.lvalid.set (k.item - 60) true }
  else if k.item < 124 then setReg t (k.item - 64) (retag (vreg t (k.item - 64)) w)
  else if k.item < 127 then
    { t with latch := t.latch.set (k.item - 124) (retag (t.latch.getD (k.item - 124) Reg.zero) w), lvalid := t.lvalid.set (k.item - 124) (!w.getLsbD 31) }
  else { t with pred := (t.pred.zipIdx).map fun (p, i) => setLane p k.lane (w.getLsbD i) }

/-- WRCV in the lanes of act, ascending (R331). -/
def wrcvLanes (c : Crew) (ra rd : Reg) (s : State) : List Nat → State
  | [] => s
  | l :: ls =>
    let s := match ctxSel (ra.at l) with
      | none => s
      | some k => match crewByIndex s c k.crew with
        | some t => if ctxHeld s c t then setCrew s (ctxWrite (crewClock c) k (rd.at l) t) else s
        | none => s
    wrcvLanes c ra rd s ls

/-- WRCV (R331). -/
def execSysWrcv (x : Pfx) (d a : RCode) (s : State) : Host.Outcome State Fault Refusal :=
  issue { i := .sysWrcv x d a, ops := [.src d, .src a] }
    (fun u s => match actor u s with
      | none => .done s
      | some (p, c) => match srcReg c a.toNat, srcReg c d.toNat with
        | some ra, some rd =>
          let ls := laneIds.filter (laneIn p.act)
          let ks := ls.map fun l => (ctxSel (ra.at l), rd.at l)
          if !ra.fmt.isIndex || !rd.fmt.isIndex then .trap trapFormat s
          else if ks.any fun k => match k.1 with | none => true | some j => wrcvBad j k.2 then .trap trapOperand s
          else if ks.any fun k => ctxPending s c (k.1.getD ⟨0, 0, 0⟩) then .hold s
          else .done (wrcvLanes c ra rd s ls)
        | _, _ => .trap trapOperand s) s

/-! ### ICINV, TLBINV, HALT -/

/-- Cores that answer an instruction-cache refresh: the enabled cores of the dies that are not fenced (R64, R332). -/
def icinvCores (s : State) : List Nat := (s.cores.filter fun c => c.enabled && !fenced s (dieOfCore c.id)).map (·.id)

/-- The operands of ICINV: its first line and its lines, none for all; or the trap (R332; DEDUCED, log entry 18). -/
def icinvArgs (c : Crew) (a : RCode) : Except Nat (Option (Nat × Nat)) :=
  match sysWords c a 3 with
  | .error t => .error t
  | .ok ws =>
    let lo := (ws.getD 0 0).toNat
    let hi := (ws.getD 1 0).toNat
    let n := (ws.getD 2 0).toNat
    if lo % 256 ≠ 0 then .error trapMisalign
    else if hi / 2 ^ 25 ≠ 0 ∨ n / 2 ^ 16 ≠ 0 then .error trapOperand
    else .ok (if n = 0 then none else some ((hi * 2 ^ 32 + lo) / 256, n))

/-- ICINV (R332): a fabric-scope release, then every core's acknowledgement. -/
def execSysIcinv (x : Pfx) (d a : RCode) (s : State) : Host.Outcome State Fault Refusal :=
  issue { i := .sysIcinv x d a, ops := [.dst d, .grp a 3], waits := true }
    (fun u s => match actor u s with
      | none => .done s
      | some (p, c) => match s.icinvs.find? fun v => v.crew == c.id && v.pc == u.pc with
        | some v =>
          if (icinvCores s).all v.acked.contains then
            .done (modCrew { s with icinvs := s.icinvs.filter fun w => w.id != v.id } c.id (sysResult d p (BitVec.ofNat 32 v.acked.length)))
          else .hold s
        | none => match icinvArgs c a with
          | .error t => .trap t s
          | .ok lines => match releaseNow s c 2 with
            | (false, s) => .hold s
            | (true, s) => .hold { s with icinvs := s.icinvs ++ [⟨s.nextId, c.id, u.pc, pasidOf s c, lines, []⟩], nextId := s.nextId + 1 }) s

/-- The operands of TLBINV: the PASID and its pages, none for all; or the trap (R333). -/
def tlbinvArgs (c : Crew) (a : RCode) : Except Nat (Nat × Option (Nat × Nat)) :=
  match sysWords c a 4 with
  | .error t => .error t
  | .ok ws =>
    let lo := (ws.getD 0 0).toNat
    let hi := (ws.getD 1 0).toNat
    let n := (ws.getD 2 0).toNat
    let p := (ws.getD 3 0).toNat
    let all := p / 2 ^ 31 = 1
    if lo % 4096 ≠ 0 then .error trapMisalign
    else if hi / 2 ^ 25 ≠ 0 ∨ p / 2 ^ 20 % 2 ^ 11 ≠ 0 ∨ (¬ all ∧ n = 0) ∨ (all ∧ (lo ≠ 0 ∨ hi ≠ 0 ∨ n ≠ 0)) then .error trapOperand
    else .ok (p % 2 ^ 20, if all then none else some (hi * 2 ^ 32 + lo, n))

/-- A shootdown has ended: every die has acknowledged, or has been fenced (R63, R64). -/
def sdDone (s : State) (v : Shootdown) : Bool := [0, 1].all fun d => v.acked.contains d || fenced s d

/-- Shootdowns in flight; each goes to both dies, and a die accepts 8 (R62). -/
def sdFlying (s : State) : Nat := (s.shootdowns.filter fun v => !sdDone s v).length

/-- TLBINV (R333): a shootdown of the range, and its end. -/
def execSysTlbinv (x : Pfx) (d a : RCode) (s : State) : Host.Outcome State Fault Refusal :=
  issue { i := .sysTlbinv x d a, ops := [.dst d, .grp a 4] }
    (fun u s => match actor u s with
      | none => .done s
      | some (p, c) => match s.shootdowns.find? fun v => v.crew == some c.id && v.pc == u.pc with
        | some v =>
          if sdDone s v then
            .done (modCrew { s with shootdowns := s.shootdowns.filter fun w => w.id != v.id } c.id
              (sysResult d p (if [0, 1].all v.acked.contains then 0 else 1)))
          else .hold s
        | none => match tlbinvArgs c a with
          | .error t => .trap t s
          | .ok (pasid, range) =>
            if 8 ≤ sdFlying s then .hold s
            else
              let v : Shootdown := ⟨s.nextId, dieOfCore c.core, some c.id, u.pc, pasid, range, [], false⟩
              .hold { s with shootdowns := s.shootdowns ++ [v], nextId := s.nextId + 1 }) s

/-- HALT (R334). -/
def execSysHalt (x : Pfx) (s : State) : Host.Outcome State Fault Refusal :=
  issue { i := .sysHalt x }
    (fun u s => match actor u s with
      | none => .done s
      | some (_, c) =>
        let va := frameVa s c
        match pagesReady s (.wait c.id) c.core (pasidOf s c) true [(va, .read)] with
        | (false, s) => .hold s
        | (true, s) =>
          match blockOf s c, peekVa s c.core (pasidOf s c) true va 1 with
          | some b, some (bs, s) => .moved (endTask s b.task 6 (leValue bs))
          | some b, none => .moved (endTask s b.task 8 0)
          | none, _ => .moved s) s

/-- The die of the core that an instruction-cache refresh comes from. -/
def icinvDie (s : State) (crew : Nat) : Nat :=
  match s.crews.find? fun c => c.id == crew with
  | none => 0
  | some c => dieOfCore c.core

/-- ICINV_ACK: a core drops the lines and acknowledges; the crew's instruction goes on with the last. No acknowledgement crosses the link while it
retrains (R65, R332). -/
def execIcinvAck (ic core : Nat) (s : State) : Host.Outcome State Fault Refusal :=
  match s.icinvs.find? fun v => v.id == ic with
  | none => noEvent s
  | some v =>
    if v.acked.contains core || !(icinvCores s).contains core || (s.link.retraining && dieOfCore core != icinvDie s v.crew) then noEvent s
    else
      let hit (l : IcLine) : Bool := l.pasid == v.pasid && (match v.lines with
        | none => true
        | some (f, n) => decide (f ≤ l.line) && decide (l.line < f + n))
      let s := modCore s core fun c => { c with icache := c.icache.filter fun l => !hit l }
      .next { s with icinvs := s.icinvs.map fun w => if w.id == ic then { w with acked := w.acked ++ [core] } else w }

end Sys2Proof.Machine
end

