-- ==== Sys2Proof/Machine/Matrix.lean ====
section
/-!
DEFINITION. The matrix engine (chapter 09): shape records and their cache, MMA and MMAS, MCLR, MQNT, MSCL, MHND, and the end of an occupancy.
-/

namespace Sys2Proof.Machine

/-! ### Shape records -/

/-- A shape record's fields (Table 9-4). -/
structure ShapeRec where
  gen : Nat
  afmt : Nat
  bfmt : Nat
  acc : Nat
  asrc : Bool
  q : Nat
  pitch : Nat
  soff : Nat
  wsbase : Nat
  macros : Nat
  tiles : Nat
  aband : Nat
deriving DecidableEq, Repr

/-- The combinations of A, B and accumulate formats (Table 9-2). -/
def combos : List (Nat × Nat × Nat) :=
  [(9, 9, 0), (9, 7, 0), (7, 9, 0), (8, 9, 0), (13, 9, 0), (7, 7, 0), (8, 7, 0), (13, 7, 0), (3, 3, 1)]

/-- Bytes of an A row (R183). -/
def rowBytes (afmt : Nat) : Nat := if afmt = 9 then 32 else if afmt = 13 then 128 else 64

/-- Bytes of a B tile (Table 9-3). -/
def tileSize (bfmt : Nat) : Nat := if bfmt = 9 then 1296 else 2048

/-- The record of 32 bytes; none when it holds a reserved value (R188). -/
def shapeOf (bs : List Byte) : Option ShapeRec :=
  let w (i : Nat) : Nat := leValue ((bs.drop (4 * i)).take 4)
  let r : ShapeRec :=
    { gen := w 0 % 2 ^ 12, afmt := w 0 / 2 ^ 12 % 16, bfmt := w 0 / 2 ^ 16 % 16, acc := w 0 / 2 ^ 20 % 2
      asrc := w 0 / 2 ^ 21 % 2 == 1, q := w 0 / 2 ^ 22 % 16, pitch := w 1 % 2 ^ 16, soff := w 1 / 2 ^ 16
      wsbase := w 2 % 16, macros := w 2 / 16 % 32, tiles := w 3 % 2 ^ 16, aband := w 3 / 2 ^ 16 % 64 }
  let plain := w 0 / 2 ^ 26 == 1 && w 2 / 2 ^ 9 == 0 && w 3 / 2 ^ 22 == 0 && w 4 == 0 && w 5 == 0 && w 6 == 0 && w 7 == 0
  let source := if r.asrc then r.pitch == 0 && r.afmt != 13 else r.q == 0 && r.pitch % 16 == 0 && decide (rowBytes r.afmt ≤ r.pitch)
  let b := decide (1 ≤ r.macros) && decide (r.wsbase + r.macros ≤ 16) && decide (1 ≤ r.tiles) &&
    decide (r.tiles * tileSize r.bfmt ≤ r.macros * 16384)
  if plain && combos.contains (r.afmt, r.bfmt, r.acc) && source && r.soff % 8 == 0 && b then some r else none

/-- The cached record of a slot (R189). -/
def cachedShape (s : State) (core task slot : Nat) : Option (List Byte) :=
  match coreAt s core with
  | some k => (k.shapes.find? fun x => x.task == task && x.slot == slot).map (·.data)
  | none => none

/-- A record put in the cache as the most recently used; the least recently used gives way (R189). -/
def putShape (s : State) (core task slot : Nat) (bs : List Byte) : State :=
  modCore s core fun k => { k with shapes := pushFront 32 ⟨task, slot, bs⟩ (k.shapes.filter fun x => !(x.task == task && x.slot == slot)) }

/-- A slot left uncached (R202). -/
def dropShape (s : State) (core task slot : Nat) : State :=
  modCore s core fun k => { k with shapes := k.shapes.filter fun x => !(x.task == task && x.slot == slot) }

/-- A record of one lane set at a VA. -/
def pageRec (code : Nat) (act : Mask) (va : Nat) : FaultRec := ⟨code, false, false, false, false, act, va / 4096⟩

/-- What a read of some bytes at fabric scope by the device for a crew comes to. -/
inductive ReadOut where
  | bytes (bs : List Byte) (s : State)
  | stop (r : Res)
deriving Repr

/-- Bytes of one line at a VA, read for a crew as a load ordered after a clock (R57, R85, R189): its L1 when that serves the clock, else the
home slice.  A read of a shape record is not logged, and no replay gate holds it (R388). -/
def readLine (s : State) (c : Crew) (act : Mask) (k : Clock) (va n : Nat) (logged : Bool) : ReadOut :=
  let pasid := pasidOf s c
  match xlateFor s (.wait c.id) c.core pasid va .read c.priv with
  | (.miss, s) => .stop (.hold s)
  | (.access, s) => .stop (.lanes [(c.id, [pageRec trapAccess act va])] (forget s (.wait c.id)))
  | (.fault, s) =>
    if faultRefused s c.core pasid then .stop (.lanes [(c.id, [pageRec trapAccess act va])] (forget s (.wait c.id)))
    else .stop (.moved (pageFault (forget s (.wait c.id)) c false [pageRec 0 act va]))
  | (.hit pk unc, s) =>
    let line := pk / 256
    let as := (List.range n).map (pk + ·)
    let l1 := !unc && (match l1Line s c.core line with
      | some l => lineServes l (sectorsOf (as.map (· % 256))) k
      | none => false)
    let who := regionReq s c.id
    let own := ((as.map (· / 64)).eraseDups).filter (hostOwns s)
    if as.any fun a => if l1 then corePoisoned s c.core a else homePoisoned s c.core a then .stop (.lanes [(c.id, [pageRec trapSoft act va])] s)
    else if l1 then .bytes (as.map (coreByte s c.core)) s
    else if pinnedElsewhere s c.core line || linkBars s c.core line || !(appliedClock s (dieOfCore c.core)).covers k then
      .stop (.hold (emitRetry s line c.core (taskOf s c) c.core c.slot))
    else if logged && !gateOpen s line who then .stop (.hold (modCrew s c.id fun c => { c with gated := some line }))
    else if !own.isEmpty then .stop (.hold (askHost s own))
    else
      let s := if logged then modCrew (sliceAccess s line who) c.id fun c => { c with gated := none } else s
      .bytes (as.map fun a => (directByte s c.core a).1) (mesiRead s ((as.map (· / 64)).eraseDups))

/-- Rows 3 to 6 of Table 9-6 for a handle: the record, with the machine that caches it; `fresh` reads it whatever is cached (R189, R202). -/
inductive ShapeOut where
  | ok (r : ShapeRec) (s : State)
  | stop (r : Res)
deriving Repr

/-- The record of a handle (R189, R190). -/
def getShape (s : State) (c : Crew) (act : Mask) (k : Clock) (h : Word) (fresh : Bool) : ShapeOut :=
  match taskOf s c with
  | none => .stop (.done s)
  | some t =>
    let slot := h.toNat / 2 ^ 12
    let check (bs : List Byte) (s0 s1 : State) : ShapeOut :=
      match shapeOf bs with
      | none => .stop (.trap trapOperand s0)
      | some r => if r.gen = h.toNat % 2 ^ 12 then .ok r (putShape s1 c.core t.no slot bs) else .stop (.trap trapStale s0)
    if t.nshape ≤ slot then .stop (.trap trapOperand s)
    else
      match (if fresh then none else cachedShape s c.core t.no slot) with
      | some bs => check bs s s
      | none =>
        match readLine s c act k (t.rtab + 0x200 + 32 * slot) 32 false with
        | .stop r => .stop r
        | .bytes bs s1 => check bs s s1

/-! ### Elements -/

/-- The nibble of a byte: low when `k` is even. -/
def nibble (b : Byte) (k : Nat) : Nat := if k % 2 = 0 then b.toNat % 16 else b.toNat / 16

/-- A byte of a list. -/
def byteAt (bs : List Byte) (i : Nat) : Byte := bs.getD i 0

/-- The FP32 code of 1.0. -/
def oneF : FVal := .fin false 1 0

/-- A row of A: 64 values, scaled as R186 says; `sc` the eight block scales of MMAS, `g` the band scale. -/
def aRow (afmt : Nat) (row : List Byte) (sc : Option (List Byte)) (g : FVal) : List FVal :=
  (List.range 64).map fun k =>
    if afmt = 9 then
      let e := decodeF e2m1F (nibble (byteAt row (k / 2)) k)
      let s := match sc with
        | some b => decodeF e3m5F (byteAt b (k / 8)).toNat
        | none => oneF
      fMul (fMul e s) g
    else if afmt = 13 then decodeF bf16F ((byteAt row (2 * k)).toNat + 256 * (byteAt row (2 * k + 1)).toNat)
    else if afmt = 7 then decodeF e4m3F (byteAt row k).toNat
    else if afmt = 8 then decodeF e5m2F (byteAt row k).toNat
    else ofInt (sgn 8 (byteAt row k).toNat)

/-- A column of B: 64 values, scaled as R186 says (Table 9-3). -/
def bCol (bfmt : Nat) (tile : List Byte) (g : FVal) (n : Nat) : List FVal :=
  (List.range 64).map fun k =>
    if bfmt = 9 then
      let e := decodeF e2m1F (nibble (byteAt tile (0x10 + 4 * (32 * (k / 8) + n) + k % 8 / 2)) k)
      fMul (fMul e (decodeF e3m5F (byteAt tile (0x410 + 32 * (k / 8) + n)).toNat)) g
    else
      let b := (byteAt tile (4 * (32 * (k / 4) + n) + k % 4)).toNat
      if bfmt = 7 then decodeF e4m3F b else ofInt (sgn 8 b)

/-- The exact sum of a list of values, from its first (R192, R193). -/
def sumF : List FVal → FVal
  | [] => .fin false 0 0
  | v :: vs => vs.foldl fAdd v

/-- FP32 accumulation: groups of 8 products, each sum rounded, then each addition rounded (R192). -/
def accFp : Nat → Word → List FVal → Word
  | 0, acc, _ => acc
  | g + 1, acc, ps =>
    let S := rne fp32F (sumF (ps.take 8))
    accFp g (BitVec.ofNat 32 (rne fp32F (fAdd (decodeF fp32F acc.toNat) (decodeF fp32F S)))) (ps.drop 8)

/-- The integer of an exact integer value. -/
def FVal.int : FVal → Int
  | .fin a m _ => if a then -(m : Int) else m
  | _ => 0

/-- I32 accumulation, wrapping (R194). -/
def accInt (acc : Word) (ps : List FVal) : Word := acc + BitVec.ofInt 32 (ps.map FVal.int).sum

/-- One element of the tile (R192, R194). -/
def accumulate (i32 : Bool) (acc : Word) (a b : List FVal) : Word :=
  let ps := List.zipWith fMul a b
  if i32 then accInt acc ps else accFp 8 acc ps

/-! ### MMA and MMAS -/

/-- Band-scale entry of a block (R187). -/
def bandAt (b : Block) (i : Nat) : FVal := decodeF bf16F (b.bands.getD (i % 64) 0x3F80).toNat

/-- Rows 1 and 2 of Table 9-6: the values of va and vb, or the trap. -/
def uniformOps (s : State) (parts : List Part) (a : RCode) (b : Src) : Except Nat (Word × Word) :=
  let rows := parts.filterMap fun p => (crewAt s p.crew).map fun c => ((srcReg c a.toNat).getD Reg.zero, (srcVal c b .i32).getD Reg.zero)
  let vals := (rows.map fun r => (r.1.at 0, r.2.at 0)).eraseDups
  if rows.any (fun r => r.1.shape != .u || r.2.shape != .u) || decide (1 < vals.length) then .error trapOperand
  else if rows.any fun r => !r.1.fmt.isIndex || !r.2.fmt.isIndex then .error trapFormat
  else match vals with
    | v :: _ => .ok v
    | [] => .error trapOperand

/-- Accumulator registers of every participant have the format (Table 9-6, row 9). -/
def accFmtOk (s : State) (parts : List Part) (d : RCode) (f : Fmt) : Bool :=
  parts.all fun p => match crewAt s p.crew with
    | some c => (List.range 16).all fun i => (vreg c (d.toNat + i)).fmt == f
    | none => true

/-- The B tile's bytes (R185). -/
def tileBytes (b : Block) (r : ShapeRec) (t : Nat) : List Byte := readBytes b.wStore (r.wsbase * 16384 + t * tileSize r.bfmt) (tileSize r.bfmt)

/-- Rows 7 to 13 of Table 9-6: none, or the trap. -/
def mmaCheck (s : State) (parts : List Part) (mmas setScope : Bool) (b : Block) (r : ShapeRec) (d : RCode) (va : Nat) : Option Nat :=
  let n := parts.length
  let a := va % 2 ^ 18
  let t := va / 2 ^ 18 % 2 ^ 10
  let tile := tileBytes b r t
  if (mmas && (r.asrc || r.afmt != 9)) || (setScope && r.asrc) then some trapOperand
  else if va / 2 ^ 28 ≠ 0 ∨ r.tiles ≤ t then some trapOperand
  else if !accFmtOk s parts d (if r.acc = 1 then .i32 else .fp32) then some trapFormat
  else if r.asrc = false ∧ a % 16 ≠ 0 then some trapMisalign
  else if r.asrc = false ∧ (b.asBytes < a + (16 * n - 1) * r.pitch + rowBytes r.afmt ∨ (mmas = true ∧ b.asBytes < a + r.soff + 128 * n)) then
    some trapAsBounds
  else if b.wsBytes / 16384 < r.wsbase + r.macros then some trapWsBounds
  else if r.bfmt = 9 ∧ (64 ≤ (byteAt tile 0).toNat ∨ ((tile.take 16).drop 1).any (· != 0)) then some trapOperand
  else none

/-- The queue register of a core. -/
def queueAt (s : State) (core q : Nat) : Queue := match coreAt s core with | some k => k.queues.getD q Queue.unbound | none => Queue.unbound

/-- The core with one queue register changed. -/
def modQueue (s : State) (core q : Nat) (f : Queue → Queue) : State :=
  modCore s core fun k => { k with queues := k.queues.set q (f (k.queues.getD q Queue.unbound)) }

/-- Vectors that a queue-sourced tile takes (R184). -/
def tileVectors (r : ShapeRec) : Nat := if r.afmt = 9 then 4 else 8

/-- A queue register holds `k` vectors: it is bound from an island to the block's task (R184, R224). -/
def queueFull (s : State) (core task n k : Nat) : Bool :=
  let q := queueAt s core n
  q.bound && q.out && q.task == task && decide (k ≤ q.entries.length)

/-- The image of queued vectors: invalid lanes give zeros (R184). -/
def vectorImage (es : List QEntry) : List Byte :=
  es.flatMap fun e => laneIds.flatMap fun l => wordBytes (if laneIn e.valid l then e.words.getD l 0 else 0)

/-- The row bytes of A (R183, R184). -/
def aRowBytes (s : State) (b : Block) (core : Nat) (r : ShapeRec) (a m : Nat) : List Byte :=
  if r.asrc then (vectorImage ((queueAt s core r.q).entries.take (tileVectors r)) |>.drop (m * rowBytes r.afmt)).take (rowBytes r.afmt)
  else readBytes b.aStore (a + m * r.pitch) (rowBytes r.afmt)

/-- The weight-store bytes of the macros that a record names: from the first number up to the second (Table 5-1). -/
def macroRange (r : ShapeRec) : Nat × Nat := (r.wsbase * 16384, (r.wsbase + r.macros) * 16384)

/-- A copy of the block may still write a byte of a range of macros (R109). -/
def macroCopies (s : State) (block lo hi : Nat) : List Copy :=
  s.copies.filter fun k => k.block == block && (k.dir == 1 || k.dir == 3) && decide (k.wsAddr 0 < hi) && decide (lo < k.wsAddr 0 + k.bytes)

/-- What an MMA or MMAS of a crew that names the registers `regs` needs besides the engine (R109, R184). -/
def matrixWait (c : Crew) (pc : Word) (blk : Block) (r : ShapeRec) (regs : List Nat) : MatrixWait :=
  { crew := c.id, pc := pc, block := blk.id, task := blk.task, queue := if r.asrc then some (r.q, tileVectors r) else none
    lo := (macroRange r).1, hi := (macroRange r).2, regs := regs, since := none }

/-- It has all of it on a core. -/
def MatrixWait.ready (s : State) (core : Nat) (w : MatrixWait) : Bool :=
  (macroCopies s w.block w.lo w.hi).isEmpty && (match w.queue with
    | some (n, k) => queueFull s core w.task n k
    | none => true)

/-- It is the instruction of a crew at an address. -/
def MatrixWait.of (w : MatrixWait) (crew : Nat) (pc : Word) : Bool := w.crew == crew && w.pc == pc

/-- Its crew still stands at it. -/
def MatrixWait.stands (s : State) (w : MatrixWait) : Bool :=
  match crewAt s w.crew with
  | some c => !c.ended && (entryAt c w.pc).isSome
  | none => false

/-- It is ready to issue on a core: every participant stands at it, may issue and waits for none of its registers, and it has what it needs besides the engine (R180, R274). -/
def MatrixWait.canGo (s : State) (core : Nat) (w : MatrixWait) : Bool :=
  w.ready s core && match crewAt s w.crew with
  | some c =>
    let sc := match c.rdv.find? fun r => r.1 == w.pc with | some r => r.2 | none => .crew
    ((participants s c sc).getD []).all fun id => match crewAt s id with
      | some p => mayIssue s p && (entryAt p w.pc).isSome && !p.acqWait && p.log.isNone && w.regs.all fun r => !(pendingRegs s p).contains r
      | none => false
  | none => false

/-- The slot of its crew. -/
def MatrixWait.slot (s : State) (w : MatrixWait) : Nat := match crewAt s w.crew with | some c => c.slot | none => 64

/-- It goes before another: ready for longer, or as long in a lower crew slot (R180). -/
def MatrixWait.before (s : State) (v w : MatrixWait) : Bool :=
  match v.since, w.since with
  | some i, some j => decide (i < j) || (i == j && decide (v.slot s ≤ w.slot s))
  | _, _ => v.since.isSome

/-- The waiting instructions of a core's engine that are ready to issue, the oldest first and of two that became ready together the lower crew slot (R180; DEDUCED, log
entry 23). -/
def engineLine (s : State) (k : CoreSt) : List MatrixWait :=
  (k.mwait.filter (·.canGo s k.id)).foldr (fun w l => l.takeWhile (fun v => !w.before s v) ++ w :: l.dropWhile fun v => !w.before s v) []

/-- A record of the engine waits in a lossless trace (R345). -/
def engineTraceHeld (s : State) (core : Nat) : Bool :=
  match trace0 s with
  | some t => t.on && t.ctl.getLsbD 1 && s.traceQ.any fun r => r.src == 192 + core
  | none => false

/-- A MATRIX record (Table 15-2). -/
def emitMatrix (s : State) (c : Crew) (major n : Nat) (pc : Word) : State :=
  match taskOf s c with
  | some t =>
    if coreEmits s c.core .matrix && filterPasses s c.core (some t) then
      emitAt s (dieOfCore c.core) (192 + c.core) 19 2 none (some ⟨t.pasid, t.rtab, pc⟩)
        ([c.core, c.slot, major, n].map (BitVec.ofNat 8) ++ leSplit 4 0)
    else s
  | none => s

/-- The accumulators of one participant after the tile (R196): `rows` are its 16 rows of A, `cols` the columns of B. -/
def accCrew (i32 : Bool) (d : Nat) (t : BitVec 9) (rows cols : List (List FVal)) (c : Crew) : Crew :=
  (rows.zipIdx).foldl (fun c (row, i) =>
    let old := vreg c (d + i)
    setReg c (d + i) ⟨.g, old.fmt, old.taint ||| t, (cols.zipIdx).map fun (col, l) => accumulate i32 (old.at l) row col⟩) c

/-- The taint of va and vb in a participant. -/
def opTaint (c : Crew) (a : RCode) (b : Src) : BitVec 9 :=
  ((srcReg c a.toNat).getD Reg.zero).taint ||| ((srcVal c b .i32).getD Reg.zero).taint

/-- The activation store as an instruction of some crews reads it: a unit of a copy of theirs that no BATCH.WAIT has covered is read old or new, as a free
bit says (R203), and the machine with the free values used. -/
def asView (s : State) (b : Block) (crews : List Nat) : Block × State :=
  let os := b.asOld.filter fun o => crews.contains o.crew
  ({ b with aStore := (os.zipIdx).foldl (fun m (o, i) => if (Config.freeWord (s.free + i)).getLsbD 0 then writeBytes m o.addr o.bytes else m) b.aStore },
   { s with free := s.free + os.length })

/-- The effect of an accepted MMA or MMAS (R196). -/
def mmaRun (s : State) (x : Ctx) (mmas : Bool) (blk : Block) (r : ShapeRec) (d a : RCode) (b : Src) (va : Nat) : State :=
  let (blk, s) := asView s blk (x.parts.map (·.crew))
  let base := va % 2 ^ 18
  let tile := tileBytes blk r (va / 2 ^ 18 % 2 ^ 10)
  let gB := bandAt blk ((byteAt tile 0).toNat % 64)
  let cols := laneIds.map (bCol r.bfmt tile gB)
  let row (m : Nat) : List FVal :=
    aRow r.afmt (aRowBytes s blk blk.core r base m) (if mmas then some (readBytes blk.aStore (base + r.soff + 8 * m) 8) else none) (bandAt blk (r.aband + m / 64))
  let s' := (x.parts.zipIdx).foldl (fun s' (p, rk) =>
    modCrew s' p.crew fun c => accCrew (r.acc == 1) d.toNat (opTaint c a b) ((List.range 16).map fun i => row (16 * rk + i)) cols c) s
  let s' := if r.asrc then modQueue s' blk.core r.q fun q => { q with entries := q.entries.drop (tileVectors r) } else s'
  modCore s' blk.core fun k => { k with matrix := some ⟨x.parts.map (·.crew), BitVec.ofNat 16 ((2 ^ r.macros - 1) * 2 ^ r.wsbase)⟩ }

/-- The registers that an MMA or MMAS names (R196). -/
def mmaRegs (d a : RCode) (b : Src) : List Nat := ([Opnd.grp d 16, .src a, .srcB b]).flatMap opndRegs

/-- The body of MMA and MMAS (Table 9-6, R180, R195, R196; DEDUCED, log entry 23). -/
def mmaBody (mmas : Bool) (d a : RCode) (b : Src) (x : Ctx) (s : State) : Res :=
  match x.parts.head? with
  | none => .done s
  | some p0 =>
    match crewAt s p0.crew with
    | none => .done s
    | some c =>
      match blockOf s c, uniformOps s x.parts a b with
      | none, _ => .done s
      | some _, .error t => .trap t s
      | some blk, .ok (va, h) =>
        match getShape s c p0.act ((taintClock c (opTaint c a b)).sup c.acq) h false with
        | .stop r => r
        | .ok r s1 =>
          match mmaCheck s x.parts mmas (x.scope == .set) blk r d va.toNat with
          | some t => .trap t s
          | none =>
            match coreAt s1 c.core with
            | none => .done s
            | some k =>
              let me := matrixWait c x.pc blk r (mmaRegs d a b)
              let turn := match (engineLine s1 k).head? with
                | some w => w.of c.id x.pc
                | none => true
              let others := k.mwait.filter fun w => !w.of c.id x.pc
              if !me.ready s1 c.core || engineTraceHeld s1 c.core || k.matrix.isSome || !turn then
                .stall (modCore s1 c.core fun k => { k with mwait := others ++ [{ me with since := (k.mwait.find? (·.of c.id x.pc)).bind (·.since) }] })
              else
                let s1 := modCore s1 c.core fun k => { k with mwait := others }
                .done (emitMatrix (mmaRun s1 x mmas blk r d a b va.toNat) c (if mmas then 0x72 else 0x71) x.parts.length x.pc)

/-- MMA (R196). -/
def execMma (x : Pfx) (d a : RCode) (b : Src) (s : State) : Host.Outcome State Fault Refusal :=
  issue { i := .mma x d a b, ops := [.grp d 16, .src a, .srcB b], waits := true, localOnly := true } (mmaBody false d a b) s

/-- MMAS (R196). -/
def execMmas (x : Pfx) (d a : RCode) (b : Src) (s : State) : Host.Outcome State Fault Refusal :=
  issue { i := .mmas x d a b, ops := [.grp d 16, .src a, .srcB b], waits := true, localOnly := true } (mmaBody true d a b) s

/-! ### MCLR -/

/-- MCLR on one crew (R198). -/
def clearGroup (d : Nat) (f : Fmt) (c : Crew) : Crew := (List.range 16).foldl (fun c i => setReg c (d + i) (uReg f 0)) c

/-- The body of MCLR (R198). -/
def mclrBody (d : RCode) (f : Fmt) (x : Ctx) (s : State) : Res := .done (x.parts.foldl (fun s p => modCrew s p.crew (clearGroup d.toNat f)) s)

/-- MCLR.FP32 (R198). -/
def execMclrFp32 (x : Pfx) (d : RCode) (s : State) : Host.Outcome State Fault Refusal :=
  issue { i := .mclrFp32 x d, ops := [.grp d 16], localOnly := true } (mclrBody d .fp32) s

/-- MCLR.I32 (R198). -/
def execMclrI32 (x : Pfx) (d : RCode) (s : State) : Host.Outcome State Fault Refusal :=
  issue { i := .mclrI32 x d, ops := [.grp d 16], localOnly := true } (mclrBody d .i32) s

/-! ### MQNT -/

/-- A value without its sign. -/
def FVal.abs : FVal → FVal
  | .nan => .nan
  | .inf _ => .inf false
  | .fin _ m e => .fin false m e

/-- The largest magnitude among the values that are numbers; 0 if none (R200). -/
def amaxOf (ys : List FVal) : FVal := ys.foldl (fun b y => if fLt b y.abs then y.abs else b) (.fin false 0 0)

/-- The block scale of a group: 0 for a zero group, else the smallest E3M5 value of at least amax / 6, or 0xFE (R200). -/
def scaleOf (amax : FVal) : Nat :=
  if fEq amax (.fin false 0 0) then 0
  else (((List.range 254).map (· + 1)).find? fun c => !fLt (fMul (.fin false 6 0) (decodeF e3m5F c)) amax).getD 0xFE

/-- The E2M1 code of a value under a scale (R200). -/
def quantElem (s : Nat) (y : FVal) : Nat :=
  match y with
  | .nan => 0
  | y => if s = 0 then (if y.neg then 8 else 0) else encodeF e2m1F .rne true (fDiv y (decodeF e3m5F s))

/-- A group of 8 values quantised: its scale and its codes (R200). -/
def quantGroup (ys : List FVal) : Nat × List Nat :=
  let s := scaleOf (amaxOf ys)
  (s, ys.map (quantElem s))

/-- Nibbles packed into bytes, the low one first. -/
def packNibbles : List Nat → List Byte
  | a :: b :: r => BitVec.ofNat 8 (a + 16 * b) :: packNibbles r
  | [a] => [BitVec.ofNat 8 a]
  | [] => []

/-- Element bytes and scale bytes of one row of a quantised tile: its 32 lanes, in four groups (R199, R200). -/
def quantRow (g : FVal) (r : Reg) : List Byte × List Byte :=
  let ys := laneIds.map fun l => decodeF fp32F (rne fp32F (fDiv (decodeF fp32F (r.at l).toNat) g))
  let gs := (List.range 4).map fun j => quantGroup ((ys.drop (8 * j)).take 8)
  (gs.flatMap fun q => packNibbles q.2, gs.map fun q => BitVec.ofNat 8 q.1)

/-- The writes of an MQNT into the activation store (R199). -/
def mqntRun (s : State) (parts : List Part) (b : Block) (r : ShapeRec) (d : Nat) (a h : Nat) : Block :=
  let regs := parts.flatMap fun p => match crewAt s p.crew with
    | some c => (List.range 16).map fun i => vreg c (d + i)
    | none => []
  (regs.zipIdx).foldl (fun b (reg, m) =>
    let (es, ss) := quantRow (bandAt b (r.aband + m / 64)) reg
    asWrite (a + r.soff + 8 * m + 4 * h) ss (asWrite (a + m * r.pitch + 16 * h) es b)) b

/-- The body of MQNT (R199, R200).  R199 adds OPERAND traps of its own to Table 9-6 and gives them no place: va[31:19], AFMT and ASRC come after row 6 and before
row 9 (DESIGN CHOICE, log entry 81). -/
def mqntBody (d a : RCode) (b : Src) (x : Ctx) (s : State) : Res :=
  match x.parts.head? with
  | none => .done s
  | some p0 =>
    match crewAt s p0.crew with
    | none => .done s
    | some c =>
      match blockOf s c, uniformOps s x.parts a b with
      | none, _ => .done s
      | some _, .error t => .trap t s
      | some blk, .ok (va, h) =>
        match getShape s c p0.act ((taintClock c (opTaint c a b)).sup c.acq) h false with
        | .stop r => r
        | .ok r s1 =>
          let at_ := va.toNat % 2 ^ 18
          let half := va.toNat / 2 ^ 18 % 2
          let last := 16 * x.parts.length - 1
          if va.toNat / 2 ^ 19 ≠ 0 ∨ r.afmt ≠ 9 ∨ r.asrc = true then .trap trapOperand s
          else if !accFmtOk s x.parts d .fp32 then .trap trapFormat s
          else if at_ % 16 ≠ 0 then .trap trapMisalign s
          else if blk.asBytes < at_ + last * r.pitch + 16 * half + 16 ∨ blk.asBytes < at_ + r.soff + 8 * last + 4 * half + 4 then .trap trapAsBounds s
          else .done (setBlock s1 (mqntRun s1 x.parts blk r d.toNat at_ half))

/-- MQNT (R199, R200). -/
def execMqnt (x : Pfx) (d a : RCode) (b : Src) (s : State) : Host.Outcome State Fault Refusal :=
  issue { i := .mqnt x d a b, ops := [.grp d 16, .src a, .srcB b], waits := true, localOnly := true } (mqntBody d a b) s

/-! ### MSCL and MHND -/

/-- The band-scale file with the entries of the active lanes written (R201). -/
def sclBands (e : Nat) (r : Reg) (act : Mask) (bands : List (BitVec 16)) : List (BitVec 16) :=
  (laneIds.filter (laneIn act)).foldl (fun bs l => if e + l ≤ 63 then bs.set (e + l) (BitVec.ofNat 16 (r.at l).toNat) else bs) bands

/-- The body of MSCL (R201); a literal vb takes the format of va (R22). -/
def msclBody (a : RCode) (b : Src) (x : Ctx) (s : State) : Res :=
  match actor x s with
  | none => .done s
  | some (p, c) =>
    match srcReg c a.toNat, srcVal c b (((srcReg c a.toNat).map (·.fmt)).getD .raw32) with
    | some ra, some rb =>
      if ra.shape != .u then .trap trapOperand s
      else if !ra.fmt.isIndex then .trap trapFormat s
      else if 63 < (ra.at 0).toNat then .trap trapOperand s
      else if !(rb.fmt == .bf16x2 || rb.fmt == .raw32 || rb.fmt == .i32) then .trap trapFormat s
      else .done (modBlock s c.block fun k => { k with bands := sclBands (ra.at 0).toNat rb p.act k.bands })
    | _, _ => .trap trapOperand s

/-- MSCL (R201). -/
def execMscl (x : Pfx) (a : RCode) (b : Src) (s : State) : Host.Outcome State Fault Refusal :=
  issue { i := .mscl x a b, ops := [.src a, .srcB b], localOnly := true } (msclBody a b) s

/-- The body of MHND (R202): the record is read whatever is cached; a failed check leaves the slot uncached. -/
def mhndBody (b : Src) (x : Ctx) (s : State) : Res :=
  match actor x s with
  | none => .done s
  | some (p, c) =>
    match srcVal c b .i32 with
    | none => .trap trapOperand s
    | some r =>
      if r.shape != .u then .trap trapOperand s
      else if !r.fmt.isIndex then .trap trapFormat s
      else
        let slot := (r.at 0).toNat / 2 ^ 12
        let task := match taskOf s c with | some t => t.no | none => 0
        match getShape s c p.act ((taintClock c r.taint).sup c.acq) (r.at 0) true with
        | .ok _ s => .done s
        | .stop (.trap t s) => .trap t (dropShape s c.core task slot)
        | .stop (.lanes fs s) => .lanes fs (dropShape s c.core task slot)
        | .stop q => q

/-- MHND (R202). -/
def execMhnd (x : Pfx) (b : Src) (s : State) : Host.Outcome State Fault Refusal :=
  issue { i := .mhnd x b, ops := [.srcB b], waits := true, localOnly := true } (mhndBody b) s

/-- MATRIX_OCCUPANCY_END: the engine of the core named by `unit` is free, and its oldest waiting instruction is tried (R180). -/
def execMatrixOccupancyEnd (s : State) : Host.Outcome State Fault Refusal :=
  match coreAt s s.unit with
  | none => noEvent s
  | some k =>
    if k.matrix.isNone then noEvent s
    else
      let s := modCore s k.id fun k => { k with matrix := none }
      match engineLine s k with
      | w :: _ => .next (modCrew s w.crew (unstall w.pc))
      | [] => .next s

end Sys2Proof.Machine
end

