-- ==== Sys2Proof/Machine/Islands.lean ====
section
/-!
DEFINITION. The islands (chapter 10): cells and their firing rules, links and the island network, demand and requests, FETCH and STORE, ports,
and the switch of a configuration.
-/

namespace Sys2Proof.Machine

/-! ### Geometry and images -/

/-- The kind of an island code: 0 raster, 1 ray, 2 march, 3 texture, 4 blend (R213, R222). -/
def islandKind (code : Nat) : Nat :=
  if code = 0 then 0 else if code < 3 then 1 else if code = 3 then 2 else if code < 12 then 3 else 4

/-- Columns of cells (Table 10-1). -/
def islandW (code : Nat) : Nat := if code < 12 then 64 else 32

/-- Rows of cells (Table 10-1). -/
def islandH (code : Nat) : Nat := if code < 4 then 64 else 32

/-- Bits [lo+n-1:lo] of word `i` of a record. -/
def wfield (ws : List Word) (i lo n : Nat) : Nat := (ws.getD i 0).toNat / 2 ^ lo % 2 ^ n

/-- One step in a direction on a grid: 0 north, 1 east, 2 south, 3 west; none off the grid (R381). -/
def gridStep (w h dir : Nat) (p : Nat × Nat) : Option (Nat × Nat) :=
  match dir with
  | 0 => if p.2 = 0 then none else some (p.1, p.2 - 1)
  | 1 => if p.1 + 1 < w then some (p.1 + 1, p.2) else none
  | 2 => if p.2 + 1 < h then some (p.1, p.2 + 1) else none
  | _ => if p.1 = 0 then none else some (p.1 - 1, p.2)

/-- The neighbour that an output of kind 1 to 4 names (Table 10-5, R381). -/
def neighbour (code cell kind : Nat) : Option Nat :=
  let w := islandW code
  (gridStep w (islandH code) (kind - 1) (cell % w, cell / w)).map fun p => p.2 * w + p.1

/-- The hops of a route entry: tile, direction, slot (R216). -/
def routeHops (ws : List Word) : List (Nat × Nat × Nat) :=
  (List.range (wfield ws 0 14 5)).map fun j =>
    let lo := 16 * (j % 2)
    (wfield ws (1 + j / 2) lo 6, wfield ws (1 + j / 2) (lo + 6) 2, wfield ws (1 + j / 2) (lo + 8) 4)

/-- The record of a cell in an image. -/
def cellRec (im : Image) (cell : Nat) : List Word :=
  match im.cells.find? fun c => c.1 == cell with
  | some (_, ws) => ws
  | none => []

/-- Where an output leads (R211). -/
inductive Dest where
  | none
  | neighbour (cell q : Nat)
  | route (cell q : Nat) (hops : List (Nat × Nat × Nat))
  | port (p : Nat)
deriving DecidableEq, Repr

/-- Destination of output `o` of a cell (Table 10-5). -/
def destOf (code : Nat) (im : Image) (cell o : Nat) : Dest :=
  let ws := cellRec im cell
  let kind := wfield ws (6 + o) 0 3
  if kind = 0 then .none
  else if kind ≤ 4 then
    match neighbour code cell kind with
    | some c => .neighbour c (wfield ws (6 + o) 3 2)
    | none => .none
  else if kind = 5 then
    let r := im.routes.getD (wfield ws (6 + o) 5 11) []
    .route (wfield r 0 0 12) (wfield r 0 12 2) (routeHops r)
  else .port (wfield ws (6 + o) 5 11)

/-- Who feeds a cell queue: an input port, or a cell's output with the cycles that a request to it takes (R212). -/
inductive Producer where
  | port (p : Nat)
  | cell (cell out delay : Nat)
deriving DecidableEq, Repr

/-- The cell queue that an input port feeds (R217). -/
def portFeeds (im : Image) (p : Nat) : Option (Nat × Nat) :=
  match im.ports.find? fun w => w.toNat % 16 == p with
  | some w => some (w.toNat / 16 % 2 ^ 12, w.toNat / 2 ^ 16 % 4)
  | none => none

/-- The cell output that feeds an output port. -/
def portFedBy (code : Nat) (im : Image) (p : Nat) : Option (Nat × Nat) :=
  im.cells.findSome? fun c => [0, 1].findSome? fun o => if destOf code im c.1 o = .port p then some (c.1, o) else none

/-- The producer of a queue (R212). -/
def producerOf (code : Nat) (im : Image) (cell q : Nat) : Option Producer :=
  match (List.range 8).find? fun p => portFeeds im p == some (cell, q) with
  | some p => some (.port p)
  | none => im.cells.findSome? fun c => [0, 1].findSome? fun o =>
      match destOf code im c.1 o with
      | .neighbour d k => if d = cell ∧ k = q then some (.cell c.1 o 1) else none
      | .route d k hs => if d = cell ∧ k = q then some (.cell c.1 o (if hs.isEmpty then 2 else hs.length)) else none
      | _ => none

/-- A configured cell with nothing in it (R221). -/
def CellSt.empty (cell : Nat) : CellSt := ⟨cell, [[], [], [], []], 0, Clock.zero, [0, 0], [0, 0, 0, 0], none, none, none⟩

/-- The switch of an island (R221): a pending shadow becomes active, and every queue, predicate, buffer, credit and FIFO is empty. -/
def Isle.switch (i : Isle) : Isle :=
  let im := match i.shadow with | some x => some x | none => i.image
  { i with image := im, shadow := none, items := [], pasid := none, std := none
           cells := match im with | some x => x.cells.map (fun c => CellSt.empty c.1) | none => []
           inp := (List.range 8).map fun p => ⟨p, [], 0, 0⟩
           outp := (List.range 8).map fun p => ⟨8 + p, 0, [], []⟩ }

/-! ### The machine's islands -/

/-- An island of a die. -/
def isleAt (s : State) (die code : Nat) : Option Isle := s.isles.find? fun i => i.die == die && i.code == code

/-- The machine with one island changed. -/
def modIsle (s : State) (die code : Nat) (f : Isle → Isle) : State :=
  { s with isles := s.isles.map fun i => if i.die == die && i.code == code then f i else i }

/-- Something sent on its way, to arrive in a cycle. -/
def send (s : State) (die code due : Nat) (k : ItemKind) : State :=
  modIsle { s with nextId := s.nextId + 1 } die code fun i => { i with items := i.items ++ [⟨s.nextId, due, k⟩] }

/-- A cell's state changed. -/
def Isle.modCell (i : Isle) (cell : Nat) (f : CellSt → CellSt) : Isle :=
  { i with cells := i.cells.map fun c => if c.idx == cell then f c else c }

/-- An input port changed. -/
def Isle.modIn (i : Isle) (p : Nat) (f : InPort → InPort) : Isle := { i with inp := i.inp.map fun x => if x.no == p then f x else x }

/-- An output port changed. -/
def Isle.modOut (i : Isle) (p : Nat) (f : OutPort → OutPort) : Isle := { i with outp := i.outp.map fun x => if x.no == p then f x else x }

/-- An ISLAND trace record of a die's loader (Table 15-2). -/
def isleRec (s : State) (die code ev refusal : Nat) (title : BitVec 64) : State :=
  emitDie s die (288 + code) .island 20 3 ([die, code, ev, refusal].map (BitVec.ofNat 8) ++ leSplit 8 title.toNat)

/-- TITLE of an island's active image; Eovik's standard image has a TITLE of its own that the spec leaves open (R223). -/
def isleTitle (i : Isle) : BitVec 64 :=
  match i.image with
  | some im => im.title
  | none => Config.standardTitle i.code

/-- An island's switch, with its record (R221); that of the raster island zeroes its die's ordering table (R286). -/
def switchIsle (s : State) (die code : Nat) : State :=
  match isleAt s die code with
  | none => s
  | some i =>
    let s := if code = 0 then modDie s die fun d => { d with ordering := [], rasterSeq := [], rasterAhead := [] } else s
    isleRec (modIsle s die code Isle.switch) die code 2 0 (isleTitle i.switch)

/-! ### Cell operations -/

/-- Cycles until a result is ready (Table 10-3); FETCH and STORE take as long as they take. -/
def cellLatency (op : Nat) : Nat :=
  if op = 4 ∨ op = 5 then 2
  else if 21 ≤ op ∧ op ≤ 29 ∨ 32 ≤ op ∧ op ≤ 34 then 3
  else if 35 ≤ op ∧ op ≤ 37 then 8
  else 1

/-- How many of the operands a, b, cc an operation reads (R215). -/
def cellReads (op : Nat) : Nat :=
  if op = 1 ∨ op = 40 then 0
  else if op = 20 ∨ op = 24 then 3
  else if op = 0 ∨ 30 ≤ op ∧ op ≤ 38 then 1
  else 2

/-- 1 or 0. -/
def oneIf (b : Bool) : Word := if b then 1 else 0

/-- Result of a cell operation other than FETCH and STORE (Table 10-3).  DROP has no result: where its rule feeds an output or writes a predicate bit all the same,
these take 0 (DESIGN CHOICE, log entry 83). -/
def cellOp (op : Nat) (k a b c : Word) : Word :=
  match op with
  | 0 => a
  | 1 => k
  | 2 => IOp.add.word .i32 a b
  | 3 => IOp.sub.word .i32 a b
  | 4 => IOp.mul.word .i32 a b
  | 5 => IOp.mulh.word .i32 a b
  | 6 => IOp.min.word .i32 a b
  | 7 => IOp.max.word .i32 a b
  | 8 => IOp.minu.word .i32 a b
  | 9 => IOp.maxu.word .i32 a b
  | 10 => a &&& b
  | 11 => a ||| b
  | 12 => a ^^^ b
  | 13 => a &&& ~~~b
  | 14 => a <<< (b.toNat % 32)
  | 15 => a >>> (b.toNat % 32)
  | 16 => a.sshiftRight (b.toNat % 32)
  | 17 => oneIf (a == b)
  | 18 => oneIf (ICmp.lt.holds a b)
  | 19 => oneIf (ICmp.ltu.holds a b)
  | 20 => if c = 0 then b else a
  | 21 => FOp.add.word .fp32 a b
  | 22 => FOp.sub.word .fp32 a b
  | 23 => FOp.mul.word .fp32 a b
  | 24 => ffmaWord .fp32 a b c
  | 25 => FOp.min.word .fp32 a b
  | 26 => FOp.max.word .fp32 a b
  | 27 => oneIf (FCmp.eq.holds .fp32 a b)
  | 28 => oneIf (FCmp.lt.holds .fp32 a b)
  | 29 => oneIf (FCmp.le.holds .fp32 a b)
  | 30 => FunOp.abs.word .fp32 a
  | 31 => FunOp.neg.word .fp32 a
  | 32 => cvtWord .i32 .fp32 .rne false a
  | 33 => cvtWord .fp32 .i32 .rtz false a
  | 34 => FunOp.flr.word .fp32 a
  | 35 => FunOp.rcp.word .fp32 a
  | 36 => FunOp.rsq.word .fp32 a
  | 37 => FunOp.sqrt.word .fp32 a
  | _ => 0

/-! ### Firing -/

/-- The head of a queue of a cell. -/
def CellSt.head (c : CellSt) (q : Nat) : Option Token := (c.queues.getD q []).head?

/-- A field of rule word `k` of a cell (Table 10-6). -/
def ruleField (ws : List Word) (k lo n : Nat) : Nat := wfield ws (2 + k) lo n

/-- Outputs that a rule feeds (Table 10-5, RULEOUT). -/
def ruleOuts (ws : List Word) (k : Nat) : List Nat := [0, 1].filter fun o => wfield ws 9 (2 * k + o) 1 == 1

/-- A rule is eligible (R208). -/
def eligible (ws : List Word) (c : CellSt) (k : Nat) : Bool :=
  ruleField ws k 31 1 == 1 &&
  (c.preds &&& BitVec.ofNat 8 (ruleField ws k 0 8)) == BitVec.ofNat 8 (ruleField ws k 8 8) &&
  (List.range 4).all (fun q => ruleField ws k (16 + q) 1 == 0 || (c.head q).isSome) &&
  (ruleField ws k 24 1 == 0 ||
    (match c.head (ruleField ws k 25 2) with
      | some t => t.tag.getLsbD (ruleField ws k 27 3) == (ruleField ws k 30 1 == 1)
      | none => false)) &&
  (ruleOuts ws k).all fun o => decide (0 < c.credits.getD o 0)

/-- The lowest-numbered eligible rule (R208). -/
def firingRule (ws : List Word) (c : CellSt) : Option Nat := (List.range 4).find? (eligible ws c)

/-- The cell's SRC selectors (Table 10-5). -/
def sources (ws : List Word) : List Nat := [wfield ws 0 18 3, wfield ws 0 21 3, wfield ws 0 24 3]

/-- An operand (Table 10-5). -/
def srcOf (ws : List Word) (c : CellSt) (x : Nat) : Word :=
  if x < 4 then (match c.head x with | some t => t.val | none => 0)
  else if x = 4 then ws.getD 1 0
  else if x = 5 then c.preds.setWidth 32
  else 0

/-- The token whose tag and stream the result takes (R207). -/
def leadToken (ws : List Word) (c : CellSt) (k : Nat) : Option Token :=
  let a := (sources ws).headD 6
  let first := if a < 4 then c.head a else none
  match first with
  | some t => some t
  | none => (List.range 4).findSome? fun q => if ruleField ws k (16 + q) 1 = 1 then c.head q else none

/-- The heads that a firing reads (R207, R215). -/
def readHeads (ws : List Word) (c : CellSt) : List Token :=
  ((sources ws).take (cellReads (wfield ws 0 12 6))).filterMap fun x => if x < 4 then c.head x else none

/-- What a firing's result depends on of island stores (R234): the heads that its rule needs, tests or takes, those that it reads, and the predicates
that it tests or reads. -/
def firingAcq (ws : List Word) (c : CellSt) (k : Nat) (acq : Clock) : Clock :=
  let used (q : Nat) : Bool := ruleField ws k (16 + q) 1 == 1 || ruleField ws k (20 + q) 1 == 1 || (ruleField ws k 24 1 == 1 && ruleField ws k 25 2 == q) ||
    (sources ws).contains q
  let acq := (List.range 4).foldl (fun a q => if used q then (match c.head q with | some t => a.sup t.acq | none => a) else a) acq
  if ruleField ws k 0 8 ≠ 0 ∨ (sources ws).contains 5 then acq.sup c.predAcq else acq

/-- The frame of a firing's result: tag, stream and clocks, with an error of the firing itself (R207, R232, R234; DEDUCED, log entry 24).  With
no head to take a tag from, the tag is 0x40, and the stream, which R207 leaves open, is that of queue register 0 of core 0 (DESIGN CHOICE, log entry 82). -/
def resultToken (ws : List Word) (c : CellSt) (k : Nat) (res : Word) (err : Bool) (acq : Clock) : Token :=
  let hs := readHeads ws c
  let t := (leadToken ws c k).getD ⟨0, 0x40, 0, 0, Clock.zero, Clock.zero⟩
  let e := err || hs.any fun h => h.tag.getLsbD 7
  { t with val := res, tag := (t.tag &&& 0x7F) ||| (if e then 0x80 else 0)
           clock := hs.foldl (fun k h => k.sup h.clock) t.clock, acq := firingAcq ws c k acq }

/-- The cycle in which a token leaves for its destination's queue or port, from the cycle in which it is ready (R211): the cycle of arrival. -/
def arrival (ready : Nat) : Dest → Nat
  | .neighbour _ _ | .port _ | .none => ready + 1
  | .route _ _ [] => ready + 2
  | .route _ _ ((t, d, slot) :: hs) => ready + (slot + 16 - ready % 16) % 16 + ((t, d, slot) :: hs).length

/-- What travels for a token sent to a destination. -/
def Dest.item (t : Token) : Dest → Option ItemKind
  | .neighbour c q | .route c q _ => some (.token c q t)
  | .port p => some (.port p t)
  | .none => Option.none

/-- A firing's effect (R208): heads removed, the predicate written, credits used, and the result sent. -/
def fireEffect (s : State) (i : Isle) (im : Image) (c : CellSt) (k lat : Nat) (res : Word) (err : Bool) (acq : Clock) : State :=
  let ws := cellRec im c.idx
  let t := resultToken ws c k res err acq
  let outs := ruleOuts ws k
  let c' := { c with queues := (c.queues.zipIdx).map fun (l, q) => if ruleField ws k (20 + q) 1 = 1 then l.tail else l
                     preds := if wfield ws 0 30 1 = 1 then
                         (c.preds &&& ~~~(BitVec.ofNat 8 (2 ^ wfield ws 0 27 3))) ||| (if res.getLsbD 0 then BitVec.ofNat 8 (2 ^ wfield ws 0 27 3) else 0)
                       else c.preds
                     predAcq := if wfield ws 0 30 1 = 1 then c.predAcq.sup t.acq else c.predAcq
                     credits := (c.credits.zipIdx).map fun (n, o) => if outs.contains o then n - 1 else n
                     busy := none, fired := some i.cycle }
  let s := modIsle s i.die i.code fun i => i.modCell c.idx fun _ => c'
  outs.foldl (fun s o =>
    let d := destOf i.code im c.idx o
    match d.item t with
    | some x => send s i.die i.code (arrival (i.cycle + lat) d) x
    | none => s) s

/-- Something that should have arrived by now has not been taken in yet. -/
def Isle.arriving (i : Isle) : Bool := i.items.any fun x => decide (x.due ≤ i.cycle)

/-- A cell fires in this cycle. -/
def canFire (im : Image) (i : Isle) (c : CellSt) : Bool :=
  c.busy.isNone && c.fired != some i.cycle && (firingRule (cellRec im c.idx) c).isSome

/-- A lossless trace holds the island: a record of it waits (R345). -/
def isleTraceHeld (s : State) (die isl : Nat) : Bool :=
  match trace0 s with
  | some t => t.on && t.ctl.getLsbD 1 && s.traceQ.any fun r => r.src == 288 + isl && r.die == die
  | none => false

/-- CELL_FIRE (R208): a cell's lowest-numbered eligible rule fires, once everything due in this cycle has arrived; a FETCH or STORE begins. -/
def execCellFire (die isl cell : Nat) (s : State) : Host.Outcome State Fault Refusal :=
  match isleAt s die isl with
  | none => noEvent s
  | some i =>
    match i.image, i.cells.find? fun c => c.idx == cell with
    | some im, some c =>
      let ws := cellRec im cell
      match firingRule ws c with
      | none => noEvent s
      | some k =>
        if !canFire im i c || i.arriving || isleTraceHeld s die isl then noEvent s
        else
          let op := wfield ws 0 12 6
          if op = 38 ∨ op = 39 then
            .next (modIsle { s with nextId := s.nextId + 1 } die isl fun i =>
              i.modCell cell fun c => { c with busy := some ⟨op == 39, k, s.nextId, false, false⟩ })
          else
            let v := (sources ws).map (srcOf ws c)
            .next (fireEffect s i im c k (cellLatency op) (cellOp op (ws.getD 1 0) (v.getD 0 0) (v.getD 1 0) (v.getD 2 0)) false Clock.zero)
    | _, _ => noEvent s

/-! ### FETCH and STORE -/

/-- What a FETCH's or STORE's address comes to (R210); `hold`: a page request has been raised for it. -/
inductive CellAcc where
  | at_ (pasid va pk : Nat) (s : State)
  | fail (s : State)
  | wait (s : State)
  | hold (s : State)
deriving Repr

/-- The checks of R210 and the translation, through the island's die TLB (R41), of an access for a stream, which a core and its queue register name; a
demand-paging fault raises a page request. -/
def streamAccess (s : State) (i : Isle) (core qn : Nat) (b : CellBusy) (ridx : Nat) (a : Word) : CellAcc :=
  let q := queueAt s core qn
  match (taskAt s q.task).bind (·.binding) with
  | none => .fail s
  | some (_, recs) =>
    let r := recs.getD ridx 0
    if !q.bound || b.refused || !recordOk r (!b.store) b.store || decide (rExtent r < a.toNat + 4) || a.toNat % 4 != 0 then .fail s
    else
      let va := (rBase r + a.toNat) % 2 ^ 57
      let who := WalkFor.island i.die i.code
      match xlateFor s who (isleUnit i.die) q.pasid va (if b.store then .write else .read) false with
      | (.hit pk _, s) => .at_ q.pasid va pk s
      | (.miss, s) => .wait s
      | (.access, s) => .fail (forget s who)
      | (.fault, s) =>
        if faultRefused s (isleUnit i.die) q.pasid then .fail (forget s who)
        else
          let p : PageReq := ⟨s.nextId, i.die, pasidLookup s q.pasid == .ats, 0, 0, va / 4096, q.pasid, b.store, !b.store, false, false, some b.id⟩
          .hold { forget s who with pageReqs := s.pageReqs ++ [p], nextId := s.nextId + 1 }

/-- A cell's access goes to memory for the stream of the token that leads its firing (R207, R210); one that no token leads belongs to
no stream and fails (DESIGN CHOICE, log entry 82). -/
def cellAccess (s : State) (i : Isle) (b : CellBusy) (t : Option Token) (ridx : Nat) (a : Word) : CellAcc :=
  match t with
  | none => .fail s
  | some t => streamAccess s i t.core t.q b ridx a

/-- The cell waits for the answer to its page request (R210). -/
def holdCell (s : State) (i : Isle) (cell : Nat) (b : CellBusy) : State :=
  modIsle s i.die i.code fun i => i.modCell cell fun c => { c with busy := some { b with held := true } }

/-- The line can be read or written by an island now, for the stream of a core and its queue register: no pin, else a retry with its trace record, the link up,
the host's hold given up (R46, R65, R246). -/
def isleLine (s : State) (die core qn pk : Nat) (write : Bool) : Bool × State :=
  if pinnedElsewhere s (isleUnit die) (pk / 256) then (false, emitRetry s (pk / 256) core (taskAt s (queueAt s core qn).task) 0xFF 0)
  else if linkBars s (isleUnit die) (pk / 256) then (false, s)
  else match hostBars s write [pk / 64] with
    | [] => (true, s)
    | xs => (false, askHost s xs)

/-- A cell that has an access in progress, with its island, image and access. -/
def busyCell (s : State) (die isl cell : Nat) (store : Bool) : Option (Isle × Image × CellSt × CellBusy) :=
  match isleAt s die isl with
  | none => none
  | some i =>
    match i.image, i.cells.find? fun c => c.idx == cell with
    | some im, some c =>
      match c.busy with
      | some b => if b.store = store ∧ b.held = false ∧ c.fired ≠ some i.cycle then some (i, im, c, b) else none
      | none => none
    | _, _ => none

/-- An aligned 64 B node read as a whole at its home slice for an island; none when it is poisoned (R44, R210, R233). -/
def nodeAt (s : State) (pk : Nat) : Option (List Byte) × State :=
  let base := pk / 64 * 64
  if poisoned s base then (none, s)
  else (some ((List.range 64).map fun k => readByte s.mem (base + k)), mesiRead (sliceAccess s (pk / 256) none) [pk / 64])

/-- A FETCH's node read (R210, R233). -/
def readNode (s : State) (i : Isle) (im : Image) (c : CellSt) (b : CellBusy) (lead t : Token) (pasid va pk : Nat) (word : List Byte → Word) :
    Host.Outcome State Fault Refusal :=
  match isleLine s i.die lead.core lead.q pk false with
  | (false, s) => .next { s with progress := false }
  | (true, s) =>
    if !(appliedClock s i.die).covers t.clock then noEvent s
    else match nodeAt s pk with
      | (none, s) => .next (fireEffect s i im { c with node := none } b.rule 0 0 true Clock.zero)
      | (some bs, s) =>
        .next (fireEffect s i im { c with node := some ⟨pasid, va / 64, bs, appliedClock s i.die⟩ } b.rule 0 (word bs) false Clock.zero)

/-- ISLAND_FETCH_RETURN (R210, R232, R233): the node is read as a whole when the die has applied the token's clock, or the cell's node
buffer is used again; a failure gives 0 with ERR. -/
def execIslandFetchReturn (die isl n : Nat) (s : State) : Host.Outcome State Fault Refusal :=
  match busyCell s die isl n false with
  | none => noEvent s
  | some (i, im, c, b) =>
    let ws := cellRec im n
    let t := resultToken ws c b.rule 0 false Clock.zero
    match cellAccess s i b (leadToken ws c b.rule) (wfield ws 8 0 2) (srcOf ws c ((sources ws).headD 6)) with
    | .wait s => .next { s with progress := false }
    | .hold s => .next { holdCell s i n b with progress := false }
    | .fail s => .next (fireEffect s i im { c with node := none } b.rule 0 0 true Clock.zero)
    | .at_ pasid va pk s =>
      let word (bs : List Byte) : Word := BitVec.ofNat 32 (leValue ((bs.drop (va % 64)).take 4))
      match c.node with
      | some nb =>
        if nb.pasid = pasid ∧ nb.node = va / 64 ∧ nb.clock.covers t.clock = true then .next (fireEffect s i im c b.rule 0 (word nb.data) false Clock.zero)
        else readNode s i im c b t t pasid va pk word
      | none => readNode s i im c b t t pasid va pk word

/-- An island's STORE of a word, performed at its home slice after `k` (R210, R234). -/
def isleStore (s : State) (pk : Nat) (k : Clock) (v : Word) : State := homeWrite (sliceAccess s (pk / 256) none) k (addrs pk (wordBytes v))

/-- ISLAND_STORE_DONE (R210, R234): the write is performed at its home slice, and then the result token, which carries the write's clock, goes on. -/
def execIslandStoreDone (die isl n : Nat) (s : State) : Host.Outcome State Fault Refusal :=
  match busyCell s die isl n true with
  | none => noEvent s
  | some (i, im, c, b) =>
    let ws := cellRec im n
    let t := resultToken ws c b.rule 0 false Clock.zero
    let a := srcOf ws c ((sources ws).headD 6)
    match cellAccess s i b (leadToken ws c b.rule) (wfield ws 8 0 2) a with
    | .wait s => .next { s with progress := false }
    | .hold s => .next { holdCell s i n b with progress := false }
    | .fail s => .next (fireEffect s i im c b.rule 0 0 true Clock.zero)
    | .at_ _ _ pk s =>
      match isleLine s i.die t.core t.q pk true with
      | (false, s) => .next { s with progress := false }
      | (true, s) =>
        if !(appliedClock s i.die).covers t.clock then noEvent s
        else
          let k := t.clock.sup t.acq
          .next (fireEffect (isleStore s pk k (srcOf ws c ((sources ws).getD 1 6))) i im c b.rule 0 a false (writeClock s pk k))

/-! ### Arrivals -/

/-- An item that arrives now, of the kinds that `ok` names: the earliest of those with one destination comes first. -/
def dueItem (i : Isle) (n : Nat) (same : ItemKind → ItemKind → Bool) : Option Item :=
  match i.items.find? fun x => x.id == n && decide (x.due ≤ i.cycle) with
  | none => none
  | some x => if i.items.any fun y => decide (y.id < n) && decide (y.due ≤ i.cycle) && same x.what y.what then none else some x

/-- Two tokens for one cell queue, or for one port. -/
def sameTarget : ItemKind → ItemKind → Bool
  | .token c q _, .token c' q' _ => c == c' && q == q'
  | .port p _, .port p' _ => p == p'
  | _, _ => false

/-- The vector that a port completes with its LAST token (R225); a lane whose token came with VALID 0 and ERR 0 holds 0 like the other invalid lanes (DESIGN
CHOICE, log entry 86). -/
def assemble (ts : List Token) (last : Token) : PortVec :=
  let at_ (l : Nat) : Option Token := ts.find? fun t => t.tag.toNat % 32 == l
  let ok (l : Nat) : Bool := match at_ l with | some t => t.tag.getLsbD 6 && !t.tag.getLsbD 7 | none => false
  { words := laneIds.map fun l => if ok l then ((at_ l).map (·.val)).getD 0 else 0
    valid := maskOf ok, errs := maskOf fun l => match at_ l with | some t => t.tag.getLsbD 7 | none => false
    clock := Clock.zero, acq := ts.foldl (fun k t => k.sup t.acq) Clock.zero, core := last.core, q := last.q }

/-- A token at an output port (R211).  A second token of one lane takes the place of the first, and tokens of every stream fill the one vector that the port assembles
(DESIGN CHOICE, log entry 86). -/
def portTake (i : Isle) (t : Token) (p : OutPort) : OutPort :=
  let part := t :: p.part.filter fun x => x.tag.toNat % 32 != t.tag.toNat % 32
  if t.tag.getLsbD 5 then { p with part := [], done := p.done ++ [(i.cycle + 1, assemble part t)] } else { p with part := part }

/-- TOKEN_DELIVER (R211): a token enters a cell queue or an output port. -/
def execTokenDeliver (die isl n : Nat) (s : State) : Host.Outcome State Fault Refusal :=
  match isleAt s die isl with
  | none => noEvent s
  | some i =>
    match dueItem i n sameTarget with
    | none => noEvent s
    | some x =>
      let rest (i : Isle) : Isle := { i with items := i.items.filter fun y => y.id != n }
      match x.what with
      | .token c q t => .next (modIsle s die isl fun i => (rest i).modCell c fun c =>
          { c with queues := c.queues.set q (c.queues.getD q [] ++ [t]), asked := c.asked.set q (c.asked.getD q 0 - 1) })
      | .port p t => .next (modIsle s die isl fun i => (rest i).modOut p (portTake i t))
      | _ => noEvent s

/-- DEMAND_CREDIT_ARRIVE (R212): credits reach a cell's output. -/
def execDemandCreditArrive (die isl n : Nat) (s : State) : Host.Outcome State Fault Refusal :=
  match isleAt s die isl with
  | none => noEvent s
  | some i =>
    match dueItem i n (fun _ _ => false) with
    | none => noEvent s
    | some x =>
      match x.what with
      | .credit c o k => .next (modIsle s die isl fun i =>
          { i with items := i.items.filter fun y => y.id != n }.modCell c fun c => { c with credits := c.credits.set o (c.credits.getD o 0 + k) })
      | _ => noEvent s

/-- TOKEN_REQUEST_ARRIVE (R212): a request reaches a producing cell's output as a credit, or an input port, which owes a token. -/
def execTokenRequestArrive (die isl n : Nat) (s : State) : Host.Outcome State Fault Refusal :=
  match isleAt s die isl with
  | none => noEvent s
  | some i =>
    match dueItem i n (fun _ _ => false) with
    | none => noEvent s
    | some x =>
      let rest (i : Isle) : Isle := { i with items := i.items.filter fun y => y.id != n }
      match x.what with
      | .request c o => .next (modIsle s die isl fun i => (rest i).modCell c fun c => { c with credits := c.credits.set o (c.credits.getD o 0 + 1) })
      | .portRequest p => .next (modIsle s die isl fun i => (rest i).modIn p fun p => { p with owed := p.owed + 1 })
      | _ => noEvent s

/-! ### The cycle -/

/-- The token of a lane of a vector at an input port (R207). -/
def laneToken (v : PortVec) (l : Nat) : Token :=
  { val := v.words.getD l 0
    tag := BitVec.ofNat 8 (l + (if l = 31 then 32 else 0) + (if laneIn v.valid l then 64 else 0) + (if laneIn v.errs l then 128 else 0))
    core := v.core, q := v.q, clock := v.clock, acq := v.acq }

/-- The input ports send: one token each in a cycle, against a request (R211, R212). -/
def portSend (im : Image) (s : State) (i : Isle) (p : InPort) : State :=
  match p.fifo, portFeeds im p.no with
  | v :: vs, some (c, q) =>
    if p.owed = 0 then s
    else
      let s := send s i.die i.code (i.cycle + 1) (.token c q (laneToken v p.sent))
      modIsle s i.die i.code fun i => i.modIn p.no fun p =>
        if p.sent = 31 then { p with fifo := vs, sent := 0, owed := p.owed - 1 } else { p with sent := p.sent + 1, owed := p.owed - 1 }
  | _, _ => s

/-- A cell has no output at all, or holds a credit: it requests (R212). -/
def requesting (im : Image) (c : CellSt) : Bool :=
  let ws := cellRec im c.idx
  (wfield ws 6 0 3 == 0 && wfield ws 7 0 3 == 0) || c.credits.any (· != 0)

/-- Requests of a cell on one queue, up to 4 tokens and requests in all (R212). -/
def requestQueue (im : Image) (s : State) (i : Isle) (c : CellSt) (q : Nat) : State :=
  match producerOf i.code im c.idx q with
  | none => s
  | some p =>
    let n := 4 - ((c.queues.getD q []).length + c.asked.getD q 0)
    let s := modIsle s i.die i.code fun i => i.modCell c.idx fun c => { c with asked := c.asked.set q (c.asked.getD q 0 + n) }
    (List.range n).foldl (fun s _ =>
      match p with
      | .port k => send s i.die i.code (i.cycle + 1) (.portRequest k)
      | .cell d o t => send s i.die i.code (i.cycle + t) (.request d o)) s

/-- Free words of the machine. -/
def freeWords (s : State) (n : Nat) : List Word × State :=
  ((List.range n).map fun k => (Config.freeWord (s.free + k)).setWidth 32, { s with free := s.free + n })

/-- Input and output ports of the standard image of a kind (Table 10-9). -/
def standardPorts (kind : Nat) : List Nat × List Nat :=
  match kind with
  | 0 => ([0, 1, 2, 3], [8, 9, 10, 11])
  | 1 => ([0, 1, 2, 3, 4, 5, 6, 7], [8, 9, 10, 11])
  | 2 => ([0, 1, 2, 3, 4, 5, 6], [8, 9, 10, 11, 12])
  | 3 => ([0, 1, 2, 3], [8, 9, 10, 11])
  | _ => ([0, 1, 2, 3, 4], [8])

/-- The island records that the standard image of a kind fetches through, and whether it stores through IR0 (Table 10-9). -/
def standardMem (kind : Nat) : List Nat × Bool :=
  match kind with
  | 0 => ([], false)
  | 1 => ([0], false)
  | 2 => ([0, 1], false)
  | 3 => ([0, 1, 2, 3], false)
  | _ => ([0], true)

/-- The memory accesses of one round of a standard image, up to 64 of them: which, where and with what data is free (R223; DESIGN CHOICE, log entry 25). -/
def drawAccesses (s : State) (kind : Nat) : List (Bool × Nat × Word × Word) × State :=
  let (rs, st) := standardMem kind
  let (n, s) := freeWords s 1
  if rs.isEmpty then ([], s)
  else
    let m := (n.headD 0).toNat % 65
    let (ws, s) := freeWords s (3 * m)
    ((List.range m).map fun j =>
      let pick := (ws.getD (3 * j) 0).toNat
      (st && pick % 2 == 1, rs.getD (if st && pick % 2 == 1 then 0 else pick / 2 % rs.length) 0, (ws.getD (3 * j + 1) 0) &&& ~~~3, ws.getD (3 * j + 2) 0), s)

/-- The input ports of a standard image that some queue register of the die feeds (R223, R224). -/
def fedPorts (s : State) (i : Isle) : List Nat :=
  (standardPorts (islandKind i.code)).1.filter fun p =>
    s.cores.any fun c => dieOfCore c.id == i.die && c.queues.any fun q => q.bound && !q.out && q.island == i.code && q.port == p

/-- A round of a standard image begins: with a vector at every input port that is fed and demand at an output port, it takes one of each (R223; DESIGN
CHOICE, log entry 25). -/
def standardStart (s : State) (i : Isle) : State :=
  let ins := fedPorts s i
  let outs := (standardPorts (islandKind i.code)).2
  let heads := ins.filterMap fun p => (i.inp.find? fun x => x.no == p).bind fun x => x.fifo.head?
  match heads with
  | [] => s
  | v :: _ =>
    if heads.length < ins.length || !(i.outp.any fun p => outs.contains p.no && p.demand != 0) then s
    else
      let (left, s) := drawAccesses s (islandKind i.code)
      let r : StdRound := ⟨v.core, v.q, heads.map fun v => (v.core, v.q), heads.foldl (fun k v => k.sup v.clock) Clock.zero, heads.foldl (fun k v => k.sup v.acq) Clock.zero, left,
        ⟨false, 0, s.nextId, false, false⟩⟩
      modIsle { s with nextId := s.nextId + 1 } i.die i.code fun i =>
        { i with inp := i.inp.map (fun p => if ins.contains p.no then { p with fifo := p.fifo.tail } else p), std := some r }

/-- The round with its next access done, and a STORE's clock taken in. -/
def standardDone (s : State) (i : Isle) (r : StdRound) (acq : Clock) : State :=
  modIsle { s with nextId := s.nextId + 1 } i.die i.code fun i =>
    { i with std := some { r with left := r.left.tail, acq := r.acq.sup acq, busy := ⟨false, 0, s.nextId, false, false⟩ } }

/-- The next access of a round, made as a cell makes its own (R210, R223). -/
def standardAccess (s : State) (i : Isle) (r : StdRound) (store : Bool) (ridx : Nat) (a v : Word) : State :=
  if r.busy.held then { s with progress := false }
  else
    match streamAccess s i r.core r.q { r.busy with store := store } ridx a with
    | .wait s => { s with progress := false }
    | .hold s => modIsle { s with progress := false } i.die i.code fun i => { i with std := some { r with busy := { r.busy with held := true } } }
    | .fail s => standardDone s i r Clock.zero
    | .at_ _ _ pk s =>
      match isleLine s i.die r.core r.q pk store with
      | (false, s) => { s with progress := false }
      | (true, s) =>
        if !(appliedClock s i.die).covers r.clock then { s with progress := false }
        else
          let k := r.clock.sup r.acq
          if store then standardDone (isleStore s pk k v) i r (writeClock s pk k) else standardDone (nodeAt s pk).2 i r Clock.zero

/-- The pixel keys of the valid lanes of a raster vector: each slot's sequence numbers in turn; none while a key would run 65,536 ahead of its slot's
counter (R286). -/
def rasterKeys (valid : Mask) (slots : List Word) (d : Die) : Option (List Word × Die) :=
  laneIds.foldl (fun o l => o.bind fun (ws, d) =>
    if !laneIn valid l then some (ws ++ [0], d)
    else
      let slot := (slots.getD l 0).toNat % 2 ^ 16
      if 65536 ≤ sget 0 d.rasterAhead slot then none
      else
        let n := sget 0 d.rasterSeq slot
        some (ws ++ [BitVec.ofNat 32 (slot + n % 2 ^ 16 * 2 ^ 16)],
          { d with rasterSeq := sput 0 d.rasterSeq slot (n + 1), rasterAhead := sput 0 d.rasterAhead slot (sget 0 d.rasterAhead slot + 1) })) (some ([], d))

/-- A completed vector at a demanded output port of a standard image: free values, but for the raster island's pixel keys (R223, R286). -/
def standardOut (s : State) (i : Isle) (r : StdRound) (port : Nat) : Option State :=
  let (ws, s) := freeWords s 34
  let valid := ws.getD 32 0
  let out (words : List Word) : PortVec :=
    { words := laneIds.map fun l => if laneIn valid l then words.getD l 0 else 0
      valid := valid, errs := (ws.getD 33 0) &&& ~~~valid, clock := Clock.zero, acq := r.acq, core := r.core, q := r.q }
  let put (s : State) (v : PortVec) : State :=
    modIsle s i.die i.code fun i => i.modOut port fun p => { p with demand := p.demand - 1, done := p.done ++ [(i.cycle + 1, v)] }
  if i.code = 0 ∧ port = 8 then
    match (dieAt s i.die).bind (rasterKeys valid ws) with
    | some (ks, d) => some (put (setDie s d) (out ks))
    | none => none
  else some (put s (out ws))

/-- The round ends: a vector completes at each demanded port; the raster island stalls while it may emit no key (R223, R286). -/
def standardEnd (s : State) (i : Isle) (r : StdRound) : State :=
  let wanted := i.outp.filter fun p => (standardPorts (islandKind i.code)).2.contains p.no && p.demand != 0
  match wanted.foldl (fun o p => o.bind fun s => standardOut s i r p.no) (some s) with
  | some s => modIsle s i.die i.code fun i => { i with std := none }
  | none => { s with progress := false }

/-- A cycle of a standard image (R223). -/
def standardCycle (s : State) (i : Isle) : State :=
  if isleTraceHeld s i.die i.code then { s with progress := false }
  else match i.std with
    | none => standardStart s i
    | some r => match r.left with
      | [] => standardEnd s i r
      | (store, ridx, a, v) :: _ => standardAccess s i r store ridx a v

/-- The end of an island's cycle, when nothing is left to arrive or to fire in it: ports send, cells request, and the next cycle begins
(R208, R211, R212). -/
def islandNext (s : State) (die isl : Nat) : State :=
  match isleAt s die isl with
  | none => { s with progress := false }
  | some i =>
    match i.image with
    | none => modIsle (standardCycle s i) die isl fun i => { i with cycle := i.cycle + 1 }
    | some im =>
      if i.arriving || i.cells.any (canFire im i) then { s with progress := false }
      else
        let s := i.inp.foldl (fun s p => portSend im s i p) s
        let s := i.cells.foldl (fun s c =>
          if requesting im c then (List.range 4).foldl (fun s q => requestQueue im s i c q) s else s) s
        modIsle s die isl fun i => { i with cycle := i.cycle + 1 }

end Sys2Proof.Machine
end

