-- ==== Sys2Proof/Machine/Queues.lean ====
section
/-!
DEFINITION. Queue registers (R224-R230), the island loader and ISWAP (R213-R222), and the events between queue registers and ports (R225).
-/

namespace Sys2Proof.Machine

/-! ### QOP -/

/-- Demand for `k` vectors, so far as demand and entries stay within 8; CLAMP when not all (R212, R229). -/
def addDemand (s : State) (core n k : Nat) : State :=
  let q := queueAt s core n
  let take := min k (8 - (q.demand + q.entries.length))
  let s := modQueue s core n fun q => { q with demand := q.demand + take, clamp := q.clamp || decide (take < k) }
  let die := dieOfCore core
  if take = 0 then s
  else
    match isleAt s die q.island with
    | none => s
    | some i =>
      match i.image with
      | none => modIsle s die q.island fun i => i.modOut q.port fun p => { p with demand := p.demand + take }
      | some im =>
        match portFedBy q.island im q.port with
        | some (c, o) => send s die q.island (i.cycle + 1) (.credit c o (32 * take))
        | none => s

/-- A queue register as a crew has it: its task's on the core where it runs; one bound to another task is not bound for it (R224, R226). -/
def crewQueue (s : State) (c : Crew) (n : Nat) : Queue :=
  let q := queueAt s c.core n
  match taskOf s c with
  | some t => if q.task = t.no then q else Queue.unbound
  | none => Queue.unbound

/-- The body of QOP PUSH (R227): its entry carries the crew's history clock, the acquire of the block's start included (R254, R292). -/
def pushBody (n : Nat) (a : RCode) (x : Ctx) (s : State) : Res :=
  match actor x s with
  | none => .done s
  | some (_, c) =>
    let q := crewQueue s c n
    let r := (srcReg c a.toNat).getD Reg.zero
    if !q.bound || q.out then .trap trapAccess s
    else if !(r.fmt == q.fmt || r.fmt == .raw32 || q.fmt == .raw32) then .trap trapFormat s
    else if 8 ≤ q.entries.length then .stall s
    else .done (modQueue s c.core n fun q =>
      { q with entries := q.entries ++ [⟨r.lanes, BitVec.allOnes 32, 0, (crewClock c).sup (taintClock c r.taint)⟩] })

/-- QOP PUSH (R227). -/
def execQopPush (x : Pfx) (q : BitVec 4) (a : RCode) (s : State) : Host.Outcome State Fault Refusal :=
  issue { i := .qopPush x q a, ops := [.src a], waits := true } (pushBody q.toNat a) s

/-- The crew after a POP of an entry: every lane is written, the exited ones too (R228, R234; DEDUCED, log entry 42). -/
def popInto (k : Nat) (d : RCode) (f : Fmt) (e : QEntry) (c : Crew) : Crew :=
  let c := writeVd c d.toNat ⟨.g, f, 0, e.words⟩ (BitVec.allOnes 32) true
  let c := if k < 3 then { c with pred := c.pred.set k e.valid } else c
  { c with acq := c.acq.sup e.clock, hist := c.hist.sup e.clock }

/-- The body of QOP POP (R228). -/
def popBody (n k : Nat) (d : RCode) (x : Ctx) (s : State) : Res :=
  match actor x s with
  | none => .done s
  | some (_, c) =>
    let q := crewQueue s c n
    if !q.bound || !q.out then .trap trapAccess s
    else
      match q.entries with
      | [] => .stall (if q.demand = 0 then addDemand s c.core n 1 else s)
      | e :: es => .done (modCrew (modQueue s c.core n fun q => { q with entries := es }) c.id (popInto k d q.fmt e))

/-- QOP POP (R228). -/
def execQopPop (x : Pfx) (q : BitVec 4) (k : BitVec 2) (d : RCode) (s : State) : Host.Outcome State Fault Refusal :=
  issue { i := .qopPop x q k d, ops := [.dst d], waits := true } (popBody q.toNat k.toNat d) s

/-- The body of QOP DEM (R229).  Several crews of one DEM act once, by the va of the first whose act is not empty, and the register's binding is checked before
va (DESIGN CHOICE, log entry 87). -/
def demBody (n : Nat) (a : RCode) (x : Ctx) (s : State) : Res :=
  match actor x s with
  | none => .done s
  | some (_, c) =>
    let q := crewQueue s c n
    let r := (srcReg c a.toNat).getD Reg.zero
    if !q.bound || !q.out then .trap trapAccess s
    else if r.shape != .u then .trap trapOperand s
    else if !r.fmt.isIndex then .trap trapFormat s
    else .done (addDemand s c.core n (r.at 0).toNat)

/-- QOP DEM (R229). -/
def execQopDem (x : Pfx) (q : BitVec 4) (a : RCode) (s : State) : Host.Outcome State Fault Refusal :=
  issue { i := .qopDem x q a, ops := [.src a], waits := true } (demBody q.toNat a) s

/-- Entries in the FIFO of the port that a register is bound to; output ports have none (Table 10-12). -/
def portFifo (s : State) (core : Nat) (q : Queue) : Nat :=
  match isleAt s (dieOfCore core) q.island with
  | some i => match i.inp.find? fun p => p.no == q.port with
    | some p => p.fifo.length
    | none => 0
  | none => 0

/-- The queue status word (Table 10-12). -/
def queueStatus (s : State) (core : Nat) (q : Queue) : Word :=
  BitVec.ofNat 32 (q.entries.length + 2 ^ 4 * (if q.bound && !q.out then portFifo s core q else 0) + 2 ^ 10 * q.demand +
    (if q.out then 2 ^ 14 else 0) + (if q.bound then 2 ^ 15 else 0) + (if q.err then 2 ^ 16 else 0) + (if q.clamp then 2 ^ 17 else 0))

/-- The body of QOP STAT (R230). -/
def statBody (n : Nat) (d : RCode) (x : Ctx) (s : State) : Res :=
  match actor x s with
  | none => .done s
  | some (_, c) =>
    let q := crewQueue s c n
    if !q.bound then .trap trapAccess s
    else
      let v := queueStatus s c.core q
      let s := modQueue s c.core n fun q => { q with err := false, clamp := false }
      .done (x.parts.foldl (fun s p => if p.act = 0 then s else modCrew s p.crew (sysResult d p v)) s)

/-- QOP STAT (R230). -/
def execQopStat (x : Pfx) (q : BitVec 4) (d : RCode) (s : State) : Host.Outcome State Fault Refusal :=
  issue { i := .qopStat x q d, ops := [.dst d], waits := true } (statBody q.toNat d) s

/-! ### Between queue registers and ports -/

/-- PUSH_ENTRY_TO_PORT (R225): the oldest entry of a register moves into the port's FIFO when that has room. -/
def execPushEntryToPort (core q : Nat) (s : State) : Host.Outcome State Fault Refusal :=
  let r := queueAt s core q
  match r.entries, isleAt s (dieOfCore core) r.island with
  | e :: es, some i =>
    match i.inp.find? fun p => p.no == r.port with
    | some p =>
      if !r.bound || r.out || decide (32 ≤ p.fifo.length) then noEvent s
      else
        let v : PortVec := ⟨e.words, e.valid, e.errs, e.clock, Clock.zero, core, q⟩
        let s := modQueue s core q fun r => { r with entries := es }
        .next (modIsle s i.die i.code fun i => i.modIn p.no fun p => { p with fifo := p.fifo ++ [v] })
    | none => noEvent s
  | _, _ => noEvent s

/-- The register that takes a completed vector: the lowest-numbered one of the core that is bound to the port and has room (R225). -/
def takerOf (s : State) (isl port core : Nat) : Option Nat :=
  (List.range 16).find? fun n =>
    let q := queueAt s core n
    q.bound && q.out && q.island == isl && q.port == port && decide (q.entries.length < 8)

/-- OUTPUT_VECTOR_DELIVER (R225): a port's oldest completed vector enters its register. -/
def execOutputVectorDeliver (die isl port : Nat) (s : State) : Host.Outcome State Fault Refusal :=
  match isleAt s die isl with
  | none => noEvent s
  | some i =>
    match (i.outp.find? fun p => p.no == port).bind fun p => p.done.head? with
    | some (due, v) =>
      match (if due ≤ i.cycle ∧ dieOfCore v.core = die then takerOf s isl port v.core else none) with
      | some n =>
        let s := modQueue s v.core n fun q =>
          { q with entries := q.entries ++ [⟨v.words, v.valid, v.errs, v.acq⟩], demand := q.demand - 1, err := q.err || v.errs != 0 }
        .next (modIsle s die isl fun i => i.modOut port fun p => { p with done := p.done.tail })
      | none => noEvent s
    | none => noEvent s

/-! ### The loader's checks -/

/-- The word at an offset of an image. -/
def imgWord (bs : List Byte) (o : Nat) : Nat := num bs o 4

/-- Offset, count and entry size of the four tables (Table 10-4). -/
def imgTables (bs : List Byte) : List (Nat × Nat × Nat) :=
  [(0x10, 48), (0x18, 48), (0x20, 8), (0x28, 4)].map fun (o, z) => (imgWord bs o, imgWord bs (o + 4), z)

/-- No two of the spans overlap. -/
def apart : List (Nat × Nat) → Bool
  | [] => true
  | a :: r => r.all (fun b => decide (a.2 ≤ b.1) || decide (b.2 ≤ a.1)) && apart r

/-- The part of check 1 that the header alone decides (R213, R222).  A SIGOFF below 0x40, which puts the signature block over the header, breaks R213 (DESIGN
CHOICE, log entry 84). -/
def headerOk (h : List Byte) : Bool :=
  let total := imgWord h 8
  let sig := imgWord h 0xC
  let ts := (imgTables h).filter fun t => t.2.1 != 0
  imgWord h 0 == 0x41564649 && num h 4 2 == 1 && num h 7 1 == 0 && num h 0x38 8 == 0 &&
  total % 16 == 0 && decide (total ≤ 0x100000) && total == sig + 0x260 && decide (0x40 ≤ sig) &&
  ts.all (fun t => t.1 % 16 == 0 && decide (0x40 ≤ t.1) && decide (t.1 + t.2.1 * t.2.2 ≤ sig)) &&
  apart (ts.map fun t => (t.1, t.1 + t.2.1 * t.2.2))

/-- A certificate holds: its constants, its signature under the parent's key, and its serial (Table 10-7). -/
def certOk (b key : List Byte) (role least : Nat) : Bool :=
  imgWord b 0 == 0x54524543 && num b 4 1 == role && num b 5 3 == 0 && num b 0x1C 4 == 0 && num b 0x81 31 == 0 &&
  imgWord b 0x18 / 2 ^ 5 == 0 && sigVerifies key (cut b 0 0xA0) (cut b 0xA0 96) && decide (least ≤ num b 8 8)

/-- The key of a certificate. -/
def certKey (b : List Byte) : List Byte := cut b 0x20 97

/-- Entries of a table as words. -/
def tableWords (bs : List Byte) (k : Nat) : List (List Word) :=
  let t := (imgTables bs).getD k (0, 0, 4)
  (List.range t.2.1).map fun j => wordsOf (t.2.2 / 4) (cut bs (t.1 + t.2.2 * j) t.2.2)

/-- The image of accepted bytes (DEDUCED, log entry 47). -/
def imageOf (bs : List Byte) : Image :=
  { cells := (tableWords bs 0).map fun ws => (wfield ws 0 0 12, ws), routes := tableWords bs 1
    ports := (tableWords bs 2).map fun ws => ws.getD 0 0, title := BitVec.ofNat 64 (num bs 0x30 8)
    digest := sha384 (cut bs 0 (imgWord bs 0xC)) }

/-- Check 3: the certificates (R219). -/
def chainOk (s : State) (bs : List Byte) : Bool :=
  let p := cut bs (imgWord bs 0xC) 256
  let t := cut bs (imgWord bs 0xC + 0x100) 256
  certOk p Config.rootKey 1 s.fuses.minPlat && certOk t (certKey p) 2 s.fuses.minTitle &&
  (List.range 5).all (fun k => imgWord t 0x18 / 2 ^ k % 2 == 0 || imgWord p 0x18 / 2 ^ k % 2 == 1) && num t 0x10 8 == num bs 0x30 8

/-- Check 4: the image signature (R219). -/
def imageSigned (bs : List Byte) : Bool :=
  let o := imgWord bs 0xC
  sigVerifies (certKey (cut bs (o + 0x100) 256)) (cut bs 0 o) (cut bs (o + 0x200) 96)

/-- Check 5: the kind. -/
def kindOk (code : Nat) (bs : List Byte) : Bool :=
  num bs 6 1 == islandKind code && imgWord bs (imgWord bs 0xC + 0x118) / 2 ^ islandKind code % 2 == 1

/-- An output word has its reserved fields at 0 (R214). -/
def outWordOk (ws : List Word) (o : Nat) : Bool :=
  let k := wfield ws (6 + o) 0 3
  wfield ws (6 + o) 16 16 == 0 && ((decide (1 ≤ k) && decide (k ≤ 4)) || wfield ws (6 + o) 3 2 == 0) && (k == 5 || k == 6 || wfield ws (6 + o) 5 11 == 0)

/-- Check 6: the cell records (Table 10-5).  A RIDX in a cell that neither fetches nor stores is no reserved bit: no check names it, and the image is accepted
(DESIGN CHOICE, log entry 85). -/
def cellsOk (code : Nat) (im : Image) : Bool :=
  let n := islandW code * islandH code
  decide (im.cells.length ≤ n) && (im.cells.map (·.1)).eraseDups.length == im.cells.length &&
  im.cells.all fun (c, ws) =>
    let op := wfield ws 0 12 6
    decide (c < n) && decide (op ≤ 40) && (sources ws).all (· != 7) && wfield ws 0 31 1 == 0 && outWordOk ws 0 && outWordOk ws 1 &&
    wfield ws 8 2 30 == 0 && wfield ws 9 8 24 == 0 && wfield ws 10 0 32 == 0 && wfield ws 11 0 32 == 0 && (op != 39 || islandKind code == 4)

/-- The queues that cells and input ports feed, one entry for each producer. -/
def fedQueues (code : Nat) (im : Image) : List (Nat × Nat) :=
  (im.ports.filterMap fun w => if w.toNat % 16 < 8 then some (w.toNat / 16 % 2 ^ 12, w.toNat / 2 ^ 16 % 4) else none) ++
  im.cells.flatMap fun c => [0, 1].filterMap fun o =>
    match destOf code im c.1 o with
    | .neighbour d q => some (d, q)
    | .route d q _ => if wfield c.2 (6 + o) 5 11 < im.routes.length then some (d, q) else none
    | _ => none

/-- A rule word keeps R215; `read` are the queues that the operation reads. -/
def ruleOk (ws : List Word) (read : List Nat) (k : Nat) : Bool :=
  if ruleField ws k 31 1 = 0 then ws.getD (2 + k) 0 == 0
  else
    let bit (lo q : Nat) : Bool := ruleField ws k (lo + q) 1 == 1
    (List.range 4).all (fun q => !bit 20 q || bit 16 q) && (List.range 8).all (fun j => !bit 8 j || bit 0 j) &&
    (!bit 24 0 || bit 16 (ruleField ws k 25 2)) && read.all (fun q => bit 16 q)

/-- Check 7: the rules, and that every queue named has a producer (R215). -/
def rulesOk (code : Nat) (im : Image) : Bool :=
  let fed := fedQueues code im
  im.cells.all fun (c, ws) =>
    let srcs := (sources ws).filter (· < 4)
    let read := ((sources ws).take (cellReads (wfield ws 0 12 6))).filter (· < 4)
    let need := (List.range 4).filter fun q => (List.range 4).any fun k => ruleField ws k 31 1 == 1 && ruleField ws k (16 + q) 1 == 1
    (List.range 4).all (ruleOk ws read) && (srcs ++ need).all fun q => fed.contains (c, q)

/-- The cells whose outputs name something of a kind (5 a route, 6 a port) with a number, one entry for each output. -/
def namersOf (im : Image) (kind n : Nat) : List Nat :=
  im.cells.flatMap fun (c, ws) => [0, 1].filterMap fun o => if wfield ws (6 + o) 0 3 = kind ∧ wfield ws (6 + o) 5 11 = n then some c else none

/-- Check 8: the links (R211, R216, R217). -/
def linksOk (code : Nat) (im : Image) : Bool :=
  let has (c : Nat) : Bool := im.cells.any fun x => x.1 == c
  let fed := fedQueues code im
  let outPorts := im.ports.filter fun w => decide (8 ≤ w.toNat % 16)
  (im.cells.all fun (c, ws) => [0, 1].all fun o =>
    let k := wfield ws (6 + o) 0 3
    let ix := wfield ws (6 + o) 5 11
    if k = 0 then true
    else if k ≤ 4 then (match neighbour code c k with | some d => has d | none => false)
    else if k = 5 then decide (ix < im.routes.length) && has (wfield (im.routes.getD ix []) 0 0 12)
    else if k = 6 then decide (8 ≤ ix) && decide (ix ≤ 15) && outPorts.any fun w => w.toNat % 16 == ix
    else false) &&
  fed.eraseDups.length == fed.length &&
  (List.range im.routes.length).all (fun r => (namersOf im 5 r).length == 1) &&
  outPorts.all fun w => namersOf im 6 (w.toNat % 16) == [w.toNat / 16 % 2 ^ 12]

/-- The tile coordinates of a cell (R206). -/
def tileOf (code cell : Nat) : Nat × Nat := (cell % islandW code / 8, cell / islandW code / 8)

/-- A route's hops lead from a tile to a tile, each link where the last ended and each slot the next one (R211). -/
def hopsLead (code : Nat) (goal : Nat × Nat) : Nat × Nat → Option Nat → List (Nat × Nat × Nat) → Bool
  | at_, _, [] => at_ == goal
  | at_, prev, (t, d, slot) :: hs =>
    t == at_.2 * (islandW code / 8) + at_.1 &&
    (match prev with | some p => slot == (p + 1) % 16 | none => true) &&
    (match gridStep (islandW code / 8) (islandH code / 8) d at_ with
      | some p => hopsLead code goal p (some slot) hs
      | none => false)

/-- Check 9: the routes (R211, R216). -/
def routesOk (code : Nat) (im : Image) : Bool :=
  (im.routes.zipIdx).all fun (r, n) =>
    let k := wfield r 0 14 5
    let half (j : Nat) : Nat := wfield r (1 + j / 2) (16 * (j % 2)) 16
    wfield r 0 19 13 == 0 && decide (k ≤ 16) && [9, 10, 11].all (fun j => wfield r j 0 32 == 0) &&
    (List.range 16).all (fun j => half j / 2 ^ 12 == 0 && (decide (j < k) || half j == 0)) &&
    hopsLead code (tileOf code (wfield r 0 0 12)) (tileOf code ((namersOf im 5 n).headD 0)) none (routeHops r)

/-- Check 10: no two routes use one slot of a link. -/
def slotsOk (im : Image) : Bool :=
  let uses := (im.routes.zipIdx).flatMap fun (r, n) => (routeHops r).map fun h => (h, n)
  uses.all fun (h, n) => uses.all fun (g, m) => h != g || n == m

/-- Check 11: the ports (R217). -/
def portsOk (im : Image) (raw : List (List Word)) : Bool :=
  let nos := im.ports.map fun w => w.toNat % 16
  nos.eraseDups.length == nos.length &&
  raw.all fun ws => wfield ws 1 0 32 == 0 && wfield ws 0 18 14 == 0 &&
    (if wfield ws 0 0 4 < 8 then im.cells.any fun c => c.1 == wfield ws 0 4 12 else wfield ws 0 16 2 == 0)

/-- Check 12: the sufficiency table against the depth of 4 (R218). -/
def sufficient (code : Nat) (im : Image) (raw : List (List Word)) : Bool :=
  let fed := fedQueues code im
  let named := raw.map fun ws => (wfield ws 0 0 12, wfield ws 0 12 2)
  named.eraseDups.length == named.length && fed.all named.contains && named.all fed.contains &&
  raw.all fun ws => wfield ws 0 17 15 == 0 && decide (1 ≤ wfield ws 0 14 3) && decide (wfield ws 0 14 3 ≤ 4)

/-- The loader's answer to an image: the code of the first check that fails, or 0 with the image (R220, Table 10-8). -/
def checkImage (s : State) (die code : Nat) (bs : List Byte) : Nat × Image :=
  let im := imageOf bs
  let there := match isleAt s die code with | some i => i.present && !fenced s die | none => false
  let r :=
    if !headerOk bs || imgWord bs 8 != bs.length then 1
    else if !there then 2
    else if !chainOk s bs then 3
    else if !imageSigned bs then 4
    else if !kindOk code bs then 5
    else if !cellsOk code im then 6
    else if !rulesOk code im then 7
    else if !linksOk code im then 8
    else if !routesOk code im then 9
    else if !slotsOk im then 10
    else if !portsOk im (tableWords bs 2) then 11
    else if !sufficient code im (tableWords bs 3) then 12
    else 0
  (r, im)

/-- The loader of a die changed. -/
def modLoader (s : State) (die : Nat) (f : List LoadJob → List LoadJob) : State := modDie s die fun d => { d with loader := f d.loader }

/-- The ISWAP of a loader's job still stands: its crew has it at its instruction, or its image is read (R222). -/
def jobStands (s : State) (j : LoadJob) : Bool :=
  j.image.isSome || (match crewAt s j.crew with | some c => mayIssue s c && (entryAt c j.pc).isSome | none => false)

/-- ISLAND_IMAGE_CHECK (R220, R221): the loader of the die named by `unit` answers its oldest job, once the image of that one is read; an accepted image becomes pending,
and an unbound island switches at once. -/
def execIslandImageCheck (s : State) : Host.Outcome State Fault Refusal :=
  let die := s.unit
  match (dieAt s die).bind fun d => (d.loader.find? fun j => j.answer.isNone && jobStands s j).bind fun j => j.image.map fun bs => (j, bs) with
  | none => noEvent s
  | some (j, bs) =>
    let (r, im) := checkImage s die j.code bs
    let live := match crewAt s j.crew with | some c => !c.ended | none => false
    let s := modLoader s die fun l =>
      if live then l.map fun x => if x == j then { x with answer := some r } else x else l.filter (· != j)
    let s := isleRec s die j.code (if r = 0 then 0 else 1) r im.title
    if r ≠ 0 then .next s
    else
      let s := modIsle s die j.code fun i => { i with shadow := some im }
      match isleAt s die j.code with
      | some i => .next (if i.pasid.isNone then switchIsle s die j.code else s)
      | none => .next s

/-! ### ISWAP -/

/-- Requests to the outside that a wait has made stay made, as do its RETRY records and what a replay gate holds; everything else is as before. -/
def keepAsks (s t : State) : State :=
  { keepRetries s t with walks := t.walks, out := t.out, nextId := t.nextId, biWait := t.biWait
                         crews := s.crews.map fun c => { c with gated := (crewAt t c.id).bind (·.gated) } }

/-- Bytes from a VA, read line by line as `readLine` reads one; a wait leaves no read done. -/
def readLines (c : Crew) (act : Mask) (k : Clock) (s : State) : List (Nat × Nat) → ReadOut
  | [] => .bytes [] s
  | (va, n) :: ls =>
    match readLine s c act k va n true with
    | .stop r => .stop r
    | .bytes bs s1 =>
      match readLines c act k s1 ls with
      | .bytes cs s2 => .bytes (bs ++ cs) s2
      | .stop (.hold t) => .stop (.hold (keepAsks s t))
      | .stop r => .stop r

/-- The pieces of `n` bytes from a VA, one for each 256 B line. -/
def linePieces (va n : Nat) : List (Nat × Nat) :=
  (vlines va n).map fun l => (max va l, min (va + n) (l + 256) - max va l)

/-- The operands of ISWAP: VA and island code, or the trap (R222). -/
def iswapArgs (c : Crew) (a : RCode) : Except Nat (Nat × Nat) :=
  match sysWords c a 3 with
  | .error t => .error t
  | .ok ws =>
    let lo := (ws.getD 0 0).toNat
    let hi := (ws.getD 1 0).toNat
    let isl := (ws.getD 2 0).toNat
    if lo % 16 ≠ 0 then .error trapMisalign
    else if hi / 2 ^ 25 ≠ 0 ∨ 20 ≤ isl then .error trapOperand
    else .ok (hi * 2 ^ 32 + lo, isl)

/-- A crew's job out of its die's loader. -/
def dropJob (die crew : Nat) (s : State) : State := modLoader s die fun l => l.filter fun j => j.crew != crew

/-- The image read for an ISWAP, header first (R222): what is to be loaded, or none where the header fails its check. -/
def readImage (c : Crew) (act : Mask) (k : Clock) (va : Nat) (s : State) : ReadOut × Bool :=
  match readLines c act k s (linePieces va 64) with
  | .stop r => (.stop r, true)
  | .bytes h s1 =>
    if !headerOk h then (.bytes h s1, false)
    else
      match readLines c act k s1 (linePieces (va + 64) (imgWord h 8 - 64)) with
      | .stop (.hold t) => (.stop (.hold (keepAsks s t)), true)
      | .stop r => (.stop r, true)
      | .bytes bs s2 => (.bytes (h ++ bs) s2, true)

/-- The machine of an outcome of the reads of an ISWAP, changed: a wait keeps its place in the loader's line, a trap or a swap-out gives it up (R222). -/
def stopJob (die crew : Nat) : Res → Res
  | .trap t s => .trap t (dropJob die crew s)
  | .lanes fs s => .lanes fs (dropJob die crew s)
  | .moved s => .moved (dropJob die crew s)
  | r => r

/-- The body of ISWAP (R222): its place in the loader's line, the header, the rest of the image, and the loader's answer. -/
def iswapBody (d a : RCode) (x : Ctx) (s : State) : Res :=
  match actor x s with
  | none => .done s
  | some (p, c) =>
    let die := dieOfCore c.core
    let result (s : State) (r : Nat) : Res := .done (modCrew (dropJob die c.id s) c.id (sysResult d p (BitVec.ofNat 32 r)))
    let job := (dieAt s die).bind fun k => k.loader.find? fun j => j.crew == c.id && j.pc == x.pc
    match job.bind (·.answer), iswapArgs c a with
    | some r, _ => result s r
    | none, .error t => .trap t s
    | none, .ok (va, code) =>
      if (job.bind (·.image)).isSome then .hold s
      else
        let s := if job.isSome then s else modLoader s die fun l => l.filter (fun j => j.crew != c.id) ++ [⟨c.id, x.pc, code, none, none⟩]
        let k := (taintClock c ((List.range 3).foldl (fun t i => t ||| (vreg c (a.toNat + i)).taint) 0)).sup c.acq
        match readImage c p.act k va s with
        | (.stop r, _) => stopJob die c.id r
        | (.bytes _ s, false) => result s 1
        | (.bytes bs s, true) => .hold (modLoader s die fun l => l.map fun j => if j.crew == c.id then { j with image := some bs } else j)

/-- ISWAP (R222). -/
def execSysIswap (x : Pfx) (d a : RCode) (s : State) : Host.Outcome State Fault Refusal :=
  issue { i := .sysIswap x d a, ops := [.dst d, .grp a 3], waits := true } (iswapBody d a) s

end Sys2Proof.Machine
end

