-- ==== Sys2Proof/Machine/Save.lean ====
section
/-!
DEFINITION. Save areas (R314-R319): what a swap-out and a pre-emption write, and what a resume takes back.
-/

namespace Sys2Proof.Machine

/-! ### Live maps -/

/-- What a safe point keeps: registers, predicates and records, a bit each (Table 2-10). -/
structure LiveMap where
  regs : Nat
  preds : Nat
  recs : Nat
deriving DecidableEq, Repr

/-- Everything. -/
def LiveMap.all : LiveMap := ⟨2 ^ 60 - 1, 7, 2 ^ 16 - 1⟩

/-- The union of two maps (R315). -/
def LiveMap.or (a b : LiveMap) : LiveMap := ⟨a.regs ||| b.regs, a.preds ||| b.preds, a.recs ||| b.recs⟩

/-- The map of a table entry (Table 2-10). -/
def liveOf (bs : List Byte) : LiveMap :=
  let w (i : Nat) : Nat := num bs (4 * i) 4
  ⟨w 1 + 2 ^ 32 * (w 2 % 2 ^ 28), w 2 / 2 ^ 28 % 8, w 3 % 2 ^ 16⟩

/-- The safe-point table that the task's trace descriptor names, the one that the device can find (R315, R341), read unprivileged (DESIGN CHOICE, log entry 90); none when it
cannot be read. -/
def safeTable (s : State) (core : Nat) (t : Task) : Option (List Byte × Nat) :=
  match peekVa s core t.pasid false (t.rtab + 0x1C0) 12 with
  | none => none
  | some (d, _) =>
    let n := num d 8 4
    match peekVa s core t.pasid false (num d 0 8) (16 * n) with
    | some (bs, _) => some (bs, n)
    | none => none

/-- The pages that `n` bytes lie in. -/
def pagesOf (va n : Nat) (acc : AccKind) : List (Nat × AccKind) :=
  if n = 0 then [] else (List.range ((va + n - 1) / 4096 - va / 4096 + 1)).map fun i => ((va / 4096 + i) * 4096, acc)

/-- The safe-point table can be read now, or never: the trace descriptor's page is at hand, and then those of the table (R46, R65, R246, R315). -/
def tableReady (s : State) (who : WalkFor) (core : Nat) (t : Task) : Bool × State :=
  match pagesReady s who core t.pasid false [(t.rtab + 0x1C0, .read)] with
  | (false, s) => (false, s)
  | (true, s) => match peekVa s core t.pasid false (t.rtab + 0x1C0) 12 with
    | none => (true, s)
    | some (d, s) => pagesReady s who core t.pasid false (pagesOf (num d 0 8) (16 * num d 8 4) .read)

/-- What a safe point keeps: its entry's map; everything where no entry names it. -/
def liveAt (tab : Option (List Byte × Nat)) (pc : Word) : LiveMap :=
  match tab with
  | none => .all
  | some (bs, n) =>
    match (List.range n).find? fun i => num bs (16 * i) 4 == pc.toNat with
    | some i => liveOf (cut bs (16 * i) 16)
    | none => .all

/-- What a crew keeps at pre-emption: the union over its entries and stacked records (R315). -/
def crewLive (s : State) (c : Crew) : LiveMap :=
  match taskOf s c with
  | none => .all
  | some t =>
    let tab := safeTable s c.core t
    (c.entries ++ stackRecs s c).foldl (fun m e => m.or (liveAt tab e.pc)) ⟨0, 0, 0⟩

/-! ### A crew section -/

/-- The word of an error mark (Table 14-6). -/
def ErrMark.bits : ErrMark → Nat
  | .none => 0 | .access => 1 | .soft => 2

/-- The error mark of a field (Table 14-6). -/
def markOf : Nat → ErrMark
  | 1 => .access | 2 => .soft | _ => .none

/-- BATCHES (Table 14-6). -/
def batchWord (c : Crew) : Nat :=
  c.nextBatch % 8 + 2 ^ 3 * boolBits (c.sealed.take 8) +
  ((List.range 8).map fun n => 2 ^ (11 + 2 * n) * (c.batchErr.getD n .none).bits).sum + 2 ^ 27 * c.openErr.bits

/-- FLAGS (Table 14-6); `pre` for a pre-emption. -/
def crewFlags (s : State) (c : Crew) (pre : Bool) : Nat :=
  (if c.ended then 0 else 1) + (if c.priv then 2 else 0) + (if c.susp then 4 else 0) + (if pre then 8 else 0) +
  (match setOf s c with
    | some (n, r, _) => 2 ^ 4 + 2 ^ 5 * n + 2 ^ 8 * r
    | none => 0)

/-- The operand-log entry, or zeros (Table 14-7). -/
def logBytes : Option LogEntry → List Byte
  | none => []
  | some e =>
    let q := e.req
    leSplit 4 (1 + 2 * q.done + 2 ^ 5 * (q.slot.getD 0 % 8) + (if q.slot.isSome then 2 ^ 8 else 0)) ++
    wordsBytes [q.pc, q.iword, q.lit, q.act, BitVec.ofNat 32 q.images.length] ++ leSplit 16 q.record.toNat ++
    List.replicate 24 0 ++ q.images.flatMap regImage

/-- The registers that a section packs, in ascending order: v0 to v(REGS - 1), and of a crew in its handler v48 to v59 too, which it owns (R121, R314, R319;
DEDUCED, log entry 62). -/
def packedRegs (regsN : Nat) (priv : Bool) : List Nat := (List.range 60).filter fun i => decide (i < regsN) || (priv && decide (48 ≤ i))

/-- A register as it is packed; the marker where it is not saved (R319). -/
def packReg (m : LiveMap) (i : Nat) (r : Reg) : List Byte :=
  if m.regs.testBit i then wordsBytes (tagWord r :: recordWords r) else wordBytes 0x80000000

/-- The crew section without its trap frame (Table 14-6); `m` says what it keeps. -/
def sectionBytes (s : State) (c : Crew) (regsN : Nat) (pre : Bool) (m : LiveMap) : List Byte :=
  let stack := stackRecs s c
  let lv := if pre then 0 else boolBits (c.lvalid.take 3)
  let logged (k : Nat) : Bool := match c.log with | some e => e.req.slot == some k | none => false
  padTo 0x60 (leSplit 4 (crewFlags s c pre) ++ wordsBytes [c.live, sectMask c] ++ leSplit 4 (c.hash.toNat % 2 ^ 32) ++
    leSplit 4 (c.entries.length + 2 ^ 4 * stack.length + (if c.log.isSome then 2 ^ 11 else 0) + 2 ^ 12 * c.faults.length + 2 ^ 18 * lv) ++
    leSplit 4 (c.hash.toNat / 2 ^ 32) ++ wordsBytes (clockWords c.floor) ++ wordsBytes (clockWords (c.hist.sup c.acq)) ++
    leSplit 8 (batchWord c) ++ (List.range 3).flatMap fun k => if m.preds.testBit k then wordBytes (c.pred.getD k 0) else leSplit 4 0) ++
  wordsBytes (laneIds.map fun l => (c.sect.getD l none).getD 0) ++
  ((List.range 8).flatMap fun k => slotBytes c k (logged k)) ++
  padTo 128 (c.entries.flatMap fun e => wordsBytes (entryWords e)) ++
  ((List.range 16).flatMap fun i =>
    if m.recs.testBit i then leSplit 16 (recAt c i).bits.toNat ++ leSplit 4 (64 * (recAt c i).taint.toNat) else leSplit 20 0) ++
  padTo 512 (c.faults.flatMap faultBytes) ++
  padTo 1024 (stack.flatMap fun e => wordsBytes (entryWords e)) ++
  padTo 400 (if pre then [] else (List.range 3).flatMap fun k => regImage (c.latch.getD k Reg.zero)) ++
  padTo 1536 (logBytes c.log) ++
  padTo 0x2ED0 ((packedRegs regsN c.priv).flatMap fun i => packReg m i (vreg c i))

/-- The section of a crew index that has no crew. -/
def noSection : List Byte := List.replicate 0x4000 0

/-! ### The block header and the queue registers -/

/-- Another block of the task holds the core (R224). -/
def othersHold (s : State) (b : Block) : Bool := s.blocks.any fun x => x.id != b.id && x.task == b.task && x.core == b.core && holdsCore x

/-- Queue registers of a core that are bound to a task. -/
def taskQueues (s : State) (core task : Nat) : List Nat := (List.range 16).filter fun n => (queueAt s core n).bound && (queueAt s core n).task == task

/-- The 136 bytes of a queue entry (Table 14-4). -/
def entryBytes (e : QEntry) : List Byte := wordsBytes (e.words ++ [e.valid, e.errs])

/-- The 48 bytes of a held copy (Table 14-5); word 1 counts the units moved, wherever they lie. -/
def copyBytes (s : State) (k : Copy) : List Byte :=
  let ci := match crewAt s k.crew with | some c => c.index | none => 0
  padTo 48 (leSplit 4 (k.dir % 4 + 2 ^ 2 * ci + 2 ^ 7 * k.batch.getD 0 + 2 ^ 10 + (if k.batch.isNone then 2 ^ 11 else 0)) ++
    leSplit 4 k.moved ++ wordsBytes [k.index, k.localAddr, BitVec.ofNat 32 k.bytes, k.barrier] ++ leSplit 16 k.record.toNat)

/-- Queue registers that a block's save takes: those of its task when no other block holds the core and its streams are quiet; none for a
formed crew (R231, R307). -/
def savedQueues (s : State) (b : Block) : List Nat :=
  if b.formed.isSome || othersHold s b || !blockQuiet s b then [] else taskQueues s b.core b.task

/-- The copies that a block's save area holds, in its order (R107, Table 14-5). -/
def savedCopies (s : State) (b : Block) : List Copy := (s.copies.filter fun k => k.block == b.id).take 64

/-- The first 0x6000 bytes of a save area (Tables 14-4 and 14-5). -/
def headerBytes (s : State) (b : Block) (pre : Bool) : List Byte :=
  let mine := taskQueues s b.core b.task
  let qs := savedQueues s b
  let ks := savedCopies s b
  padTo 0x1000 (
    padTo 0x20 (wordsBytes [0x45565342,
        BitVec.ofNat 32 ((if pre then 1 else 2) + (if blockQuiet s b then 0 else 4) + 2 ^ 3 * b.core),
        BitVec.ofNat 32 (b.crews + 2 ^ 6 * b.regsN), BitVec.ofNat 32 b.asBytes, BitVec.ofNat 32 b.wsBytes, BitVec.ofNat 32 ks.length,
        BitVec.ofNat 32 ((qs.map fun n => 2 ^ n).sum)]) ++
    (List.range 8).flatMap (fun n => match b.sets.getD n none with
      | some g => leSplit 4 (1 + (if g.complete then 2 else 0) + 4 * g.expected)
      | none => leSplit 4 0) ++
    padTo 128 (b.bands.flatMap fun v => leSplit 2 v.toNat) ++
    padTo 0x340 ((List.range 16).flatMap fun n => if mine.contains n then wordBytes (queueStatus s b.core (queueAt s b.core n)) else leSplit 4 0) ++
    ks.flatMap (copyBytes s)) ++
  padTo 0x5000 ((List.range 16).flatMap fun n =>
    padTo 0x440 (if qs.contains n then (queueAt s b.core n).entries.flatMap entryBytes else []))

/-- The address of a block's crew section. -/
def sectionVa (s : State) (b : Block) (i : Nat) : Nat := saveArea s b + 0x6000 + 0x5000 * i

/-- The bytes of a block's save with their VAs (R314, R318; DEDUCED, log entry 26). -/
def saveBytes (s : State) (b : Block) (pre : Bool) : List (Nat × Byte) :=
  let va := saveArea s b
  let crew (i : Nat) : Option Crew := s.crews.find? fun c => c.block == b.id && c.index == i
  addrs va (headerBytes s b pre) ++
  (List.range b.crews).flatMap (fun i => addrs (sectionVa s b i) (match crew i with
    | some c => if c.ended && c.log.isNone then noSection else sectionBytes s c b.regsN pre (if pre then crewLive s c else .all)
    | none => noSection)) ++
  addrs (sectionVa s b b.crews) (readBytes b.aStore 0 b.asBytes ++ readBytes b.wStore 0 b.wsBytes)

/-- Pages of a save area. -/
def savePages (s : State) (b : Block) (acc : AccKind) : List (Nat × AccKind) :=
  pagesOf (saveArea s b) (0x6000 + 0x5000 * b.crews + b.asBytes + b.wsBytes) acc

/-! ### What leaves a core -/

/-- The island is not bound by any queue register of its die (R221). -/
def islandFree (s : State) (die code : Nat) : Bool :=
  s.cores.all fun c => dieOfCore c.id != die || c.queues.all fun q => !(q.bound && q.island == code)

/-- Queue registers of a task leave a core, and islands that nothing binds any more switch (R221, R224). -/
def releaseQueues (s : State) (core task : Nat) : State :=
  let isls := ((taskQueues s core task).map fun n => (queueAt s core n).island).eraseDups
  let s := modCore s core fun c => { c with queues := c.queues.map fun q => if q.bound && q.task == task then Queue.unbound else q }
  isls.foldl (fun s i => if islandFree s (dieOfCore core) i then switchIsle s (dieOfCore core) i else s) s

/-- What a task holds on a core: its shape records while some block of it is resident, its queue registers while some block of it holds the core
(R189, R224, R231). -/
def leaveCore (s : State) (core task : Nat) : State :=
  dropShapes (if s.blocks.any fun x => x.task == task && x.core == core && holdsCore x then s else releaseQueues s core task) core task

/-! ### Resume -/

/-- The slots of a crew section, and whether each waits in the log (R319). -/
def loadSlot (bs : List Byte) (logged : Bool) : LSlot :=
  let w := num bs 24 4
  if w / 2 % 2 = 1 then ⟨w % 2 == 1, logged, w / 4 % 8, if logged then clockOf bs else Clock.zero⟩ else ⟨w % 2 == 1, false, w / 4 % 8, clockOf bs⟩

/-- The fault record of 16 bytes (Table 14-2). -/
def faultOf (bs : List Byte) : FaultRec :=
  let w := num bs 0 4
  ⟨w % 256, w / 2 ^ 8 % 2 == 1, w / 2 ^ 9 % 2 == 1, w / 2 ^ 10 % 2 == 1, w / 2 ^ 11 % 2 == 1, BitVec.ofNat 32 (num bs 4 4),
    (num bs 8 4 + 2 ^ 32 * (num bs 12 4 % 2 ^ 25)) / 4096⟩

/-- The registers of the given numbers unpacked in order; the marker and a reserved tag word give the crew-start state (R120, R315, R319). -/
def unpackRegs : List Nat → List Byte → List Reg → List Reg
  | [], _, rs => rs
  | i :: is, bs, rs =>
    match regOfImage (bs.take 132) with
    | some r => unpackRegs is (bs.drop (4 + 4 * (recordWords r).length)) (rs.set i r)
    | none => unpackRegs is (bs.drop 4) (rs.set i Reg.zero)

/-- The operand-log entry of a section (R317); `priv` says whether a slot, if it has one, was taken in a privileged context (R321). -/
def loadLog (bs : List Byte) (live : Mask) (k : Clock) (priv : Option Nat → Bool) : Option LogEntry :=
  let w := num bs 0 4
  if w % 2 = 0 then none
  else
    let act : Mask := BitVec.ofNat 32 (num bs 16 4)
    let slot := if w / 2 ^ 8 % 2 = 1 then some (w / 2 ^ 5 % 8) else none
    some { req := { pc := BitVec.ofNat 32 (num bs 4 4), iword := BitVec.ofNat 32 (num bs 8 4), lit := BitVec.ofNat 32 (num bs 12 4), act := act
                    done := w / 2 % 16, record := BitVec.ofNat 128 (num bs 24 16)
                    images := (List.range (min 11 (num bs 20 4 % 16))).map fun i => (regOfImage (cut bs (64 + 132 * i) 132)).getD Reg.zero
                    slot := slot }
           lines := [], clock := k, full := live &&& ~~~act == 0, priv := priv slot, sampled := false }

/-- The crew that a section gives back (R317, Table 14-6).  The save area keeps no order of issue behind the error marks: a held copy that fails later
leaves a mark that was saved (R110; DESIGN CHOICE, log entry 63).  A crew in its handler holds the buffer entries of its trap frame again (R269). -/
def loadCrew (c : Crew) (regsN core slot : Nat) (bs : List Byte) : Crew :=
  let flags := num bs 0 4
  let counts := num bs 0x10 4
  let live : Mask := BitVec.ofNat 32 (num bs 4 4)
  let ord : Mask := BitVec.ofNat 32 (num bs 8 4)
  let floor := clockOf (cut bs 0x18 24)
  let hist := clockOf (cut bs 0x30 24)
  let bw := num bs 0x48 4
  let priv := flags / 2 % 2 == 1
  let inHandler : Option Nat → Bool
    | some k => priv && c.newSlots.getLsbD k
    | none => priv
  let log := if counts / 2 ^ 11 % 2 = 1 then loadLog (cut bs 0xB30 1536) live (hist.sup floor) inHandler else none
  let logged (k : Nat) : Bool := match log with | some e => e.req.slot == some k | none => false
  { c with
    core := core, slot := slot, live := live, ended := flags % 2 == 0, priv := priv, susp := flags / 4 % 2 == 1
    sect := laneIds.map fun l => if laneIn ord l then some (BitVec.ofNat 32 (num bs (0x60 + 4 * l) 4)) else none
    hash := BitVec.ofNat 64 (num bs 0x0C 4 + 2 ^ 32 * num bs 0x14 4), floor := floor, hist := hist, acq := hist, acqWait := false
    nextBatch := bw % 8, sealed := (List.range 8).map fun n => bw / 2 ^ (3 + n) % 2 == 1
    batchErr := (List.range 8).map fun n => markOf (bw / 2 ^ (11 + 2 * n) % 4), openErr := markOf (bw / 2 ^ 27 % 4), errIds := List.replicate 9 0
    pred := (List.range 3).map fun k => BitVec.ofNat 32 (num bs (0x50 + 4 * k) 4)
    slots := (List.range 8).map fun k => loadSlot (cut bs (0xE0 + 32 * k) 32) (logged k)
    entries := mergeAll ((List.range (min 8 (counts % 16))).map fun i => entryOfBytes (cut bs (0x1E0 + 16 * i) 16))
    recs := (List.range 16).map fun i => ⟨BitVec.ofNat 128 (num bs (0x260 + 20 * i) 16), BitVec.ofNat 9 (num bs (0x270 + 20 * i) 4 / 64)⟩
    faults := ((List.range (min 32 (counts / 2 ^ 12 % 2 ^ 6))).map fun i => faultOf (cut bs (0x3A0 + 16 * i) 16)).filter (·.refused)
    latch := (List.range 3).map fun k => (regOfImage (cut bs (0x9A0 + 132 * k) 132)).getD Reg.zero
    lvalid := (List.range 3).map fun k => counts / 2 ^ (18 + k) % 2 == 1
    regs := unpackRegs (packedRegs regsN priv) (bs.drop 0x1130) (List.replicate 60 Reg.zero), log := log, near := [], seen := [], gated := none, rdv := [], idle := false, nrec := 0
    kept := if priv then min 8 (num bs 0x4018 4 % 16) else 0 }

/-- The stacked records of a section (Table 14-6). -/
def loadStack (bs : List Byte) : List Entry :=
  (List.range (min 64 (num bs 0x10 4 / 2 ^ 4 % 2 ^ 7))).map fun i => entryOfBytes (cut bs (0x5A0 + 16 * i) 16)

/-- A crew of a block taken back from its section, with its stack on the new core. -/
def restoreCrew (s : State) (b : Block) (core slot : Nat) (c : Crew) (bs : List Byte) : State :=
  let c := loadCrew c b.regsN core slot bs
  let s := setCrew s c
  match loadStack bs with
  | [] => s
  | es => putStack s c es

/-- The sets of a header with the members that the crews' flags name, in rank order (Tables 14-5 and 14-6). -/
def loadSets (h : List Byte) (crews : List (Nat × Nat)) : List (Option CrewSet) :=
  (List.range 8).map fun n =>
    let w := num h (0x20 + 4 * n) 4
    if w % 2 = 0 then none
    else
      let mine (r : Nat) : Option Nat := (crews.find? fun c => c.2 / 2 ^ 4 % 2 == 1 && c.2 / 2 ^ 5 % 8 == n && c.2 / 2 ^ 8 % 8 == r).map (·.1)
      some ⟨w / 4 % 16, w / 2 % 2 == 1, (List.range 8).filterMap mine⟩

/-- A clock that covers every write performed so far (DEDUCED, log entry 26). -/
def allWrites (s : State) : Clock :=
  ⟨(match dieAt s 0 with | some d => d.count | none => 0), (match dieAt s 1 with | some d => d.count | none => 0), s.hostCount⟩

/-- Saved entries of a queue register, behind those that the register holds (R231). -/
def loadQueue (s : State) (core n : Nat) (h : List Byte) : State :=
  let k := min 8 (num h (0xC0 + 4 * n) 4 % 16)
  let es := (List.range k).map fun e =>
    let b := cut h (0x1000 + 0x440 * n + 136 * e) 136
    (⟨wordsOf 32 b, BitVec.ofNat 32 (num b 128 4), BitVec.ofNat 32 (num b 132 4), allWrites s⟩ : QEntry)
  modQueue s core n fun q => { q with entries := q.entries ++ es }

/-- Held copy `n` of a header (Table 14-5): it goes on after what its crew goes on after.  The area counts the units that have moved and not which they are;
those that moved ahead of others are the ones that the device recorded at the save (DESIGN CHOICE, log entry 59).  Its remaining units translate with the
privilege that its crew has at the resume, since the area saves none (DESIGN CHOICE, log entry 75).-/
def loadCopy (s : State) (b : Block) (core n : Nat) (bs : List Byte) : State :=
  let w := num bs 0 4
  match s.crews.find? fun c => c.block == b.id && c.index == w / 4 % 32 with
  | none => s
  | some c =>
    if w / 2 ^ 10 % 2 = 0 then s
    else
      let note := b.copyNotes.getD n ⟨0, [], [], []⟩
      { s with nextId := s.nextId + 1
               copies := s.copies ++ [
                 { id := s.nextId, crew := c.id, block := b.id, core := core, dir := w % 4, index := BitVec.ofNat 32 (num bs 8 4)
                   localAddr := BitVec.ofNat 32 (num bs 12 4), bytes := num bs 16 4, barrier := BitVec.ofNat 32 (num bs 20 4)
                   record := BitVec.ofNat 128 (num bs 24 16)
                   clock := if w % 4 = 2 then crewClock c else (crewClock c).sup c.copyAcq, batch := if w / 2 ^ 11 % 2 = 1 then none else some (w / 2 ^ 7 % 8)
                   next := num bs 4 4 - note.ahead.length, ahead := note.ahead, denied := note.denied, sliced := note.sliced, held := false, failed := .none, priv := c.priv }] }

/-- The crew section `i` of a save area, with its trap frame. -/
def sectionOf (bs : List Byte) (i : Nat) : List Byte := cut bs (0x6000 + 0x5000 * i) 0x5000

/-- A block's save area holds stacked records, which its core has nowhere to put while EN is 0 (R271). -/
def stackless (s : State) (b : Block) (bs : List Byte) : Bool :=
  (stackBase s b.core).isNone && (List.range b.crews).any fun i => !(loadStack (sectionOf bs i)).isEmpty

/-- Instruction-buffer entries that the crews of a block hold once its save area has been taken back. -/
def sectionEntries (s : State) (b : Block) (bs : List Byte) : List Nat :=
  (s.crews.filter fun c => c.block == b.id).map fun c => bufEntries (loadCrew c b.regsN b.core c.slot (sectionOf bs c.index))

/-- The crews of a block, which hold these entries, start on its core with no more than its 128 in use: two at least for each crew there that has started, and for each
of theirs (R269; DEDUCED, log entry 79). -/
def buffersFit (s : State) (b : Block) (mine : List Nat) : Bool :=
  let started (c : Crew) : Bool := match blockOf s c with
    | some x => x.id != b.id && x.state != .waking
    | none => false
  let there := (s.crews.filter fun c => c.core == b.core && resident s c && started c).map bufEntries
  decide (((there ++ mine).map (max 2)).sum ≤ 128)

/-- A resumed block taken back from its save area, which its core has just read: crews, sets, band scales, stores, queue entries and copies
(R317). -/
def loadBlock (s : State) (b : Block) (slots : List Nat) (bs : List Byte) : State :=
  let sec := sectionOf bs
  let mine := (s.crews.filter fun c => c.block == b.id).map fun c => (c, slots.getD c.index 0)
  let s := mine.foldl (fun s (c, k) =>
    if c.ended && num (sec c.index) 0x10 4 / 2 ^ 11 % 2 == 0 then s else restoreCrew s b b.core k c (sec c.index)) s
  let at_ := 0x6000 + 0x5000 * b.crews
  let s := modBlock s b.id fun b =>
    { b with sets := loadSets bs (mine.map fun (c, _) => (c.id, num (sec c.index) 0 4))
             bands := if b.formed.isSome then [] else (List.range 64).map fun i => BitVec.ofNat 16 (num bs (0x40 + 2 * i) 2)
             aStore := writeBytes [] 0 (cut bs at_ b.asBytes), wStore := writeBytes [] 0 (cut bs (at_ + b.asBytes) b.wsBytes) }
  let s := (List.range 16).foldl (fun s n =>
    if num bs 0x18 4 / 2 ^ n % 2 = 1 ∧ (queueAt s b.core n).bound ∧ (queueAt s b.core n).task = b.task then loadQueue s b.core n bs else s) s
  (List.range (min 64 (num bs 0x14 4 % 128))).foldl (fun s k => loadCopy s b b.core k (cut bs (0x400 + 48 * k) 48)) s

end Sys2Proof.Machine
end

