-- ==== Sys2Proof/Machine/Sched.lean ====
section
/-!
DEFINITION. Tasks (chapter 13): task control blocks, submission, readiness, retirement and its successors, TASK_KILL, and SPAWN.
-/

namespace Sys2Proof.Machine

/-! ### Task control blocks -/

/-- The task that a control block describes (Tables 13-1 and 13-2). -/
def tcbTask (bs : List Byte) (no tcb die : Nat) (acq : Clock) : Task :=
  let w (o : Nat) : Nat := num bs o 4
  let ctl := w 0x0C
  let bd := w 0x1C
  let res := w 0x20
  { no := no, tcb := tcb, text := num bs 0 8, entry := BitVec.ofNat 32 (w 8), cls := ctl % 4, affinity := ctl / 4 % 4
    signal := ctl / 2 ^ 4 % 2 == 1, queue := ctl / 2 ^ 6 % 16, frame := ctl / 2 ^ 16, grid := (w 0x10, w 0x14, w 0x18)
    bdim := (bd % 2 ^ 10 + 1, bd / 2 ^ 10 % 2 ^ 10 + 1, bd / 2 ^ 20 % 2 ^ 10 + 1), crews := res % 2 ^ 6, regsN := res / 2 ^ 6 % 2 ^ 6
    baros := res / 2 ^ 12 % 2 ^ 7, fslots := res / 2 ^ 19, asBytes := w 0x24, wsBytes := w 0x28, pasid := w 0x2C % 2 ^ 20
    tenant := w 0x2C / 2 ^ 20 % 16, traph := BitVec.ofNat 32 (w 0x5C), save := num bs 0x60 8, savestr := w 0x68, nrec := w 0x6C % 32
    bind := w 0x6C / 2 ^ 5 % 2 == 1, nshape := w 0x6C / 2 ^ 12, rtab := num bs 0x70 8, binding := none, state := .ready, err := 0
    trapCode := 0, next := 0, waited := 0, acq := acq, succ := (List.range (min 8 (w 0x34 % 16))).map fun i => w (0x38 + 4 * i) % 2 ^ 29 * 128
    ovf := (w 0x58 * 16, w 0x34 / 2 ^ 4 % 2 ^ 12), ask := none, refused := false, die := die }

/-- The bytes of save area that a block of the task needs (R318). -/
def Task.saveSize (t : Task) : Nat := (0x6000 + 0x5000 * t.crews + t.asBytes + t.wsBytes + 4095) / 4096 * 4096

/-- The die that a task's affinity names; none for "any" (Table 13-2). -/
def Task.only (t : Task) : Option Nat :=
  match t.affinity with
  | 0 => some 0
  | 1 => some 1
  | 2 => none
  | _ => some (t.frame % 2)

/-- The dies that may place the task's blocks. -/
def taskDies (s : State) (t : Task) : List Nat :=
  match t.only with
  | some d => [d]
  | none => [0, 1].filter fun d => !fenced s d

/-- A reserved bit is set in the control block, or a field that has few values holds another (R289). -/
def tcbReserved (bs : List Byte) : Bool :=
  let w (o : Nat) : Nat := num bs o 4
  let ctl := w 0x0C
  ctl / 2 ^ 5 % 2 != 0 || ctl / 2 ^ 10 % 2 ^ 6 != 0 || w 0x1C / 2 ^ 30 != 0 || w 0x2C / 2 ^ 24 != 0 || w 0x30 / 2 ^ 19 != 0 ||
  w 0x34 / 2 ^ 16 != 0 || decide (8 < w 0x34 % 16) || (List.range 8).any (fun i => w (0x38 + 4 * i) / 2 ^ 29 != 0) ||
  w 0x6C / 2 ^ 6 % 2 ^ 6 != 0

/-- The control block is malformed (R289). -/
def malformed (s : State) (bs : List Byte) (t : Task) : Bool :=
  let (gx, gy, gz) := t.grid
  let (bx, byy, bz) := t.bdim
  tcbReserved bs || t.text % 256 != 0 || decide (2 ^ 57 ≤ t.text) || gx == 0 || gy == 0 || gz == 0 ||
  t.crews == 0 || decide (32 < t.crews) || t.regsN == 0 || decide (60 < t.regsN) || decide (64 < t.baros) ||
  t.asBytes % 1024 != 0 || decide (2 ^ 18 < t.asBytes) || t.wsBytes % 16384 != 0 || decide (2 ^ 18 < t.wsBytes) ||
  t.save % 4096 != 0 || decide (2 ^ 57 ≤ t.save) || t.savestr % 4096 != 0 || decide (16 < t.nrec) ||
  t.rtab % 256 != 0 || decide (2 ^ 57 ≤ t.rtab) || decide (32 * t.crews < bx * byy * bz) || decide (t.asBytes < 8 * t.baros) ||
  decide (t.savestr < t.saveSize) || (match t.only with | some d => fenced s d | none => false) ||
  decide (2 ^ 32 < t.total) || decide (2 ^ 57 < t.save + (t.total + t.fslots) * t.savestr)

/-! ### Submission -/

/-- The class that a queue of a die serves (Table 13-6). -/
def queueClass (s : State) (die n : Nat) : Nat := match dieAt s die with | some d => (d.sqCtl.getD n 0).toNat / 2 % 4 | none => 0

/-- An allowed die has an enabled core (R297). -/
def hasCore (s : State) (t : Task) : Bool := s.cores.any fun c => c.enabled && (taskDies s t).contains (dieOfCore c.id) && !fenced s (dieOfCore c.id)

/-- The link words of tasks in their STATUS while they are queued: the spec gives them no layout (R289, R290; DESIGN CHOICE, log entry 27). -/
def linkTasks (s : State) (die : Nat) (nos : List Nat) : State :=
  nos.foldl (fun s no =>
    match taskAt s no with
    | some t => let (ws, s) := freeWords s 1
                poke s die (t.tcb + 0x78) (wordBytes (ws.headD 0))
    | none => s) s

/-- A ready task is appended by a die to its queue on each allowed die, linked behind the last task there, or ends with NOFIT or CLASS (R290, R291, R297). -/
def enqueue (s : State) (die no : Nat) : State :=
  match taskAt s no with
  | none => s
  | some t =>
    let ds := taskDies s t
    if !hasCore s t then endTask s no 2 0
    else if ds.any fun d => queueClass s d t.queue != t.cls then endTask s no 3 0
    else
      let tails := ((s.dies.filter fun d => ds.contains d.id).filterMap fun d => (d.queues.getD t.queue []).getLast?).eraseDups
      let s := linkTasks s die (tails ++ [no])
      { s with dies := s.dies.map fun d =>
          if ds.contains d.id then { d with queues := d.queues.set t.queue (d.queues.getD t.queue [] ++ [no]) } else d }

/-- A task leaves its queues with its last block placed by a die; its STATUS holds no link any more (R297; DESIGN CHOICE, log entry 27). -/
def unqueue (s : State) (die : Nat) (t : Task) : State :=
  poke { s with dies := s.dies.map fun d => { d with queues := d.queues.map fun q => q.filter (· != t.no) } } die (t.tcb + 0x78) (leSplit 4 0)

/-- PREDS with a new count and state, written by a die. -/
def putPreds (s : State) (die tcb pred st : Nat) : State := poke s die (tcb + 0x30) (leSplit 4 (pred + 2 ^ 16 * st))

/-- What a submission comes to. -/
inductive Submitted where
  | busy (s : State)
  | accepted (s : State)
  /-- The control block's sectors cannot be changed yet (R46, R65). -/
  | wait (s : State)
deriving Repr

/-- A free task takes the next number, its STATUS and its STATE; one that cannot run ends at once (R291, Table 13-4).  `core` submits it, or a die under the number of
its islands. -/
def accept_ (s : State) (bs : List Byte) (tcb core : Nat) (acq : Clock) : State :=
  let no := s.taskCount
  let die := dieOfCore core
  let preds := num bs 0x30 4
  let pred := preds % 2 ^ 16
  let t := tcbTask bs no tcb die (acq.sup (sget Clock.zero s.predClk tcb))
  let bad := decide (6 ≤ preds / 2 ^ 16 % 8) || malformed s bs t
  let s := pokeVia s core none (addrs (tcb + 0x78) (leSplit 4 0 ++ leSplit 4 no))
  let s := pokeVia s core none (addrs (tcb + 0x30) (leSplit 4 (pred + 2 ^ 16 * (if pred = 0 then 2 else 1))))
  let t := { t with state := if pred = 0 then .ready else .waiting }
  let s := { s with taskCount := no + 1, tasks := s.tasks ++ [t], predClk := sput Clock.zero s.predClk tcb Clock.zero }
  if bad then endTask s no 1 0
  else if pasidLookup s t.pasid == .bad then endTask s no 7 0
  else
    let s := startRegion s t
    if pred = 0 then enqueue s die no else s

/-- A submission of the control block at a DPA by a core, or received by a die under the number of its islands, ordered after a clock: one indivisible update of PREDS
(R291; DEDUCED, log entry 27). -/
def submit (s : State) (tcb core : Nat) (acq : Clock) : Submitted :=
  let secs := [tcb / 64, tcb / 64 + 1]
  let pasid := peek s (tcb + 0x2C) 4 % 2 ^ 20
  if sectorsBarred s core secs || pasidAway s core pasid || !(pasidHeld s pasid).isEmpty then
    .wait (retryOwn (askHost s (secs ++ pasidHeld s pasid)) core [tcb / 256])
  else
    let bs := readBytes s.mem tcb 128
    let st := num bs 0x30 4 / 2 ^ 16 % 8
    if 1 ≤ st ∧ st ≤ 3 then .busy s else .accepted (accept_ s bs tcb core acq)

/-- BUSY of a queue's status register is set (R291). -/
def setBusy (s : State) (die n : Nat) : State := modDie s die fun d => { d with sqBusy := d.sqBusy.set n true }

/-- A doorbell carried out, or kept until the control block's sectors can be changed (R46, R65, R290, R291). -/
def runPush (s : State) (die : Nat) (p : Nat × Nat) : State :=
  if badDpa s p.2 then setBusy s die p.1
  else
    match submit s p.2 (isleUnit die) (allWrites s) with
    | .busy s => setBusy s die p.1
    | .accepted s => s
    | .wait s => modDie s die fun d => { d with pushes := d.pushes ++ [p] }

/-- Doorbells that wait are carried out in order. -/
def runPushes (s : State) : State :=
  s.dies.foldl (fun s d => d.pushes.foldl (fun s p => runPush s d.id p) (modDie s d.id fun d => { d with pushes := [] })) s

/-- SQ_PUSH: a doorbell write (R290). -/
def execSqPush (die n : Nat) (v : BitVec 64) (s : State) : Host.Outcome State Fault Refusal :=
  if 16 ≤ n ∨ (dieAt s die).isNone then noEvent s
  else hostDoes s fun s => runPush s die (n, v.toNat % 2 ^ 29 * 128)

/-- TASK_KILL: a ready or running task ends with KILLED (R293). -/
def execTaskKill (die : Nat) (v : BitVec 64) (s : State) : Host.Outcome State Fault Refusal :=
  if (dieAt s die).isNone then noEvent s
  else hostDoes s fun s =>
    match s.tasks.find? fun t => t.tcb == v.toNat % 2 ^ 29 * 128 && (t.state == .ready || t.state == .running) with
    | some t => endTask s t.no 5 0
    | none => s

/-! ### SPAWN -/

/-- The TCB address that SPAWN's registers hold, or the trap (R302). -/
def spawnArgs (c : Crew) (a : RCode) : Except Nat Nat :=
  match sysWords c a 2 with
  | .error t => .error t
  | .ok ws =>
    let lo := (ws.getD 0 0).toNat
    let hi := (ws.getD 1 0).toNat
    if hi / 2 ^ 25 ≠ 0 then .error trapOperand
    else if lo % 128 ≠ 0 then .error trapMisalign
    else .ok (hi * 2 ^ 32 + lo)

/-- What SPAWN writes in the lanes of act (R302). -/
def spawnResult (x : Ctx) (d : RCode) (v : Word) (s : State) : State :=
  x.parts.foldl (fun s p => if p.act = 0 then s else modCrew s p.crew (sysResult d p v)) s

/-- SPAWN after its operands: a fabric-scope release, the translation, and the submission (R302). -/
def spawnAt (x : Ctx) (d : RCode) (p : Part) (c : Crew) (va : Nat) (s : State) : Res :=
  match releaseNow s c 2 with
  | (false, s) => .hold s
  | (true, s) =>
    match xlateFor s (.wait c.id) c.core (pasidOf s c) va .read c.priv with
    | (.miss, s) => .hold s
    | (.access, s) => .lanes [(c.id, [pageRec trapAccess p.act va])] (forget s (.wait c.id))
    | (.fault, s) =>
      if faultRefused s c.core (pasidOf s c) then .lanes [(c.id, [pageRec trapAccess p.act va])] (forget s (.wait c.id))
      else .moved (pageFault (forget s (.wait c.id)) c false [pageRec 0 p.act va])
    | (.hit pk _, s) =>
      if hostBase ≤ pk then .lanes [(c.id, [pageRec trapAccess p.act va])] s
      else if pinnedElsewhere s c.core (pk / 256) then .hold (retryCrew s c.id (pk / 256))
      else if linkBars s c.core (pk / 256) then .hold s
      else
        let k := crewClock ((crewAt s c.id).getD c)
        match submit (writeBack s c.core (pk / 256)) pk c.core k with
        | .wait s => .hold s
        | .busy s => .done (spawnResult x d 1 s)
        | .accepted s => .done (spawnResult x d 0 s)

/-- SPAWN (R302). -/
def execSpawn (x : Pfx) (d a : RCode) (s : State) : Host.Outcome State Fault Refusal :=
  issue { i := .spawn x d a, ops := [.dst d, .grp a 2], waits := true }
    (fun u s => match actor u s with
      | none => .done s
      | some (p, c) => match spawnArgs c a with
        | .error t => .trap t s
        | .ok va => spawnAt u d p c va s) s

/-! ### Retirement -/

/-- Cores on which some block of the task has run. -/
def taskCores (s : State) (no : Nat) : List Nat := ((blocksOf s no).map (·.core)).eraseDups

/-- Every block of the task has retired or been terminated, no lane of it waits in a bin, and nothing of it is under way (R292). -/
def taskOver (s : State) (t : Task) : Bool :=
  let mine := blocksOf s t.no
  decide (t.total ≤ t.next) && (t.state != .waiting || t.err != 0) &&
  mine.all (fun b => b.state == .retired || b.state == .terminated) &&
  s.dies.all (fun d => d.bins.all fun r => r.task != t.no) &&
  s.flights.all (fun f => mine.all fun b => b.id != f.block) && s.crews.all (fun c => c.log.isNone || mine.all fun b => b.id != c.block) && s.copies.all fun k => mine.all fun b => b.id != k.block

/-- The successors of a task in list order: the inline ones, then the overflow array (R292, Table 13-1). -/
def successors (s : State) (t : Task) : List Nat :=
  t.succ ++ (List.range t.ovf.2).map fun i => peek s (t.ovf.1 + 4 * i) 4 % 2 ^ 29 * 128

/-- A successor's PRED falls by one; one that waited and now has none left becomes ready.  Its blocks acquire what its predecessors wrote, also where it is
submitted only later (R292). -/
def decrement (s : State) (die tcb : Nat) : State :=
  if badDpa s tcb then s
  else
    let s := { s with predClk := sput Clock.zero s.predClk tcb ((sget Clock.zero s.predClk tcb).sup (allWrites s)) }
    let w := peek s (tcb + 0x30) 4
    let pred := w % 2 ^ 16
    let st := w / 2 ^ 16 % 2 ^ 3
    if pred = 0 then emitDie s die 320 .sched 17 1 (leSplit 4 (tcb / 128))
    else if pred = 1 ∧ st = 1 then
      let s := putPreds s die tcb 0 2
      match s.tasks.find? fun x => x.tcb == tcb && x.state == .waiting && x.err == 0 with
      | some x => enqueue (modTask s x.no fun x => { x with state := .ready, acq := x.acq.sup (sget Clock.zero s.predClk tcb) }) die x.no
      | none => s
    else poke s die (tcb + 0x30) (leSplit 4 (w - 1))

/-- Written bytes that the task's cores hold go home; the snoops that this waits for when it cannot be done yet. -/
def settleCores (s : State) (cores : List Nat) : Bool × State :=
  cores.foldl (fun (ok, s) c =>
    match wbWaits s c (dirtyLines s c) with
    | [] => (ok, writeBackAll s c)
    | ks => (false, ks.foldl (fun s k => wbAsk s c k) s)) (true, s)

/-- A task leaves the machine: its blocks, crews and shape records. -/
def dropTask (s : State) (t : Task) : State :=
  let mine := blocksOf s t.no
  let s := { s with blocks := s.blocks.filter fun b => b.task != t.no
                    crews := s.crews.filter fun c => mine.all fun b => b.id != c.block
                    walks := s.walks.filter fun w => w.who != WalkFor.task t.no && mine.all fun b => w.who != WalkFor.block b.id
                    tasks := s.tasks.filter fun x => x.no != t.no }
  s.cores.foldl (fun (s : State) c => leaveCore s c.id t.no) s

/-- The retirement of a task, once its writes have been performed (R292). -/
def retireTask (s : State) (t : Task) : State :=
  let s := poke s t.die (t.tcb + 0x78) (leSplit 4 (t.err + 2 ^ 8 * t.trapCode))
  let pred := peek s (t.tcb + 0x30) 4 % 2 ^ 16
  let s := putPreds s t.die t.tcb pred (if t.err = 0 then 4 else 5)
  let s := { s with relClock := s.relClock.sup (allWrites s) }
  let s := if t.signal then raiseVec s (2 + t.die) else s
  let succ := successors s t
  let s := endRegion (dropTask s t) t.no
  succ.foldl (fun s x => decrement s t.die x) s

/-- Sectors of the overflow array that a retirement reads. -/
def overflowSectors (t : Task) : List Nat := ((List.range t.ovf.2).map fun i => (t.ovf.1 + 4 * i) / 64).eraseDups

/-- Sectors that a retirement reads or writes and that its die cannot yet: the overflow array's first, and then, once it can be read, those of the control
blocks (R46, R65, R246). -/
def retireSectors (s : State) (t : Task) : List Nat :=
  match (overflowSectors t).filter fun x => sectorsBarred s (isleUnit t.die) [x] with
  | [] => ((t.tcb :: successors s t).flatMap fun a => [a / 64, a / 64 + 1]).filter fun x => sectorsBarred s (isleUnit t.die) [x]
  | secs => secs

/-- TASK_RETIRE (R292): of the task whose number the event names. -/
def execTaskRetire (s : State) : Host.Outcome State Fault Refusal :=
  match taskAt s s.unit with
  | none => noEvent s
  | some t =>
    if !taskOver s t then noEvent s
    else
      match retireSectors s t with
      | [] =>
        match settleCores s (taskCores s t.no) with
        | (true, s) => .next (retireTask s t)
        | (false, s) => noEvent s
      | secs => noEvent (retryOwn (askHost s secs) (isleUnit t.die) (secs.map (· / 4)))

end Sys2Proof.Machine
end

