-- ==== Sys2Proof/Machine/Place.lean ====
section
/-!
DEFINITION. Placement of blocks on cores (R294-R300): fit, placement decisions, pre-emption and reservation, the wake of a placed block,
the save of one that leaves, and the retirement of one that has ended.
-/

namespace Sys2Proof.Machine

/-! ### Fit -/

/-- The crew slots of a core in use, blocks in `gone` left out; an ended crew holds its slot until its loads and atomics have returned (R262). -/
def usedSlots (s : State) (core : Nat) (gone : List Nat) : List Nat :=
  s.crews.filterMap fun c =>
    match blockOf s c with
    | some b =>
      let left := b.state == .preempted || b.state == .swapped
      if c.core == core && !left && !gone.contains b.id && (!c.ended || crewOut s c) then some c.slot else none
    | none => none

/-- The first `n` free crew slots of a core, ascending (R296). -/
def freeSlots (s : State) (core n : Nat) : List Nat :=
  ((List.range 64).filter fun k => !(usedSlots s core []).contains k).take n

/-- Bytes of activation and weight store in use on a core, scrubs to come included (R94, R296). -/
def usedStores (s : State) (core : Nat) (gone : List Nat) : Nat × Nat :=
  let bs := s.blocks.filter fun b => b.core == core && b.placed && !gone.contains b.id
  let sc := match coreAt s core with | some k => k.scrub | none => []
  (((bs.map (·.asBytes)) ++ sc.map (·.1)).sum, ((bs.map (·.wsBytes)) ++ sc.map (·.2)).sum)

/-- The queue entries of a task's binding table with V = 1: each with the number of the register that it names (R224). -/
def namedEntries (t : Task) : List (Nat × Nat) :=
  match t.binding with
  | none => []
  | some (es, _) => (es.zipIdx.map fun (e, n) => (n, e.toNat)).filter fun (_, w) => w % 2 == 1

/-- Those that bind their register on a die: none that holds a reserved value or names an absent island (Table 10-10, R224). -/
def boundEntries (s : State) (die : Nat) (t : Task) : List (Nat × Nat) :=
  (namedEntries t).filter fun (_, w) =>
      w / 2 % 2 == 0 && w / 2 ^ 7 % 2 == 0 && w / 2 ^ 16 == 0 && decide (w / 2 ^ 12 % 16 < 14) &&
      (match isleAt s die (w / 4 % 32) with | some i => i.present | none => false)

/-- What a block needs of a core: `key` names it in reservations, `only` is the core that its streams bind it to, `qsaved` the saved queue
registers with their entries (R231, R296). -/
structure Need where
  task : Nat
  key : Nat
  cls : Nat
  pasid : Nat
  crews : Nat
  asBytes : Nat
  wsBytes : Nat
  dies : List Nat
  only : Option Nat
  qsaved : List (Nat × Nat)
  formed : Bool
deriving DecidableEq, Repr

/-- What the next block of a task needs; it is served in the class that its queue holds (R291). -/
def needNext (s : State) (cls : Nat) (t : Task) : Need :=
  { task := t.no, key := 2 * t.no, cls := cls, pasid := t.pasid, crews := t.crews, asBytes := t.asBytes, wsBytes := t.wsBytes
    dies := taskDies s t, only := none, qsaved := [], formed := false }

/-- What a block that waits in a resume list needs, or a formed crew that waits for its first core. -/
def needBlock (s : State) (t : Task) (b : Block) : Need :=
  { task := t.no, key := 2 * b.id + 1, cls := t.cls, pasid := t.pasid, crews := b.crews, asBytes := b.asBytes, wsBytes := b.wsBytes
    dies := if b.formed.isSome && !b.resumed then [dieOfCore b.core] else taskDies s t, only := if b.bound then some b.core else none
    qsaved := b.qsaved, formed := b.formed.isSome }

/-- The waiting block of a reservation still waits (R299). -/
def keyLive (s : State) (key : Nat) : Bool :=
  if key % 2 = 0 then s.tasks.any fun t => t.no == key / 2 && t.err == 0 && decide (t.next < t.total)
  else s.blocks.any fun b => b.id == key / 2 && b.state == .preempted

/-- Nobody else has the core reserved (R299). -/
def unreserved (s : State) (k : CoreSt) (key : Nat) : Bool :=
  match k.reserve with
  | some r => r == key || !keyLive s r
  | none => true

/-- A bound queue register is free once the blocks in `gone` have left: they are then the last of its task that hold the core.  Of a task that has ended with an
error it stays bound until the task retires (R224, R292). -/
def queueFree (s : State) (core : Nat) (q : Queue) (gone : List Nat) : Bool :=
  let held := s.blocks.filter fun b => b.task == q.task && b.core == core && holdsCore b
  !q.bound || (!held.isEmpty && held.all fun b => gone.contains b.id)

/-- The core's queue registers suit the block: every register that its binding table names (R224, R231, R296). -/
def queuesFit (s : State) (x : Need) (core : Nat) (gone : List Nat) : Bool :=
  x.only == some core ||
  (((match taskAt s x.task with | some t => namedEntries t | none => []).all fun e =>
      let q := queueAt s core e.1
      queueFree s core q gone || q.task == x.task) &&
    x.qsaved.all fun e =>
      let q := queueAt s core e.1
      let here := if q.bound && q.task == x.task then q.entries.length + q.demand else 0
      decide (here + e.2 ≤ 8))

/-- A core has what the block needs, islands aside (R296). -/
def fitsPlain (s : State) (x : Need) (core : Nat) (gone : List Nat) : Bool :=
  match coreAt s core with
  | none => false
  | some k =>
    let room := decide ((usedSlots s core gone).length + x.crews ≤ 64)
    k.enabled && x.dies.contains (dieOfCore core) && !fenced s (dieOfCore core) && room && (match x.only with | some c => c == core | none => true) &&
    (x.formed ||
      (let (a, w) := usedStores s core gone
       unreserved s k x.key && decide (a + x.asBytes ≤ 2 ^ 18) && decide (w + x.wsBytes ≤ 2 ^ 18) && queuesFit s x core gone))

/-- Islands that the task's binding table names (R296). -/
def namedIslands (s : State) (x : Need) : List Nat :=
  match taskAt s x.task with
  | some t => ((namedEntries t).map fun e => e.2 / 4 % 32).eraseDups
  | none => []

/-- The named islands that are bound to another PASID, with that PASID, once the blocks in `gone` have left (R221, R296). -/
def islandsBad (s : State) (die : Nat) (x : Need) (gone : List Nat) : List (Nat × Nat) :=
  if x.formed || x.only.isSome then []
  else (namedIslands s x).filterMap fun i =>
    match isleAt s die i with
    | some l => match l.pasid with
      | some p =>
        let freed := s.cores.all fun c => dieOfCore c.id != die || c.queues.all fun q => !(q.bound && q.island == i) || queueFree s c.id q gone
        if p == x.pasid || freed then none else some (i, p)
      | none => none
    | none => none

/-- The tasks at the head of a die's enabled queues of a class, in the order of service from the current queue (R297). -/
def headTasks (s : State) (d : Die) (c : Nat) : List (Nat × Task) :=
  let qs := ((List.range 16).map fun i => (d.turnQueue.getD c 0 + i) % 16).filter fun n =>
    (d.sqCtl.getD n 0).getLsbD 0 && (d.sqCtl.getD n 0).toNat / 2 % 4 == c
  qs.filterMap fun n => ((d.queues.getD n []).findSome? fun no => match taskAt s no with
    | some t => if t.next < t.total then some t else none
    | none => none).map fun t => (n, t)

/-- The blocks of a die's resume list of a class, oldest first (R298). -/
def resumeBlocks (s : State) (d : Die) (c : Nat) : List Block := (d.resume.getD c []).filterMap (blockAt s)

/-- The blocks that wait on a die with their needs, where these are known. -/
def waiters (s : State) (d : Die) : List Need :=
  (List.range 4).flatMap fun c =>
    (resumeBlocks s d c).filterMap (fun b => (taskAt s b.task).map fun t => needBlock s t b) ++
    (headTasks s d c).filterMap fun (_, t) => if t.bind && t.binding.isNone then none else some (needNext s c t)

/-- Islands, with the PASID they are bound to, that some block of the die waits for and for nothing else (R299). -/
def islandStops (s : State) (d : Die) : List (Nat × Nat) :=
  (waiters s d).flatMap fun x =>
    let cs := s.cores.filter fun k => dieOfCore k.id == d.id && fitsPlain s x k.id []
    if cs.isEmpty then [] else islandsBad s d.id x []

/-- The block fits the core (R296), and would not keep an island that another block waits for (R299). -/
def fits (s : State) (x : Need) (core : Nat) (gone : List Nat) : Bool :=
  fitsPlain s x core gone && (x.formed || (islandsBad s (dieOfCore core) x gone).isEmpty &&
  (match dieAt s (dieOfCore core) with
    | some d =>
      let named := namedIslands s x
      (islandStops s d).all fun e => !(e.2 == x.pasid && named.contains e.1)
    | none => false))

/-- Resident crews of a core (R262). -/
def residentCount (s : State) (core : Nat) : Nat := (s.crews.filter fun c => c.core == core && resident s c).length

/-- The fitting core of a die with the fewest resident crews; ties go to the lower number (R297). -/
def bestCore (s : State) (die : Nat) (x : Need) : Option Nat :=
  (s.cores.filter fun k => dieOfCore k.id == die && fits s x k.id []).foldl (fun (o : Option Nat) k =>
    match o with
    | none => some k.id
    | some j => if residentCount s k.id < residentCount s j then some k.id else some j) none

/-! ### Placing -/

/-- A crew as it starts (R120), without lanes. -/
def Crew.start (id slot core block index : Nat) : Crew where
  id := id
  slot := slot
  core := core
  block := block
  index := index
  live := 0
  entries := []
  kept := 0
  rdv := []
  nrec := 0
  regs := List.replicate 60 Reg.zero
  latch := List.replicate 3 Reg.zero
  lvalid := [false, false, false]
  pred := [0, 0, 0]
  recs := List.replicate 16 ⟨0, 0⟩
  slots := List.replicate 8 LSlot.free
  floor := Clock.zero
  hist := Clock.zero
  near := []
  seen := []
  partLines := []
  gated := none
  acq := Clock.zero
  copyAcq := Clock.zero
  acqWait := false
  nextBatch := 0
  sealed := List.replicate 8 false
  batchErr := List.replicate 8 .none
  openErr := .none
  errIds := List.replicate 9 0
  batchClk := List.replicate 10 Clock.zero
  sect := List.replicate 32 none
  idents := List.replicate 32 ⟨0, 0, 0, 0, 0, 0⟩
  clkCap := none
  ptpCap := none
  priv := false
  susp := false
  cause := 0
  tpc := 0
  tlanes := 0
  newSlots := 0
  folded := 0
  log := none
  faults := []
  ldmDone := none
  hash := 0
  hashQ := []
  checkpoints := 0
  idle := false
  ended := false

/-- The coordinates of a block's linear index (R294). -/
def blockCoords (t : Task) (b : Nat) : Word × Word × Word :=
  (BitVec.ofNat 32 (b % t.grid.1), BitVec.ofNat 32 (b / t.grid.1 % t.grid.2.1), BitVec.ofNat 32 (b / (t.grid.1 * t.grid.2.1)))

/-- The identity of a thread (R294). -/
def threadIdent (t : Task) (b th : Nat) : Ident :=
  let (x, y, z) := blockCoords t b
  let (bx, byy, _) := t.bdim
  ⟨x, y, z, BitVec.ofNat 32 (th % bx), BitVec.ofNat 32 (th / bx % byy), BitVec.ofNat 32 (th / (bx * byy))⟩

/-- Crew `i` of a block that starts: its lanes, its entry, v0 and v1 (R262, R294). -/
def launchCrew (t : Task) (b id slot core block i : Nat) : Crew :=
  let n := t.bdim.1 * t.bdim.2.1 * t.bdim.2.2
  let live := maskOf fun l => decide (32 * i + l < n)
  let v0 : Reg := uReg .i32 (BitVec.ofNat 32 b)
  let v1 : Reg := ⟨.a, .i32, 0, laneIds.map fun l => BitVec.ofNat 32 (32 * i + l)⟩
  let regs := (List.replicate 60 Reg.zero).set 0 v0
  { Crew.start id slot core block i with
    live := live, entries := if live = 0 then [] else [⟨t.entry, 0, live, none, false, 0, 0⟩]
    regs := if t.regsN < 2 then regs else regs.set 1 v1
    acq := t.acq, idents := laneIds.map fun l => threadIdent t b (32 * i + l) }

/-- The barrier objects of a block that starts (R294). -/
def launchStore (t : Task) : Sparse Byte :=
  (List.range t.baros).foldl (fun m i => writeBytes m (8 * i) (Barrier.bits ⟨0, t.crews, 0⟩)) []

/-- The task's queue registers are bound on a core, and the islands that they name to its PASID (R221, R224). -/
def bindQueues (s : State) (core : Nat) (t : Task) : State :=
  (boundEntries s (dieOfCore core) t).foldl (fun s (n, w) =>
    if (queueAt s core n).bound then s
    else
      let s := modQueue s core n fun _ =>
        { Queue.unbound with bound := true, task := t.no, pasid := t.pasid, island := w / 4 % 32, port := w / 2 ^ 8 % 16
                             out := decide (8 ≤ w / 2 ^ 8 % 16), fmt := (fmtCode? (w / 2 ^ 12 % 16)).getD .raw32 }
      modIsle s (dieOfCore core) (w / 4 % 32) fun i => { i with pasid := some t.pasid }) s

/-- The reservations of a block are void (R299). -/
def unreserve (s : State) (key : Nat) : State :=
  { s with cores := s.cores.map fun k => if k.reserve == some key then { k with reserve := none } else k }

/-- A PLACE record (Table 15-2). -/
def emitPlace (s : State) (core : Nat) (t : Task) (slots : List Nat) (crews kind index : Nat) : State :=
  emitTask s core (some t) 3 4 ([BitVec.ofNat 8 core, BitVec.ofNat 8 (slots.headD 0), BitVec.ofNat 8 crews, BitVec.ofNat 8 kind] ++
    leSplit 4 t.no ++ leSplit 4 index ++ leSplit 4 (t.pasid + 2 ^ 20 * t.tenant))

/-- A FRAME record, where the task is the first of its render frame on the die (R340). -/
def emitFrame (s : State) (die : Nat) (t : Task) : State :=
  if t.affinity = 3 ∧ t.next = 0 then
    let old := (dieAt s die).bind (·.lastFrame)
    let s := modDie s die fun d => { d with lastFrame := some t.frame }
    if old == some t.frame then s else emitDie s die 320 .sched 13 2 ([BitVec.ofNat 8 die, 0, 0, 0] ++ leSplit 2 t.frame)
  else s

/-- One block counted against a queue; after WEIGHT blocks the current queue moves on (R297, Table 13-6). -/
def countTurn (s : State) (die c n : Nat) : State :=
  modDie s die fun d =>
    let w := (d.sqCtl.getD n 0).toNat / 2 ^ 8 % 32
    let w := if w = 0 then 1 else min w 16
    let k := (if d.turnQueue.getD c 0 = n then d.turnCount.getD c 0 else 0) + 1
    if w ≤ k then { d with turnQueue := d.turnQueue.set c ((n + 1) % 16), turnCount := d.turnCount.set c 0 }
    else { d with turnQueue := d.turnQueue.set c n, turnCount := d.turnCount.set c k }

/-- The crew slots' row groups are powered (R121). -/
def powerBlock (s : State) (core : Nat) (slots : List Nat) (regsN : Nat) : State :=
  slots.foldl (fun s k => powerRows s core k 0 regsN) s

/-- The next block of a task of queue `n` takes its place on a core (R294-R297). -/
def placeNext (s : State) (core n : Nat) (t : Task) : State :=
  let slots := freeSlots s core t.crews
  let bid := s.nextId
  let (x, y, z) := blockCoords t t.next
  let b : Block :=
    { id := bid, task := t.no, index := t.next, bx := x, byy := y, bz := z, core := core, formed := none, state := .waking, crews := t.crews
      regsN := t.regsN, asBytes := t.asBytes, wsBytes := t.wsBytes, aStore := launchStore t, wStore := [], bands := List.replicate 64 0x3F80
      sets := List.replicate 8 none, trapVector := t.traph, nshape := t.nshape, bound := false, resumed := false, order := bid
      refused := [], fresh := true, qsaved := [], barClk := [], barCopies := [], asOld := [], copyNotes := [], owed := [] }
  let crews := slots.zipIdx.map fun (k, i) => launchCrew t t.next (bid + 1 + i) k core bid i
  let s := emitFrame s (dieOfCore core) t
  let s := if t.state == .ready then putPreds s (dieOfCore core) t.tcb (peek s (t.tcb + 0x30) 4 % 2 ^ 16) 3 else s
  let s := { s with blocks := s.blocks ++ [b], crews := s.crews ++ crews, nextId := bid + 1 + crews.length }
  let s := bindQueues s core t
  let s := powerBlock s core slots t.regsN
  let s := modTask s t.no fun t => { t with next := t.next + 1, waited := 0, state := .running, die := dieOfCore core }
  let s := if t.next + 1 < t.total then s else unqueue s (dieOfCore core) t
  let s := countTurn (unreserve s (2 * t.no)) (dieOfCore core) (queueClass s (dieOfCore core) n) n
  emitPlace s core t slots t.crews 0 t.next

/-- Selection order of the entries of a formed crew: higher priority, then lower PC (R264, R270). -/
def ahead (a b : Entry) : Bool := decide (b.prio < a.prio) || (a.prio == b.prio && decide (a.pc.toNat ≤ b.pc.toNat))

/-- The entries of a formed crew on its core: those beyond 8, or beyond the free instruction-buffer entries, go to the stack (R270, R305);
a core without a stack cannot take them. -/
def spreadEntries (s : State) (c : Crew) : State :=
  let r := place (sharedFor (modCrew s c.id fun c => { c with entries := [] }) c.core 0) [] (sortBy ahead c.entries)
  let s := modCrew s c.id fun c => { c with entries := r.1 }
  if r.2.isEmpty then s
  else if (stackBase s c.core).isNone then
    match blockOf s c with
    | some b => endTask s b.task 6 trapFrontier
    | none => s
  else match crewAt s c.id with
    | some c => putStack s c r.2
    | none => s

/-- A block of a resume list, or a formed crew, takes its place on a core (R298, R305). -/
def placeBlock (s : State) (core : Nat) (t : Task) (b : Block) : State :=
  let slots := freeSlots s core b.crews
  let s := { s with dies := s.dies.map fun d => { d with resume := d.resume.map fun l => l.filter (· != b.id) }, nextId := s.nextId + 1
                    crews := s.crews.map fun c => if c.block == b.id then { c with core := core, slot := slots.getD c.index 0 } else c }
  let s := modBlock s b.id fun b => { b with core := core, state := .waking, bound := false, order := s.nextId }
  let s := if b.formed.isSome then s else bindQueues s core t
  let s := powerBlock s core slots b.regsN
  let s := modTask (unreserve s (2 * b.id + 1)) t.no fun t => { t with die := dieOfCore core }
  let s := if b.formed.isSome && !b.resumed then (s.crews.filter fun c => c.block == b.id).foldl spreadEntries s else s
  emitPlace s core t slots b.crews (if b.resumed then 1 else 2) (if b.formed.isSome then 0xFFFFFFFF else b.index)

/-! ### Reads of the resource table -/

/-- A page request raised by a block, or by a task for its binding table (R60, R61, R294). -/
def askPage (s : State) (die block pasid va : Nat) (copy : Option Nat) : State :=
  let r : PageReq := ⟨s.nextId, die, pasidLookup s pasid == .ats, block, 0, va / 4096, pasid, false, true, false, false, copy⟩
  { s with pageReqs := s.pageReqs ++ [r], nextId := s.nextId + 1 }

/-- What a read of bytes of one line by the distributor comes to (R294). -/
inductive DevRead where
  | bytes (bs : List Byte) (s : State)
  | wait (s : State)
  | bad (code : Nat) (s : State)
  | fault (s : State)
deriving Repr

/-- A RETRY record for a read of the distributor, a requester that is neither a core nor a copy unit (R246, Table 15-2). -/
def devRetry (s : State) (who : WalkFor) (core line : Nat) : State :=
  let t := match who with
    | .block i => (blockAt s i).bind fun b => taskAt s b.task
    | .task n => taskAt s n
    | _ => none
  emitRetry s line core t 0xFF 0

/-- A read at fabric scope of `n` bytes in one line at a VA, for `who` (R294). -/
def devRead (s : State) (who : WalkFor) (core pasid va n : Nat) : DevRead :=
  match xlateFor s who core pasid va .read false with
  | (.miss, s) => .wait s
  | (.access, s) => .bad trapAccess (forget s who)
  | (.fault, s) => if faultRefused s core pasid then .bad trapAccess (forget s who) else .fault (forget s who)
  | (.hit pk _, s) =>
    let as := (List.range n).map (pk + ·)
    let own := ((as.map (· / 64)).eraseDups).filter (hostOwns s)
    if as.any (poisoned s) then .bad trapSoft s
    else if pinnedElsewhere s core (pk / 256) then .wait (devRetry s who core (pk / 256))
    else if linkBars s core (pk / 256) then .wait s
    else if !own.isEmpty then .wait (askHost s own)
    else .bytes (as.map fun a => (directByte s core a).1) (mesiRead s ((as.map (· / 64)).eraseDups))

/-- What the reading of a task's binding table comes to. -/
inductive Bound where
  | ready (s : State)
  | wait (s : State)
deriving Repr

/-- A task's binding table, read when a block of the task is first considered (R224, R294). -/
def readBinding (s : State) (die : Nat) (t : Task) : Bound :=
  if !t.bind || t.binding.isSome then .ready s
  else if t.refused then .wait (endTask s t.no 6 trapAccess)
  else if t.ask.isSome then .wait s
  else
    match devRead s (.task t.no) (isleUnit die) t.pasid (t.rtab + 0x100) 192 with
    | .wait s => .wait s
    | .bad code s => .wait (endTask s t.no 6 code)
    | .fault s => .wait (modTask (askPage s die 0 t.pasid (t.rtab + 0x100) (some s.nextId)) t.no fun t => { t with ask := some s.nextId })
    | .bytes bs s =>
      let qs := (List.range 16).map fun i => BitVec.ofNat 64 (num bs (8 * i) 8)
      let irs := (List.range 4).map fun i => BitVec.ofNat 128 (num bs (0x80 + 16 * i) 16)
      .ready (modTask s t.no fun t => { t with binding := some (qs, irs) })

/-! ### Pre-emption -/

/-- The class of a block's task. -/
def blockClass (s : State) (b : Block) : Nat := match taskAt s b.task with | some t => t.cls | none => 0

/-- Blocks of a core that are already leaving it. -/
def leaving (s : State) (core : Nat) : List Nat :=
  (s.blocks.filter fun b => b.core == core && (match b.state with | .stopping | .saving _ => true | _ => false)).map (·.id)

/-- The order in which blocks are pre-empted: class 3 first, the most recently placed first within a class (R299). -/
def sooner (s : State) (a b : Block) : Bool :=
  decide (blockClass s b < blockClass s a) || (blockClass s a == blockClass s b && decide (b.order ≤ a.order))

/-- The shortest prefix of a list of blocks whose departure makes the block fit. -/
def departures (s : State) (x : Need) (core : Nat) : List Nat → List Block → Option (List Block)
  | gone, [] => if fits s x core gone then some [] else none
  | gone, b :: bs =>
    if fits s x core gone then some []
    else (departures s x core (b.id :: gone) bs).map (b :: ·)

/-- The blocks whose pre-emption would make the block fit a core (R299). -/
def victims (s : State) (x : Need) (core : Nat) : Option (List Block) :=
  departures s x core (leaving s core) (sortBy (sooner s) (s.blocks.filter fun b =>
    b.core == core && b.state == .running && b.formed.isNone && decide (x.cls < blockClass s b)))

/-- Crews of some blocks that have not ended. -/
def crewsOf (s : State) (bs : List Block) : Nat := (s.crews.filter fun c => !c.ended && bs.any fun b => b.id == c.block).length

/-- The core where pre-empting the fewest crews makes the block fit, with those blocks (R299). -/
def bestVictims (s : State) (die : Nat) (x : Need) : Option (Nat × List Block) :=
  s.cores.foldl (fun (o : Option (Nat × List Block)) k =>
    if dieOfCore k.id != die then o
    else match victims s x k.id, o with
      | none, _ => o
      | some v, none => some (k.id, v)
      | some v, some (_, w) => if crewsOf s v < crewsOf s w then some (k.id, v) else o) none

/-- A core is reserved for a block; one that is reserved for it already stays so until the block is placed (R299). -/
def reserveCore (s : State) (core key : Nat) : State := modCore s core fun k => { k with reserve := some key }

/-- A block that fits no core of the die pre-empts, unless a core that is reserved for it is already on its way to fit (R299); none when
no pre-emption would make it fit. -/
def preempt (s : State) (die : Nat) (x : Need) : Option State :=
  let above := s.blocks.any fun b => dieOfCore b.core == die && b.placed && decide (x.cls < blockClass s b)
  if !above then none
  else if s.cores.any fun k => k.reserve == some x.key && fits s x k.id (leaving s k.id) then some s
  else (bestVictims s die x).map fun (core, vs) =>
    vs.foldl (fun s b => modBlock s b.id fun b => { b with state := .stopping }) (reserveCore s core x.key)

/-! ### Decisions -/

/-- Crews that Encke has formed and that wait for a core, oldest first (R305). -/
def formedWaiting (s : State) (die c : Nat) : List Block :=
  s.blocks.filter fun b => b.formed.isSome && !b.resumed && b.state == .preempted && dieOfCore b.core == die && blockClass s b == c

/-- The first of some blocks that fits a core of the die, and that core. -/
def firstFit (s : State) (die : Nat) (bs : List Block) : Option (Task × Block × Nat) :=
  bs.findSome? fun b => match taskAt s b.task with
    | some t => (bestCore s die (needBlock s t b)).map fun k => (t, b, k)
    | none => none

/-- Sectors of a head's control block that its next placement writes and that the die cannot change yet (R46, R65, R297). -/
def headSectors (s : State) (die : Nat) (t : Task) : List Nat :=
  if t.state == .ready || decide (t.total ≤ t.next + 1) then [t.tcb / 64, t.tcb / 64 + 1].filter fun x => sectorsBarred s (isleUnit die) [x] else []

/-- The queue heads of a class in turn: the first that fits, with its core, and the tasks whose blocks fit none. -/
def tryHeads (die : Nat) : List (Nat × Task) → State → Option (Nat × Task × Nat) × List Nat × State
  | [], s => (none, [], s)
  | (n, t) :: hs, s =>
    if !(headSectors s die t).isEmpty then
      tryHeads die hs (retryOwn (askHost s (headSectors s die t)) (isleUnit die) ((headSectors s die t).map (· / 4)))
    else
      match readBinding s die t with
      | .wait s => tryHeads die hs s
      | .ready s =>
        match bestCore s die (needNext s (queueClass s die n) t) with
        | some k => (some (n, t, k), [], s)
        | none =>
          let r := tryHeads die hs s
          (r.1, t.no :: r.2.1, r.2.2)

/-- A decision of a class counts for every block that heads one of its queues, whichever block it places; the block that it places waits no more (R299). -/
def countWaits (s : State) (d : Die) (c : Nat) : State :=
  (headTasks s d c).foldl (fun s h => modTask s h.2.no fun t => { t with waited := t.waited + 1 }) s

/-- One class of a placement decision: whether a block was placed (R297). -/
def decideClass (s : State) (die c : Nat) : Bool × State :=
  match dieAt s die with
  | none => (false, s)
  | some d =>
    let rs := resumeBlocks s d c
    let s := countWaits s d c
    match firstFit s die (formedWaiting s die c ++ rs) with
    | some (t, b, k) => (true, placeBlock s k t b)
    | none =>
      let (hit, misses, s) := tryHeads die (headTasks s d c) s
      match hit with
      | some (n, t, k) => (true, match taskAt s t.no with | some t => placeNext s k n t | none => s)
      | none =>
        let want := (rs.filterMap fun b => (taskAt s b.task).map fun t => needBlock s t b) ++
          misses.filterMap fun no => (taskAt s no).map (needNext s c)
        (false, (want.findSome? (preempt s die)).getD s)

/-- The classes in turn until a block is placed (R297). -/
def decide_ (die : Nat) : List Nat → State → Bool × State
  | [], s => (false, s)
  | c :: cs, s =>
    match decideClass s die c with
    | (true, s) => (true, s)
    | (false, s) => decide_ die cs s

/-- A lossless trace holds the distributor (R345). -/
def placeHeld (s : State) (die : Nat) : Bool :=
  match trace0 s with
  | some t => t.on && t.ctl.getLsbD 1 && s.traceQ.any fun r => r.src == 320 && r.die == die
  | none => false

/-- PLACEMENT_DECISION of the die that the event names (R297). -/
def execPlacementDecision (s : State) : Host.Outcome State Fault Refusal :=
  let s := runPushes s
  if (dieAt s s.unit).isNone || fenced s s.unit || placeHeld s s.unit then noEvent s
  else .next (decide_ s.unit [0, 1, 2, 3] s).2

/-- STARVATION_RESERVATION: the head of a queue has waited for 64 decisions of its class; a core is kept for it (R299). -/
def execStarvationReservation (die queue : Nat) (s : State) : Host.Outcome State Fault Refusal :=
  match dieAt s die with
  | none => noEvent s
  | some d =>
    match (headTasks s d (queueClass s die queue)).find? fun h => h.1 == queue with
    | none => noEvent s
    | some (_, t) =>
      let x := needNext s (queueClass s die queue) t
      if t.waited < 64 || (t.bind && t.binding.isNone) || s.cores.any (fun k => k.reserve == some x.key) then noEvent s
      else
        match s.cores.find? fun k => dieOfCore k.id == die &&
            fits s x k.id ((s.blocks.filter fun b => b.core == k.id && b.placed && b.formed.isNone && decide (x.cls ≤ blockClass s b)).map (·.id)) with
        | some k => .next (reserveCore s k.id x.key)
        | none => noEvent s

/-! ### Wake -/

/-- A placed block's crews start to issue; crews without a lane end (R262, R294). -/
def runBlock (s : State) (id : Nat) : State :=
  let s := modBlock s id fun b => { b with state := .running, fresh := false }
  (s.crews.filter fun c => c.block == id && c.live == 0 && !c.ended).foldl (fun s c => endCrew s c.id) s

/-- The records of a block's crews, as the resource table gives them (R294). -/
def loadRecs (s : State) (id n : Nat) (bs : List Byte) : State :=
  let rs := (List.range 16).map fun i => (⟨BitVec.ofNat 128 (if i < n then num bs (16 * i) 16 else 0), 0⟩ : Rec)
  { s with crews := s.crews.map fun c => if c.block == id then { c with recs := rs } else c }

/-- A block that starts reads its records before its first instruction (R294). -/
def startFresh (s : State) (t : Task) (b : Block) : State :=
  if t.nrec = 0 then runBlock s b.id
  else
    match devRead s (.block b.id) b.core t.pasid t.rtab (16 * t.nrec) with
    | .wait s => { s with progress := false }
    | .bad code s => endTask s t.no 6 code
    | .fault s =>
      if b.refused.contains (t.rtab / 4096) then endTask s t.no 6 trapAccess
      else modBlock (askPage s (dieOfCore b.core) b.id t.pasid t.rtab none) b.id fun b => { b with state := .saving true }
    | .bytes bs s => runBlock (loadRecs s b.id t.nrec bs) b.id

/-- A save area that a block can resume from: it names a core of this device that is enabled (R367; DEDUCED, log entry 64). -/
def headerOwn (s : State) (bs : List Byte) : Bool :=
  match coreAt s (num bs 4 4 / 2 ^ 3 % 2 ^ 7) with
  | some k => k.enabled
  | none => false

/-- A block whose rows are awake starts, or takes back what it saved (R294, R316, R317).  Where its core has no stack for the saved records, its task ends with
error TRAP and code FRONTIER (R271; DESIGN CHOICE, log entry 28); it waits until the core has instruction-buffer entries for its crews (R269; DEDUCED, log entry 79). -/
def wakeBlock (s : State) (t : Task) (b : Block) : State :=
  if b.resumed then
    match pagesReady s (.block b.id) b.core t.pasid true (savePages s b .read) with
    | (false, s) => { s with progress := false }
    | (true, s) =>
      match peekVa s b.core t.pasid true (saveArea s b) (0x6000 + 0x5000 * b.crews + b.asBytes + b.wsBytes) with
      | none => endTask s t.no 8 0
      | some (bs, s) =>
        let slots := (List.range b.crews).map fun i => match s.crews.find? fun c => c.block == b.id && c.index == i with | some c => c.slot | none => 0
        if !headerOwn s bs then endTask s t.no 8 0
        else if stackless s b bs then endTask s t.no 6 trapFrontier
        else if !buffersFit s b (sectionEntries s b bs) then { s with progress := false }
        else
        let s := modBlock (loadBlock s b slots bs) b.id fun b => { b with resumed := false, qsaved := [] }
        -- a crew in its handler owns v48 to v59 until its RTT (R121)
        let s := (s.crews.filter fun c => c.block == b.id && c.priv).foldl (fun s c => powerRows s c.core c.slot 48 60) s
        match blockAt s b.id with
        | some b => if b.fresh then startFresh s t b else runBlock s b.id
        | none => s
  else if !buffersFit s b ((s.crews.filter fun c => c.block == b.id).map bufEntries) then { s with progress := false }
  else if b.fresh then startFresh s t b
  else runBlock s b.id

/-- BLOCK_WAKE_DONE of the block that the event names (R121, R295). -/
def execBlockWakeDone (s : State) : Host.Outcome State Fault Refusal :=
  match blockAt s s.unit with
  | none => noEvent s
  | some b =>
    match b.state, taskAt s b.task with
    | .waking, some t => .next (wakeBlock s t b)
    | _, _ => noEvent s

/-! ### Stop and save -/

/-- Every entry and record of the crew stands at a safe point; the records of a crew in its handler come in behind its RTT (R300, R315). -/
def crewHalted (s : State) (c : Crew) : Bool := c.ended || (c.entries.all (fun e => atSafePoint s c e.pc) && recsHalted s c)

/-- A record that must reach its safe point is rotated in when every entry stands at one (R272, R315); a poisoned one traps at the current instruction
(R271). -/
def rotateStop (s : State) (c : Crew) : State :=
  if c.ended || c.priv || crewHalted s c || !c.entries.all (fun e => atSafePoint s c e.pc) then s
  else
    match c.entries.head? with
    | none => s
    | some e =>
      if stackPoisoned s c then rotateTrap { s with progress := true } c e .soft
      else { exchangeRec s c with progress := true }

/-- A held copy cannot go on by itself: its unit waits for a page, or for a line that another block has pinned (R107). -/
def copyStuck (s : State) (k : Copy) : Bool :=
  k.held || (k.vas k.next).any fun va =>
    match xlate s k.core (copyPasid s k) va (if k.dir = 2 then .write else .read) k.priv with
    | .hit pk _ => pinnedElsewhere s k.core (pk / 256)
    | _ => false

/-- What a block has issued has completed, the stores of others that its crews have read in the L1 among it, and its copies have completed or are held (R87, R300, R314). -/
def saveReady (s : State) (b : Block) : Bool :=
  let mine := (s.crews.filter fun c => c.block == b.id).map (·.id)
  s.flights.all (fun f => f.block != b.id) && (s.crews.all fun c => c.block != b.id || c.seen.all fun n => (flightAt s n).isNone) && (s.copies.all fun k => k.block != b.id || copyStuck s k) &&
  s.cores.all fun k => (k.asParts.all fun p => !mine.contains p.crew) && match k.matrix with
    | some m => m.crews.all fun c => !mine.contains c
    | none => true

/-- A saved block, or formed crew, enters the resume list of its class on the die of its last core, or, for affinity "any", on both dies (R298, R306). -/
def requeue (s : State) (id : Nat) : State :=
  match blockAt s id with
  | none => s
  | some b =>
    match taskAt s b.task with
    | none => s
    | some t =>
      let ds := if t.only.isNone then taskDies s t else [dieOfCore b.core]
      let s := modBlock s id fun b => { b with state := .preempted }
      { s with dies := s.dies.map fun d =>
          if ds.contains d.id then { d with resume := d.resume.set t.cls (d.resume.getD t.cls [] ++ [id]) } else d }

/-- A LEAVE record (Table 15-2). -/
def emitLeave (s : State) (b : Block) (kind : Nat) : State :=
  let first := (((s.crews.filter fun c => c.block == b.id).map (·.slot)).min?).getD 0
  emitTask s b.core (taskAt s b.task) 4 2
    ([BitVec.ofNat 8 b.core, BitVec.ofNat 8 first, BitVec.ofNat 8 b.crews, BitVec.ofNat 8 kind] ++ leSplit 4 b.task)

/-- A saved block leaves its core: its slots, stores and, where they are its own, its queue registers are free (R231, R295); its crews' paths stand in the save
area alone. -/
def leaveSaved (s : State) (b : Block) (swap quiet : Bool) (qs : List (Nat × Nat)) : State :=
  let mine := (s.crews.filter fun c => c.block == b.id).map (·.id)
  let ks := (s.copies.filter fun k => k.block == b.id).map (·.id)
  let gone (w : Walk) : Bool := match w.who with
    | .log c | .fetch c | .wait c => mine.contains c
    | .copy k => ks.contains k
    | .block i => i == b.id
    | _ => false
  let notes := (savedCopies s b).map fun k => (⟨k.id, k.ahead, k.sliced, k.denied⟩ : CopyNote)
  let s := { s with copies := s.copies.filter fun k => k.block != b.id, walks := s.walks.filter fun w => !gone w
                    crews := s.crews.map fun c => if c.block == b.id then { c with log := none, gated := none, entries := [], kept := 0, nrec := 0 } else c }
  let s := mine.foldl dropRejects s
  let s := modBlock s b.id fun b =>
    { b with state := if swap then .swapped else .preempted, resumed := true, aStore := [], wStore := [], asOld := []
             copyNotes := notes, bound := swap && !quiet, qsaved := qs }
  let s := emitLeave s b (if swap then 2 else 1)
  let s := leaveCore s b.core b.task
  if swap && s.pageReqs.any (fun r => r.block == b.id) then s else requeue s b.id

/-- The context of a block written to its save area; a write that cannot be made ends the task (R314-R318). -/
def saveBlock (s : State) (b : Block) (swap : Bool) : State :=
  match taskAt s b.task with
  | none => s
  | some t =>
    let s := if swap then endPins s b.id else s
    let quiet := blockQuiet s b
    let qs := (savedQueues s b).map fun n => (n, (queueAt s b.core n).entries.length)
    match pokeVa s b.core t.pasid true (saveBytes s b (!swap)) with
    | none => endTask s t.no 8 0
    | some s => leaveSaved s b swap quiet qs

/-- The save of a block that has stopped, when everything it waits for has come (R300, R314). -/
def finishSave (s : State) (b : Block) (swap : Bool) : State :=
  if !saveReady s b then { s with progress := false }
  else
    match taskAt s b.task with
    | none => s
    | some t =>
      match pagesReady s (.block b.id) b.core t.pasid true (savePages s b .write) with
      | (false, s) => { s with progress := false }
      | (true, s) =>
      match if swap then (true, s) else tableReady s (.block b.id) b.core t with
      | (false, s) => { s with progress := false }
      | (true, s) =>
        match settleCores s [b.core] with
        | (false, s) => { s with progress := false }
        | (true, s) => saveBlock s b swap

/-- Every crew of a block has ended, with nothing of it in the operand log (R262). -/
def allEnded (s : State) (b : Block) : Bool := (s.crews.filter fun c => c.block == b.id).all fun c => c.ended && c.log.isNone

/-- BLOCK_SAVE_COMPLETE of the block that the event names (R300, R314, R318). -/
def execBlockSaveComplete (s : State) : Host.Outcome State Fault Refusal :=
  match blockAt s s.unit with
  | none => noEvent s
  | some b =>
    let mine := s.crews.filter fun c => c.block == b.id
    match b.state with
    | .saving swap => .next (finishSave s b swap)
    | .stopping =>
      if allEnded s b then noEvent s
      else if !(noSections s b && blockQuiet s b) then noEvent s
      else if mine.all fun c => crewHalted s c && c.log.isNone then .next (finishSave s b false)
      else .next (mine.foldl rotateStop { s with progress := false })
    | _ => noEvent s

/-- PREEMPT_SLOW_STOP: a SLOWSTOP record for a block whose stop takes long (R300). -/
def execPreemptSlowStop (s : State) : Host.Outcome State Fault Refusal :=
  match blockAt s s.unit with
  | some b =>
    if b.state == .stopping then
      let first := (((s.crews.filter fun c => c.block == b.id).map (·.slot)).min?).getD 0
      .next (emitTask s b.core (taskAt s b.task) 16 2 ([BitVec.ofNat 8 b.core, BitVec.ofNat 8 first, 0, 0] ++ leSplit 4 b.task))
    else noEvent s
  | none => noEvent s

/-! ### Retirement and scrub -/

/-- A block retires: its pins end, its stores are to be scrubbed, and what its task holds on the core may go (R94, R224, R246, R262). -/
def retireBlock (s : State) (b : Block) : State :=
  let s := endPins s b.id
  let s := modBlock s b.id fun b => { b with state := .retired, aStore := [], wStore := [], asOld := [] }
  let s := if b.asBytes + b.wsBytes = 0 then s else modCore s b.core fun k => { k with scrub := k.scrub ++ [(b.asBytes, b.wsBytes)] }
  leaveCore (emitLeave s b 0) b.core b.task

/-- Lines that a block has pinned, with the core that holds each. -/
def pinnedLines (s : State) (block : Nat) : List (Nat × Nat) :=
  s.cores.flatMap fun k => (k.l1.filter fun l => l.pin == some block).map fun l => (k.id, l.key)

/-- ALLOCATION_SCRUB: the oldest freed allocation of the core that the event names can be given out again (R94). -/
def execAllocationScrub (s : State) : Host.Outcome State Fault Refusal :=
  match coreAt s s.unit with
  | some k => if k.scrub.isEmpty then noEvent s else .next (modCore s k.id fun k => { k with scrub := k.scrub.drop 1 })
  | none => noEvent s

/-- A row group holds a register of a resident crew, or one of v48-v59 of a crew in its handler (R121). -/
def groupOwned (s : State) (core group : Nat) : Bool :=
  s.crews.any fun c => c.core == core && resident s c &&
    ((List.range (ownedRegs s c)).any (fun i => rowGroup c.slot i == group) ||
      (c.priv && (List.range 12).any fun i => rowGroup c.slot (48 + i) == group))

/-- REGISTER_GROUP_GATE: a row group with no owned row loses power; no value changes (R121). -/
def execRegisterGroupGate (core group : Nat) (s : State) : Host.Outcome State Fault Refusal :=
  match coreAt s core with
  | some k =>
    if k.groups.getLsbD group && !groupOwned s core group then
      .next (modCore s core fun k => { k with groups := k.groups &&& ~~~(BitVec.ofNat 15 (2 ^ group)) })
    else noEvent s
  | none => noEvent s

end Sys2Proof.Machine
end

