-- ==== Sys2Proof/Machine/Reorder.lean ====
section
/-!
DEFINITION. Encke, the reorder unit (R303-R307): REORD, the bins, the crews that they form, and the retirement of blocks, which frees
formed-crew save areas.
-/

namespace Sys2Proof.Machine

/-! ### Bins -/

/-- The lane records that a die's bin area holds: 256 B each (R304, Table 13-6). -/
def binRoom (d : Die) : Nat := d.enckeArea.toNat / 2 ^ 36 % 2 ^ 11 * 256

/-- Reorder is enabled on a die (Table 13-6). -/
def enckeOn (s : State) (die : Nat) : Bool := match dieAt s die with | some d => d.enckeArea.getLsbD 0 | none => false

/-- The lowest free formed-crew save area of a task (R307). -/
def freeArea (s : State) (t : Task) : Option Nat :=
  (List.range t.fslots).find? fun k =>
    !(s.blocks.any fun b => b.task == t.no && b.formed == some k && b.state != .retired && b.state != .terminated)

/-- The address of a place in a die's bin area (Table 13-6). -/
def binAddr (d : Die) (place : Nat) : Nat := d.enckeArea.toNat / 2 ^ 16 % 2 ^ 20 * 2 ^ 16 + 256 * place

/-- The records of one task's bin, oldest first. -/
def binOf (d : Die) (task key : Nat) : List LaneRec := d.bins.filter fun r => r.task == task && r.key == key

/-! ### Lane records in memory -/

/-- Sectors of a lane record that its die cannot read yet: the host holds one exclusive, the link stands between, a core has its line pinned, or a write of one waits
(R46, R65, R246). -/
def recWaits (s : State) (d : Die) (r : LaneRec) : List Nat :=
  ((List.range 4).map (binAddr d r.place / 64 + ·)).filter fun x => hostOwns s x || linkBarsDie s d.id (x / 4) || pinnedElsewhere s (isleUnit d.id) (x / 4) || postedIn s [x]

/-- A carried register's tag and value as two open words give them: shape G and a format that exists. -/
def openCarried (a b : Word) : Shape × Fmt × Word := (.g, (fmtCode? (a.toNat % 14)).getD .raw32, b)

/-- A lane record whose bytes another agent has changed, or whose sectors are poisoned: the spec gives the bytes no layout, so all that they hold is open
(R16, R304; DESIGN CHOICE, log entry 28). -/
def openRec (s : State) (r : LaneRec) : LaneRec × State :=
  let (ws, s) := freeWords s (9 + 2 * r.carried.length)
  let w (i : Nat) : Word := ws.getD i 0
  ({ r with pc := w 0, prio := (w 1).toNat % 16, preds := (w 2).setWidth 3, ident := ⟨w 3, w 4, w 5, w 6, w 7, w 8⟩
            carried := (List.range r.carried.length).map fun i => openCarried (w (9 + 2 * i)) (w (10 + 2 * i)) }, s)

/-- A lane record as it stands in memory (R16, R304): what was put into it, while its bytes are those that were written. -/
def fetchRec (s : State) (d : Die) (r : LaneRec) : LaneRec × State :=
  let a := binAddr d r.place
  if readBytes s.mem a 256 == r.image && (List.range 4).all (fun i => !poisoned s (a + 64 * i)) then (r, s) else openRec s r

/-- Lane records read in order. -/
def fetchRecs (d : Die) : List LaneRec → State → List LaneRec × State
  | [], s => ([], s)
  | r :: rs, s =>
    let (r, s) := fetchRec s d r
    let (rs, s) := fetchRecs d rs s
    (r :: rs, s)

/-! ### Formed crews -/

/-- The register file of a formed crew: what record `i` carries goes to lane `i`, shape G, taint FLOOR (R130, R305). -/
def gatherRegs (rs : List LaneRec) : List Reg :=
  (List.range 60).map fun n =>
    let here (r : LaneRec) : Option (Shape × Fmt × Word) := if r.first ≤ n then r.carried[n - r.first]? else none
    match rs.findSome? here with
    | none => Reg.zero
    | some (_, f, _) =>
      ⟨.g, f, floorBit, laneIds.map fun l => match rs[l]? with
        | some r => (match here r with | some (_, _, w) => w | none => 0)
        | none => 0⟩

/-- The entries of a formed crew: one for each continuation, with the highest priority that its lanes brought (R305). -/
def gatherEntries (rs : List LaneRec) : List Entry :=
  mergeAll (rs.zipIdx.map fun (r, i) => (⟨r.pc, r.prio, BitVec.ofNat 32 (2 ^ i), none, false, 0, 0⟩ : Entry))

/-- A crew formed from at most 32 records: record `i` in lane `i` (R130, R305, R306; DEDUCED, log entry 28). -/
def formedCrew (rs : List LaneRec) (id core block : Nat) : Crew :=
  let bit (k i : Nat) : Bool := match rs[i]? with | some r => r.preds.getLsbD k | none => false
  let floor := rs.foldl (fun k r => k.sup r.clock) Clock.zero
  { Crew.start id 0 core block 0 with
    live := maskOf fun l => decide (l < rs.length), entries := gatherEntries rs, regs := gatherRegs rs
    pred := (List.range 3).map fun k => maskOf (bit k), floor := floor, hist := floor
    acq := rs.foldl (fun k r => k.sup r.hist) Clock.zero
    idents := laneIds.map fun l => match rs[l]? with | some r => r.ident | none => ⟨0, 0, 0, 0, 0, 0⟩ }

/-- A crew is formed from the first records of a bin, as memory gives them; it holds the save area `k`, has no band-scale file and waits for a core (R187,
R305, R307). -/
def formCrew (s : State) (d : Die) (t : Task) (k : Nat) (rs : List LaneRec) : State :=
  let took := rs.map (·.order)
  let die := d.id
  let (rs, s) := fetchRecs d rs s
  let bid := s.nextId
  let core := 48 * die
  let b : Block :=
    { id := bid, task := t.no, index := k, bx := 0, byy := 0, bz := 0, core := core, formed := some k, state := .preempted, crews := 1
      regsN := t.regsN, asBytes := 0, wsBytes := 0, aStore := [], wStore := [], bands := []
      sets := List.replicate 8 none, trapVector := t.traph, nshape := t.nshape, bound := false, resumed := false, order := bid
      refused := [], fresh := true, qsaved := [], barClk := [], barCopies := [], asOld := [], copyNotes := [], owed := [] }
  { modDie s die (fun d => { d with bins := d.bins.filter fun r => !took.contains r.order }) with
    blocks := s.blocks ++ [b], crews := s.crews ++ [formedCrew rs (bid + 1) core bid], nextId := bid + 2 }

/-- A bin forms a crew now: it is full, or its oldest record has been flushed (R305). -/
def binDue (rs : List LaneRec) : Bool := decide (32 ≤ rs.length) || rs.any (·.aged)

/-- The bins of a die by task and key, in ascending order. -/
def binKeys (d : Die) : List (Nat × Nat) :=
  sortBy (fun a b => decide (a.1 < b.1) || (a.1 == b.1 && decide (a.2 ≤ b.2))) ((d.bins.map fun r => (r.key, r.task)).eraseDups)

/-- The bins of a die that are due and whose task has a free save area, in ascending key order: the task, the area and the records (R305, R307). -/
def dueBins (s : State) (d : Die) : List (Task × Nat × List LaneRec) :=
  (binKeys d).filterMap fun (key, task) =>
    let rs := binOf d task key
    if binDue rs then
      match taskAt s task with
      | some t => (freeArea s t).map fun k => (t, k, rs.take 32)
      | none => none
    else none

/-- The first bin that is due, whose task has a free save area and whose records can be read forms its crew; false when none can, with the snoops that the
reads wait for and the records of lines that send them back (R46, R246, R305, R307; DESIGN CHOICE, log entry 28). -/
def formOne (s : State) (die : Nat) : Bool × State :=
  match dieAt s die with
  | none => (false, s)
  | some d =>
    match (dueBins s d).find? fun x => x.2.2.all fun r => (recWaits s d r).isEmpty with
    | some (t, k, rs) => (true, formCrew s d t k rs)
    | none =>
      let secs := (dueBins s d).flatMap fun x => x.2.2.flatMap (recWaits s d)
      (false, retryOwn (askHost s secs) (isleUnit d.id) (secs.map (· / 4)))

/-- Bins that are due form their crews, as far as save areas go. -/
def formAll (die : Nat) : Nat → State → State
  | 0, s => s
  | n + 1, s =>
    match formOne s die with
    | (true, s) => formAll die n s
    | (false, s) => s

/-- Every bin of a die that is due forms its crew. -/
def formDue (s : State) (die : Nat) : State :=
  match dieAt s die with
  | some d => formAll die d.bins.length s
  | none => s

/-! ### REORD -/

/-- The record that a lane leaves behind, with the clocks of the slots that are not free (R130, R304). -/
def laneRec (c : Crew) (e : Entry) (task key place first n order l : Nat) (next : Word) (image : List Byte) : LaneRec :=
  let live := (List.range 8).foldl (fun k i => if slotFree c i then k else k.sup (slotAt c i).clock) c.floor
  { task := task, key := key, place := place, image := image, order := order, aged := false, pc := next, prio := e.prio
    preds := BitVec.ofNat 3 (boolBits ((c.pred.take 3).map fun p => laneIn p l)), ident := c.idents.getD l ⟨0, 0, 0, 0, 0, 0⟩, first := first
    carried := (List.range n).map fun i => let r := vreg c (first + i); (r.shape, r.fmt, r.at l), clock := live, hist := crewClock c }

/-- The lowest place of the die's bin area that holds no record. -/
def freePlace (d : Die) : Nat := ((List.range (d.bins.length + 1)).find? fun k => !(d.bins.any fun r => r.place == k)).getD 0

/-- The 256 bytes of a lane record, written in the area that ENCKE_AREA names: the spec gives them no layout (R16, R304; DESIGN CHOICE, log entry 28). -/
def writeLaneRec (s : State) (d : Die) (place : Nat) : List Byte × State :=
  let (ws, s) := freeWords s 64
  (wordsBytes ws, poke s d.id (binAddr d place) (wordsBytes ws))

/-- The lanes go to their bins in ascending order while the area has room; the answer is the lanes that went (R304). -/
def binLanes (c : Crew) (e : Entry) (kr : Reg) (first n : Nat) (next : Word) (t : Task) (die : Nat) : List Nat → State → Mask × State
  | [], s => (0, s)
  | l :: ls, s =>
    match dieAt s die with
    | none => (0, s)
    | some d =>
      if binRoom d ≤ d.bins.length then (0, s)
      else
        let (image, s) := writeLaneRec s d (freePlace d)
        let r := laneRec c e t.no ((kr.at l).toNat % 2 ^ 12) (freePlace d) first n s.nextId l next image
        let s := formDue { modDie s die (fun d => { d with bins := d.bins ++ [r] }) with nextId := s.nextId + 1 } die
        let (m, s) := binLanes c e kr first n next t die ls s
        (m ||| BitVec.ofNat 32 (2 ^ l), s)

/-- REORD after its checks and its release: the lanes that went end in this crew (R304). -/
def reordGo (x : Ctx) (p : Part) (t : Task) (kr : Reg) (first n : Nat) (s : State) : Res :=
  match crewAt s p.crew with
  | none => .done s
  | some c =>
    match entryAt c x.pc with
    | none => .done s
    | some e =>
      let (went, s1) := binLanes c e kr first n x.next t (dieOfCore c.core) (laneIds.filter (laneIn p.act)) s
      if went = 0 then .stall s
      else if went = p.act then
        match leaveBy x (fun p _ e => (false, [{ e.to x.next with mask := e.mask &&& ~~~p.act }])) p s1 with
        | .error .soft => .trap trapSoft s
        | .error .frontier => .trap trapFrontier s
        | .error .busy => .stall s
        | .ok s => .moved (exitLanes s c.id went)
      else
        let s := modCrew s1 c.id fun c => { c with entries := c.entries.map fun e => if e.pc == x.pc then { e with mask := e.mask &&& ~~~went } else e }
        .stall (exitLanes s c.id went)

/-- The body of REORD (R303, R304). -/
def reordBody (n : Nat) (k d : RCode) (x : Ctx) (s : State) : Res :=
  match x.parts.head?, crewAt s x.crew with
  | some p, some c =>
    match srcReg c k.toNat, taskOf s c with
    | some kr, some t =>
      if p.act = 0 then .done s
      else if sectMask c &&& p.act ≠ 0 then .trap trapOperand s
      else if !kr.fmt.isIndex then .trap trapFormat s
      else if !enckeOn s (dieOfCore c.core) || t.fslots == 0 then .trap trapAccess s
      else
        match checkTarget s (some (.wait c.id)) c x.next with
        | (.wait, s) => .hold s
        | (.invalid, s) => .trap trapAccess (forget s (.wait c.id))
        | (.fault, s) =>
          if faultRefused s c.core (pasidOf s c) then .trap trapAccess (forget s (.wait c.id))
          else .moved (pageFault (forget s (.wait c.id)) c false [⟨0, false, true, false, false, p.act, textVa s c x.next / 4096⟩])
        | (.valid, s) =>
          -- a crew's last checkpoint waits for the atomics that its hash still lacks (R356, R357)
          if c.live &&& ~~~p.act == 0 && !c.hashQ.isEmpty then .stall s
          else
            match releaseNow s c 1 with
            | (false, s) => .hold s
            | (true, s) => reordGo x p t kr d.toNat n s
    | _, _ => .done s
  | _, _ => .done s

/-- REORD (R303, R304). -/
def execReord (x : Pfx) (n : BitVec 4) (k d : RCode) (s : State) : Host.Outcome State Fault Refusal :=
  issue { i := .reord x n k d, ops := [.src k, .grp d (n.toNat + 1)], waits := true } (reordBody (n.toNat + 1) k d) s

/-! ### Flushes -/

/-- The records of a die that satisfy `p` are to be flushed. -/
def markAged (s : State) (die : Nat) (p : LaneRec → Bool) : State :=
  modDie s die fun d => { d with bins := d.bins.map fun r => if p r then { r with aged := true } else r }

/-- ENCKE_AGE_FLUSH: the oldest record of the bin with this key has waited its time; the bin forms a crew (R305), and one flushed before that could not
form it forms it now if it can. -/
def execEnckeAgeFlush (die key : Nat) (s : State) : Host.Outcome State Fault Refusal :=
  match dieAt s die with
  | none => noEvent s
  | some d =>
    match d.bins.find? fun r => r.key == key && !r.aged with
    | none => if d.bins.any fun r => r.key == key then .next (formDue s die) else noEvent s
    | some r => .next (formDue (markAged s die fun x => x.key == key && x.task == r.task) die)

/-- No further record of the task can reach the die's bins: it has no live crew there, and no block that could still be placed there (R305). -/
def noMoreLanes (s : State) (die : Nat) (t : Task) : Bool :=
  let here (b : Block) : Bool := dieOfCore b.core == die
  !(s.crews.any fun c => !c.ended && (match blockOf s c with
    | some b => b.task == t.no && here b
    | none => false)) &&
  (decide (t.total ≤ t.next) || !(taskDies s t).contains die) &&
  !(s.blocks.any fun b => b.task == t.no && (b.state == .preempted || b.state == .swapped) && (here b || (t.only.isNone && (b.formed.isNone || b.resumed) && !b.bound)))

/-- ENCKE_FINAL_FLUSH: the task's bins on the die can receive no further record; they form their crews in ascending key order (R305). -/
def execEnckeFinalFlush (die task : Nat) (s : State) : Host.Outcome State Fault Refusal :=
  match dieAt s die, taskAt s task with
  | some d, some t =>
    if (d.bins.any fun r => r.task == task && !r.aged) && noMoreLanes s die t then
      .next (formDue (markAged s die fun r => r.task == task) die)
    else noEvent s
  | _, _ => noEvent s

/-! ### Block retirement -/

/-- BLOCK_RETIRE of the block that the event names: its crews have ended; it drains while copies are in flight (R107, R262). -/
def execBlockRetire (s : State) : Host.Outcome State Fault Refusal :=
  match blockAt s s.unit with
  | none => noEvent s
  | some b =>
    let here := b.state == .running || b.state == .stopping || b.state == .draining
    if !here || !allEnded s b then noEvent s
    else if s.copies.any fun k => k.block == b.id then
      if b.state == .draining then noEvent s else .next (modBlock s b.id fun b => { b with state := .draining })
    else
      match (pinnedLines s b.id).filter fun p => wbBlocked s p.1 p.2 with
      -- an area that has become free may let a bin of either die form its crew (R307)
      | [] => .next (formDue (formDue (retireBlock s b) (dieOfCore b.core)) (1 - dieOfCore b.core))
      | ps => noEvent (ps.foldl (fun s p => wbAsk s p.1 p.2) s)

end Sys2Proof.Machine
end

