-- ==== Sys2Proof/Machine/Table.lean ====
section
/-!
DEFINITION. The map of GDDR7 and of the stack cache (R43, R48), degraded units, and the capability table (R364-R366).
-/

namespace Sys2Proof.Machine

/-! ### The memory map -/

/-- The first DPA of a die and the DPA behind its last (R42). -/
def dieRange (s : State) (die : Nat) : Nat × Nat := if die = 0 then (0, dieSplit s) else (dieSplit s, memEnd s)

/-- The controller that holds a DPA, of its home die, and the address in its device (R43); none beyond memory. -/
def controllerOf (s : State) (dpa : Nat) : Option (Nat × Nat × Nat) :=
  if memEnd s ≤ dpa then none
  else
    let die := homeDie s dpa
    match dieAt s die with
    | none => none
    | some d =>
      let o := dpa - (dieRange s die).1
      let page := o / 4096
      let n := d.ctls.length
      some (die, d.ctls.getD (page % n) 0, page / n * 4096 + o % 4096)

/-- The set of a line in its home die's stack cache (R48). -/
def cacheSet (addr : Nat) : Nat := Nat.xor (addr / 2 ^ 8 % 2 ^ 15) (addr / 2 ^ 23 % 2 ^ 15)

/-! ### Degraded units -/

/-- A degraded-unit record (Table 16-4). -/
def degradedRec (kind index cause : Nat) : Word := BitVec.ofNat 32 (kind + 2 ^ 8 * index + 2 ^ 16 * cause)

/-- The units that the fuses leave out (Table 16-4, cause 1). -/
def fusedOut (f : Fuses) : List Word :=
  ((List.range 96).filterMap fun c => if f.coreOn c then none else some (degradedRec 1 c 1)) ++
  ((f.islands.zipIdx).flatMap fun (m, d) => (List.range 20).filterMap fun k => if m.getLsbD k then none else some (degradedRec 2 (32 * d + k) 1)) ++
  ([0, 1].flatMap fun d => (List.range 8).filterMap fun k => if f.ctlOn d k then none else some (degradedRec 3 (8 * d + k) 1))

/-! ### The capability table -/

/-- A number with a bit for each unit that satisfies `p`. -/
def unitMask (n : Nat) (p : Nat → Bool) : Nat := boolBits ((List.range n).map p)

/-- An enabled core on a die that is not fenced (R14, R368). -/
def corePresent (s : State) (c : Nat) : Bool := !fenced s (dieOfCore c) && (match coreAt s c with | some k => k.enabled | none => false)

/-- An island that is present, on a die that is not fenced. -/
def islePresent (s : State) (die k : Nat) : Bool := !fenced s die && (match isleAt s die k with | some i => i.present | none => false)

/-- The controllers of a die, one bit each (Table 16-3). -/
def ctlMask_ (s : State) (die : Nat) : Nat := unitMask 8 fun k => match dieAt s die with | some d => d.ctls.contains k | none => false

/-- The figures of the configuration: maximum clock, package power, board power (Table 1-1). -/
def configFigures (s : State) : Nat × Nat × Nat := if s.fuses.av64 then (s.fuses.topMhz, 140, 175) else (s.fuses.topMhz, 260, 320)

/-- The width of the die-to-die link as LINKS reports it; a fence of a die by itself leaves the link as it is (R66, Table 16-3). -/
def linkWidth (s : State) : Nat := if s.link.down then 0 else if s.link.half then 1 else 2

/-- STATUS (Table 16-3). -/
def statusWord (s : State) : Nat := (if s.boot.zeroised then 1 else 0) + (if s.boot.alarmed then 2 else 0)

/-- The entries of the table with their values (Table 16-3). -/
def capEntries (s : State) : List (Nat × List Byte) :=
  let (mhz, pkg, board) := configFigures s
  [(1, leSplit 1 (if s.fuses.av64 then 1 else 0) ++ leSplit 1 Config.rev.toNat ++ leSplit 2 mhz ++ leSplit 2 pkg ++ leSplit 2 board ++ leSplit 1 105 ++ leSplit 3 0),
   (2, leSplit 12 (unitMask 96 (corePresent s))),
   (3, leSplit 8 (unitMask 20 (islePresent s 0) + 2 ^ 32 * unitMask 20 (islePresent s 1))),
   (4, [ctlCount s 0, ctlCount s 1, ctlMask_ s 0, ctlMask_ s 1].map (BitVec.ofNat 8) ++ leSplit 8 (memEnd s) ++ leSplit 4 0),
   (5, [4, 6, 8, 20, 40, 12, 2, 28, 8, 16, 32, 12]),
   (6, [4, 8, 32, 16, 128, 64, 16, 8, 64, 128, 8, 32]),
   (7, [linkWidth s, s.boot.cxlLanes, s.boot.cxlRate, 0].map (BitVec.ofNat 8)),
   (8, s.boot.degraded.flatMap wordBytes),
   (9, leSplit 4 (statusWord s)),
   (10, padTo 32 (s.boot.record.flatMap wordBytes)),
   (0xFFFF, [])]

/-- The bytes of the entries (R364). -/
def capBytes (es : List (Nat × List Byte)) : List Byte :=
  es.flatMap fun (t, v) => leSplit 2 t ++ leSplit 2 v.length ++ v

/-- The sum of a table's words. -/
def wordSum (bs : List Byte) : Word := (wordsOf (bs.length / 4) bs).foldl (· + ·) 0

/-- A table with a generation: header, CHECK and entries (Table 16-2). -/
def capTable (s : State) (gen : Nat) : List Byte :=
  let es := capBytes (capEntries s)
  let head := leSplit 4 0x50414356 ++ leSplit 2 1 ++ leSplit 2 (16 + es.length) ++ leSplit 4 gen
  head ++ wordBytes (0 - wordSum (head ++ es)) ++ es

/-- The table's bytes with a generation in its header; no table before the first publication. -/
def setGen (bs : List Byte) (gen : Nat) : List Byte := if bs.isEmpty then [] else bs.take 8 ++ leSplit 4 gen ++ bs.drop 12

/-- A rewrite of the table begins behind those under way: its three steps are taken one after another, so that a host that reads meanwhile finds GEN odd
(R366; DEDUCED, log entry 30). -/
def rewriteTable (s : State) (vector : Bool) : State :=
  { s with boot := { s.boot with rewrites := s.boot.rewrites ++ [.opens, .contents, .closes vector] } }

/-- A message to the host, while the link is up (R369). -/
def tell (s : State) (m : HostMsg) : State := if s.boot.linkUp then { s with out := s.out ++ [m] } else s

/-- An MSI-X vector of the device's own, while the link is up (R363). -/
def tellVec (s : State) (v : Nat) : State := if s.boot.linkUp then raiseVec s v else s

/-- The table is rewritten for a change at run time, and vector 5 raised behind it (R366). -/
def announce (s : State) : State := if s.boot.published then rewriteTable s true else s

/-- One step of the rewrite under way (R366): the contents are those of the device as it stands. -/
def stepRewrite (s : State) : State :=
  let gen := (s.boot.gen + 1) % 2 ^ 32
  match s.boot.rewrites with
  | [] => s
  | .opens :: r => { s with boot := { s.boot with gen := gen, table := setGen s.boot.table gen, rewrites := r } }
  | .contents :: r => { s with boot := { s.boot with table := setGen (capTable s gen) s.boot.gen, rewrites := r } }
  | .closes v :: r =>
    let s := { s with boot := { s.boot with gen := gen, table := capTable s gen, rewrites := r } }
    if v then tellVec s 5 else s

/-- A unit degrades at run time: a record is added, the table is rewritten and vector 5 raised (R64, R66, R366). -/
def degrade (s : State) (kind index cause : Nat) : State :=
  announce { s with boot := { s.boot with degraded := s.boot.degraded ++ [degradedRec kind index cause] } }

/-- STATUS changes in the table as it stands, CHECK with it: R366 names no rewrite for it; a rewrite under way takes it with it (log entry 30). -/
def refreshStatus (s : State) : State :=
  if s.boot.published && s.boot.rewrites.isEmpty then { s with boot := { s.boot with table := capTable s s.boot.gen } } else s

end Sys2Proof.Machine
end

