-- ==== Sys2Proof/Machine/Link.lean ====
section
/-!
DEFINITION. Shootdowns and the fencing of a die (R62-R64), the die-to-die link (R65-R67), and errors of the memories (R44).
-/

namespace Sys2Proof.Machine

/-! ### Shootdowns -/

/-- A cached translation meets a shootdown's range (R62). -/
def Shootdown.meets (v : Shootdown) (e : TlbEntry) : Bool :=
  e.pasid == v.pasid && (match v.range with
    | none => true
    | some (va, n) => decide (e.va < va + 4096 * n) && decide (va < e.va + 2 ^ e.size))

/-- A page lies in a shootdown's range. -/
def Shootdown.hasPage (v : Shootdown) (pasid va : Nat) : Bool :=
  pasid == v.pasid && (match v.range with
    | none => true
    | some (b, n) => decide (b ≤ va / 4096 * 4096) && decide (va / 4096 * 4096 < b + 4096 * n))

/-- The VAs that a flight accesses. -/
def flightVas (f : Flight) : List Nat :=
  match reqCheck f.op f.req f.full with
  | .pass us => us.map (·.2)
  | _ => []

/-- The PASID of a flight. -/
def flightPasid (s : State) (f : Flight) : Nat :=
  match (blockAt s f.block).bind fun b => taskAt s b.task with
  | some t => t.pasid
  | none => 0

/-- An access of a die that began with a translation from the range has not completed, or a write of the die's own has not reached its home (R63). -/
def sdBusy (s : State) (v : Shootdown) (die : Nat) : Bool :=
  s.flights.any (fun f => dieOfCore f.core == die && (flightVas f).any fun va => v.hasPage (flightPasid s f) va) ||
  s.posted.any fun p => dieOfCore p.core == die && p.va.any fun a => v.hasPage a.1 a.2

/-- A walk in the range starts again, an ATS request under a new number; of another request of the PASID, whose completion may bring a page that reaches into the
range, the device keeps no more than the page it asked for (R63). -/
def restartWalk (v : Shootdown) (s : State) (w : Walk) : State :=
  if !v.hasPage w.pasid w.va then
    { s with walks := s.walks.map fun x => if x.id == w.id && w.ats && w.pasid == v.pasid then { x with cut := true } else x }
  else
    let w' : Walk := { w with id := s.nextId, result := .pending, cut := false }
    let s := { s with walks := s.walks.map (fun x => if x.id == w.id then w' else x), nextId := s.nextId + 1 }
    if w.ats then { s with out := s.out ++ [.atsRequest w'.id w.pasid w.va (w.acc == .fetch) w.priv] } else s

/-- A die's units, and the host-translation cache that serves both dies, drop what they hold in the range; the die's walks and every ATS request over it
start again (R58, R62, R63). -/
def dropRange (s : State) (v : Shootdown) (die : Nat) : State :=
  let keep (es : List TlbEntry) : List TlbEntry := es.filter fun e => !v.meets e
  let cores := s.cores.map fun c => if dieOfCore c.id == die then { c with tlb := keep c.tlb } else c
  let dies := s.dies.map fun d => if d.id == die then { d with tlb := keep d.tlb } else d
  let s := { s with cores := cores, dies := dies, hostTc := keep s.hostTc }
  (s.walks.filter fun w => w.die == die || w.ats).foldl (restartWalk v) s

/-- A host's shootdown that has completed is answered and ends; the crew of a TLBINV ends its own (R63, R333). -/
def endShootdowns (s : State) : State :=
  let ended := s.shootdowns.filter fun v => v.crew.isNone && sdDone s v
  let s := ended.foldl (fun s v => tell s (.invDone v.id)) s
  { s with shootdowns := s.shootdowns.filter fun v => !(ended.any fun x => x.id == v.id) }

/-- SHOOTDOWN_ACK: a die has counted all of its units, once the stores that its L1s hold have reached their home slices; no acknowledgement crosses the
link while it retrains (R63, R65). -/
def execShootdownAck (sd die : Nat) (s : State) : Host.Outcome State Fault Refusal :=
  match s.shootdowns.find? fun v => v.id == sd with
  | none => noEvent s
  | some v =>
    if v.acked.contains die || (dieAt s die).isNone || fenced s die || sdBusy s v die || (s.link.retraining && die != v.die) then noEvent s
    else match settleCores s ((s.cores.filter fun c => dieOfCore c.id == die).map (·.id)) with
    | (false, s) => noEvent s
    | (true, s) =>
      let s := dropRange s v die
      .next (endShootdowns { s with shootdowns := s.shootdowns.map fun x => if x.id == sd then { x with acked := x.acked ++ [die] } else x })

/-! ### The fence -/

/-- A copy has an access outstanding to a die's memory: a unit that it has still to move is translated there (R64, R102). -/
def copyToDie (s : State) (die : Nat) (k : Copy) : Bool :=
  (List.range (k.bytes / 16 - k.next)).any fun j => (k.vas (k.next + j)).head?.any fun va =>
    match xlate s k.core (copyPasid s k) va (if k.dir = 2 then .write else .read) k.priv with
    | .hit pk _ => homeDie s pk == die
    | _ => false

/-- The tasks that a fence ends: those with a block placed on or bound to the die, or one that may run only there, or with lanes in its bins, or
with an access outstanding to its memory (R64). -/
def fencedTasks (s : State) (die : Nat) : List Nat :=
  let live (b : Block) : Bool := b.state != .retired && b.state != .terminated
  let onDie (b : Block) : Bool := dieOfCore b.core == die && (holdsCore b || (b.formed.isSome && (b.placed || b.bound || !b.resumed))) && live b
  (s.tasks.filter fun t =>
    (blocksOf s t.no).any (fun b => onDie b || (t.only == some die && live b)) || s.dies.any (fun d => d.id == die && d.bins.any fun r => r.task == t.no) ||
    s.flights.any (fun f => (blocksOf s t.no).any (fun b => b.id == f.block) && f.todo.any fun l => homeDie s (l * 256) == die) ||
    s.copies.any (fun k => (blocksOf s t.no).any (fun b => b.id == k.block) && copyToDie s die k)).map (·.no)

/-- What a fenced die holds is gone: its accesses, copies and caches, what others have under way to its memory, and the host's hold on it. -/
def dropDie (s : State) (die : Nat) : State :=
  let cores := s.cores.map fun c =>
    if dieOfCore c.id == die then { c with l1 := [], icache := [], tlb := [], rejects := [], matrix := none, mwait := [], copyWait := [], asParts := [] } else c
  let dies := s.dies.map fun d => if d.id == die then { d with pushes := [], bins := [], tlb := [], loader := [] } else d
  { s with flights := s.flights.filter (fun f => dieOfCore f.core != die && !(f.todo.any fun l => homeDie s (l * 256) == die))
           copies := s.copies.filter (fun k => dieOfCore k.core != die)
           walks := s.walks.filter (fun w => w.die != die)
           icinvs := s.icinvs.filter (fun v => s.crews.any fun c => c.id == v.crew && !c.ended)
           hostHeld := s.hostHeld.filter (fun h => homeDie s (h.1 * 64) != die)
           biWait := s.biWait.filter (fun x => homeDie s (x * 64) != die)
           cores := cores, dies := dies }

/-- A die is fenced (R64): its blocks' tasks end with the fenced-die error; tasks that no die can run any more end with NOFIT; shootdowns end on the
other die's acknowledgement; the table lists the die (DEDUCED, log entry 35). -/
def fenceDie (s : State) (die cause : Nat) : State :=
  let gone := fencedTasks s die
  let s := modDie s die fun d => { d with fenced := true }
  let s := gone.foldl (fun s no => endTask s no 4 0) s
  let s := dropDie s die
  let stuck := s.tasks.filter fun t => t.err == 0 && t.state != .waiting && !hasCore s t
  let s := stuck.foldl (fun s t => endTask s t.no 2 0) s
  let s := endShootdowns { s with shootdowns := s.shootdowns.map fun v => if v.acked.contains die then v else { v with fenced := true } }
  degrade s 6 die cause

/-- DIE_FENCE: a die that has not acknowledged a shootdown in time (R64); the time is the hardware's (log entry 4). -/
def execDieFence (die : Nat) (s : State) : Host.Outcome State Fault Refusal :=
  if (dieAt s die).isSome && !fenced s die && s.shootdowns.any (fun v => !v.acked.contains die) then .next (fenceDie s die 3)
  else noEvent s

/-! ### The link -/

/-- A LINK record (Table 15-2). -/
def emitLink (s : State) (ev : Nat) : State := emitDie s 0 323 .mem 15 1 [BitVec.ofNat 8 ev]

/-- The link retrains (R65). -/
def retrain (s : State) : State :=
  emitLink { s with link := { s.link with retraining := true, crcFails := [0, 0] } } 0

/-- A die hears of the writes of the other die, and die 1 of those at the host (R255; DEDUCED, log entry 35). -/
def applyRemote (s : State) (die : Nat) : State :=
  match dieAt s (1 - die) with
  | none => s
  | some o => modDie s die fun d =>
      if die = 0 then { d with applied := { d.applied with d1 := o.count } }
      else { d with applied := { d.applied with d0 := o.count, host := s.hostCount } }

/-- FLIT_RECEIVE (R65, R255): a flit with a good CRC brings the writes that its receiver has not applied; one that fails is replayed, and the
fourth replay that fails begins a retrain. -/
def execFlitReceive (die : Nat) (crcOk : Bool) (s : State) : Host.Outcome State Fault Refusal :=
  if s.link.retraining || (dieAt s die).isNone || fenced s 0 || fenced s 1 then noEvent s
  else if crcOk then .next (applyRemote { s with link := { s.link with crcFails := s.link.crcFails.set die 0 } } die)
  else
    let n := s.link.crcFails.getD die 0 + 1
    if 5 ≤ n then .next (retrain s)
    else .next { s with link := { s.link with crcFails := s.link.crcFails.set die n } }

/-- LANE_LOCK_LOSS (R65). -/
def execLaneLockLoss (s : State) : Host.Outcome State Fault Refusal :=
  if s.link.retraining || fenced s 1 then noEvent s else .next (retrain s)

/-- LINK_RETRAIN_END (R66): at full or half width, and what waited for it goes on; a retrain that fails goes on at half width, or leaves the link down
and fences die 1. -/
def execLinkRetrainEnd (passed : Bool) (s : State) : Host.Outcome State Fault Refusal :=
  if !s.link.retraining then noEvent s
  else if passed then .next (sendRequests <| runPushes (emitLink { s with link := { s.link with retraining := false } } (if s.link.half then 2 else 1)))
  else if s.link.half then
    let s := emitLink { s with link := { s.link with retraining := false, down := true } } 3
    .next (if fenced s 1 then announce s else fenceDie s 1 4)
  else .next (degrade { s with link := { s.link with half := true } } 4 0 4)

/-! ### Errors of the memories -/

/-- An ECC record with the errors of unit `k` of a die since its last one (Table 15-2). -/
def emitEcc (s : State) (die src k unit ctl : Nat) : State :=
  match dieAt s die with
  | none => s
  | some d =>
    let n := d.ecc.getD k 0 + 1
    let t := emitDie s die src .mem 11 2 ([die, unit, ctl, 0].map (BitVec.ofNat 8) ++ leSplit 4 n)
    modDie t die fun d => { d with ecc := d.ecc.set k (if t.traceQ.length = s.traceQ.length then n else 0) }

/-- ECC_ERROR (R44): corrected and counted, or its sector is poisoned (DEDUCED, log entry 36). -/
def execEccError (die addr : Nat) (fixable : Bool) (s : State) : Host.Outcome State Fault Refusal :=
  if fenced s die || badDpa s addr || homeDie s addr != die then noEvent s
  else if fixable then .next (emitEcc s die 321 0 0 0)
  else if s.flights.any fun f => f.op.reads && f.todo.contains (addr / 256) then noEvent s
  else .next { s with poison := if poisoned s addr then s.poison else addr / 64 :: s.poison }

/-- BURST_CRC_FAILURE (R44): the burst is retried and counted. -/
def execBurstCrcFailure (die ctl : Nat) (s : State) : Host.Outcome State Fault Refusal :=
  match dieAt s die with
  | none => noEvent s
  | some d => if d.fenced || !d.ctls.contains ctl then noEvent s else .next (emitEcc s die 322 (1 + ctl) 1 ctl)

end Sys2Proof.Machine
end

