-- ==== Sys2Proof/Machine/Pins.lean ====
section
/-!
DEFINITION. Stack-cache partitions and pins (R49-R51), and the host's answers to page faults and translations (R59-R63).
-/

namespace Sys2Proof.Machine

/-! ### Partitions and pins -/

/-- The way mask of a partition: one that is disabled or empty acts as partition 0, whose empty mask acts as all ways (R49). -/
def partMask (d : Die) (n : Nat) : BitVec 16 :=
  let ways (k : Nat) : BitVec 16 := (d.scPart.getD k 0).setWidth 16
  if n ≠ 0 ∧ (d.scPart.getD n 0).getLsbD 16 = true ∧ ways n ≠ 0 then ways n
  else if ways 0 = 0 then 0xFFFF else ways 0

/-- Ways of a mask. -/
def wayCount (m : BitVec 16) : Nat := ((List.range 16).filter m.getLsbD).length

/-- The 256 sets that a 64 KiB unit's lines fall in, one line each, as the number of their group (R48). -/
def unitGroup (u : Nat) : Nat := Nat.xor (u % 128) (u / 2 ^ 15 % 128)

/-- The pins of a die that hold, or are about to hold, their ranges. -/
def validPins (d : Die) : List (BitVec 64) :=
  (d.pins.zip d.pinStatus).filterMap fun (v, st) => if st = 1 ∨ st = 2 then some v else none

/-- Pinned lines in each set of a group, for the units of some pins. -/
def groupLoad (vs : List (BitVec 64)) (g : Nat) : Nat :=
  (vs.map fun v => ((List.range (pinLen v)).filter fun i => unitGroup (pinBase v + i) == g).length).sum

/-- The groups that a pin's units fall in. -/
def pinGroups (v : BitVec 64) : List Nat := ((List.range (min 256 (pinLen v))).map fun i => unitGroup (pinBase v + i)).eraseDups

/-- Some set that a pin touches would hold more pinned lines than its partition's ways, less one (R50). -/
def pinOver (d : Die) (vs : List (BitVec 64)) (v : BitVec 64) : Bool :=
  (pinGroups v).any fun g => decide (wayCount (partMask d (pinPart v)) - 1 < groupLoad vs g)

/-- Two ranges share a unit. -/
def pinsMeet (a b : BitVec 64) : Bool := decide (pinBase a < pinBase b + pinLen b) && decide (pinBase b < pinBase a + pinLen a)

/-- The status of a pin whose V has just been written as 1 (R50; DEDUCED, log entry 33). -/
def pinCheck (s : State) (d : Die) (v : BitVec 64) : Nat :=
  let (lo, hi) := dieRange s d.id
  if pinLen v = 0 ∨ pinBase v * 2 ^ 16 < lo ∨ hi < (pinBase v + pinLen v) * 2 ^ 16 then 4
  else if s.dies.any fun x => (validPins x).any (pinsMeet v) then 5
  else if pinOver d (v :: validPins d) v then 3
  else 1

/-- SC_PIN_n written (R50): the old pin is released, and the new range is checked. -/
def execScPin (die n : Nat) (v : BitVec 64) (s : State) : Host.Outcome State Fault Refusal :=
  match dieAt s die with
  | none => noEvent s
  | some d =>
    if 64 ≤ n then noEvent s
    else hostDoes s fun s =>
      let v := v &&& 0x000FFFFFFFFF001F
      let d := { d with pins := d.pins.set n v, pinStatus := d.pinStatus.set n 0 }
      let s := setDie s d
      if v.getLsbD 0 then setDie s { d with pinStatus := d.pinStatus.set n (pinCheck s d v) } else s

/-- PIN_INSTALL_DONE (R50). -/
def execPinInstallDone (die n : Nat) (s : State) : Host.Outcome State Fault Refusal :=
  match dieAt s die with
  | none => noEvent s
  | some d => if d.pinStatus.getD n 0 = 1 then .next (setDie s { d with pinStatus := d.pinStatus.set n 2 }) else noEvent s

/-- Active pins over their limit are released, the lowest number first (R51); one that is still being installed is treated alike (DESIGN CHOICE, log entry 70). -/
def releasePins (d : Die) : Die :=
  (List.range 64).foldl (fun d n =>
    let st := d.pinStatus.getD n 0
    if (st = 1 ∨ st = 2) ∧ pinOver d (validPins d) (d.pins.getD n 0) = true then { d with pinStatus := d.pinStatus.set n 3 } else d) d

/-- SC_PART_n, SC_TENANT_MAP or SC_HOST_MAP written, by its offset in the block (R49, R51, Tables 3-2 and 3-3). -/
def execScPartWrite (die off : Nat) (v : BitVec 64) (s : State) : Host.Outcome State Fault Refusal :=
  match dieAt s die with
  | none => noEvent s
  | some d =>
    if 0x100 ≤ off ∧ off < 0x180 ∧ off % 8 = 0 then
      let n := (off - 0x100) / 8
      let w := if n = 0 then v &&& 0xFFFF ||| 0x10000 else v &&& 0x1FFFF
      hostDoes s fun s => setDie s (releasePins { d with scPart := d.scPart.set n w })
    else if off = 0x180 then hostDoes s fun s => setDie s { d with tenantMap := v }
    else if off = 0x188 then hostDoes s fun s => setDie s { d with hostMap := v &&& 0xF }
    else noEvent s

/-! ### Retry responses -/

/-- The cores, and the dies under the number of their islands, whose accesses on the device's own account wait for a line that another core holds pinned: posted writes,
page-fault records and doorbells (R246). -/
def heldOwn (s : State) (line : Nat) : List Nat :=
  ((s.posted.filter fun p => p.bytes.any fun w => w.1 / 256 == line).map (·.core) ++
    ((s.pageReqs.filter fun r => !r.sent && !r.pri && match (dieAt s r.die).bind fun d => (pfqOf d).map fun q => q.2 + 16 * (d.pfqHead % q.1) with
      | some a => a / 256 == line
      | none => false).map fun r => isleUnit r.die) ++
    s.dies.flatMap fun d => (d.pushes.filter fun p => p.2 / 256 == line).map fun _ => isleUnit d.id).filter fun c => pinnedElsewhere s c line

/-! ### Answers to page requests -/

/-- A fault record with its answer (Table 14-2). -/
def answerRec (r : PageReq) (fail : Bool) (f : FaultRec) : FaultRec :=
  if f.code == 0 && f.page == r.page && f.wr == r.wr && f.fetch == r.fetch then { f with answered := true, refused := f.refused || fail } else f

/-- The fault records of a crew whose block has left its core are written again in its save area (Table 14-6), whose page is at hand. -/
def rewriteFaults (s : State) (b : Block) (c : Crew) : State :=
  match taskAt s b.task with
  | none => s
  | some t =>
    let ws := addrs (saveArea s b + 0x6000 + 0x5000 * c.index + 0x3A0) (c.faults.flatMap faultBytes)
    match pokeVa s b.core t.pasid true ws with
    | some s => s
    | none => endTask s t.no 8 0

/-- Answered fault records are written in a swapped-out block's save area, as soon as the page that they stand in can be written (R46, R65, R246, R313). -/
def payOwed (s : State) (id : Nat) : State :=
  match blockAt s id with
  | none => s
  | some b =>
    b.owed.foldl (fun s k =>
      match crewAt s k, taskAt s b.task with
      | some c, some t =>
        let va := saveArea s b + 0x6000 + 0x5000 * c.index + 0x3A0
        match pagesReady s (.block id) b.core t.pasid true (pagesOf va 512 .write) with
        | (false, s) => s
        | (true, s) => modBlock (rewriteFaults s b c) id fun b => { b with owed := b.owed.filter (· != k) }
      | _, _ => s) s

/-- What waited for a page request goes on with its answer: a copy, a cell, a task's binding table, a block's records, or a crew (R60, R61, R106,
R210, R294, R313). -/
def deliver (s : State) (r : PageReq) (fail : Bool) : State :=
  let refuse (s : State) : State := if fail then modBlock s r.block fun b => { b with refused := r.page :: b.refused } else s
  match r.copy with
  | some id =>
    if r.block ≠ 0 then
      let no (l : List Nat) : List Nat := if fail then r.page :: l else l
      let note (n : CopyNote) : CopyNote := if n.id == id then { n with denied := no n.denied } else n
      { s with copies := s.copies.map fun k => if k.id == id then { k with held := false, denied := no k.denied } else k
               blocks := s.blocks.map fun b => if b.id == r.block then { b with copyNotes := b.copyNotes.map note } else b }
    else
      let cell (c : CellSt) : CellSt := match c.busy with
        | some b => if b.id == id then { c with busy := some { b with held := false, refused := b.refused || fail } } else c
        | none => c
      let round (r : StdRound) : StdRound :=
        if r.busy.id == id then { r with busy := { r.busy with held := false, refused := r.busy.refused || fail } } else r
      { s with isles := s.isles.map (fun i => { i with cells := i.cells.map cell, std := i.std.map round })
               tasks := s.tasks.map fun t => if t.ask == some id then { t with ask := none, refused := t.refused || fail } else t }
  | none =>
    if r.crew = 0 then refuse s
    else
      let s := modCrew s r.crew fun c => { c with faults := c.faults.map (answerRec r fail) }
      match blockAt s r.block with
      | some b => if b.state == .swapped then modBlock s b.id fun b => { b with owed := b.owed.filter (· != r.crew) ++ [r.crew] } else s
      | none => s

/-- A swapped-out block with no request left, and its save area in order, re-enters the distributor (R60, R61; DEDUCED, log entry 34). -/
def reenter (s : State) (id : Nat) : State :=
  match blockAt s id with
  | some b => if b.state == .swapped && b.owed.isEmpty && s.pageReqs.all (fun x => x.block != b.id) then requeue s b.id else s
  | none => s

/-- Every save area that is owed fault records is tried. -/
def payAll (s : State) : State := s.blocks.foldl (fun s b => if b.owed.isEmpty then s else reenter (payOwed s b.id) b.id) s

/-- A page request is answered (R60, R61). -/
def answer (s : State) (r : PageReq) (fail : Bool) : State :=
  reenter (payOwed (deliver { s with pageReqs := s.pageReqs.filter fun x => x.tag != r.tag } r fail) r.block) r.block

/-- LINE_RETRY: an access to a line that another core holds pinned is sent back, with a trace record: that of a flight, or, under the number of none, those that the device
makes on its own account (R246). -/
def execLineRetry (flight line : Nat) (s : State) : Host.Outcome State Fault Refusal :=
  match flightAt s flight with
  | none =>
    match heldOwn s line with
    | [] => noEvent (payAll (retryLogs s))
    | cs => .next (cs.foldl (fun s c => retryOwn s c [line]) s)
  | some f =>
    if !(f.todo.contains line && pinnedElsewhere s f.core line) then noEvent s
    else
      match crewAt s f.crew with
      | some c => .next (emitRetry s line f.core (taskOf s c) f.core c.slot)
      | none => noEvent s

/-- MC_PFQ_RESP written: the fault with this tag is answered; a tag that is not outstanding has no effect (R61). -/
def execMcPfqResp (die : Nat) (v : Word) (s : State) : Host.Outcome State Fault Refusal :=
  if (dieAt s die).isNone then noEvent s
  else hostDoes s fun s =>
    let s := modDie s die fun d => { d with pfqResp := v &&& 0x1FFFF }
    match s.pageReqs.find? fun r => r.sent && !r.pri && r.tag == 2 ^ 32 * (die + 1) + v.toNat % 2 ^ 16 with
    | some r => answer s r (v.getLsbD 16)
    | none => s

/-- MC_PFQ_TAIL written: records that waited for room go out at the end of the step (R61). -/
def execMcPfqTail (die : Nat) (v : Word) (s : State) : Host.Outcome State Fault Refusal :=
  if (dieAt s die).isNone then noEvent s
  else hostDoes s fun s => modDie s die fun d => { d with pfqTail := v.toNat % 2 ^ 17 }

/-! ### ATS and PRI -/

/-- The translation that a completion brings (R58, R59), an HPA under the HDM decoders as they stand (R45); of a request that a shootdown has passed, the 4 KiB
page that it asked for alone (R63). -/
def atsEntry (s : State) (w : Walk) (a : AtsAnswer) : TlbEntry :=
  let base := a.hpa / 2 ^ a.sizeLog * 2 ^ a.sizeLog
  let n := if w.cut then 12 else a.sizeLog
  { pasid := w.pasid, va := w.va / 2 ^ n * 2 ^ n, size := n, pk := (base + w.va % 2 ^ a.sizeLog) / 2 ^ n * 2 ^ n, hdm := some s.hdm
    r := a.read, w := a.write, x := a.exec, p := a.priv, uncached := false, dirty := true, ats := true, leaf := 0 }

/-- ATS_TRANSLATION_COMPLETION (R59): the host-translation cache takes what the completion grants, also where that is not the permission that the access
needs (DEDUCED, log entry 65: R58 caches no result that order 5 refuses, R59 keeps each completion); one that grants nothing leaves the access to ask
through PRI (Table 3-7, order 5). -/
def execAtsTranslationCompletion (req : Nat) (ans : AtsAnswer) (s : State) : Host.Outcome State Fault Refusal :=
  match s.walks.find? fun w => w.id == req && w.ats && w.result == .pending with
  | none => noEvent s
  | some w =>
    hostDoes s fun s =>
      if (ans.read || ans.write || ans.exec) && decide (12 ≤ ans.sizeLog) then
        let e := atsEntry s w ans
        { s with hostTc := pushFront 4096 e (s.hostTc.filter fun x => !(x.pasid == e.pasid && x.va == e.va))
                 walks := s.walks.filter fun x => x.id != req }
      else { s with walks := s.walks.map fun x => if x.id == req then { x with result := .fault } else x }

/-- PAGE_GROUP_RESPONSE (R60). -/
def execPageGroupResponse (req : Nat) (code : PriCode) (s : State) : Host.Outcome State Fault Refusal :=
  match s.pageReqs.find? fun r => r.tag == req && r.pri && r.sent with
  | none => noEvent s
  | some r =>
    hostDoes s fun s =>
      match code with
      | .success => answer { s with hostTc := s.hostTc.filter fun e => !e.hits r.pasid (r.page * 4096) } r false
      | .invalidRequest => answer s r true
      | .responseFailure => (s.pageReqs.filter (·.pri)).foldl (fun s r => answer s r true) { s with priOff := true }

/-- PRI_ENABLE: the host has reset PRI and enabled it again (R60). -/
def execPriEnable (s : State) : Host.Outcome State Fault Refusal := hostDoes s fun s => { s with priOff := false }

/-- ATS_INVALIDATE_REQUEST: a shootdown from the host, of `pages` pages or of the whole PASID (R62). -/
def execAtsInvalidateRequest (pasid va pages : Nat) (s : State) : Host.Outcome State Fault Refusal :=
  if 8 ≤ sdFlying s then noEvent s
  else hostDoes s fun s =>
    let v : Shootdown := ⟨s.nextId, 0, none, 0, pasid, if pages = 0 then none else some (va / 4096 * 4096, pages), [], false⟩
    endShootdowns { s with shootdowns := s.shootdowns ++ [v], nextId := s.nextId + 1 }

end Sys2Proof.Machine
end

