-- ==== Sys2Proof/Machine/HostAcc.lean ====
section
/-!
DEFINITION. The host's accesses: to device memory and to lines that the device caches (R45-R47, R247, R258), and to the registers of BAR0
that have no behaviour of their own (R6).
-/

namespace Sys2Proof.Machine

/-! ### Memory -/

/-- Sectors of a physical range. -/
def rangeSectors (a n : Nat) : List Nat := (List.range ((a + n - 1) / 64 - a / 64 + 1)).map (a / 64 + ·)

/-- How the host holds sectors after its access (R46). -/
def holdSectors (s : State) (secs : List Nat) (keep : Option HostHold) : State :=
  match keep with
  | none => s
  | some h => { s with hostHeld := (s.hostHeld.filter fun x => !secs.contains x.1) ++ secs.map fun x => (x, h) }

/-- An access of the host reaches its line now: one line, and the link up when its home is die 1 (R45, R65). -/
def hostReaches (s : State) (a n : Nat) : Bool :=
  n != 0 && a / 256 == (a + n - 1) / 256 && !(s.link.retraining && homeDie s a == 1 && decide (a < hostBase))

/-- Sectors that the host holds and for which a pinned copy of the line has written bytes: the copy's write-back waits until the host has given them up, and so does the
access that asks for it (R46, R247). -/
def syncHeld (s : State) (key : Nat) : List Nat :=
  (s.cores.flatMap fun c => (c.l1.filter fun l => l.key == key && l.pin.isSome).flatMap writtenSectors).eraseDups.filter (hostHolds s)

/-- HOST_READ (R45, R247): the bytes at the home slice, to which a core that has the line pinned gives its own first; poison where there is no
memory or a sector is poisoned. -/
def execHostRead (addr len : Nat) (keep : Option HostHold) (s : State) : Host.Outcome State Fault Refusal :=
  let a := hpaKey s addr
  if hostBase ≤ a || !hostReaches s a len then noEvent s
  else if !(syncHeld s (a / 256)).isEmpty then hostDoes s fun s => askHost s (syncHeld s (a / 256))
  else hostDoes s fun s =>
    let secs := rangeSectors a len
    if badDpa s a then { s with out := s.out ++ [.readData addr none] }
    else
      let s := holdSectors (sliceAccess (syncLine s (a / 256)) (a / 256) none) secs keep
      let bs := if secs.any fun x => s.poison.contains x then none else some (readBytes s.mem a len)
      { s with out := s.out ++ [.readData addr bs] }

/-- HOST_WRITE (R45, R247, R258): merged at the home slice, with a clock of die 0's that covers the host's earlier writes; at an HPA that no
decoder accepts, the host writes its own memory, after which die 0's stack cache holds no copy of the sectors (R47). -/
def execHostWrite (addr : Nat) (data : List Byte) (keep : Option HostHold) (s : State) : Host.Outcome State Fault Refusal :=
  let a := hpaKey s addr
  if !hostReaches s a data.length then noEvent s
  else if !(syncHeld s (a / 256)).isEmpty then hostDoes s fun s => askHost s (syncHeld s (a / 256))
  else hostDoes s fun s =>
    if badDpa s a then s
    else
      let ws := addrs a data
      let s := sliceAccess (syncLine s (a / 256)) (a / 256) none
      let k := writeClock s a s.hostClock
      let s := refillPins (homeWrite s s.hostClock ws) ws
      let s := { s with hostClock := s.hostClock.sup k }
      if hostBase ≤ a then mesiDrop s (rangeSectors a data.length) else holdSectors s (rangeSectors a data.length) keep

/-- HOST_SNOOP (R47): die 0's home slice answers for a sector of host memory; a pinned copy gives its bytes first, and the
sector's state becomes shared, or invalid where the snoop takes the line (R247). -/
def execHostSnoop (addr : Nat) (inv : Bool) (s : State) : Host.Outcome State Fault Refusal :=
  let a := hpaKey s addr
  if a < hostBase then noEvent s
  else hostDoes s fun s =>
    let b := a / 64 * 64
    let s := syncLine s (a / 256)
    let s := if inv then s else sliceAccess s (a / 256) none
    let s := mesiSet s (if inv then .invalid else .shared) (if inv || sget .invalid s.mesi (a / 64) != .invalid then [a / 64] else [])
    { s with out := s.out ++ [.snoopDone addr (if poisoned s b then none else some (readBytes s.mem b 64))] }

/-- BIRSP (R46): the host gives a sector up, and what waited for it goes on. -/
def execBirsp (sector : Nat) (s : State) : Host.Outcome State Fault Refusal :=
  if s.biWait.contains sector then
    hostDoes s fun s => runPushes { s with biWait := s.biWait.filter (· != sector), hostHeld := s.hostHeld.filter fun h => h.1 != sector }
  else noEvent s

/-! ### Registers -/

/-- A 64-bit register with its base field in [35:12] and its size in [4:0] (Tables 3-3, 15-4). -/
def areaMask : BitVec 64 := 0x0000000FFFFFF01F

/-- The memory control block, registers without behaviour of their own (Tables 3-2 and 3-3). -/
def mcWrite (off : Nat) (v : BitVec 64) (d : Die) : Die :=
  if off = 0x00 ∧ d.id = 0 then { d with pasidBase := v &&& 0x0000000FFFFFF03F }
  else if off = 0x10 then { d with pfqBase := v &&& areaMask }
  else d

/-- The scheduler control block, registers without behaviour of their own (Tables 13-5 and 13-6). -/
def sqWrite (off : Nat) (v : BitVec 64) (d : Die) : Die :=
  if off < 0x100 ∧ off % 16 = 8 then { d with sqCtl := d.sqCtl.set (off / 16) (v.setWidth 32 &&& 0x1F07) }
  else if off < 0x100 ∧ off % 16 = 12 then (if v.getLsbD 16 then { d with sqBusy := d.sqBusy.set (off / 16) false } else d)
  else if off = 0x100 then { d with enckeArea := v &&& 0x00007FFFFFFF0001 }
  else if off = 0x108 then { d with enckeCtl := v.setWidth 32 &&& 0xFFFF }
  else d

/-- RP_CTL and RP_TASK keep MODE and TCB while a region is in progress (R351). -/
def rpWrite (fixed : Bool) (off : Nat) (v : BitVec 64) (r : ReplayBlk) : ReplayBlk :=
  let w : Word := v.setWidth 32
  if off = 0x100 then { r with log := v &&& areaMask }
  else if off = 0x108 then { r with hash := v &&& 0x0000000FFFFFF000 }
  else if off = 0x110 then { r with ctl := if fixed then (r.ctl &&& 3) ||| (w &&& 0x00FFFF00) else w &&& 0x00FFFF03 }
  else if off = 0x114 then (if fixed then r else { r with task := w &&& 0x1FFFFFFF })
  else if off = 0x11C then { r with lend := w.toNat % 2 ^ 30 }
  else if off = 0x120 then
    { r with overflow := r.overflow && !w.getLsbD 1, diverge := r.diverge && !w.getLsbD 2, refused := r.refused && !w.getLsbD 3 }
  else r

/-- The trace control block, registers without behaviour of their own (Tables 15-3 and 15-4). -/
def trWrite (fixed : Bool) (off : Nat) (v : BitVec 64) (d : Die) : Die :=
  if off = 0x18 then { d with trace := { d.trace with pasid := v.setWidth 32 &&& 0xFFFFF } }
  else { d with rp := rpWrite fixed off v d.rp }

/-- Eight bytes of the update window (R373). -/
def windowWrite (m : Mailbox) (off : Nat) (v : BitVec 64) : Mailbox :=
  { m with window := writeBytes m.window off (leSplit (min 8 (2 ^ 16 - off)) v.toNat), touched := m.touched || m.busy }

/-- The registers of configuration space: the enable of MSI-X and the base of the CXL DVSEC's range; the offsets are the model's (R45, R360; log entry 31). -/
def cfgWrite (s : State) (off v : Nat) : State :=
  if off = 0x6000C0 then { s with boot := { s.boot with msixOn := v % 2 == 1 } }
  else if off = 0x600048 then { s with rangeBase := v }
  else s

/-- The registers that recovery mode exposes too: configuration space, the boot record's neighbours and the mailbox (R372, R373, R375, Tables 16-6 and 16-10). -/
def standbyWrite (s : State) (off : Nat) (v : BitVec 64) : State :=
  if off = 0x500020 then { s with boot := { s.boot with secAlarm := s.boot.secAlarm &&& ~~~(v.setWidth 4) } }
  else if off = 0x510004 then { s with mbox := { s.mbox with arg := v.toNat % 2 ^ 16 } }
  else if off = 0x510008 then { s with mbox := { s.mbox with isDone := s.mbox.isDone && !v.getLsbD 1 } }
  else if 0x520000 ≤ off ∧ off < 0x530000 then { s with mbox := windowWrite s.mbox (off - 0x520000) v }
  else cfgWrite s off v.toNat

/-- A base, size or skip of an HDM decoder as its register holds it: a multiple of 256 MiB below 2^52, as CXL decoders have them (R45; PRESUMED, log entry 31). -/
def hdmField (v : Nat) : Nat := v / 2 ^ 28 * 2 ^ 28 % 2 ^ 52

/-- An HDM decoder's base, size and skip: the offsets are the model's (R45; log entry 31). -/
def hdmWrite (s : State) (off v : Nat) : State :=
  let v := hdmField v
  let k := (off - 0x600000) / 32
  let (b, n, t) := s.hdm.getD k (0, 0, 0)
  let e := if off % 32 = 0 then (v, n, t) else if off % 32 = 8 then (b, v, t) else if off % 32 = 16 then (b, n, v) else (b, n, t)
  { s with hdm := s.hdm.set k e }

/-- A register write of a booted device: reserved and read-only fields keep their values (R6). -/
def barWrite (s : State) (off : Nat) (v : BitVec 64) : State :=
  let die := off / 2 ^ 16 % 16
  let o := off % 2 ^ 16
  if 0x100000 ≤ off ∧ off < 0x120000 then modDie s die (mcWrite o v)
  else if 0x200000 ≤ off ∧ off < 0x220000 then modDie s die (sqWrite o v)
  else if off = 0x300000 then setTrace s fun t => { t with base := v &&& areaMask }
  else if 0x300000 ≤ off ∧ off < 0x320000 then modDie s die (trWrite s.region.isSome o v)
  else if 0x400000 ≤ off ∧ off < 0x460000 then
    match ctlRegOf (off % 2 ^ 12 / 4) with
    | some r => if off % 4 = 0 then modCore s ((off - 0x400000) / 2 ^ 12) fun k => k.setCtl r (v.setWidth 32) else s
    | none => s
  else if 0x600000 ≤ off ∧ off < 0x600040 then hdmWrite s off v.toNat
  else standbyWrite s off v

/-- The register has a row of its own in the opcode table. -/
def ownRow (off : Nat) : Bool :=
  let o := off % 2 ^ 16
  (decide (0x100000 ≤ off ∧ off < 0x120000) && (o == 0x1C || o == 0x20 || decide (0x100 ≤ o ∧ o < 0x190) || decide (0x200 ≤ o ∧ o < 0x400))) ||
  (decide (0x200000 ≤ off ∧ off < 0x220000) && (decide (o < 0x100 ∧ o % 16 = 0) || o == 0x110)) ||
  (decide (0x300000 ≤ off ∧ off < 0x320000) && (o == 0x08 || o == 0x10 || o == 0x20 || o == 0x28)) ||
  (decide (0x400000 ≤ off ∧ off < 0x460000) && off % 2 ^ 12 == 0x148) || off == 0x50001C || off == 0x510000

/-- REGISTER_WRITE (R6): to a register without behaviour of its own; in recovery mode only the boot record, the alarm and the mailbox are there. -/
def execRegisterWrite (off : Nat) (v : BitVec 64) (s : State) : Host.Outcome State Fault Refusal :=
  if ownRow off || !s.boot.linkUp then noEvent s
  else .next (if s.boot.recovery then standbyWrite s off v else barWrite s off v)

/-- BOOT_CLEAR written: the chosen steps' words become 0 (R370). -/
def execBootClear (v : Word) (s : State) : Host.Outcome State Fault Refusal :=
  if !s.boot.linkUp then noEvent s
  else .next { s with boot := { s.boot with steps := (s.boot.steps.zipIdx).map fun (w, n) => if v.getLsbD n then 0 else w } }

/-! ### Reads of BAR0 -/

/-- The memory control block as the host reads it (Table 3-2). -/
def mcRead (d : Die) (o : Nat) : Nat :=
  if o = 0x00 then (if d.id = 0 then d.pasidBase.toNat else 0)
  else if o = 0x10 then d.pfqBase.toNat
  else if o = 0x18 then d.pfqHead
  else if o = 0x1C then d.pfqTail
  else if o = 0x20 then d.pfqResp.toNat
  else if 0x100 ≤ o ∧ o < 0x180 ∧ o % 8 = 0 then (d.scPart.getD ((o - 0x100) / 8) 0).toNat
  else if o = 0x180 then d.tenantMap.toNat
  else if o = 0x188 then d.hostMap.toNat
  else if 0x200 ≤ o ∧ o < 0x400 ∧ o % 8 = 0 then (d.pins.getD ((o - 0x200) / 8) 0).toNat
  else if 0x400 ≤ o ∧ o < 0x500 ∧ o % 4 = 0 then d.pinStatus.getD ((o - 0x400) / 4) 0
  else 0

/-- The scheduler control block as the host reads it (Tables 13-5 and 13-6). -/
def sqRead (d : Die) (o : Nat) : Nat :=
  if o < 0x100 ∧ o % 16 = 8 then (d.sqCtl.getD (o / 16) 0).toNat
  else if o < 0x100 ∧ o % 16 = 12 then
    min (d.queues.getD (o / 16) []).length 0xFFFF + (if d.sqBusy.getD (o / 16) false then 2 ^ 16 else 0)
  else if o = 0x100 then d.enckeArea.toNat
  else if o = 0x108 then d.enckeCtl.toNat
  else 0

/-- The trace control block as the host reads it (Tables 15-3 and 15-4). -/
def trRead (s : State) (d : Die) (o : Nat) : Nat :=
  let first (n : Nat) : Nat := if d.id = 0 then n else 0
  if o = 0x00 then first d.trace.base.toNat
  else if o = 0x08 then d.trace.ctl.toNat
  else if o = 0x0C then first d.trace.head
  else if o = 0x10 then first d.trace.tail
  else if o = 0x14 then first d.trace.drops
  else if o = 0x18 then d.trace.pasid.toNat
  else if o = 0x20 then dieTime s d.id
  else if o = 0x28 then first d.trace.adj.toNat
  else if o = 0x100 then d.rp.log.toNat
  else if o = 0x108 then d.rp.hash.toNat
  else if o = 0x110 then d.rp.ctl.toNat
  else if o = 0x114 then d.rp.task.toNat
  else if o = 0x118 then d.rp.head
  else if o = 0x11C then d.rp.lend
  else if o = 0x120 then boolBits [d.rp.active, d.rp.overflow, d.rp.diverge, d.rp.refused]
  else 0

/-- The word of the capability DVSEC that places the table: BIR 0, and the table's offset in 4 KiB units, which is 0 in recovery mode (R364, R372). -/
def dvsecWord (s : State) : Word := if s.boot.recovery then 0 else 0x1000

/-- The size of the HDM range that the CXL DVSEC reports: the memory of the enabled controllers, none in recovery mode (R45, R68, R372). -/
def hdmRange (s : State) : Nat := if s.boot.recovery then 0 else memEnd s

/-- Configuration space: the CXL DVSEC's range (its base register and its size), the Eovik capability DVSEC (its ID and the word that places the table)
and the enable of MSI-X; the offsets are the model's (R45, R360, R364; log entry 31). -/
def cfgRead (s : State) (off : Nat) : Nat :=
  if off = 0x600040 then hdmRange s
  else if off = 0x600048 then s.rangeBase
  else if off = 0x600088 then 0x0A96
  else if off = 0x60008C then (dvsecWord s).toNat
  else if off = 0x6000C0 then (if s.boot.msixOn then 1 else 0)
  else 0

/-- Configuration space, the boot record, the alarm, the mailbox and its window as the host reads them (Tables 16-6 and 16-10). -/
def standbyRead (s : State) (off : Nat) : Nat :=
  if 0x500000 ≤ off ∧ off < 0x500018 ∧ off % 4 = 0 then (s.boot.steps.getD ((off - 0x500000) / 4) 0).toNat
  else if off = 0x500018 then s.boot.cause.toNat
  else if off = 0x500020 then s.boot.secAlarm.toNat
  else if off = 0x510000 then s.mbox.cmd
  else if off = 0x510004 then s.mbox.arg
  else if off = 0x510008 then (if s.mbox.busy then 1 else 0) + (if s.mbox.isDone then 2 else 0) + 4 * s.mbox.result
  else if off = 0x51000C then Config.flashSize.toNat
  else if 0x520000 ≤ off ∧ off < 0x530000 then
    leValue ((List.range (min 8 (0x530000 - off))).map fun k => sget 0 s.mbox.window (off - 0x520000 + k))
  else cfgRead s off

/-- A register or a word of the capability table as the host reads it; reserved offsets read 0 (R6, R364). -/
def barRead (s : State) (off : Nat) : Nat :=
  let die := dieAt s (off / 2 ^ 16 % 16)
  let o := off % 2 ^ 16
  if s.boot.recovery then standbyRead s off
  else if 0x1000 ≤ off ∧ off < 0x2000 then leValue (cut s.boot.table (off - 0x1000) 4)
  else if 0x100000 ≤ off ∧ off < 0x120000 then (match die with | some d => mcRead d o | none => 0)
  else if 0x200000 ≤ off ∧ off < 0x220000 then (match die with | some d => sqRead d o | none => 0)
  else if 0x300000 ≤ off ∧ off < 0x320000 then (match die with | some d => trRead s d o | none => 0)
  else if 0x400000 ≤ off ∧ off < 0x460000 then
    match ctlRegOf (off % 2 ^ 12 / 4), coreAt s ((off - 0x400000) / 2 ^ 12) with
    | some r, some k => if off % 4 = 0 then (coreCtl s k r).toNat else 0
    | _, _ => 0
  else if 0x600000 ≤ off ∧ off < 0x600040 then
    let (b, n, t) := s.hdm.getD ((off - 0x600000) / 32) (0, 0, 0)
    if off % 32 = 0 then b else if off % 32 = 8 then n else if off % 32 = 16 then t else 0
  else standbyRead s off

end Sys2Proof.Machine
end

