-- ==== Sys2Proof/Machine/Boot.lean ====
section
/-!
DEFINITION. Resets and the boot (R369, R370), firmware and its mailbox (R371-R373), attestation (R374), the security alarm (R375), and power
and thermal limits (R376).
-/

namespace Sys2Proof.Machine

/-! ### Flash and firmware -/

/-- Bytes of a flash unit. -/
def flashUnit : Nat := 2 ^ 16

/-- A byte of the flash (R372, R373; DESIGN CHOICE, log entry 38). -/
def flashAt (f : Flash) (a : Nat) : Byte :=
  match f.blocks.find? fun b => b.1 == a / flashUnit with
  | some (_, .data b) => sget 0 b (a % flashUnit)
  | some (_, .unknown n) => Config.flashByte n a
  | none => match f.rest with
    | some n => Config.flashByte n a
    | none => Config.erasedByte a

/-- Bytes of the flash. -/
def flashCut (f : Flash) (a n : Nat) : List Byte := (List.range n).map fun i => flashAt f (a + i)

/-- LENGTH of the firmware image (R371). -/
def fwLength (f : Flash) : Nat := leValue (flashCut f 4 4)

/-- SVN of the firmware image (R371). -/
def fwSvn (f : Flash) : Nat := leValue (flashCut f 8 4)

/-- The image's header is as R371 gives it, and the image with its certificate and signature lies in the flash. -/
def fwHeader (f : Flash) : Bool :=
  leValue (flashCut f 0 4) == 0x57465645 && leValue (flashCut f 12 52) == 0 && decide (0x40 + 0x100 + 96 ≤ fwLength f) &&
  decide (fwLength f ≤ Config.flashSize.toNat * flashUnit)

/-- The firmware image passes the checks of R371. -/
def fwOk (s : State) : Bool :=
  let f := s.mbox.flash
  !f.torn && fwHeader f &&
  (let n := fwLength f
   let cert := flashCut f 0x40 256
   certOk cert Config.rootKey 3 s.fuses.minPlat && imgWord cert 0x18 == 0 &&
   sigVerifies (certKey cert) (flashCut f 0 (n - 96)) (flashCut f (n - 96) 96) && decide (s.fuses.minFw ≤ fwSvn f))

/-! ### Reset -/

/-- Bytes of GDDR7 after a reset: the spec leaves them open. -/
def memAfter (s : State) : List Host.Cell :=
  sputAll 0 (s.mem.filter fun c => decide (hostBase ≤ c.1)) ((Config.memAfterReset s.free).filter fun c => decide (c.1 < hostBase))

/-- A flash write that a reset cuts short leaves an image that fails step 2 (R372). -/
def cutShort (s : State) : Flash :=
  let f := s.mbox.flash
  if !s.mbox.busy then f
  else if s.mbox.cmd = 1 then ⟨[], some s.free, true⟩
  else if s.mbox.cmd = 2 then ⟨(s.mbox.unit, .unknown s.free) :: f.blocks.filter (fun b => b.1 != s.mbox.unit), f.rest, true⟩
  else f

/-- The device in reset, its boot still to run: registers at their reset values, work in flight lost; the standby domain, the fuses, the flash,
host memory and the agenda stay (R369-R376; log entry 32). -/
def resetNow (s : State) (cause : BitVec 3) : State :=
  { State.resetOf s.fuses with
    mem := memAfter s
    boot := { Boot.reset with steps := s.boot.steps, cause := cause, secAlarm := s.boot.secAlarm
                              alarmed := s.boot.alarmed && cause != 0, zeroised := s.boot.zeroised
                              mhz := s.fuses.topMhz, pending := some cause }
    mbox := { Mailbox.reset with flash := cutShort s }
    nextId := s.nextId
    free := s.free + 1
    ticks := s.ticks
    out := s.out
    progress := s.progress
    agenda := s.agenda
    unit := s.unit }

/-! ### Boot steps -/

/-- Where a step begins: at the recorded fallback after OUTCOME 2, at the one after it, if there is one, after OUTCOME 3, else on the normal
path (R369); `last` is the number of its last fallback. -/
def stepStart (w : Word) (last : Nat) : Nat :=
  let v := w.toNat
  match v % 4 with
  | 2 => v / 4 % 64
  | 3 => min (v / 4 % 64 + 1) (max last (v / 4 % 64))
  | _ => 0

/-- The first way from `start` on that passes, or the last one tried; ways are the normal path, 0, and the fallbacks (R369). -/
def stepTry (start last : Nat) (ok : Nat → Bool) : Nat × Bool :=
  match ((List.range (last + 1)).filter fun k => decide (start ≤ k)).find? ok with
  | some k => (k, true)
  | none => (max start last, false)

/-- A step's word after it has run (Table 16-6). -/
def stepWord (old : Word) (way : Nat) (passed : Bool) (detail : Nat) : Word :=
  let out := if passed then (if way = 0 then 1 else 2) else 3
  BitVec.ofNat 32 (out + 4 * (way % 64) + 2 ^ 8 * (detail % 2 ^ 8) + 2 ^ 16 * min (old.toNat / 2 ^ 16 + 1) 0xFFFF)

/-- A step's word put in the boot record. -/
def putStep (s : State) (n : Nat) (w : Word) : State := { s with boot := { s.boot with steps := s.boot.steps.set (n - 1) w } }

/-- The word of step `n`. -/
def stepOf (s : State) (n : Nat) : Word := s.boot.steps.getD (n - 1) 0

/-- Step `n` runs: its word is written, with the way it took (R369). -/
def runStep (s : State) (n last : Nat) (ok : Nat → Bool) (detail : Nat → Nat) : Nat × Bool × State :=
  let (way, passed) := stepTry (stepStart (stepOf s n) last) last ok
  (way, passed, putStep s n (stepWord (stepOf s n) way passed (detail way)))

/-- Recovery mode: CXL.io alone (R372). -/
def recover (s : State) (env : BootEnv) : State :=
  { s with boot := { s.boot with recovery := true, linkUp := decide (0 < env.cxlLanes), cxlLanes := env.cxlLanes, cxlRate := env.cxlRate, pending := none } }

/-- What a boot step comes to: the boot goes on, or it ends there. -/
inductive Booted where
  | goes (s : State)
  | ends (s : State)
deriving Repr

/-- The state that a step leaves. -/
def Booted.state : Booted → State
  | .goes s | .ends s => s

/-- Step 1: the self-test of the ROM (Table 16-5). -/
def bootRom (env : BootEnv) (s : State) : Booted :=
  let (_, rom, s) := runStep s 1 0 (fun _ => env.romOk) fun _ => 0
  if rom then .goes s else .ends { s with boot := { s.boot with pending := none } }

/-- Step 2: the firmware image (R371, Table 16-5). -/
def bootFirmware (env : BootEnv) (s : State) : Booted :=
  let (_, fw, s) := runStep s 2 0 (fun _ => fwOk s) fun _ => 0
  if fw then
    .goes { s with boot := { s.boot with fwDigest := sha384 (flashCut s.mbox.flash 0 (fwLength s.mbox.flash)), degraded := fusedOut s.fuses } }
  else .ends (recover s env)

/-- A controller trains: normally, or with the conservative table on fallback 1 and after it (Table 16-5). -/
def trains (env : BootEnv) (way c : Nat) : Bool := if way = 0 then env.train.getD c false else env.trainSlow.getD c false

/-- The fitted controllers of both dies, by number die x 8 + controller. -/
def fittedCtls (s : State) : List Nat := s.dies.flatMap fun d => d.ctls.map (8 * d.id + ·)

/-- The controllers that a way of step 3 disables. -/
def disabledCtls (s : State) (env : BootEnv) (way : Nat) : List Nat := if way < 2 then [] else (fittedCtls s).filter fun c => !trains env way c

/-- A way of step 3 passes: every controller trains, or, on fallback 2, each die keeps one (Table 16-5). -/
def trainOk (s : State) (env : BootEnv) (way : Nat) : Bool :=
  if way < 2 then (fittedCtls s).all (trains env way)
  else [0, 1].all fun d => (fittedCtls s).any fun c => c / 8 == d && trains env way c

/-- Step 3: GDDR7 (R68, Table 16-5). -/
def bootMemory (s : State) (env : BootEnv) : State :=
  let (way, _, t) := runStep s 3 2 (trainOk s env) fun way => ((disabledCtls s env way).min?).getD 0
  let off := disabledCtls s env way
  let dies := t.dies.map fun d =>
    let ctls := d.ctls.filter fun k => !off.contains (8 * d.id + k)
    { d with ctls := ctls, fenced := d.fenced || ctls.isEmpty }
  { t with dies := dies, boot := { t.boot with degraded := t.boot.degraded ++ off.map (fun c => degradedRec 3 c 2) ++
                                                          (dies.filter (·.fenced)).map fun d => degradedRec 6 d.id 2 } }

/-- Step 4: the die-to-die link (R66, Table 16-5). -/
def bootLink (s : State) (env : BootEnv) : State :=
  let (way, ok, s) := runStep s 4 1 (fun way => if way = 0 then env.linkFull else env.linkHalf) fun _ => 0
  if !ok then
    let s := { s with link := { s.link with down := true } }
    let new := if fenced s 1 then [] else [degradedRec 6 1 2]
    let s := modDie s 1 fun d => { d with fenced := true }
    { s with boot := { s.boot with degraded := s.boot.degraded ++ new } }
  else if way = 1 then { s with link := { s.link with half := true }, boot := { s.boot with degraded := s.boot.degraded ++ [degradedRec 4 0 2] } }
  else s

/-- The host link came up below x16 or 64 GT/s. -/
def linkReduced (env : BootEnv) : Bool := env.cxlLanes != 16 || env.cxlRate != 64

/-- Step 5: CXL link-up, at the width and rate that its training settles on. CXL training numbers the fallbacks, and a boot that fails has tried the last
of them, so none follows the one it records (R361, R369, Table 16-5). -/
def bootHost (s : State) (env : BootEnv) : State :=
  let up := decide (0 < env.cxlLanes)
  let start := stepStart (stepOf s 5) 0
  let way := if linkReduced env ∨ start ≠ 0 then max 1 (max start (env.cxlFallback % 64)) else 0
  let s := putStep s 5 (stepWord (stepOf s 5) way up env.cxlLanes)
  let new := if up && linkReduced env then [degradedRec 5 0 2] else []
  { s with boot := { s.boot with linkUp := up, cxlLanes := env.cxlLanes, cxlRate := env.cxlRate, degraded := s.boot.degraded ++ new } }

/-- Step 6: publication (R366, Table 16-5). -/
def bootPublish (s : State) (env : BootEnv) : State :=
  let (_, ok, s) := runStep s 6 0 (fun _ => env.publishOk) fun _ => 0
  if !ok then recover s env
  else
    let record := s.boot.steps ++ [s.boot.cause.setWidth 32, 0]
    rewriteTable { s with boot := { s.boot with published := true, record := record, pending := none } } false

/-- The security alarm (R375, Table 16-9): the monitors latch, and the fused policy acts; false when it has reset the device. -/
def alarmNow (s : State) (monitors : BitVec 4) : Bool × State :=
  let s := refreshStatus { s with boot := { s.boot with secAlarm := s.boot.secAlarm ||| monitors, alarmed := true } }
  match s.fuses.policy.toNat with
  | 0 => (true, tellVec s 6)
  | 1 => (false, resetNow s 2)
  | _ => (false, resetNow { s with boot := { s.boot with zeroised := true } } 2)

/-- Step `n` of a boot that has come this far, once the alarm that the monitors raise before it, if any, has acted (R375). -/
def bootStep (env : BootEnv) (b : Booted) (n : Nat) (f : State → Booted) : Booted :=
  match b with
  | .ends s => .ends s
  | .goes s =>
    let m := env.alarms.getD (n - 1) 0
    if m = 0 then f s
    else match alarmNow s m with
      | (true, s) => f s
      | (false, s) => .ends s

/-- The boot of a device in reset: the six steps in order, each with the alarm that comes before it (R369, R375; DEDUCED, log entry 37). -/
def bootAll (s : State) (env : BootEnv) : State :=
  let b := bootStep env (bootStep env (.goes s) 1 (bootRom env)) 2 (bootFirmware env)
  let b := bootStep env b 3 fun s =>
    let s := bootMemory s env
    if ctlCount s 0 = 0 then .ends (recover s env) else .goes s
  let b := bootStep env (bootStep env b 4 fun s => .goes (bootLink s env)) 5 fun s => .goes (bootHost s env)
  (bootStep env b 6 fun s => .ends (bootPublish s env)).state

/-- POWER_ON_RESET (R369): a power-on or a reset by the host, or the boot after a reset of the device's own. -/
def execPowerOnReset (env : BootEnv) (s : State) : Host.Outcome State Fault Refusal :=
  match s.boot.pending with
  | some _ => .next (bootAll s env)
  | none => if env.cause == 0 || env.cause == 1 then .next (bootAll (resetNow s env.cause) env) else noEvent s

/-- STANDBY_POWER_LOSS: the boot record reads 0 (R370). -/
def execStandbyPowerLoss (s : State) : Host.Outcome State Fault Refusal :=
  .next { s with boot := { s.boot with steps := List.replicate 6 0, cause := 0, secAlarm := 0 } }

/-! ### The update mailbox -/

/-- A command is complete (R373). -/
def completeFw (s : State) (result : Nat) : State :=
  tellVec { s with mbox := { s.mbox with result := result, busy := false, isDone := true } } 7

/-- The mailbox takes a command: none runs while another is in progress (R372, R373). -/
def startFw (s : State) (cmd : Nat) : Host.Outcome State Fault Refusal :=
  if !s.boot.linkUp then noEvent s
  else if s.mbox.busy then .next s
  else .next { s with mbox := { s.mbox with cmd := cmd, unit := s.mbox.arg, busy := true, touched := false } }

/-- A command or an argument that is invalid: RESULT 3 at once (R373). -/
def refuseFw (s : State) (cmd : Nat) : Host.Outcome State Fault Refusal :=
  if !s.boot.linkUp then noEvent s
  else if s.mbox.busy then .next s
  else .next (completeFw { s with mbox := { s.mbox with cmd := cmd } } 3)

/-- FW_ERASE (R372). -/
def execFwErase (s : State) : Host.Outcome State Fault Refusal := startFw s 1

/-- FW_PROGRAM (R372, R373). -/
def execFwProgram (s : State) : Host.Outcome State Fault Refusal :=
  if Config.flashSize.toNat ≤ s.mbox.arg then refuseFw s 2 else startFw s 2

/-- FW_VERIFY (R372). -/
def execFwVerify (s : State) : Host.Outcome State Fault Refusal := startFw s 3

/-- FW_COMMIT (R372). -/
def execFwCommit (s : State) : Host.Outcome State Fault Refusal := startFw s 4

/-- FW_INVALID_COMMAND (R373). -/
def execFwInvalidCommand (code : Nat) (s : State) : Host.Outcome State Fault Refusal :=
  if code = 0 ∨ (5 ≤ code ∧ code < 16) then refuseFw s code
  else if code = 2 ∧ Config.flashSize.toNat ≤ s.mbox.arg then refuseFw s 2
  else noEvent s

/-- The unit that a PROGRAM leaves: the window's bytes, or what the spec leaves open after an error or a change of the window (R373). -/
def programmed (s : State) (ok : Bool) : FlashBlk := if ok && !s.mbox.touched then .data s.mbox.window else .unknown s.free

/-- What a command does when it completes (Table 16-7). -/
def finishFw (s : State) (flashOk : Bool) : State :=
  let f := s.mbox.flash
  if s.mbox.cmd = 1 then
    completeFw { s with mbox := { s.mbox with flash := ⟨[], if flashOk then none else some s.free, f.torn && !flashOk⟩ }, free := s.free + 1 }
      (if flashOk then 0 else 1)
  else if s.mbox.cmd = 2 then
    let blk := (s.mbox.unit, programmed s flashOk)
    let f := { f with blocks := blk :: f.blocks.filter (fun b => b.1 != s.mbox.unit), torn := f.torn && !flashOk }
    completeFw { s with mbox := { s.mbox with flash := f }, free := s.free + 1 } (if flashOk then 0 else 1)
  else if s.mbox.cmd = 3 then
    let ok := fwOk s
    completeFw { s with mbox := { s.mbox with verified := if ok then some (fwSvn f) else none } } (if ok then 0 else 1)
  else
    match s.mbox.verified with
    | some n => completeFw { s with fuses := { s.fuses with minFw := max s.fuses.minFw n } } 0
    | none => completeFw s 2

/-- FW_COMMAND_COMPLETE (R373): `flashOk` is the flash's answer to an ERASE or a PROGRAM. -/
def execFwCommandComplete (flashOk : Bool) (s : State) : Host.Outcome State Fault Refusal :=
  if s.mbox.busy then .next (finishFw s flashOk) else noEvent s

/-! ### Attestation -/

/-- An SPDM response (R374; PRESUMED, log entry 39). -/
def respond (s : State) (r : SpdmResp) : Host.Outcome State Fault Refusal :=
  if s.boot.linkUp then .next (tell s (.spdm r)) else noEvent s

/-- GET_VERSION: SPDM 1.2 (R374). -/
def execGetVersion (s : State) : Host.Outcome State Fault Refusal := respond s (.version 12)

/-- GET_CAPABILITIES (R374). -/
def execGetCapabilities (s : State) : Host.Outcome State Fault Refusal := respond s .capabilities

/-- NEGOTIATE_ALGORITHMS: ECDSA P-384 and SHA-384 (R374). -/
def execNegotiateAlgorithms (s : State) : Host.Outcome State Fault Refusal := respond s (.algorithms 384 384)

/-- GET_DIGESTS: of the chain in slot 0 (R374). -/
def execGetDigests (s : State) : Host.Outcome State Fault Refusal := respond s (.digests (sha384 Config.identityChain))

/-- GET_CERTIFICATE: a part of the chain in slot 0 (R374). -/
def execGetCertificate (slot off len : Nat) (s : State) : Host.Outcome State Fault Refusal :=
  if slot ≠ 0 ∨ Config.identityChain.length < off then respond s .error
  else
    let part := cut Config.identityChain off len
    respond s (.certificate part (Config.identityChain.length - off - part.length))

/-- CHALLENGE: refused after zeroisation, when the identity key is gone (R374, R375). -/
def execChallenge (slot : Nat) (nonce : List Byte) (s : State) : Host.Outcome State Fault Refusal :=
  if slot ≠ 0 ∨ s.boot.zeroised then respond s .error
  else
    let d := sha384 Config.identityChain
    respond s (.challengeAuth d (Config.sign (d ++ nonce)))

/-- The fuse configuration (Table 16-8). -/
def fuseWords (f : Fuses) : List Nat :=
  [(if f.av64 then 1 else 0), f.policy.toNat, f.minPlat, f.minTitle, f.minFw, unitMask 96 f.coreOn] ++ f.islands.map (·.toNat) ++ [0, 1].map fun d => unitMask 8 (f.ctlOn d)

/-- TITLE and digest of the active image of every island, in code order, die 0 first: an absent island has its standard image (Table 16-8; log entry 39). -/
def isleIds (s : State) : List Byte :=
  s.isles.flatMap fun i =>
    leSplit 8 (isleTitle i).toNat ++ (match i.image with | some im => im.digest | none => Config.standardDigest i.code)

/-- A measurement (Table 16-8). -/
def measurement (s : State) (n : Nat) : List Byte :=
  match n with
  | 1 => Config.romDigest
  | 2 => s.boot.fwDigest
  | 3 => Config.fuseBytes (fuseWords s.fuses)
  | 4 => sha384 s.boot.table
  | _ => sha384 (isleIds s)

/-- The measurements that a request names: one, or with 0xFF all (R374). -/
def measured (s : State) (index : Nat) : Option (List (Nat × List Byte)) :=
  if 1 ≤ index ∧ index ≤ 5 then some [(index, measurement s index)]
  else if index = 0xFF then some ([1, 2, 3, 4, 5].map fun n => (n, measurement s n))
  else none

/-- GET_MEASUREMENTS (R374): index 0 asks for their number; signed ones are refused after zeroisation (R375). -/
def execGetMeasurements (index : Nat) (signed : Bool) (nonce : List Byte) (s : State) : Host.Outcome State Fault Refusal :=
  if signed && s.boot.zeroised then respond s .error
  else if index = 0 then respond s (.measurementCount 5 (if signed then some (Config.sign (5 :: nonce)) else none))
  else match measured s index with
  | none => respond s .error
  | some ms => respond s (.measurements ms (if signed then some (Config.sign ((ms.flatMap (·.2)) ++ nonce)) else none))

/-! ### Alarm, clock and trip -/

/-- SECURITY_ALARM (R375, Table 16-9). -/
def execSecurityAlarm (monitors : BitVec 4) (s : State) : Host.Outcome State Fault Refusal :=
  if monitors = 0 then noEvent s else .next (alarmNow s monitors).2

/-- CLOCK_THROTTLE (R376): the arithmetic clock goes down, or up again, by 25 MHz; cycles stay what they are (R11). -/
def execClockThrottle (lower : Bool) (s : State) : Host.Outcome State Fault Refusal :=
  let top := (configFigures s).1
  if lower then (if 25 < s.boot.mhz then .next { s with boot := { s.boot with mhz := s.boot.mhz - 25 } } else noEvent s)
  else if s.boot.mhz + 25 ≤ top then .next { s with boot := { s.boot with mhz := s.boot.mhz + 25 } }
  else noEvent s

/-- THERMAL_TRIP (R376): every clock stops, and the device resets with BOOT_CAUSE 3. -/
def execThermalTrip (s : State) : Host.Outcome State Fault Refusal := .next (resetNow s 3)

end Sys2Proof.Machine
end

