-- ==== Sys2Proof/Machine/Debug.lean ====
section
/-!
DEFINITION. DBG, and Damgon's buffer and registers (chapter 15): the order in which records are written, their encoding, the timebase.
-/

namespace Sys2Proof.Machine

/-! ### DBG -/

/-- BRK (R348). -/
def brkBody (x : Ctx) (s : State) : Res := if (actor x s).isNone then .done s else .trap trapBreak s

/-- DBG BRK (R348). -/
def execDbgBrk (x : Pfx) (s : State) : Host.Outcome State Fault Refusal := issue { i := .dbgBrk x } brkBody s

/-- BRK, 16-bit (R25, R348). -/
def execBrk (s : State) : Host.Outcome State Fault Refusal := issue { i := .brk } brkBody s

/-- The lowest lane of a mask. -/
def lowLane (m : Mask) : Nat := (laneIds.find? (laneIn m)).getD 0

/-- DBG TRACE (R348). -/
def execDbgTrace (x : Pfx) (n : BitVec 6) (a : RCode) (s : State) : Host.Outcome State Fault Refusal :=
  issue { i := .dbgTrace x n a, ops := [.src a] }
    (fun u s => match actor u s with
      | none => .done s
      | some (p, c) => match srcReg c a.toNat with
        | none => .trap trapOperand s
        | some r => .done (emitLoc s c .user 7 4 n.toNat 0 u.pc (wordBytes p.act ++ wordBytes (r.at (lowLane p.act))))) s

/-- A hash mismatch at a MARK traps: REPLAY_CTL.DIVTRAP of the crew's core (R358). -/
def divTraps (s : State) (core : Nat) : Bool :=
  match coreAt s core with
  | some k => k.replayCtl.getLsbD 0
  | none => false

/-- The body of DBG MARK (R348, R357, R358); the store hash must hold every atomic before the mark (R356). -/
def markBody (n : BitVec 6) (x : Ctx) (s : State) : Res :=
  match actor x s with
  | none => .done s
  | some (p, c) =>
    if inRegion s c && !c.hashQ.isEmpty then .hold s
    else
      let (bad, t) := checkpoint (emitLoc s c .user 6 2 n.toNat 0 x.pc []) c.id 1
      if bad && divTraps s c.core then
        match trapReady s [c.id] with
        | (false, s) => .hold s
        | (true, _) => .moved (trapNext x p trapDiverge t)
      else .done t

/-- DBG MARK (R348). -/
def execDbgMark (x : Pfx) (n : BitVec 6) (s : State) : Host.Outcome State Fault Refusal :=
  issue { i := .dbgMark x n } (markBody n) s

/-! ### The buffer -/

/-- A varint of a delta: 7 bits a byte, least significant first, at most four bytes (R339). -/
def varint : Nat → Nat → List Byte
  | 0, _ => []
  | k + 1, v => if v < 128 then [BitVec.ofNat 8 v] else BitVec.ofNat 8 (v % 128 + 128) :: varint k (v / 128)

/-- A TIME record (R339, Table 15-2). -/
def timeRec (t : Nat) : List Byte := 0x41 :: leSplit 8 t

/-- A record with its header and delta (R339). -/
def recBytes (typ cls delta : Nat) (payload : List Byte) : List Byte :=
  BitVec.ofNat 8 (typ + 32 * cls) :: varint 4 delta ++ payload

/-- The records that go into the buffer for one record of the merger: TIME where R340 wants one, DROP after losses (R345). -/
def pieces (t : TraceBlk) (r : TraceRec) : List (List Byte) :=
  let first := !t.started || decide (2 ^ 28 ≤ r.time - t.last)
  let d := if first then 0 else r.time - t.last
  let head := if first then [timeRec r.time] else []
  let drop := if t.lost = 0 then [] else [recBytes 2 1 d (leSplit 4 t.lost)]
  let d := if t.lost = 0 then d else 0
  let mark := (r.typ == 6 || r.typ == 13) && (!first || t.lost != 0)
  head ++ drop ++ (if mark then [timeRec r.time] else []) ++ [recBytes r.typ r.cls (if mark then 0 else d) r.payload]

/-- Bytes placed from an offset: none straddles the end, which PAD records fill (R340). -/
def placePieces (size : Nat) : Nat → List (List Byte) → List (Nat × Byte) × Nat × Nat
  | at_, [] => ([], at_, 0)
  | at_, p :: ps =>
    let pad := if size < at_ + p.length then size - at_ else 0
    let start := if pad = 0 then at_ else 0
    let (ws, head, n) := placePieces size ((start + p.length) % size) ps
    (addrs at_ (List.replicate pad 0) ++ addrs start p ++ ws, head, pad + p.length + n)

/-- The buffer's base (Table 15-4). -/
def TraceBlk.area (t : TraceBlk) : Nat := t.base.toNat / 2 ^ 12 % 2 ^ 24 * 2 ^ 12

/-- Bytes between TAIL and HEAD. -/
def TraceBlk.held (t : TraceBlk) (size : Nat) : Nat := (t.head % size + size - t.tail % size) % size

/-- THRESH bytes; 0: never (Table 15-4). -/
def TraceBlk.thresh (t : TraceBlk) : Nat := t.ctl.toNat / 2 ^ 16 * 1024

/-- Order of the merger: time, then die 0 first, then source; one source keeps its order (R338). -/
def recBefore (a b : TraceRec) : Bool :=
  decide (a.time < b.time) || (a.time == b.time && (decide (a.die < b.die) || (a.die == b.die && decide (a.src < b.src))))

/-- The record that is next in order. -/
def nextRec : List TraceRec → Option TraceRec
  | [] => none
  | r :: rs => match nextRec rs with
    | some q => if recBefore q r then some q else some r
    | none => some r

/-- Die 0 may write the record: one of its own when it has heard of die 1 up to the record's time, one of die 1's when it has crossed the link.  The time of die 0, and for
a record of die 1 that die's too, has passed the record's, so that no record that goes before it, of a lower source at the same time among them, can still come
(R338). -/
def recReady (s : State) (r : TraceRec) : Bool :=
  decide (r.time < s.time) &&
  (fenced s 1 ||
    if r.die = 1 then !s.link.retraining && decide (r.time < s.time1)
    else (!s.link.retraining && s.traceQ.any fun q => q.die == 1 && decide (r.time ≤ q.time)) || decide (r.time ≤ s.link.beat))

/-! ### Locations -/

/-- What finding a LOC comes to: the word, or a read that has to wait (R341). -/
inductive LocOut where
  | word (w : Word) (s : State)
  | wait (s : State)
deriving Repr

/-- LOC where it names no code (R341). -/
def noLoc : Word := 0xFFFFFFFF

/-- Lines of a table read by Damgon for a die, at die scope under a PASID, in order: none where one of them cannot be read (R341; DESIGN CHOICE, log entry 90). -/
def readTable (die pasid : Nat) : List (Nat × Nat) → State → Option (List Byte) × Bool × State
  | [], s => (some [], false, s)
  | (va, n) :: ps, s =>
    match devRead s .trace (isleUnit die) pasid va n with
    | .wait s => (none, true, s)
    | .bad _ s | .fault s => (none, false, s)
    | .bytes bs s =>
      match readTable die pasid ps s with
      | (some rest, w, s) => (some (bs ++ rest), w, s)
      | r => r

/-- The pieces of `n` bytes from an address that lie in one line each. -/
def tablePieces (va n : Nat) : List (Nat × Nat) := (vlines va n).map fun l => (max va l, min (va + n) (l + 256) - max va l)

/-- LOC of a code address in a safe-point table of `n` entries (R341). -/
def locOf (tb : List Byte) (n : Nat) (pc : Word) : Word :=
  match lastAtOrBelow ((List.range n).map fun i => num tb (16 * i) 4) pc.toNat with
  | none => noLoc
  | some (i, o) => if 4095 < (pc.toNat - o) / 2 then noLoc else BitVec.ofNat 32 (i % 2 ^ 20 + 2 ^ 20 * ((pc.toNat - o) / 2))

/-- The location word of a code address, from the table that the trace descriptor of its task's resource table names; the reads delay the record alone (R341). -/
def findLoc (s : State) (die : Nat) (l : TraceLoc) : LocOut :=
  match readTable die l.pasid [(l.rtab + 0x1C0, 12)] s with
  | (none, true, s) => .wait s
  | (none, false, s) => .word noLoc (forget s .trace)
  | (some d, _, s) =>
    match readTable die l.pasid (tablePieces (num d 0 8 % 2 ^ 57) (16 * num d 8 4)) s with
    | (none, true, s) => .wait s
    | (none, false, s) => .word noLoc (forget s .trace)
    | (some tb, _, s) => .word (locOf tb (num d 8 4) l.pc) (forget s .trace)

/-- The record with its LOC (Table 15-2). -/
def TraceRec.located (r : TraceRec) (w : Word) : TraceRec := { r with loc := none, payload := r.payload.take 4 ++ wordBytes w ++ r.payload.drop 8 }

/-- The queue with its first record equal to `r` replaced. -/
def replaceFirst (r x : TraceRec) : List TraceRec → List TraceRec
  | [] => []
  | q :: qs => if q = r then x :: qs else q :: replaceFirst r x qs

/-- The queue without its first record equal to `r`. -/
def dropFirst (r : TraceRec) : List TraceRec → List TraceRec
  | [] => []
  | q :: qs => if q = r then qs else q :: dropFirst r qs

/-- The machine with die 0's trace control changed. -/
def modTrace (s : State) (f : TraceBlk → TraceBlk) : State := modDie s 0 fun d => { d with trace := f d.trace }

/-- A record written, or dropped and counted, or held (R345); it waits while the host or the link keeps die 0 from its bytes (R46, R65). -/
def writeRec (s : State) (t : TraceBlk) (size : Nat) (r : TraceRec) : State :=
  let (ws, head, n) := placePieces size (t.head % size) (pieces t r)
  let ws := ws.map fun w => (t.area + w.1, w.2)
  let room := (t.tail % size + size - t.head % size - 1) % size
  if room < n then
    if t.ctl.getLsbD 1 && decide (r.src < 321) then { s with progress := false }
    else dropRec { s with traceQ := dropFirst r s.traceQ }
  else if writeBarred s (isleUnit 0) ws then { askHost s (sectorKeys ws) with progress := false }
  else
    let s := post { s with traceQ := dropFirst r s.traceQ } (isleUnit 0) none ws
    let t' := { t with head := head, started := true, last := r.time, lost := 0 }
    let s := modTrace s fun _ => t'
    if t.thresh ≠ 0 ∧ t.held size < t.thresh ∧ t.thresh ≤ t'.held size then raiseVec s 4 else s

/-- TRACE_RECORD_WRITE (R338-R345): the next record in order. -/
def execTraceRecordWrite (s : State) : Host.Outcome State Fault Refusal :=
  match trace0 s, nextRec s.traceQ with
  | some t, some r =>
    match t.size with
    | some size =>
      if !(t.on && recReady s r) then noEvent s
      else match r.loc with
        | none => .next (writeRec s t size r)
        | some l => match findLoc s r.die l with
          | .wait s => noEvent s
          | .word w s => .next (writeRec { s with traceQ := replaceFirst r (r.located w) s.traceQ } t size (r.located w))
    | none => noEvent s
  | _, _ => noEvent s

/-- LINK_HEARTBEAT: die 1's time reaches die 0's merger (R338). -/
def execLinkHeartbeat (s : State) : Host.Outcome State Fault Refusal :=
  if s.link.retraining || fenced s 1 then noEvent s else .next { s with link := { s.link with beat := s.time1 } }

/-- TR_CTL of a die set (R340, Table 15-4; DEDUCED, log entry 22). -/
def setTrCtl (die : Nat) (v : Word) (s : State) : State :=
  let w := v &&& 0xFFFF03FF
  if die = 0 then setTrace s fun t => { t with ctl := w } else modDie s die fun d => { d with trace := { d.trace with ctl := w } }

/-- TR_CTL written (R340). -/
def execTrCtl (die : Nat) (v : Word) (s : State) : Host.Outcome State Fault Refusal := hostDoes s (setTrCtl die v)

/-- TR_TIME of die 0 written: a step while EN is 0 or acts as 0; die 1's copy follows, and a heartbeat of the old time counts no more (R337, Table 15-4). -/
def execTrTime (v : BitVec 64) (s : State) : Host.Outcome State Fault Refusal :=
  hostDoes s fun s => match dieAt s 0 with
    | none => s
    | some d => if d.trace.on then s else { s with time := v.toNat, time1 := v.toNat, slewed := 0, link := { s.link with beat := 0 } }

/-- TR_ADJ written: an offset to slew (R337). -/
def execTrAdj (v : Word) (s : State) : Host.Outcome State Fault Refusal := hostDoes s fun s => modTrace s fun t => { t with adj := v }

/-- TR_TAIL written: room in the buffer (R345). -/
def execTrTail (v : Word) (s : State) : Host.Outcome State Fault Refusal :=
  hostDoes s fun s => modTrace s fun t => { t with tail := v.toNat % 2 ^ 30 }

/-- TRACE_SAMPLE written by the host: K, and the count restarts (R335, R347). -/
def execTraceSample (core : Nat) (v : Word) (s : State) : Host.Outcome State Fault Refusal :=
  hostDoes s fun s => modCore s core fun k => k.setCtl .traceSample v

end Sys2Proof.Machine
end

