-- ==== Sys2Proof/Machine/Integer.lean ====
section
/-!
DEFINITION. Integer and address instructions (chapter 07): majors 0x01-0x23 and the integer 16-bit forms.
-/

namespace Sys2Proof.Machine

/-- Any other instruction: U from U sources, else G (Table 6-2). -/
def plainShape (_ : Fmt) (a b : Reg) : Shape := uShape [a.shape, b.shape]

/-- One U and one A operand of a word format give A (Table 6-2: IADD, ISUB, LEA, IMUL). -/
def affineShape (f : Fmt) (a b : Reg) : Shape :=
  if a.shape == .u && b.shape == .u then .u
  else if f.isIndex && ((a.shape == .u && b.shape == .a) || (a.shape == .a && b.shape == .u)) then .a
  else .g

/-- SHL: an A value shifted by a U count gives A (Table 6-2). -/
def shlShape (f : Fmt) (a b : Reg) : Shape :=
  if a.shape == .u && b.shape == .u then .u
  else if f.isIndex && a.shape == .a && b.shape == .u then .a
  else .g

/-- The common effect of a two-source instruction on one crew (R147): `fm` the result format, `w` the word result, `sh` the shape, which at set scope each member
takes from its own tags (R123; DEDUCED, log entry 76). -/
def bin (fm : Fmt → Fmt → Option Fmt) (w : Fmt → Word → Word → Word) (sh : Fmt → Reg → Reg → Shape)
    (d a : RCode) (b : Src) (p : Part) (c : Crew) : Option Nat × Crew :=
  if p.act = 0 then (none, c)
  else
    match srcReg c a.toNat with
    | none => (some trapOperand, c)
    | some ra =>
      match srcVal c b ra.fmt with
      | none => (some trapOperand, c)
      | some rb =>
        match fm ra.fmt rb.fmt with
        | none => (some trapFormat, c)
        | some f =>
          (none, writeResult c d.toNat (laneReg (sh f ra rb) f (ra.taint ||| rb.taint) fun l => w f (ra.at l) (rb.at l)) p.act p.full)

/-- The common effect of an instruction that also reads vd (R153). -/
def tri (fm : Fmt → Fmt → Fmt → Option Fmt) (w : Fmt → Word → Word → Word → Word)
    (d a : RCode) (b : Src) (p : Part) (c : Crew) : Option Nat × Crew :=
  if p.act = 0 then (none, c)
  else
    match srcReg c a.toNat with
    | none => (some trapOperand, c)
    | some ra =>
      match srcVal c b ra.fmt with
      | none => (some trapOperand, c)
      | some rb =>
        let rd := vreg c d.toNat
        match fm ra.fmt rb.fmt rd.fmt with
        | none => (some trapFormat, c)
        | some f =>
          (none, writeResult c d.toNat (laneReg (uShape [ra.shape, rb.shape, rd.shape]) f (ra.taint ||| rb.taint ||| rd.taint)
            fun l => w f (ra.at l) (rb.at l) (rd.at l)) p.act p.full)

/-- The common effect of a one-source instruction (R154). -/
def una (fm : Fmt → Option Fmt) (w : Fmt → Word → Word) (d a : RCode) (p : Part) (c : Crew) : Option Nat × Crew :=
  if p.act = 0 then (none, c)
  else
    match srcReg c a.toNat with
    | none => (some trapOperand, c)
    | some ra =>
      match fm ra.fmt with
      | none => (some trapFormat, c)
      | some f =>
        (none, writeResult c d.toNat (laneReg (uShape [ra.shape]) f ra.taint fun l => w ra.fmt (ra.at l)) p.act p.full)

/-- The common effect of a compare: `fm` says whether the formats are accepted (R155, R173). -/
def cmp (fm : Fmt → Fmt → Bool) (w : Fmt → Word → Word → Bool) (q e k : BitVec 2) (a : RCode) (b : Src)
    (p : Part) (c : Crew) : Option Nat × Crew :=
  if p.act = 0 then (none, c)
  else
    match srcReg c a.toNat with
    | none => (some trapOperand, c)
    | some ra =>
      match srcVal c b ra.fmt with
      | none => (some trapOperand, c)
      | some rb =>
        if fm ra.fmt rb.fmt then
          let cond := fun l => w ra.fmt (ra.at l) (rb.at l)
          let od := c.pred.getD q.toNat 0
          let oe := c.pred.getD e.toNat 0
          let pd := predWrite p.act od fun l => combineD k (laneIn od l) (cond l)
          let pe := predWrite p.act oe fun l => combineE k (laneIn oe l) (cond l)
          let ps := c.pred.set q.toNat pd
          (none, { c with pred := if e = 3 then ps else ps.set e.toNat pe })
        else (some trapFormat, c)

/-- pd is p0-p2, pe another of them or none (R23). -/
def cmpOk (q e : BitVec 2) : Bool := decide (q ≠ 3) && decide (e ≠ q)

/-- Operands of a two-source instruction (R21). -/
def binOps (d a : RCode) (b : Src) : List Opnd := [.dst d, .src a, .srcB b]

/-- Operands of an instruction whose vd is a source too (R153). -/
def triOps (d a : RCode) (b : Src) : List Opnd := [.vec d, .src a, .srcB b]

/-- A 5-bit register number of a 16-bit form (R24). -/
def v5 (d : BitVec 5) : RCode := d.setWidth 6

/-- IADD (R147). -/
def execIadd (x : Pfx) (d a : RCode) (b : Src) (s : State) : Host.Outcome State Fault Refusal :=
  issue { i := .iadd x d a b, ops := binOps d a b } (eachCrew (bin IOp.add.fmt IOp.add.word affineShape d a b)) s

/-- ISUB (R147). -/
def execIsub (x : Pfx) (d a : RCode) (b : Src) (s : State) : Host.Outcome State Fault Refusal :=
  issue { i := .isub x d a b, ops := binOps d a b } (eachCrew (bin IOp.sub.fmt IOp.sub.word affineShape d a b)) s

/-- IMUL (R147). -/
def execImul (x : Pfx) (d a : RCode) (b : Src) (s : State) : Host.Outcome State Fault Refusal :=
  issue { i := .imul x d a b, ops := binOps d a b } (eachCrew (bin IOp.mul.fmt IOp.mul.word affineShape d a b)) s

/-- IMULH (R147). -/
def execImulh (x : Pfx) (d a : RCode) (b : Src) (s : State) : Host.Outcome State Fault Refusal :=
  issue { i := .imulh x d a b, ops := binOps d a b } (eachCrew (bin IOp.mulh.fmt IOp.mulh.word plainShape d a b)) s

/-- IMULHU (R147). -/
def execImulhu (x : Pfx) (d a : RCode) (b : Src) (s : State) : Host.Outcome State Fault Refusal :=
  issue { i := .imulhu x d a b, ops := binOps d a b } (eachCrew (bin IOp.mulhu.fmt IOp.mulhu.word plainShape d a b)) s

/-- IMAD (R153). -/
def execImad (x : Pfx) (d a : RCode) (b : Src) (s : State) : Host.Outcome State Fault Refusal :=
  issue { i := .imad x d a b, ops := triOps d a b } (eachCrew (tri (fun f g h => if f.isInt && f == g && g == h then some f else none) imadWord d a b)) s

/-- IDIV (R148). -/
def execIdiv (x : Pfx) (d a : RCode) (b : Src) (s : State) : Host.Outcome State Fault Refusal :=
  issue { i := .idiv x d a b, ops := binOps d a b } (eachCrew (bin IOp.div.fmt IOp.div.word plainShape d a b)) s

/-- IDIVU (R148). -/
def execIdivu (x : Pfx) (d a : RCode) (b : Src) (s : State) : Host.Outcome State Fault Refusal :=
  issue { i := .idivu x d a b, ops := binOps d a b } (eachCrew (bin IOp.divu.fmt IOp.divu.word plainShape d a b)) s

/-- IREM (R148). -/
def execIrem (x : Pfx) (d a : RCode) (b : Src) (s : State) : Host.Outcome State Fault Refusal :=
  issue { i := .irem x d a b, ops := binOps d a b } (eachCrew (bin IOp.rem.fmt IOp.rem.word plainShape d a b)) s

/-- IREMU (R148). -/
def execIremu (x : Pfx) (d a : RCode) (b : Src) (s : State) : Host.Outcome State Fault Refusal :=
  issue { i := .iremu x d a b, ops := binOps d a b } (eachCrew (bin IOp.remu.fmt IOp.remu.word plainShape d a b)) s

/-- IMIN (R147). -/
def execImin (x : Pfx) (d a : RCode) (b : Src) (s : State) : Host.Outcome State Fault Refusal :=
  issue { i := .imin x d a b, ops := binOps d a b } (eachCrew (bin IOp.min.fmt IOp.min.word plainShape d a b)) s

/-- IMAX (R147). -/
def execImax (x : Pfx) (d a : RCode) (b : Src) (s : State) : Host.Outcome State Fault Refusal :=
  issue { i := .imax x d a b, ops := binOps d a b } (eachCrew (bin IOp.max.fmt IOp.max.word plainShape d a b)) s

/-- IMINU (R147). -/
def execIminu (x : Pfx) (d a : RCode) (b : Src) (s : State) : Host.Outcome State Fault Refusal :=
  issue { i := .iminu x d a b, ops := binOps d a b } (eachCrew (bin IOp.minu.fmt IOp.minu.word plainShape d a b)) s

/-- IMAXU (R147). -/
def execImaxu (x : Pfx) (d a : RCode) (b : Src) (s : State) : Host.Outcome State Fault Refusal :=
  issue { i := .imaxu x d a b, ops := binOps d a b } (eachCrew (bin IOp.maxu.fmt IOp.maxu.word plainShape d a b)) s

/-- IADDS (R149). -/
def execIadds (x : Pfx) (d a : RCode) (b : Src) (s : State) : Host.Outcome State Fault Refusal :=
  issue { i := .iadds x d a b, ops := binOps d a b } (eachCrew (bin IOp.adds.fmt IOp.adds.word plainShape d a b)) s

/-- ISUBS (R149). -/
def execIsubs (x : Pfx) (d a : RCode) (b : Src) (s : State) : Host.Outcome State Fault Refusal :=
  issue { i := .isubs x d a b, ops := binOps d a b } (eachCrew (bin IOp.subs.fmt IOp.subs.word plainShape d a b)) s

/-- AND (R147). -/
def execAnd (x : Pfx) (d a : RCode) (b : Src) (s : State) : Host.Outcome State Fault Refusal :=
  issue { i := .and x d a b, ops := binOps d a b } (eachCrew (bin IOp.and.fmt IOp.and.word plainShape d a b)) s

/-- OR (R147). -/
def execOr (x : Pfx) (d a : RCode) (b : Src) (s : State) : Host.Outcome State Fault Refusal :=
  issue { i := .or x d a b, ops := binOps d a b } (eachCrew (bin IOp.or.fmt IOp.or.word plainShape d a b)) s

/-- XOR (R147). -/
def execXor (x : Pfx) (d a : RCode) (b : Src) (s : State) : Host.Outcome State Fault Refusal :=
  issue { i := .xor x d a b, ops := binOps d a b } (eachCrew (bin IOp.xor.fmt IOp.xor.word plainShape d a b)) s

/-- ANDN (R147). -/
def execAndn (x : Pfx) (d a : RCode) (b : Src) (s : State) : Host.Outcome State Fault Refusal :=
  issue { i := .andn x d a b, ops := binOps d a b } (eachCrew (bin IOp.andn.fmt IOp.andn.word plainShape d a b)) s

/-- SHL (R150). -/
def execShl (x : Pfx) (d a : RCode) (b : Src) (s : State) : Host.Outcome State Fault Refusal :=
  issue { i := .shl x d a b, ops := binOps d a b } (eachCrew (bin IOp.shl.fmt IOp.shl.word shlShape d a b)) s

/-- SHR (R150). -/
def execShr (x : Pfx) (d a : RCode) (b : Src) (s : State) : Host.Outcome State Fault Refusal :=
  issue { i := .shr x d a b, ops := binOps d a b } (eachCrew (bin IOp.shr.fmt IOp.shr.word plainShape d a b)) s

/-- SAR (R150). -/
def execSar (x : Pfx) (d a : RCode) (b : Src) (s : State) : Host.Outcome State Fault Refusal :=
  issue { i := .sar x d a b, ops := binOps d a b } (eachCrew (bin IOp.sar.fmt IOp.sar.word plainShape d a b)) s

/-- ROL (R150). -/
def execRol (x : Pfx) (d a : RCode) (b : Src) (s : State) : Host.Outcome State Fault Refusal :=
  issue { i := .rol x d a b, ops := binOps d a b } (eachCrew (bin IOp.rol.fmt IOp.rol.word plainShape d a b)) s

/-- BFE (R151). -/
def execBfe (x : Pfx) (d a : RCode) (b : Src) (s : State) : Host.Outcome State Fault Refusal :=
  issue { i := .bfe x d a b, ops := binOps d a b } (eachCrew (bin (fun f g => if f.isIndex && g.isIndex then some f else none) (fun _ => bfeWord) plainShape d a b)) s

/-- BFI (R151). -/
def execBfi (x : Pfx) (d a : RCode) (b : Src) (s : State) : Host.Outcome State Fault Refusal :=
  issue { i := .bfi x d a b, ops := triOps d a b } (eachCrew (tri (fun f g h => if f.isIndex && g.isIndex && h.isIndex then some h else none) (fun _ => bfiWord) d a b)) s

/-- LEA (R152). -/
def execLea (x : Pfx) (d a : RCode) (b : Src) (s : State) : Host.Outcome State Fault Refusal :=
  issue { i := .lea x d a b, ops := binOps d a b } (eachCrew (bin leaFmt (fun _ => leaWord) affineShape d a b)) s

/-- IDOT4 (R153). -/
def execIdot4 (x : Pfx) (d a : RCode) (b : Src) (s : State) : Host.Outcome State Fault Refusal :=
  issue { i := .idot4 x d a b, ops := triOps d a b } (eachCrew (tri (fun f g h => if f == .i8x4 && g == .i8x4 && h == .i32 then some .i32 else none) (fun _ => idot4Word) d a b)) s

/-- IUN_NOT (R154). -/
def execIunNot (x : Pfx) (d a : RCode) (s : State) : Host.Outcome State Fault Refusal :=
  issue { i := .iunNot x d a, ops := [.dst d, .src a] } (eachCrew (una UOp.not.fmt UOp.not.word d a)) s

/-- IUN_INEG (R154). -/
def execIunIneg (x : Pfx) (d a : RCode) (s : State) : Host.Outcome State Fault Refusal :=
  issue { i := .iunIneg x d a, ops := [.dst d, .src a] } (eachCrew (una UOp.neg.fmt UOp.neg.word d a)) s

/-- IUN_IABS (R154). -/
def execIunIabs (x : Pfx) (d a : RCode) (s : State) : Host.Outcome State Fault Refusal :=
  issue { i := .iunIabs x d a, ops := [.dst d, .src a] } (eachCrew (una UOp.abs.fmt UOp.abs.word d a)) s

/-- IUN_POPC (R154). -/
def execIunPopc (x : Pfx) (d a : RCode) (s : State) : Host.Outcome State Fault Refusal :=
  issue { i := .iunPopc x d a, ops := [.dst d, .src a] } (eachCrew (una UOp.popc.fmt UOp.popc.word d a)) s

/-- IUN_CLZ (R154). -/
def execIunClz (x : Pfx) (d a : RCode) (s : State) : Host.Outcome State Fault Refusal :=
  issue { i := .iunClz x d a, ops := [.dst d, .src a] } (eachCrew (una UOp.clz.fmt UOp.clz.word d a)) s

/-- IUN_BREV (R154). -/
def execIunBrev (x : Pfx) (d a : RCode) (s : State) : Host.Outcome State Fault Refusal :=
  issue { i := .iunBrev x d a, ops := [.dst d, .src a] } (eachCrew (una UOp.brev.fmt UOp.brev.word d a)) s

/-- IUN_SX8 (R154). -/
def execIunSx8 (x : Pfx) (d a : RCode) (s : State) : Host.Outcome State Fault Refusal :=
  issue { i := .iunSx8 x d a, ops := [.dst d, .src a] } (eachCrew (una UOp.sx8.fmt UOp.sx8.word d a)) s

/-- IUN_SX16 (R154). -/
def execIunSx16 (x : Pfx) (d a : RCode) (s : State) : Host.Outcome State Fault Refusal :=
  issue { i := .iunSx16 x d a, ops := [.dst d, .src a] } (eachCrew (una UOp.sx16.fmt UOp.sx16.word d a)) s

/-- IUN_ZX8 (R154). -/
def execIunZx8 (x : Pfx) (d a : RCode) (s : State) : Host.Outcome State Fault Refusal :=
  issue { i := .iunZx8 x d a, ops := [.dst d, .src a] } (eachCrew (una UOp.zx8.fmt UOp.zx8.word d a)) s

/-- IUN_ZX16 (R154). -/
def execIunZx16 (x : Pfx) (d a : RCode) (s : State) : Host.Outcome State Fault Refusal :=
  issue { i := .iunZx16 x d a, ops := [.dst d, .src a] } (eachCrew (una UOp.zx16.fmt UOp.zx16.word d a)) s

/-- ICEQ (R155). -/
def execIceq (x : Pfx) (p e k : BitVec 2) (a : RCode) (b : Src) (s : State) : Host.Outcome State Fault Refusal :=
  issue { i := .iceq x p e k a b, ops := [.src a, .srcB b], ok := fun _ => cmpOk p e } (eachCrew (cmp (fun f g => f.isIndex && f == g) (fun _ => ICmp.eq.holds) p e k a b)) s

/-- ICNE (R155). -/
def execIcne (x : Pfx) (p e k : BitVec 2) (a : RCode) (b : Src) (s : State) : Host.Outcome State Fault Refusal :=
  issue { i := .icne x p e k a b, ops := [.src a, .srcB b], ok := fun _ => cmpOk p e } (eachCrew (cmp (fun f g => f.isIndex && f == g) (fun _ => ICmp.ne.holds) p e k a b)) s

/-- ICLT (R155). -/
def execIclt (x : Pfx) (p e k : BitVec 2) (a : RCode) (b : Src) (s : State) : Host.Outcome State Fault Refusal :=
  issue { i := .iclt x p e k a b, ops := [.src a, .srcB b], ok := fun _ => cmpOk p e } (eachCrew (cmp (fun f g => f.isIndex && f == g) (fun _ => ICmp.lt.holds) p e k a b)) s

/-- ICLE (R155). -/
def execIcle (x : Pfx) (p e k : BitVec 2) (a : RCode) (b : Src) (s : State) : Host.Outcome State Fault Refusal :=
  issue { i := .icle x p e k a b, ops := [.src a, .srcB b], ok := fun _ => cmpOk p e } (eachCrew (cmp (fun f g => f.isIndex && f == g) (fun _ => ICmp.le.holds) p e k a b)) s

/-- ICLTU (R155). -/
def execIcltu (x : Pfx) (p e k : BitVec 2) (a : RCode) (b : Src) (s : State) : Host.Outcome State Fault Refusal :=
  issue { i := .icltu x p e k a b, ops := [.src a, .srcB b], ok := fun _ => cmpOk p e } (eachCrew (cmp (fun f g => f.isIndex && f == g) (fun _ => ICmp.ltu.holds) p e k a b)) s

/-- ICLEU (R155). -/
def execIcleu (x : Pfx) (p e k : BitVec 2) (a : RCode) (b : Src) (s : State) : Host.Outcome State Fault Refusal :=
  issue { i := .icleu x p e k a b, ops := [.src a, .srcB b], ok := fun _ => cmpOk p e } (eachCrew (cmp (fun f g => f.isIndex && f == g) (fun _ => ICmp.leu.holds) p e k a b)) s

/-- IADD_16 (R156). -/
def execIadd16 (d : BitVec 5) (v : RCode) (s : State) : Host.Outcome State Fault Refusal :=
  issue { i := .iadd16 d v, ops := binOps (v5 d) (v5 d) (.reg v) } (eachCrew (bin IOp.add.fmt IOp.add.word affineShape (v5 d) (v5 d) (.reg v))) s

/-- ISUB_16 (R156). -/
def execIsub16 (d : BitVec 5) (v : RCode) (s : State) : Host.Outcome State Fault Refusal :=
  issue { i := .isub16 d v, ops := binOps (v5 d) (v5 d) (.reg v) } (eachCrew (bin IOp.sub.fmt IOp.sub.word affineShape (v5 d) (v5 d) (.reg v))) s

/-- IMUL_16 (R156). -/
def execImul16 (d : BitVec 5) (v : RCode) (s : State) : Host.Outcome State Fault Refusal :=
  issue { i := .imul16 d v, ops := binOps (v5 d) (v5 d) (.reg v) } (eachCrew (bin IOp.mul.fmt IOp.mul.word affineShape (v5 d) (v5 d) (.reg v))) s

/-- AND_16 (R156). -/
def execAnd16 (d : BitVec 5) (v : RCode) (s : State) : Host.Outcome State Fault Refusal :=
  issue { i := .and16 d v, ops := binOps (v5 d) (v5 d) (.reg v) } (eachCrew (bin IOp.and.fmt IOp.and.word plainShape (v5 d) (v5 d) (.reg v))) s

/-- OR_16 (R156). -/
def execOr16 (d : BitVec 5) (v : RCode) (s : State) : Host.Outcome State Fault Refusal :=
  issue { i := .or16 d v, ops := binOps (v5 d) (v5 d) (.reg v) } (eachCrew (bin IOp.or.fmt IOp.or.word plainShape (v5 d) (v5 d) (.reg v))) s

/-- XOR_16 (R156). -/
def execXor16 (d : BitVec 5) (v : RCode) (s : State) : Host.Outcome State Fault Refusal :=
  issue { i := .xor16 d v, ops := binOps (v5 d) (v5 d) (.reg v) } (eachCrew (bin IOp.xor.fmt IOp.xor.word plainShape (v5 d) (v5 d) (.reg v))) s

/-- SHL_16 (R156). -/
def execShl16 (d : BitVec 5) (v : RCode) (s : State) : Host.Outcome State Fault Refusal :=
  issue { i := .shl16 d v, ops := binOps (v5 d) (v5 d) (.reg v) } (eachCrew (bin IOp.shl.fmt IOp.shl.word shlShape (v5 d) (v5 d) (.reg v))) s

/-- SHR_16 (R156). -/
def execShr16 (d : BitVec 5) (v : RCode) (s : State) : Host.Outcome State Fault Refusal :=
  issue { i := .shr16 d v, ops := binOps (v5 d) (v5 d) (.reg v) } (eachCrew (bin IOp.shr.fmt IOp.shr.word plainShape (v5 d) (v5 d) (.reg v))) s

/-- SAR_16 (R156). -/
def execSar16 (d : BitVec 5) (v : RCode) (s : State) : Host.Outcome State Fault Refusal :=
  issue { i := .sar16 d v, ops := binOps (v5 d) (v5 d) (.reg v) } (eachCrew (bin IOp.sar.fmt IOp.sar.word plainShape (v5 d) (v5 d) (.reg v))) s

/-- IMIN_16 (R156). -/
def execImin16 (d : BitVec 5) (v : RCode) (s : State) : Host.Outcome State Fault Refusal :=
  issue { i := .imin16 d v, ops := binOps (v5 d) (v5 d) (.reg v) } (eachCrew (bin IOp.min.fmt IOp.min.word plainShape (v5 d) (v5 d) (.reg v))) s

/-- IMAX_16 (R156). -/
def execImax16 (d : BitVec 5) (v : RCode) (s : State) : Host.Outcome State Fault Refusal :=
  issue { i := .imax16 d v, ops := binOps (v5 d) (v5 d) (.reg v) } (eachCrew (bin IOp.max.fmt IOp.max.word plainShape (v5 d) (v5 d) (.reg v))) s

end Sys2Proof.Machine
end

