-- ==== Sys2Proof/Machine/Float.lean ====
section
/-!
DEFINITION. Floating-point instructions (chapter 08): majors 0x24-0x27, 0x37-0x3F and the floating-point 16-bit forms.
-/

namespace Sys2Proof.Machine

/-- FFMA accepts one floating-point format in va, vb and vd (R164). -/
def ffmaFmt (f g h : Fmt) : Option Fmt := if f.isFloat && f == g && g == h then some f else none

/-- FCEQ (R173). -/
def execFceq (x : Pfx) (p e k : BitVec 2) (a : RCode) (b : Src) (s : State) : Host.Outcome State Fault Refusal :=
  issue { i := .fceq x p e k a b, ops := [.src a, .srcB b], ok := fun _ => cmpOk p e } (eachCrew (cmp (fun f g => (fcmpFmt f g).isSome) FCmp.eq.holds p e k a b)) s

/-- FCLT (R173). -/
def execFclt (x : Pfx) (p e k : BitVec 2) (a : RCode) (b : Src) (s : State) : Host.Outcome State Fault Refusal :=
  issue { i := .fclt x p e k a b, ops := [.src a, .srcB b], ok := fun _ => cmpOk p e } (eachCrew (cmp (fun f g => (fcmpFmt f g).isSome) FCmp.lt.holds p e k a b)) s

/-- FCLE (R173). -/
def execFcle (x : Pfx) (p e k : BitVec 2) (a : RCode) (b : Src) (s : State) : Host.Outcome State Fault Refusal :=
  issue { i := .fcle x p e k a b, ops := [.src a, .srcB b], ok := fun _ => cmpOk p e } (eachCrew (cmp (fun f g => (fcmpFmt f g).isSome) FCmp.le.holds p e k a b)) s

/-- FCUN (R173). -/
def execFcun (x : Pfx) (p e k : BitVec 2) (a : RCode) (b : Src) (s : State) : Host.Outcome State Fault Refusal :=
  issue { i := .fcun x p e k a b, ops := [.src a, .srcB b], ok := fun _ => cmpOk p e } (eachCrew (cmp (fun f g => (fcmpFmt f g).isSome) FCmp.un.holds p e k a b)) s

/-- FADD (R165). -/
def execFadd (x : Pfx) (d a : RCode) (b : Src) (s : State) : Host.Outcome State Fault Refusal :=
  issue { i := .fadd x d a b, ops := binOps d a b } (eachCrew (bin floatOpFmt FOp.add.word plainShape d a b)) s

/-- FSUB (R165). -/
def execFsub (x : Pfx) (d a : RCode) (b : Src) (s : State) : Host.Outcome State Fault Refusal :=
  issue { i := .fsub x d a b, ops := binOps d a b } (eachCrew (bin floatOpFmt FOp.sub.word plainShape d a b)) s

/-- FMUL (R165). -/
def execFmul (x : Pfx) (d a : RCode) (b : Src) (s : State) : Host.Outcome State Fault Refusal :=
  issue { i := .fmul x d a b, ops := binOps d a b } (eachCrew (bin floatOpFmt FOp.mul.word plainShape d a b)) s

/-- FFMA (R167). -/
def execFfma (x : Pfx) (d a : RCode) (b : Src) (s : State) : Host.Outcome State Fault Refusal :=
  issue { i := .ffma x d a b, ops := triOps d a b } (eachCrew (tri ffmaFmt ffmaWord d a b)) s

/-- FMIN (R168). -/
def execFmin (x : Pfx) (d a : RCode) (b : Src) (s : State) : Host.Outcome State Fault Refusal :=
  issue { i := .fmin x d a b, ops := binOps d a b } (eachCrew (bin floatOpFmt FOp.min.word plainShape d a b)) s

/-- FMAX (R168). -/
def execFmax (x : Pfx) (d a : RCode) (b : Src) (s : State) : Host.Outcome State Fault Refusal :=
  issue { i := .fmax x d a b, ops := binOps d a b } (eachCrew (bin floatOpFmt FOp.max.word plainShape d a b)) s

/-- FDIV (R166). -/
def execFdiv (x : Pfx) (d a : RCode) (b : Src) (s : State) : Host.Outcome State Fault Refusal :=
  issue { i := .fdiv x d a b, ops := binOps d a b } (eachCrew (bin floatOpFmt FOp.div.word plainShape d a b)) s

/-- FUN_FNEG (R170). -/
def execFunFneg (x : Pfx) (d a : RCode) (s : State) : Host.Outcome State Fault Refusal :=
  issue { i := .funFneg x d a, ops := [.dst d, .src a] } (eachCrew (una FunOp.neg.fmt FunOp.neg.word d a)) s

/-- FUN_FABS (R170). -/
def execFunFabs (x : Pfx) (d a : RCode) (s : State) : Host.Outcome State Fault Refusal :=
  issue { i := .funFabs x d a, ops := [.dst d, .src a] } (eachCrew (una FunOp.abs.fmt FunOp.abs.word d a)) s

/-- FUN_FRCP (R170). -/
def execFunFrcp (x : Pfx) (d a : RCode) (s : State) : Host.Outcome State Fault Refusal :=
  issue { i := .funFrcp x d a, ops := [.dst d, .src a] } (eachCrew (una FunOp.rcp.fmt FunOp.rcp.word d a)) s

/-- FUN_FRSQ (R170). -/
def execFunFrsq (x : Pfx) (d a : RCode) (s : State) : Host.Outcome State Fault Refusal :=
  issue { i := .funFrsq x d a, ops := [.dst d, .src a] } (eachCrew (una FunOp.rsq.fmt FunOp.rsq.word d a)) s

/-- FUN_FSQRT (R170). -/
def execFunFsqrt (x : Pfx) (d a : RCode) (s : State) : Host.Outcome State Fault Refusal :=
  issue { i := .funFsqrt x d a, ops := [.dst d, .src a] } (eachCrew (una FunOp.sqrt.fmt FunOp.sqrt.word d a)) s

/-- FUN_FEXP2 (R170). -/
def execFunFexp2 (x : Pfx) (d a : RCode) (s : State) : Host.Outcome State Fault Refusal :=
  issue { i := .funFexp2 x d a, ops := [.dst d, .src a] } (eachCrew (una FunOp.exp2.fmt FunOp.exp2.word d a)) s

/-- FUN_FLOG2 (R170). -/
def execFunFlog2 (x : Pfx) (d a : RCode) (s : State) : Host.Outcome State Fault Refusal :=
  issue { i := .funFlog2 x d a, ops := [.dst d, .src a] } (eachCrew (una FunOp.log2.fmt FunOp.log2.word d a)) s

/-- FUN_FSIN (R170). -/
def execFunFsin (x : Pfx) (d a : RCode) (s : State) : Host.Outcome State Fault Refusal :=
  issue { i := .funFsin x d a, ops := [.dst d, .src a] } (eachCrew (una FunOp.sin.fmt FunOp.sin.word d a)) s

/-- FUN_FCOS (R170). -/
def execFunFcos (x : Pfx) (d a : RCode) (s : State) : Host.Outcome State Fault Refusal :=
  issue { i := .funFcos x d a, ops := [.dst d, .src a] } (eachCrew (una FunOp.cos.fmt FunOp.cos.word d a)) s

/-- FUN_FFLR (R170). -/
def execFunFflr (x : Pfx) (d a : RCode) (s : State) : Host.Outcome State Fault Refusal :=
  issue { i := .funFflr x d a, ops := [.dst d, .src a] } (eachCrew (una FunOp.flr.fmt FunOp.flr.word d a)) s

/-- FUN_FCEIL (R170). -/
def execFunFceil (x : Pfx) (d a : RCode) (s : State) : Host.Outcome State Fault Refusal :=
  issue { i := .funFceil x d a, ops := [.dst d, .src a] } (eachCrew (una FunOp.ceil.fmt FunOp.ceil.word d a)) s

/-- FUN_FTRNC (R170). -/
def execFunFtrnc (x : Pfx) (d a : RCode) (s : State) : Host.Outcome State Fault Refusal :=
  issue { i := .funFtrnc x d a, ops := [.dst d, .src a] } (eachCrew (una FunOp.trnc.fmt FunOp.trnc.word d a)) s

/-- FUN_FRINT (R170). -/
def execFunFrint (x : Pfx) (d a : RCode) (s : State) : Host.Outcome State Fault Refusal :=
  issue { i := .funFrint x d a, ops := [.dst d, .src a] } (eachCrew (una FunOp.rint.fmt FunOp.rint.word d a)) s

/-- FUN_FCLS (R171). -/
def execFunFcls (x : Pfx) (d a : RCode) (s : State) : Host.Outcome State Fault Refusal :=
  issue { i := .funFcls x d a, ops := [.dst d, .src a] } (eachCrew (una FunOp.cls.fmt FunOp.cls.word d a)) s

/-- CVT (R174). -/
def execCvt (x : Pfx) (f : Fmt) (m : RMode) (sat : Bool) (d a : RCode) (s : State) : Host.Outcome State Fault Refusal :=
  issue { i := .cvt x f m sat d a, ops := [.dst d, .src a] } (eachCrew (una (fun _ => some f) (fun g => cvtWord g f m sat) d a)) s

/-- FADD_16 (R177). -/
def execFadd16 (d : BitVec 5) (v : RCode) (s : State) : Host.Outcome State Fault Refusal :=
  issue { i := .fadd16 d v, ops := binOps (v5 d) (v5 d) (.reg v) } (eachCrew (bin floatOpFmt FOp.add.word plainShape (v5 d) (v5 d) (.reg v))) s

/-- FMUL_16 (R177). -/
def execFmul16 (d : BitVec 5) (v : RCode) (s : State) : Host.Outcome State Fault Refusal :=
  issue { i := .fmul16 d v, ops := binOps (v5 d) (v5 d) (.reg v) } (eachCrew (bin floatOpFmt FOp.mul.word plainShape (v5 d) (v5 d) (.reg v))) s

/-- FSUB_16 (R177). -/
def execFsub16 (d : BitVec 5) (v : RCode) (s : State) : Host.Outcome State Fault Refusal :=
  issue { i := .fsub16 d v, ops := binOps (v5 d) (v5 d) (.reg v) } (eachCrew (bin floatOpFmt FOp.sub.word plainShape (v5 d) (v5 d) (.reg v))) s

end Sys2Proof.Machine
end

