-- ==== Sys2Proof/Machine/LoadStore.lean ====
section
/-!
DEFINITION. Loads, stores and record instructions (R83-R91, R142-R144): majors 0x4C-0x57 and 0x5A-0x5F.
-/

namespace Sys2Proof.Machine

/-- LDB (R85). -/
def execLdb (x : Pfx) (h : BitVec 2) (m : BitVec 4) (d a : RCode) (s : State) : Host.Outcome State Fault Refusal :=
  issue { i := .ldb x h m d a, ops := [.vec d, .src a], waits := true } (accessBody ⟨.load 1 1 false, d, a, m, h⟩) s

/-- LDBS (R85). -/
def execLdbs (x : Pfx) (h : BitVec 2) (m : BitVec 4) (d a : RCode) (s : State) : Host.Outcome State Fault Refusal :=
  issue { i := .ldbs x h m d a, ops := [.vec d, .src a], waits := true } (accessBody ⟨.load 1 1 true, d, a, m, h⟩) s

/-- LDH (R85). -/
def execLdh (x : Pfx) (h : BitVec 2) (m : BitVec 4) (d a : RCode) (s : State) : Host.Outcome State Fault Refusal :=
  issue { i := .ldh x h m d a, ops := [.vec d, .src a], waits := true } (accessBody ⟨.load 2 1 false, d, a, m, h⟩) s

/-- LDHS (R85). -/
def execLdhs (x : Pfx) (h : BitVec 2) (m : BitVec 4) (d a : RCode) (s : State) : Host.Outcome State Fault Refusal :=
  issue { i := .ldhs x h m d a, ops := [.vec d, .src a], waits := true } (accessBody ⟨.load 2 1 true, d, a, m, h⟩) s

/-- LDW (R85). -/
def execLdw (x : Pfx) (h : BitVec 2) (m : BitVec 4) (d a : RCode) (s : State) : Host.Outcome State Fault Refusal :=
  issue { i := .ldw x h m d a, ops := [.vec d, .src a], waits := true } (accessBody ⟨.load 4 1 false, d, a, m, h⟩) s

/-- LDD (R85). -/
def execLdd (x : Pfx) (h : BitVec 2) (m : BitVec 4) (d a : RCode) (s : State) : Host.Outcome State Fault Refusal :=
  issue { i := .ldd x h m d a, ops := [.grp d 2, .src a], waits := true } (accessBody ⟨.load 8 2 false, d, a, m, h⟩) s

/-- LDQ (R85). -/
def execLdq (x : Pfx) (h : BitVec 2) (m : BitVec 4) (d a : RCode) (s : State) : Host.Outcome State Fault Refusal :=
  issue { i := .ldq x h m d a, ops := [.grp d 4, .src a], waits := true } (accessBody ⟨.load 16 4 false, d, a, m, h⟩) s

/-- STB (R86). -/
def execStb (x : Pfx) (h : BitVec 2) (m : BitVec 4) (d a : RCode) (s : State) : Host.Outcome State Fault Refusal :=
  issue { i := .stb x h m d a, ops := [.src d, .src a], waits := true } (accessBody ⟨.store 1 1, d, a, m, h⟩) s

/-- STH (R86). -/
def execSth (x : Pfx) (h : BitVec 2) (m : BitVec 4) (d a : RCode) (s : State) : Host.Outcome State Fault Refusal :=
  issue { i := .sth x h m d a, ops := [.src d, .src a], waits := true } (accessBody ⟨.store 2 1, d, a, m, h⟩) s

/-- STW (R86). -/
def execStw (x : Pfx) (h : BitVec 2) (m : BitVec 4) (d a : RCode) (s : State) : Host.Outcome State Fault Refusal :=
  issue { i := .stw x h m d a, ops := [.src d, .src a], waits := true } (accessBody ⟨.store 4 1, d, a, m, h⟩) s

/-- STD (R86). -/
def execStd (x : Pfx) (h : BitVec 2) (m : BitVec 4) (d a : RCode) (s : State) : Host.Outcome State Fault Refusal :=
  issue { i := .std x h m d a, ops := [.grp d 2, .src a], waits := true } (accessBody ⟨.store 8 2, d, a, m, h⟩) s

/-- STQ (R86). -/
def execStq (x : Pfx) (h : BitVec 2) (m : BitVec 4) (d a : RCode) (s : State) : Host.Outcome State Fault Refusal :=
  issue { i := .stq x h m d a, ops := [.grp d 4, .src a], waits := true } (accessBody ⟨.store 16 4, d, a, m, h⟩) s

/-- The index register lies outside the group that an LDM writes (R142; DEDUCED, log entry 18). -/
def ldmIndexOk (d a : RCode) (n : Nat) : Bool := decide (a.toNat < d.toNat) || decide (d.toNat + n ≤ a.toNat)

/-- LDM (R143). -/
def execLdm (x : Pfx) (h : BitVec 2) (m : BitVec 4) (n : BitVec 3) (d a : RCode) (s : State) : Host.Outcome State Fault Refusal :=
  issue { i := .ldm x h m n d a, ops := [.grp d (n.toNat + 1), .src a], ok := fun _ => ldmIndexOk d a (n.toNat + 1), waits := true }
    (accessBody ⟨.ldm (n.toNat + 1), d, a, m, h⟩) s

/-- STM (R143). -/
def execStm (x : Pfx) (h : BitVec 2) (m : BitVec 4) (n : BitVec 3) (d a : RCode) (s : State) : Host.Outcome State Fault Refusal :=
  issue { i := .stm x h m n d a, ops := [.grp d (n.toNat + 1), .src a], waits := true } (accessBody ⟨.stm (n.toNat + 1), d, a, m, h⟩) s

/-! ### Records -/

/-- MREC on one crew (R89). -/
def mrecBody (m : BitVec 4) (d : RCode) (p : Part) (c : Crew) : Option Nat × Crew :=
  if p.act = 0 then (none, c)
  else
    let q := (List.range 4).map fun i => vreg c (d.toNat + i)
    if q.any fun r => r.shape != .u then (some trapOperand, c)
    else
      let v := q.zipIdx.foldl (fun v (r, i) => v + (r.at 0).toNat * 2 ^ (32 * i)) 0
      (none, { c with recs := c.recs.set m.toNat ⟨BitVec.ofNat 128 v, q.foldl (fun t r => t ||| r.taint) 0⟩ })

/-- MREC (R89). -/
def execMrec (x : Pfx) (m : BitVec 4) (d : RCode) (s : State) : Host.Outcome State Fault Refusal :=
  issue { i := .mrec x m d, ops := [.grp d 4] } (eachCrew (mrecBody m d)) s

/-- MRST on one crew (R89). -/
def mrstBody (m : BitVec 4) (d : RCode) (p : Part) (c : Crew) : Option Nat × Crew :=
  if p.act = 0 then (none, c)
  else
    let r := recAt c m.toNat
    (none, (List.range 4).foldl (fun c i =>
      writeVd c (d.toNat + i) (laneReg .u .raw32 r.taint fun _ => BitVec.ofNat 32 (rbits r.bits (32 * i) 32)) p.act p.full) c)

/-- MRST (R89). -/
def execMrst (x : Pfx) (m : BitVec 4) (d : RCode) (s : State) : Host.Outcome State Fault Refusal :=
  issue { i := .mrst x m d, ops := [.grp d 4] } (eachCrew (mrstBody m d)) s

/-! ### Prefetch and invalidation -/

/-- A PREF or LINV captured as a one-byte read (R90, R91 name no size; DEDUCED, log entry 10). -/
def byteReq (c : Crew) (m : BitVec 4) (h : BitVec 2) (a : RCode) (x : Ctx) (act : Mask) : MemReq :=
  captureReq c ⟨.load 1 1 false, 0, a, m, h⟩ x.pc x.iword x.lit act

/-- The lanes that a PREF requests lines for, with their VAs: those that pass every check, the others dropped (R90). -/
def prefVas (s : State) (c : Crew) (q : MemReq) (a : RCode) : List (Nat × Nat) :=
  if !recordOk q.record true false then []
  else if rFlat q.record && decide (59 ≤ a.toNat ∨ nameable s c ≤ a.toNat + 1) then []
  else if !(q.images.take (idxImages q.record)).all fun r => r.fmt.isIndex then []
  else (laneIds.filter (laneIn q.act)).flatMap fun l => (laneCheck q 1 l).1

/-- The lines of a PREF that are not in the L1 and get a miss entry: each of them while at least 16 are free and no rejected instruction goes before
(R82, R90). -/
def prefLines (s : State) (f : Flight) : List Nat :=
  ((f.todo.filter (lineMisses s f)).foldl (fun (acc : List Nat × Nat) line =>
    if (missLines s f.core).contains line then (acc.1 ++ [line], acc.2)
    else if (missLines s f.core).length + acc.2 ≤ 112 ∧ entriesFree s f.core [f.crew] f.req.pc 1 = true then (acc.1 ++ [line], acc.2 + 1)
    else acc) ([], 0)).1

/-- A line of a PREF that the L1 holds already: at the position, and with the mark, of the policy (R70, R78, R90). -/
def prefHeld (f : Flight) (s : State) (line : Nat) : State :=
  match l1Line s f.core line with
  | none => s
  | some l =>
    let s := if f.keep then putLine s f.core { l with keep := true } else s
    if f.low then s else touchLine s f.core line

/-- PREF on one crew (R90): a lane that fails a check or whose line no translation cache holds is dropped, and so is a line that finds too few miss
entries; the other lines are read like a load's, and nothing is written.  Under hint or POLICY 10 a line that the L1 holds stays there: R90 names a destination
and no purge (DESIGN CHOICE, log entry 74). -/
def prefCrew (m : BitVec 4) (h : BitVec 2) (a : RCode) (x : Ctx) (s : State) (p : Part) : State :=
  match crewAt s p.crew with
  | none => s
  | some c =>
    if p.act = 0 then s
    else
      let q := byteReq c m h a x p.act
      let us := (prefVas s c q a).filterMap fun u => match xlate s c.core (pasidOf s c) u.2 .read c.priv with
        | .hit pk unc => some (⟨u.1, u.2, pk, unc⟩ : KeyUnit)
        | _ => none
      let f := { newFlight s c ⟨.load 1 1 false, 63, a, m, h⟩ q true false Clock.zero us with fmt := .raw32 }
      let todo := prefLines s f
      let lanes := f.lanes.filter fun u => todo.contains (u.2 / 256)
      let s := (f.todo.filter fun l => !lineMisses s f l).foldl (prefHeld f) s
      if todo.isEmpty then s
      else
        let f := { f with todo := todo, missed := todo, lanes := lanes, req := { q with act := maskOf fun l => lanes.any fun u => u.1 == l } }
        { s with flights := s.flights ++ [f], nextId := s.nextId + 1 }

/-- PREF (R90): an access to memory, which waits for its index pair (R73) and behind an operand-log entry (R311), and behind no acquire. -/
def execPref (x : Pfx) (h : BitVec 2) (m : BitVec 4) (a : RCode) (s : State) : Host.Outcome State Fault Refusal :=
  issue { i := .pref x h m a, ops := [.src a], waits := true, unordered := true } (fun u s => if pairWaits s u m a then .hold s else .done (u.parts.foldl (prefCrew m h a u) s)) s

/-- LINV's checks on one crew: those of a load, without the record's rights (R91). -/
def linvCheck (s : State) (c : Crew) (q : MemReq) (a : RCode) : Chk :=
  if !recordOk q.record false false then .trap trapAccess
  else if rFlat q.record && decide (59 ≤ a.toNat ∨ nameable s c ≤ a.toNat + 1) then .trap trapOperand
  else if !(q.images.take (idxImages q.record)).all fun r => r.fmt.isIndex then .trap trapFormat
  else
    let rs := (laneIds.filter (laneIn q.act)).map (laneCheck q 1)
    let fs := rs.flatMap (·.2)
    if fs.isEmpty then .pass (rs.flatMap (·.1)) else .lanes fs (rs.flatMap (·.1))

/-- A participant of a LINV: its crew, its captured operands, what its checks come to, and its lines' translations. -/
structure LinvPart where
  crew : Crew
  req : MemReq
  chk : Chk
  lines : List (Nat × Xl)
deriving Repr

/-- The units of the lanes that pass orders 6 and 7. -/
def Chk.units : Chk → List (Nat × Nat)
  | .pass us => us
  | .lanes _ us => us
  | .trap _ => []

/-- The participants with their checks and translations (R57, R91). -/
def linvLook (m : BitVec 4) (a : RCode) (x : Ctx) : State → List Part → List LinvPart × State
  | s, [] => ([], s)
  | s, p :: ps =>
    match crewAt s p.crew with
    | none => linvLook m a x s ps
    | some c =>
      if p.act = 0 then linvLook m a x s ps
      else
        let q := byteReq c m 0 a x p.act
        let k := linvCheck s c q a
        let (xs, s) := xlateLines s (.wait c.id) c.core (pasidOf s c) .read c.priv (unitLines k.units)
        let (r, s) := linvLook m a x s ps
        (⟨c, q, k, xs⟩ :: r, s)

/-- A participant's failing lanes: of orders 6 and 7, and of lines whose outcome is `bad`. -/
def LinvPart.fails (k : LinvPart) (bad : Xl → Bool) (code : Nat) : List (Nat × Nat × Nat) :=
  inLaneOrder ((match k.chk with | .lanes fs _ => fs | _ => []) ++
    lineFails (.load 1 1 false) k.req.act k.chk.units (fun l => k.lines.any fun o => o.1 == l && bad o.2) code)

/-- LINV over its participants (R91): the checks of all, every line's outcome, then the write-backs. -/
def linvBody (m : BitVec 4) (a : RCode) (x : Ctx) (s : State) : Res :=
  if pairWaits s x m a then .hold s else
  let (ks, t) := linvLook m a x s x.parts
  let bad (k : LinvPart) (o : Xl) : Bool := o == .access || (o == .fault && faultRefused t k.crew.core (pasidOf t k.crew))
  let recs (code : Nat) (ks : List LinvPart) (b : LinvPart → Xl → Bool) : List (Nat × List FaultRec) :=
    (ks.map fun k => (k.crew.id, groupFaults (k.fails (b k) code) false false)).filter fun r => !r.2.isEmpty
  let done (s : State) : State := ks.foldl (fun s k => forget s (.wait k.crew.id)) s
  match ks.findSome? fun k => match k.chk with | .trap c => some c | _ => none with
  | some c => .trap c s
  | none =>
    if ks.any fun k => match k.chk with | .lanes _ _ => true | _ => false then .lanes (recs trapAccess ks fun _ o => o == .access) s
    else if ks.any fun k => k.lines.any fun o => o.2 == .miss then .stall t
    else if ks.any fun k => k.lines.any fun o => bad k o.2 then .lanes (recs trapAccess ks bad) (done t)
    else if ks.any fun k => k.lines.any fun o => o.2 == .fault then
      .moved (ks.foldl (fun s k =>
        let rs := groupFaults (k.fails (· == .fault) 0) false false
        if rs.isEmpty then s else pageFault s k.crew false rs) (done t))
    else
      let ls := ks.map fun k => (k.crew.core, ((keyUnits k.lines k.chk.units).map fun u => u.pk / 256).eraseDups)
      match ls.flatMap fun k => (wbWaits t k.1 k.2).map fun l => (k.1, l) with
      | [] => .done (done (ls.foldl (fun s k => purge s k.1 k.2) t))
      | ws => .stall (ws.foldl (fun s w => wbAsk s w.1 w.2) t)

/-- LINV (R91). -/
def execLinv (x : Pfx) (m : BitVec 4) (a : RCode) (s : State) : Host.Outcome State Fault Refusal :=
  issue { i := .linv x m a, ops := [.src a], waits := true } (linvBody m a) s

end Sys2Proof.Machine
end

