-- ==== Sys2Proof/Machine/Moves.lean ====
section
/-!
DEFINITION. Register moves, shuffles, votes, tags, system and control registers, and predicate moves (R135-R141, R390).
-/

namespace Sys2Proof.Machine

/-- A register written by a move: its bits and tags as they are, U or A kept when the write is full (R135, R138). -/
def moveTo (d : RCode) (r : Reg) (p : Part) (c : Crew) : Crew := writeResult c d.toNat r p.act p.full

/-- MOV on one crew (R135). -/
def movBody (d : RCode) (b : Src) (p : Part) (c : Crew) : Option Nat × Crew :=
  if p.act = 0 then (none, c)
  else
    match srcVal c b .raw32 with
    | none => (some trapOperand, c)
    | some r => (none, moveTo d r p c)

/-- MOV (R135). -/
def execMov (x : Pfx) (d : RCode) (b : Src) (s : State) : Host.Outcome State Fault Refusal :=
  issue { i := .mov x d b, ops := [.dst d, .srcB b] } (eachCrew (movBody d b)) s

/-- MOV, 16-bit form (R24). -/
def execMov16 (d : BitVec 5) (v : RCode) (s : State) : Host.Outcome State Fault Refusal :=
  issue { i := .mov16 d v, ops := [.dst (v5 d), .src v] } (eachCrew (movBody (v5 d) (.reg v))) s

/-- SEL's result format: two equal formats of any kind, or RAW32 with an integer format (R127). -/
def selFmt (f g : Fmt) : Option Fmt := if f == g then some f else logicFmt f g

/-- SEL on one crew: every lane of the entry writes, by its guard (R135); it pushes over those lanes even where the guard holds in none (DESIGN CHOICE, log
entry 61).  At set scope each member asks whether its own lanes made the same choice (DEDUCED, log entry 76). -/
def selBody (g : Guard) (pc : Word) (full : Bool) (d a : RCode) (b : Src) (c : Crew) : Option Nat × Crew :=
  match entryAt c pc, srcReg c a.toNat with
  | some e, some ra =>
    match srcVal c b ra.fmt with
    | none => (some trapOperand, c)
    | some rb =>
      match selFmt ra.fmt rb.fmt with
      | none => (some trapFormat, c)
      | some f =>
        let yes := guardLanes c.pred g
        let same := yes &&& e.mask == e.mask || yes &&& e.mask == 0
        let sh : Shape := if same then uShape [ra.shape, rb.shape] else .g
        (none, writeResult c d.toNat (laneReg sh f (ra.taint ||| rb.taint) fun l => if laneIn yes l then ra.at l else rb.at l) e.mask full)
  | _, _ => (some trapOperand, c)

/-- A crew's lanes at the instruction are all its live lanes. -/
def entryFull (s : State) (pc : Word) (p : Part) : Bool :=
  match crewAt s p.crew with
  | some c => match entryAt c pc with
    | some e => c.live &&& ~~~e.mask == 0
    | none => false
  | none => false

/-- SEL (R135). -/
def execSel (x : Pfx) (d a : RCode) (b : Src) (s : State) : Host.Outcome State Fault Refusal :=
  issue { i := .sel x d a b, ops := binOps d a b }
    (fun u s =>
      let allFull := u.parts.all (entryFull s u.pc)
      eachCrew (fun p c => selBody x.guard u.pc (if u.scope == .set then allFull else entryFull s u.pc p) d a b c) u s) s

/-! ### Instructions that read other lanes -/

/-- The participants with their crews, in groups whose lanes form one vector: the whole set at set scope, else each crew (R123). -/
def vectors (x : Ctx) (s : State) : List (List (Part × Crew)) :=
  let ps := x.parts.filterMap fun p => (crewAt s p.crew).map fun c => (p, c)
  if x.scope == .set then [ps] else ps.map fun q => [q]

/-- Runs `f` on each vector and puts the crews back; the first trap is everyone's. -/
def onVectors (f : List (Part × Crew) → Except Nat (List Crew)) (x : Ctx) (s : State) : Res :=
  let step (acc : Except Nat State) (g : List (Part × Crew)) : Except Nat State :=
    match acc with
    | .error t => .error t
    | .ok s =>
      match f g with
      | .error t => .error t
      | .ok cs => .ok (cs.foldl setCrew s)
  match (vectors x s).foldl step (.ok s) with
  | .error t => .trap t s
  | .ok s => .done s

/-- Taint and floor clock of a member whose result reads another member's va (R390). -/
def crossTaint (g : List (Part × Crew)) (a : RCode) (c : Crew) : BitVec 9 × Clock :=
  let others := (g.filter fun q => q.2.id != c.id).filterMap fun q =>
    match srcReg q.2 a.toNat with
    | some r => if r.taint = 0 then none else some (taintClock q.2 r.taint)
    | none => none
  (if others.isEmpty then 0 else floorBit, others.foldl Clock.sup c.floor)

/-- va's common format; none when members differ (R390). -/
def commonFmt (g : List (Part × Crew)) (a : RCode) : Option Fmt :=
  match g.filterMap fun q => (srcReg q.2 a.toNat).map (·.fmt) with
  | [] => none
  | f :: fs => if fs.all (· == f) then some f else none

/-- Every lane of every member acts on nothing. -/
def noneActive (g : List (Part × Crew)) : Bool := g.all fun q => q.1.act == 0

/-- Lane `n` of the vector's va. -/
def vecLane (g : List (Part × Crew)) (a : RCode) (n : Nat) : Word :=
  match g[n / 32]? with
  | some q => match srcReg q.2 a.toNat with
    | some r => r.at (n % 32)
    | none => 0
  | none => 0

/-- va is uniform over the whole vector. -/
def vecU (g : List (Part × Crew)) (a : RCode) : Bool :=
  g.all fun q => match srcReg q.2 a.toNat with
    | some r => r.shape == .u && r.at 0 == vecLane g a 0
    | none => false

/-- The vector's lowest active lane. -/
def vecFirst (g : List (Part × Crew)) : Nat :=
  ((List.range (32 * g.length)).find? fun n => match g[n / 32]? with
    | some (q : Part × Crew) => laneIn q.1.act (n % 32)
    | none => false).getD 0

/-- MOVU on a vector (R135); a member with no lane in act writes nothing, and its floor clock follows as every member's does (R390). -/
def movuBody (d a : RCode) (g : List (Part × Crew)) : Except Nat (List Crew) :=
  if noneActive g then .ok (g.map (·.2))
  else
    match commonFmt g a with
    | none => .error trapFormat
    | some f =>
      let v := vecLane g a (vecFirst g)
      .ok (g.map fun q =>
        let t := match srcReg q.2 a.toNat with | some r => r.taint | none => 0
        let (ft, fl) := crossTaint g a q.2
        if q.1.act == 0#32 then { q.2 with floor := fl }
        else { writeResult q.2 d.toNat (laneReg .u f (t ||| ft) fun _ => v) q.1.act q.1.full with floor := fl })

/-- MOVU (R135). -/
def execMovu (x : Pfx) (d a : RCode) (s : State) : Host.Outcome State Fault Refusal :=
  issue { i := .movu x d a, ops := [.dst d, .src a] } (onVectors (movuBody d a)) s

/-- MOVA on one member of rank `k` (R135): λ is the lane of the vector. -/
def movaBody (d a : RCode) (b : Src) (k : Nat) (p : Part) (c : Crew) : Except Nat Crew :=
  if p.act = 0 then .ok c
  else
    match srcReg c a.toNat with
    | none => .error trapOperand
    | some ra =>
      match srcVal c b ra.fmt with
      | none => .error trapOperand
      | some rb =>
        if ra.shape != .u || rb.shape != .u then .error trapOperand
        else if !(ra.fmt.isIndex && rb.fmt.isIndex) then .error trapFormat
        else
          .ok (writeResult c d.toNat (laneReg .a ra.fmt (ra.taint ||| rb.taint)
            fun l => ra.at l + BitVec.ofNat 32 (32 * k + l) * rb.at l) p.act p.full)

/-- The members of a vector one by one, with their ranks. -/
def eachMember (f : Nat → Part → Crew → Except Nat Crew) (g : List (Part × Crew)) : Except Nat (List Crew) :=
  g.zipIdx.mapM fun (q, k) => f k q.1 q.2

/-- MOVA (R135). -/
def execMova (x : Pfx) (d a : RCode) (b : Src) (s : State) : Host.Outcome State Fault Refusal :=
  issue { i := .mova x d a b, ops := binOps d a b } (onVectors (eachMember (movaBody d a b))) s

/-- The source lane of a shuffle in a vector of `w` lanes, from lane `n` and vb's value (Table 6-5). -/
inductive Shfl where
  | idx | up | down | xor
deriving DecidableEq, Repr

/-- The source lane; a lane that would fall outside keeps its own (Table 6-5). -/
def Shfl.source (o : Shfl) (w n v : Nat) : Nat :=
  match o with
  | .idx => v % w
  | .up => if v ≤ n then n - v else n
  | .down => if n + v < w then n + v else n
  | .xor => if n ^^^ v < w then n ^^^ v else n

/-- A shuffle on a vector (R136; DEDUCED, log entry 15); a literal vb takes the format of va (R22). -/
def shflBody (o : Shfl) (d a : RCode) (b : Src) (g : List (Part × Crew)) : Except Nat (List Crew) :=
  if noneActive g then .ok (g.map (·.2))
  else
    let vb (c : Crew) : Option Reg := srcVal c b (((srcReg c a.toNat).map (·.fmt)).getD .raw32)
    let bs := g.map fun q => vb q.2
    if bs.any (·.isNone) then .error trapOperand
    else if o != .idx && bs.any (fun r => match r with | some r => r.shape != .u | none => true) then .error trapOperand
    else
      match commonFmt g a with
      | none => .error trapFormat
      | some f =>
        if bs.any (fun r => match r with | some r => !r.fmt.isIndex | none => true) then .error trapFormat
        else
          let w := 32 * g.length
          let u := vecU g a
          .ok (g.zipIdx.map fun (q, k) =>
            let ta := match srcReg q.2 a.toNat with | some r => r.taint | none => 0
            let rb := (vb q.2).getD Reg.zero
            let (ft, fl) := crossTaint g a q.2
            if q.1.act == 0#32 then { q.2 with floor := fl }
            else
              { writeResult q.2 d.toNat (laneReg (if u then .u else .g) f (ta ||| rb.taint ||| ft)
                  fun l => vecLane g a (o.source w (32 * k + l) (rb.at l).toNat)) q.1.act q.1.full with floor := fl })

/-- SHFLI (R136). -/
def execShfli (x : Pfx) (d a : RCode) (b : Src) (s : State) : Host.Outcome State Fault Refusal :=
  issue { i := .shfli x d a b, ops := binOps d a b } (onVectors (shflBody .idx d a b)) s

/-- SHFLU (R136). -/
def execShflu (x : Pfx) (d a : RCode) (b : Src) (s : State) : Host.Outcome State Fault Refusal :=
  issue { i := .shflu x d a b, ops := binOps d a b } (onVectors (shflBody .up d a b)) s

/-- SHFLD (R136). -/
def execShfld (x : Pfx) (d a : RCode) (b : Src) (s : State) : Host.Outcome State Fault Refusal :=
  issue { i := .shfld x d a b, ops := binOps d a b } (onVectors (shflBody .down d a b)) s

/-- SHFLX (R136). -/
def execShflx (x : Pfx) (d a : RCode) (b : Src) (s : State) : Host.Outcome State Fault Refusal :=
  issue { i := .shflx x d a b, ops := binOps d a b } (onVectors (shflBody .xor d a b)) s

/-- VOTE functions (R137). -/
inductive Vote where
  | any | all | ballot
deriving DecidableEq, Repr

/-- Lanes of a participant's act whose va is not 0 (R137). -/
def yesLanes (a : RCode) (q : Part × Crew) : Mask :=
  match srcReg q.2 a.toNat with
  | some r => maskOf fun l => laneIn q.1.act l && r.at l != 0
  | none => 0

/-- VOTE over all participants at set and block scope, else over each crew (R137); other members' taint counts at set scope for ANY
and ALL (R390). -/
def voteBody (o : Vote) (d a : RCode) (x : Ctx) (s : State) : Res :=
  let ps := x.parts.filterMap fun p => (crewAt s p.crew).map fun c => (p, c)
  let wide := x.scope == .set || x.scope == .block
  let any := ps.any fun q => yesLanes a q != 0
  let all := ps.all fun q => yesLanes a q == q.1.act
  if x.scope == .set && o != .ballot && !noneActive ps && (commonFmt ps a).isNone then .trap trapFormat s
  else
    eachCrew (fun p c =>
      let (ft, fl) := if x.scope == .set && o != .ballot && !noneActive ps then crossTaint ps a c else (0, c.floor)
      if p.act = 0 then (none, { c with floor := fl })
      else
        let one := [(p, c)]
        let v : Word := match o with
          | .any => if (if wide then any else one.any fun q => yesLanes a q != 0) then 1 else 0
          | .all => if (if wide then all else one.all fun q => yesLanes a q == q.1.act) then 1 else 0
          | .ballot => yesLanes a (p, c)
        let t := match srcReg c a.toNat with | some r => r.taint | none => 0
        (none, { writeResult c d.toNat (laneReg .u .i32 (t ||| ft) fun _ => v) p.act p.full with floor := fl })) x s

/-- VOTE ANY (R137). -/
def execVoteAny (x : Pfx) (d a : RCode) (s : State) : Host.Outcome State Fault Refusal :=
  issue { i := .voteAny x d a, ops := [.dst d, .src a] } (voteBody .any d a) s

/-- VOTE ALL (R137). -/
def execVoteAll (x : Pfx) (d a : RCode) (s : State) : Host.Outcome State Fault Refusal :=
  issue { i := .voteAll x d a, ops := [.dst d, .src a] } (voteBody .all d a) s

/-- VOTE BALLOT (R137). -/
def execVoteBallot (x : Pfx) (d a : RCode) (s : State) : Host.Outcome State Fault Refusal :=
  issue { i := .voteBallot x d a, ops := [.dst d, .src a] } (voteBody .ballot d a) s

/-! ### Tags -/

/-- TAGF (R138). -/
def execTagf (x : Pfx) (f : Fmt) (d a : RCode) (s : State) : Host.Outcome State Fault Refusal :=
  issue { i := .tagf x f d a, ops := [.dst d, .src a] }
    (eachCrew fun p c =>
      if p.act = 0 then (none, c)
      else
        match srcReg c a.toNat with
        | none => (some trapOperand, c)
        | some r => (none, moveTo d { r with fmt := f } p c)) s

/-- TAGQ (R138). -/
def execTagq (x : Pfx) (d a : RCode) (s : State) : Host.Outcome State Fault Refusal :=
  issue { i := .tagq x d a, ops := [.dst d, .src a] }
    (eachCrew fun p c =>
      if p.act = 0 then (none, c)
      else
        match srcReg c a.toNat with
        | none => (some trapOperand, c)
        | some r => (none, moveTo d (uReg .i32 (tagWord r)) p c)) s

/-- TCLR (R138). -/
def execTclr (x : Pfx) (d : RCode) (s : State) : Host.Outcome State Fault Refusal :=
  issue { i := .tclr x d, ops := [.vec d] }
    (eachCrew fun p c =>
      if p.act = 0 then (none, c) else (none, setReg c d.toNat { vreg c d.toNat with taint := 0 })) s

/-! ### System, control and predicate registers -/

/-- MOVS (R139). -/
def execMovs (x : Pfx) (r : SysReg) (d : RCode) (s : State) : Host.Outcome State Fault Refusal :=
  issue { i := .movs x r d, ops := [.dst d] }
    (fun u s => eachCrew (fun p c =>
      if p.act = 0 then (none, c)
      else (none, writeResult (sysCapture s c r) d.toNat (laneReg (sysShape (isFormed s c) r) .i32 0 fun l => sysValue s c l r) p.act p.full)) u s) s

/-- MOVC RD (R140). -/
def execMovcRd (x : Pfx) (r : CtlReg) (d : RCode) (s : State) : Host.Outcome State Fault Refusal :=
  issue { i := .movcRd x r d, ops := [.dst d] }
    (fun u s => eachCrew (fun p c =>
      if p.act = 0 then (none, c) else (none, writeResult c d.toNat (uReg .raw32 (readCtl s c r)) p.act p.full)) u s) s

/-- MOVC WR on the issuing crew (R140). -/
def movcWrBody (r : CtlReg) (a : RCode) (u : Ctx) (s : State) : Res :=
  match u.parts.head?, crewAt s u.crew with
  | some p, some c =>
    if p.act = 0 then .done s
    else
      match srcReg c a.toNat with
      | none => .trap trapOperand s
      | some ra => if ra.shape != .u then .trap trapOperand s else .done (writeCtl s c r (ra.at 0))
  | _, _ => .done s

/-- MOVC WR (R140). -/
def execMovcWr (x : Pfx) (r : CtlReg) (a : RCode) (s : State) : Host.Outcome State Fault Refusal :=
  issue { i := .movcWr x r a, ops := [.src a] } (movcWrBody r a) s

/-- PMOV GET (R141). -/
def execPmovGet (x : Pfx) (d : RCode) (s : State) : Host.Outcome State Fault Refusal :=
  issue { i := .pmovGet x d, ops := [.dst d] }
    (eachCrew fun p c =>
      if p.act = 0 then (none, c)
      else
        let bit (k l : Nat) : Nat := if laneIn (c.pred.getD k 0) l then 2 ^ k else 0
        (none, writeResult c d.toNat (laneReg .g .i32 0 fun l => BitVec.ofNat 32 (bit 0 l + bit 1 l + bit 2 l)) p.act p.full)) s

/-- PMOV SET (R141). -/
def execPmovSet (x : Pfx) (a : RCode) (s : State) : Host.Outcome State Fault Refusal :=
  issue { i := .pmovSet x a, ops := [.src a] }
    (eachCrew fun p c =>
      if p.act = 0 then (none, c)
      else
        match srcReg c a.toNat with
        | none => (some trapOperand, c)
        | some r =>
          if r.fmt.isIndex then
            (none, { c with pred := (List.range 3).map fun k => predWrite p.act (c.pred.getD k 0) fun l => (r.at l).getLsbD k })
          else (some trapFormat, c)) s

end Sys2Proof.Machine
end

