-- ==== Sys2Proof/Machine/Dispatch.lean ====
section
/-! DEFINITION. One arm per constructor of `Instr`: the meaning that runs it. -/

namespace Sys2Proof.Machine

def exec (i : Instr) (s : State) : Host.Outcome State Fault Refusal :=
  match i with
  | .iadd x d a b => Sys2Proof.Machine.execIadd x d a b s
  | .isub x d a b => Sys2Proof.Machine.execIsub x d a b s
  | .imul x d a b => Sys2Proof.Machine.execImul x d a b s
  | .imulh x d a b => Sys2Proof.Machine.execImulh x d a b s
  | .imulhu x d a b => Sys2Proof.Machine.execImulhu x d a b s
  | .imad x d a b => Sys2Proof.Machine.execImad x d a b s
  | .idiv x d a b => Sys2Proof.Machine.execIdiv x d a b s
  | .idivu x d a b => Sys2Proof.Machine.execIdivu x d a b s
  | .irem x d a b => Sys2Proof.Machine.execIrem x d a b s
  | .iremu x d a b => Sys2Proof.Machine.execIremu x d a b s
  | .imin x d a b => Sys2Proof.Machine.execImin x d a b s
  | .imax x d a b => Sys2Proof.Machine.execImax x d a b s
  | .iminu x d a b => Sys2Proof.Machine.execIminu x d a b s
  | .imaxu x d a b => Sys2Proof.Machine.execImaxu x d a b s
  | .iadds x d a b => Sys2Proof.Machine.execIadds x d a b s
  | .isubs x d a b => Sys2Proof.Machine.execIsubs x d a b s
  | .and x d a b => Sys2Proof.Machine.execAnd x d a b s
  | .or x d a b => Sys2Proof.Machine.execOr x d a b s
  | .xor x d a b => Sys2Proof.Machine.execXor x d a b s
  | .andn x d a b => Sys2Proof.Machine.execAndn x d a b s
  | .shl x d a b => Sys2Proof.Machine.execShl x d a b s
  | .shr x d a b => Sys2Proof.Machine.execShr x d a b s
  | .sar x d a b => Sys2Proof.Machine.execSar x d a b s
  | .rol x d a b => Sys2Proof.Machine.execRol x d a b s
  | .bfe x d a b => Sys2Proof.Machine.execBfe x d a b s
  | .bfi x d a b => Sys2Proof.Machine.execBfi x d a b s
  | .lea x d a b => Sys2Proof.Machine.execLea x d a b s
  | .idot4 x d a b => Sys2Proof.Machine.execIdot4 x d a b s
  | .iunNot x d a => Sys2Proof.Machine.execIunNot x d a s
  | .iunIneg x d a => Sys2Proof.Machine.execIunIneg x d a s
  | .iunIabs x d a => Sys2Proof.Machine.execIunIabs x d a s
  | .iunPopc x d a => Sys2Proof.Machine.execIunPopc x d a s
  | .iunClz x d a => Sys2Proof.Machine.execIunClz x d a s
  | .iunBrev x d a => Sys2Proof.Machine.execIunBrev x d a s
  | .iunSx8 x d a => Sys2Proof.Machine.execIunSx8 x d a s
  | .iunSx16 x d a => Sys2Proof.Machine.execIunSx16 x d a s
  | .iunZx8 x d a => Sys2Proof.Machine.execIunZx8 x d a s
  | .iunZx16 x d a => Sys2Proof.Machine.execIunZx16 x d a s
  | .iceq x p e k a b => Sys2Proof.Machine.execIceq x p e k a b s
  | .icne x p e k a b => Sys2Proof.Machine.execIcne x p e k a b s
  | .iclt x p e k a b => Sys2Proof.Machine.execIclt x p e k a b s
  | .icle x p e k a b => Sys2Proof.Machine.execIcle x p e k a b s
  | .icltu x p e k a b => Sys2Proof.Machine.execIcltu x p e k a b s
  | .icleu x p e k a b => Sys2Proof.Machine.execIcleu x p e k a b s
  | .fceq x p e k a b => Sys2Proof.Machine.execFceq x p e k a b s
  | .fclt x p e k a b => Sys2Proof.Machine.execFclt x p e k a b s
  | .fcle x p e k a b => Sys2Proof.Machine.execFcle x p e k a b s
  | .fcun x p e k a b => Sys2Proof.Machine.execFcun x p e k a b s
  | .mov x d b => Sys2Proof.Machine.execMov x d b s
  | .sel x d a b => Sys2Proof.Machine.execSel x d a b s
  | .movu x d a => Sys2Proof.Machine.execMovu x d a s
  | .mova x d a b => Sys2Proof.Machine.execMova x d a b s
  | .shfli x d a b => Sys2Proof.Machine.execShfli x d a b s
  | .shflu x d a b => Sys2Proof.Machine.execShflu x d a b s
  | .shfld x d a b => Sys2Proof.Machine.execShfld x d a b s
  | .shflx x d a b => Sys2Proof.Machine.execShflx x d a b s
  | .voteAny x d a => Sys2Proof.Machine.execVoteAny x d a s
  | .voteAll x d a => Sys2Proof.Machine.execVoteAll x d a s
  | .voteBallot x d a => Sys2Proof.Machine.execVoteBallot x d a s
  | .tagf x f d a => Sys2Proof.Machine.execTagf x f d a s
  | .tagq x d a => Sys2Proof.Machine.execTagq x d a s
  | .tclr x d => Sys2Proof.Machine.execTclr x d s
  | .movs x r d => Sys2Proof.Machine.execMovs x r d s
  | .movcRd x r d => Sys2Proof.Machine.execMovcRd x r d s
  | .movcWr x r a => Sys2Proof.Machine.execMovcWr x r a s
  | .pmovGet x d => Sys2Proof.Machine.execPmovGet x d s
  | .pmovSet x a => Sys2Proof.Machine.execPmovSet x a s
  | .fadd x d a b => Sys2Proof.Machine.execFadd x d a b s
  | .fsub x d a b => Sys2Proof.Machine.execFsub x d a b s
  | .fmul x d a b => Sys2Proof.Machine.execFmul x d a b s
  | .ffma x d a b => Sys2Proof.Machine.execFfma x d a b s
  | .fmin x d a b => Sys2Proof.Machine.execFmin x d a b s
  | .fmax x d a b => Sys2Proof.Machine.execFmax x d a b s
  | .fdiv x d a b => Sys2Proof.Machine.execFdiv x d a b s
  | .funFneg x d a => Sys2Proof.Machine.execFunFneg x d a s
  | .funFabs x d a => Sys2Proof.Machine.execFunFabs x d a s
  | .funFrcp x d a => Sys2Proof.Machine.execFunFrcp x d a s
  | .funFrsq x d a => Sys2Proof.Machine.execFunFrsq x d a s
  | .funFsqrt x d a => Sys2Proof.Machine.execFunFsqrt x d a s
  | .funFexp2 x d a => Sys2Proof.Machine.execFunFexp2 x d a s
  | .funFlog2 x d a => Sys2Proof.Machine.execFunFlog2 x d a s
  | .funFsin x d a => Sys2Proof.Machine.execFunFsin x d a s
  | .funFcos x d a => Sys2Proof.Machine.execFunFcos x d a s
  | .funFflr x d a => Sys2Proof.Machine.execFunFflr x d a s
  | .funFceil x d a => Sys2Proof.Machine.execFunFceil x d a s
  | .funFtrnc x d a => Sys2Proof.Machine.execFunFtrnc x d a s
  | .funFrint x d a => Sys2Proof.Machine.execFunFrint x d a s
  | .funFcls x d a => Sys2Proof.Machine.execFunFcls x d a s
  | .cvt x f m sat d a => Sys2Proof.Machine.execCvt x f m sat d a s
  | .bra x off t => Sys2Proof.Machine.execBra x off t s
  | .brl x off t => Sys2Proof.Machine.execBrl x off t s
  | .call x off t => Sys2Proof.Machine.execCall x off t s
  | .jmpi x t a => Sys2Proof.Machine.execJmpi x t a s
  | .ret x t a => Sys2Proof.Machine.execRet x t a s
  | .exit x => Sys2Proof.Machine.execExit x s
  | .join x n t => Sys2Proof.Machine.execJoin x n t s
  | .leave x n => Sys2Proof.Machine.execLeave x n s
  | .bar x => Sys2Proof.Machine.execBar x s
  | .yield x => Sys2Proof.Machine.execYield x s
  | .spawn x d a => Sys2Proof.Machine.execSpawn x d a s
  | .reord x n k d => Sys2Proof.Machine.execReord x n k d s
  | .ldb x h m d a => Sys2Proof.Machine.execLdb x h m d a s
  | .ldbs x h m d a => Sys2Proof.Machine.execLdbs x h m d a s
  | .ldh x h m d a => Sys2Proof.Machine.execLdh x h m d a s
  | .ldhs x h m d a => Sys2Proof.Machine.execLdhs x h m d a s
  | .ldw x h m d a => Sys2Proof.Machine.execLdw x h m d a s
  | .ldd x h m d a => Sys2Proof.Machine.execLdd x h m d a s
  | .ldq x h m d a => Sys2Proof.Machine.execLdq x h m d a s
  | .stb x h m d a => Sys2Proof.Machine.execStb x h m d a s
  | .sth x h m d a => Sys2Proof.Machine.execSth x h m d a s
  | .stw x h m d a => Sys2Proof.Machine.execStw x h m d a s
  | .std x h m d a => Sys2Proof.Machine.execStd x h m d a s
  | .stq x h m d a => Sys2Proof.Machine.execStq x h m d a s
  | .lda x d a => Sys2Proof.Machine.execLda x d a s
  | .sta x d a => Sys2Proof.Machine.execSta x d a s
  | .ldm x h m n d a => Sys2Proof.Machine.execLdm x h m n d a s
  | .stm x h m n d a => Sys2Proof.Machine.execStm x h m n d a s
  | .mrec x m d => Sys2Proof.Machine.execMrec x m d s
  | .mrst x m d => Sys2Proof.Machine.execMrst x m d s
  | .pref x h m a => Sys2Proof.Machine.execPref x h m a s
  | .linv x m a => Sys2Proof.Machine.execLinv x m a s
  | .axchg x h m d a => Sys2Proof.Machine.execAxchg x h m d a s
  | .acas x h m d a => Sys2Proof.Machine.execAcas x h m d a s
  | .aadd x h m d a => Sys2Proof.Machine.execAadd x h m d a s
  | .amin x h m d a => Sys2Proof.Machine.execAmin x h m d a s
  | .amax x h m d a => Sys2Proof.Machine.execAmax x h m d a s
  | .aminu x h m d a => Sys2Proof.Machine.execAminu x h m d a s
  | .amaxu x h m d a => Sys2Proof.Machine.execAmaxu x h m d a s
  | .aand x h m d a => Sys2Proof.Machine.execAand x h m d a s
  | .aor x h m d a => Sys2Proof.Machine.execAor x h m d a s
  | .axor x h m d a => Sys2Proof.Machine.execAxor x h m d a s
  | .afadd x h m d a => Sys2Proof.Machine.execAfadd x h m d a s
  | .ldacq x m d a => Sys2Proof.Machine.execLdacq x m d a s
  | .strel x m d a => Sys2Proof.Machine.execStrel x m d a s
  | .fence x sc => Sys2Proof.Machine.execFence x sc s
  | .bcopyG2a x m d => Sys2Proof.Machine.execBcopyG2a x m d s
  | .bcopyG2w x m d => Sys2Proof.Machine.execBcopyG2w x m d s
  | .bcopyA2g x m d => Sys2Proof.Machine.execBcopyA2g x m d s
  | .bcopyA2w x d => Sys2Proof.Machine.execBcopyA2w x d s
  | .batchSeal x d => Sys2Proof.Machine.execBatchSeal x d s
  | .batchWait x a => Sys2Proof.Machine.execBatchWait x a s
  | .batchPoll x d a => Sys2Proof.Machine.execBatchPoll x d a s
  | .baroInit x a => Sys2Proof.Machine.execBaroInit x a s
  | .baroArrive x a => Sys2Proof.Machine.execBaroArrive x a s
  | .baroWait x a => Sys2Proof.Machine.execBaroWait x a s
  | .mma x d a b => Sys2Proof.Machine.execMma x d a b s
  | .mmas x d a b => Sys2Proof.Machine.execMmas x d a b s
  | .mclrFp32 x d => Sys2Proof.Machine.execMclrFp32 x d s
  | .mclrI32 x d => Sys2Proof.Machine.execMclrI32 x d s
  | .mqnt x d a b => Sys2Proof.Machine.execMqnt x d a b s
  | .mscl x a b => Sys2Proof.Machine.execMscl x a b s
  | .mhnd x b => Sys2Proof.Machine.execMhnd x b s
  | .qopPush x q a => Sys2Proof.Machine.execQopPush x q a s
  | .qopPop x q k d => Sys2Proof.Machine.execQopPop x q k d s
  | .qopDem x q a => Sys2Proof.Machine.execQopDem x q a s
  | .qopStat x q d => Sys2Proof.Machine.execQopStat x q d s
  | .sysTrap x n => Sys2Proof.Machine.execSysTrap x n s
  | .sysRtt x => Sys2Proof.Machine.execSysRtt x s
  | .sysSysc x n => Sys2Proof.Machine.execSysSysc x n s
  | .sysSusp x a => Sys2Proof.Machine.execSysSusp x a s
  | .sysResm x a => Sys2Proof.Machine.execSysResm x a s
  | .sysRdcv x d a => Sys2Proof.Machine.execSysRdcv x d a s
  | .sysWrcv x d a => Sys2Proof.Machine.execSysWrcv x d a s
  | .sysIcinv x d a => Sys2Proof.Machine.execSysIcinv x d a s
  | .sysTlbinv x d a => Sys2Proof.Machine.execSysTlbinv x d a s
  | .sysHalt x => Sys2Proof.Machine.execSysHalt x s
  | .sysIswap x d a => Sys2Proof.Machine.execSysIswap x d a s
  | .dbgBrk x => Sys2Proof.Machine.execDbgBrk x s
  | .dbgTrace x n a => Sys2Proof.Machine.execDbgTrace x n a s
  | .dbgMark x n => Sys2Proof.Machine.execDbgMark x n s
  | .ordBegin x a => Sys2Proof.Machine.execOrdBegin x a s
  | .ordEnd x => Sys2Proof.Machine.execOrdEnd x s
  | .mov16 d v => Sys2Proof.Machine.execMov16 d v s
  | .iadd16 d v => Sys2Proof.Machine.execIadd16 d v s
  | .isub16 d v => Sys2Proof.Machine.execIsub16 d v s
  | .imul16 d v => Sys2Proof.Machine.execImul16 d v s
  | .and16 d v => Sys2Proof.Machine.execAnd16 d v s
  | .or16 d v => Sys2Proof.Machine.execOr16 d v s
  | .xor16 d v => Sys2Proof.Machine.execXor16 d v s
  | .shl16 d v => Sys2Proof.Machine.execShl16 d v s
  | .shr16 d v => Sys2Proof.Machine.execShr16 d v s
  | .sar16 d v => Sys2Proof.Machine.execSar16 d v s
  | .imin16 d v => Sys2Proof.Machine.execImin16 d v s
  | .imax16 d v => Sys2Proof.Machine.execImax16 d v s
  | .fadd16 d v => Sys2Proof.Machine.execFadd16 d v s
  | .fmul16 d v => Sys2Proof.Machine.execFmul16 d v s
  | .fsub16 d v => Sys2Proof.Machine.execFsub16 d v s
  | .nop => Sys2Proof.Machine.execNop s
  | .brk => Sys2Proof.Machine.execBrk s
  | .exit16 => Sys2Proof.Machine.execExit16 s
  | .ret16 => Sys2Proof.Machine.execRet16 s
  | .yield16 => Sys2Proof.Machine.execYield16 s
  | .rendezvousDeadlock => Sys2Proof.Machine.execRendezvousDeadlock s
  | .frontQuantumExpire => Sys2Proof.Machine.execFrontQuantumExpire s
  | .sqPush die n v => Sys2Proof.Machine.execSqPush die n v s
  | .taskKill die v => Sys2Proof.Machine.execTaskKill die v s
  | .taskRetire => Sys2Proof.Machine.execTaskRetire s
  | .placementDecision => Sys2Proof.Machine.execPlacementDecision s
  | .starvationReservation die queue => Sys2Proof.Machine.execStarvationReservation die queue s
  | .blockWakeDone => Sys2Proof.Machine.execBlockWakeDone s
  | .blockSaveComplete => Sys2Proof.Machine.execBlockSaveComplete s
  | .preemptSlowStop => Sys2Proof.Machine.execPreemptSlowStop s
  | .blockRetire => Sys2Proof.Machine.execBlockRetire s
  | .allocationScrub => Sys2Proof.Machine.execAllocationScrub s
  | .registerGroupGate core group => Sys2Proof.Machine.execRegisterGroupGate core group s
  | .enckeAgeFlush die key => Sys2Proof.Machine.execEnckeAgeFlush die key s
  | .enckeFinalFlush die task => Sys2Proof.Machine.execEnckeFinalFlush die task s
  | .loadDataReturn flight line => Sys2Proof.Machine.execLoadDataReturn flight line s
  | .atomicReturn flight line => Sys2Proof.Machine.execAtomicReturn flight line s
  | .writePerformed flight line => Sys2Proof.Machine.execWritePerformed flight line s
  | .walkComplete => Sys2Proof.Machine.execWalkComplete s
  | .missEntryFree => Sys2Proof.Machine.execMissEntryFree s
  | .mshrAgeLimitReached => Sys2Proof.Machine.execMshrAgeLimitReached s
  | .lineRetry flight line => Sys2Proof.Machine.execLineRetry flight line s
  | .bcopyUnitMove copy unit => Sys2Proof.Machine.execBcopyUnitMove copy unit s
  | .matrixOccupancyEnd => Sys2Proof.Machine.execMatrixOccupancyEnd s
  | .scPin die n v => Sys2Proof.Machine.execScPin die n v s
  | .pinInstallDone die n => Sys2Proof.Machine.execPinInstallDone die n s
  | .scPartWrite die off v => Sys2Proof.Machine.execScPartWrite die off v s
  | .mcPfqResp die v => Sys2Proof.Machine.execMcPfqResp die v s
  | .mcPfqTail die v => Sys2Proof.Machine.execMcPfqTail die v s
  | .hostRead addr len keep => Sys2Proof.Machine.execHostRead addr len keep s
  | .hostWrite addr data keep => Sys2Proof.Machine.execHostWrite addr data keep s
  | .hostSnoop addr inv => Sys2Proof.Machine.execHostSnoop addr inv s
  | .birsp sector => Sys2Proof.Machine.execBirsp sector s
  | .atsTranslationCompletion req ans => Sys2Proof.Machine.execAtsTranslationCompletion req ans s
  | .pageGroupResponse req code => Sys2Proof.Machine.execPageGroupResponse req code s
  | .priEnable => Sys2Proof.Machine.execPriEnable s
  | .atsInvalidateRequest pasid va pages => Sys2Proof.Machine.execAtsInvalidateRequest pasid va pages s
  | .shootdownAck sd die => Sys2Proof.Machine.execShootdownAck sd die s
  | .dieFence die => Sys2Proof.Machine.execDieFence die s
  | .icinvAck ic core => Sys2Proof.Machine.execIcinvAck ic core s
  | .flitReceive die crcOk => Sys2Proof.Machine.execFlitReceive die crcOk s
  | .laneLockLoss => Sys2Proof.Machine.execLaneLockLoss s
  | .linkRetrainEnd passed => Sys2Proof.Machine.execLinkRetrainEnd passed s
  | .linkHeartbeat => Sys2Proof.Machine.execLinkHeartbeat s
  | .cellFire die isl cell => Sys2Proof.Machine.execCellFire die isl cell s
  | .tokenDeliver die isl n => Sys2Proof.Machine.execTokenDeliver die isl n s
  | .demandCreditArrive die isl n => Sys2Proof.Machine.execDemandCreditArrive die isl n s
  | .tokenRequestArrive die isl n => Sys2Proof.Machine.execTokenRequestArrive die isl n s
  | .islandFetchReturn die isl n => Sys2Proof.Machine.execIslandFetchReturn die isl n s
  | .islandStoreDone die isl n => Sys2Proof.Machine.execIslandStoreDone die isl n s
  | .outputVectorDeliver die isl port => Sys2Proof.Machine.execOutputVectorDeliver die isl port s
  | .pushEntryToPort core q => Sys2Proof.Machine.execPushEntryToPort core q s
  | .islandImageCheck => Sys2Proof.Machine.execIslandImageCheck s
  | .traceRecordWrite => Sys2Proof.Machine.execTraceRecordWrite s
  | .replayGateTimeout die line => Sys2Proof.Machine.execReplayGateTimeout die line s
  | .trCtl die v => Sys2Proof.Machine.execTrCtl die v s
  | .trTime v => Sys2Proof.Machine.execTrTime v s
  | .trAdj v => Sys2Proof.Machine.execTrAdj v s
  | .traceSample core v => Sys2Proof.Machine.execTraceSample core v s
  | .registerWrite off v => Sys2Proof.Machine.execRegisterWrite off v s
  | .bootClear v => Sys2Proof.Machine.execBootClear v s
  | .fwErase => Sys2Proof.Machine.execFwErase s
  | .fwProgram => Sys2Proof.Machine.execFwProgram s
  | .fwVerify => Sys2Proof.Machine.execFwVerify s
  | .fwCommit => Sys2Proof.Machine.execFwCommit s
  | .fwInvalidCommand code => Sys2Proof.Machine.execFwInvalidCommand code s
  | .fwCommandComplete flashOk => Sys2Proof.Machine.execFwCommandComplete flashOk s
  | .getVersion => Sys2Proof.Machine.execGetVersion s
  | .getCapabilities => Sys2Proof.Machine.execGetCapabilities s
  | .negotiateAlgorithms => Sys2Proof.Machine.execNegotiateAlgorithms s
  | .getDigests => Sys2Proof.Machine.execGetDigests s
  | .getCertificate slot off len => Sys2Proof.Machine.execGetCertificate slot off len s
  | .challenge slot nonce => Sys2Proof.Machine.execChallenge slot nonce s
  | .getMeasurements index signed nonce => Sys2Proof.Machine.execGetMeasurements index signed nonce s
  | .powerOnReset env => Sys2Proof.Machine.execPowerOnReset env s
  | .standbyPowerLoss => Sys2Proof.Machine.execStandbyPowerLoss s
  | .securityAlarm monitors => Sys2Proof.Machine.execSecurityAlarm monitors s
  | .clockThrottle lower => Sys2Proof.Machine.execClockThrottle lower s
  | .thermalTrip => Sys2Proof.Machine.execThermalTrip s
  | .illegalInstruction word lit len why => Sys2Proof.Machine.execIllegalInstruction word lit len why s
  | .trTail v => Sys2Proof.Machine.execTrTail v s
  | .eccError die addr fixable => Sys2Proof.Machine.execEccError die addr fixable s
  | .burstCrcFailure die ctl => Sys2Proof.Machine.execBurstCrcFailure die ctl s

end Sys2Proof.Machine
end

