-- ==== Sys2Proof/Machine/Policy.lean ====
section
/-!
DEFINITION. The end of a step, and what the next step does: the head of the agenda, or, when the agenda is empty, one of the things that could happen now,
in rotation (log entry 1).  The order of the agents is the spec's to leave open (R3, R261); every order is some agenda.
-/

namespace Sys2Proof.Machine

/-! ### The end of a step -/

/-- What waits on the device's own account is tried again: its posted writes, logged instructions, and the fault records that save areas are still owed (R46, R312, R313).
These are no accesses of their own: a line that sends them back again leaves no record of it until LINE_RETRY (R246; DESIGN CHOICE, log entry 29). -/
def retryOwed (s : State) : State :=
  let t := payAll (retryLogs (drainPosted s))
  { t with traceQ := s.traceQ ++ (t.traceQ.drop s.traceQ.length).filter fun r => r.typ != 9 }

/-- The MMA and MMAS that wait at a core's engine, each with the count from which it has been ready; one that is ready no more starts anew, and one whose crew has gone
elsewhere is out (R180; DEDUCED, log entry 23). -/
def stampWaits (s : State) (k : CoreSt) : CoreSt :=
  { k with mwait := (k.mwait.filter (·.stands s)).map fun w => { w with since := if w.canGo s k.id then some (w.since.getD s.era) else none } }

/-- The end of a step. -/
def settle (s : State) : State :=
  let s := stepRewrite (sendRequests (retryOwed s))
  let s := if s.progress then { wakeAll s with era := s.era + 1 } else s
  tick { s with cores := s.cores.map fun k => if k.mwait.isEmpty then k else stampWaits s k }

/-! ### The next action -/

/-- Device events of the memory system and the cores that could happen now. -/
def memActs (s : State) : List Act :=
  (s.walks.filterMap fun w => if w.result == .pending && !w.ats then some (.event .walkComplete w.id) else none) ++
  (s.flights.filterMap fun f =>
    match f.todo, f.op with
    | [], _ => none
    | l :: _, .load .. | l :: _, .ldacq | l :: _, .ldm _ => some (.event (.loadDataReturn f.id l) 0)
    | l :: _, .atomic .. => some (.event (.atomicReturn f.id l) 0)
    | l :: _, _ => some (.event (.writePerformed f.id l) 0)) ++
  (s.copies.filterMap fun c => if c.held then none else some (.event (.bcopyUnitMove c.id c.next) 0)) ++
  (s.cores.filterMap fun c => if c.matrix.isSome then some (.event .matrixOccupancyEnd c.id) else none) ++
  (s.cores.filterMap fun c => if c.rejects.isEmpty then none else some (.event .missEntryFree c.id)) ++
  (s.cores.filterMap fun c => if c.scrub.isEmpty then none else some (.event .allocationScrub c.id)) ++
  (s.shootdowns.flatMap fun x => ([0, 1].filter fun d => !x.acked.contains d && !fenced s d).map fun d => .event (.shootdownAck x.id d) 0) ++
  (s.icinvs.flatMap fun x => ((s.cores.filter fun c => !x.acked.contains c.id && c.enabled && !fenced s (dieOfCore c.id)).map fun c => .event (.icinvAck x.id c.id) 0).take 1)

/-- A die has not heard of every write of the other die, or die 1 of one at the host (R255). -/
def lagging (s : State) (d : Die) : Bool :=
  match dieAt s (1 - d.id) with
  | some o => if d.id = 0 then d.applied.d1 != o.count else d.applied.d0 != o.count || d.applied.host != s.hostCount
  | none => false

/-- Events of the link, of the trace fabric, of pins and of the mailbox that could happen now. -/
def fabricActs (s : State) : List Act :=
  (if s.link.retraining then [.event (.linkRetrainEnd true) 0]
    else (s.dies.filterMap fun d => if lagging s d then some (.event (.flitReceive d.id true) 0) else none)) ++
  (if s.traceQ.isEmpty then [] else [.event .linkHeartbeat 0, .event .traceRecordWrite 0]) ++
  (s.dies.flatMap fun d => (d.pinStatus.zipIdx).filterMap fun (st, n) => if st = 1 then some (.event (.pinInstallDone d.id n) 0) else none) ++
  (if s.mbox.busy then [.event (.fwCommandComplete true) 0] else [])

/-- Scheduling events that could happen now. -/
def schedActs (s : State) : List Act :=
  (s.blocks.filterMap fun b =>
    match b.state with
    | .waking => some (.event .blockWakeDone b.id)
    | .saving _ => some (.event .blockSaveComplete b.id)
    | .running | .draining => if (s.crews.filter fun c => c.block == b.id).all (·.ended) then some (.event .blockRetire b.id) else none
    | .stopping =>
      some (.event (if (s.crews.filter fun c => c.block == b.id).all (·.ended) then .blockRetire else .blockSaveComplete) b.id)
    | _ => none) ++
  (s.dies.filterMap fun d =>
    let formed := s.blocks.any fun b => b.formed.isSome && b.state == .preempted && dieOfCore b.core == d.id
    if d.queues.all (·.isEmpty) && d.resume.all (·.isEmpty) && d.pushes.isEmpty && !formed then none else some (.event .placementDecision d.id)) ++
  (s.dies.filterMap fun d => match d.bins.head? with
    | some r => some (.event (.enckeFinalFlush d.id r.task) 0)
    | none => none) ++
  (s.dies.flatMap fun d => (dueBins s d).flatMap fun x => (x.2.2.take 1).map fun r => .event (.enckeAgeFlush d.id r.key) 0) ++
  (s.dies.filterMap fun d => if d.loader.any fun j => j.answer.isNone then some (.event .islandImageCheck d.id) else none) ++
  (s.tasks.filterMap fun t => if t.state == .running || t.err != 0 then some (.event .taskRetire t.no) else none)

/-- The crew stands wholly at rendezvous. -/
def stuckActs (s : State) : List Act :=
  s.crews.filterMap fun c => if allHeld c then some (.event .rendezvousDeadlock c.id) else none

/-- Lines whose replay gate holds an access back, tried only after a step that made no progress (R355). -/
def gateActs (s : State) : List Act :=
  if s.progress then []
  else (gatedNow s).map fun g => .event (.replayGateTimeout (homeDie s (g.2 * 256)) g.2) 0

/-- Something is under way in the island. -/
def isleBusy (i : Isle) : Bool :=
  !i.items.isEmpty || i.cells.any (fun c => c.queues.any (fun q => !q.isEmpty) || c.credits.any (fun n => n != 0) || c.busy.isSome) ||
  i.inp.any (fun p => !p.fifo.isEmpty) || i.outp.any (fun p => !p.done.isEmpty || p.demand != 0) || i.std.isSome

/-- Island events that could happen now. -/
def isleActs (s : State) : List Act :=
  (s.isles.flatMap fun i =>
    if isleBusy i then
      (i.items.filterMap fun x =>
        if x.due ≤ i.cycle then
          match x.what with
          | .token .. | .port .. => some (.event (.tokenDeliver i.die i.code x.id) 0)
          | .credit .. => some (.event (.demandCreditArrive i.die i.code x.id) 0)
          | _ => some (.event (.tokenRequestArrive i.die i.code x.id) 0)
        else none) ++
      (i.cells.filterMap fun c => match c.busy with
        | some b => some (.event (if b.store then .islandStoreDone i.die i.code c.idx else .islandFetchReturn i.die i.code c.idx) 0)
        | none => if c.fired == some i.cycle then none else some (.event (.cellFire i.die i.code c.idx) 0)) ++
      (i.outp.filterMap fun p => if p.done.isEmpty && p.demand == 0 then none else some (.event (.outputVectorDeliver i.die i.code p.no) 0)) ++
      [.islandCycle i.die i.code]
    else []) ++
  (s.cores.flatMap fun c => c.queues.zipIdx.filterMap fun (q, n) =>
    if q.bound && !q.out && !q.entries.isEmpty then some (.event (.pushEntryToPort c.id n) 0) else none)

/-- Issue slots of the quarters that hold a crew. -/
def issueActs (s : State) : List Act := s.crews.filterMap fun c => if c.ended then none else some (.issue c.core (c.slot % 4))

/-- The next action, and the machine with its agenda advanced. -/
def nextAct (s : State) : Option Act × State :=
  match s.agenda with
  | a :: r => (some a, { s with agenda := r })
  | [] =>
    let acts := memActs s ++ fabricActs s ++ schedActs s ++ isleActs s ++ issueActs s ++ stuckActs s ++ gateActs s
    (acts[s.ticks % acts.length]?, s)

end Sys2Proof.Machine
end

