-- ==== Sys2Proof/Machine/Step.lean ====
section
/-! DEFINITION. One step of the machine: an event of the opcode table, an issue slot of a quarter, or a cycle of an island. -/

namespace Sys2Proof.Machine

/-- What an instruction or event came to, with the end of the step. -/
def finish : Host.Outcome State Fault Refusal → Host.Outcome State Fault Refusal
  | .next s => .next (settle { s with cur := none })
  | .fault r => .fault r
  | .refused r => .refused r

/-- One step. -/
def step (s : State) : Host.Outcome State Fault Refusal :=
  match nextAct s with
  | (none, s) => .next (settle s)
  | (some (.event i u), s) => finish (exec i { s with unit := u, cur := none, progress := true })
  | (some (.issue core quarter), s) =>
    match issueSlot { s with progress := true } core quarter with
    | .run i s => finish (exec i s)
    | .done s => .next (settle s)
  | (some (.islandCycle die isl), s) => .next (settle (islandNext { s with progress := true } die isl))

/-- The task that `withFetchWord` places: text at VA 0, PASID 1, no trap handler. -/
def fetchTask : Task where
  no := 1
  tcb := 0x10000
  text := 0
  entry := 0
  cls := 0
  affinity := 0
  signal := false
  queue := 0
  frame := 0
  grid := (1, 1, 1)
  bdim := (32, 1, 1)
  crews := 1
  regsN := 60
  baros := 0
  fslots := 0
  asBytes := 0
  wsBytes := 0
  pasid := 1
  tenant := 0
  traph := 0xFFFFFFFF
  save := 0
  savestr := 0xB000
  nrec := 0
  bind := false
  nshape := 0
  rtab := 0
  binding := none
  state := .running
  err := 0
  trapCode := 0
  next := 1
  waited := 0
  acq := Clock.zero
  succ := []
  ovf := (0, 0)
  ask := none
  refused := false
  die := 0

/-- The block that `withFetchWord` places on core 0. -/
def fetchBlock : Block where
  id := 1
  task := 1
  index := 0
  bx := 0
  byy := 0
  bz := 0
  core := 0
  formed := none
  state := .running
  crews := 1
  regsN := 60
  asBytes := 0
  wsBytes := 0
  aStore := []
  wStore := []
  bands := List.replicate 64 0x3F80
  sets := List.replicate 8 none
  trapVector := 0xFFFFFFFF
  nshape := 0
  bound := false
  resumed := false
  order := 0
  refused := []
  fresh := false
  qsaved := []
  barClk := []
  barCopies := []
  asOld := []
  copyNotes := []
  owed := []

/-- The crew that `withFetchWord` places: 32 live lanes at code address 0, registers as R120 starts them. -/
def fetchCrew : Crew where
  id := 2
  slot := 0
  core := 0
  block := 1
  index := 0
  live := BitVec.allOnes 32
  entries := [⟨0, 0, BitVec.allOnes 32, none, false, 0, 0⟩]
  kept := 0
  rdv := []
  nrec := 0
  regs := List.replicate 60 Reg.zero
  latch := List.replicate 3 Reg.zero
  lvalid := [false, false, false]
  pred := [0, 0, 0]
  recs := List.replicate 16 ⟨0, 0⟩
  slots := List.replicate 8 ⟨false, false, 0, Clock.zero⟩
  floor := Clock.zero
  hist := Clock.zero
  near := []
  seen := []
  partLines := []
  gated := none
  acq := Clock.zero
  copyAcq := Clock.zero
  acqWait := false
  nextBatch := 0
  sealed := List.replicate 8 false
  batchErr := List.replicate 8 .none
  openErr := .none
  errIds := List.replicate 9 0
  batchClk := List.replicate 10 Clock.zero
  sect := List.replicate 32 none
  idents := (List.range 32).map fun l => ⟨0, 0, 0, BitVec.ofNat 32 l, 0, 0⟩
  clkCap := none
  ptpCap := none
  priv := false
  susp := false
  cause := 0
  tpc := 0
  tlanes := 0
  newSlots := 0
  folded := 0
  log := none
  faults := []
  ldmDone := none
  hash := 0
  hashQ := []
  checkpoints := 0
  idle := false
  ended := false

/-- The machine with an instruction placed where the next step fetches: a block of one crew runs on core 0 under PASID 1, whose
page 0 is DPA 0x2000 and holds the instruction's bytes, and the next act is the issue slot of that crew's quarter (log entry 5). -/
def State.withFetchWord (s : State) (nbits w : Nat) : State :=
  { s with
    mem := sputAll 0 s.mem (addrs 0 (leSplit 8 3) ++ addrs 16 (leSplit 8 0x5001) ++ addrs 0x2000 (tableBytes nbits w))
    dies := s.dies.map fun d => if d.id == 0 then { d with pasidBase := 3 } else d
    cores := s.cores.map fun c =>
      if c.id == 0 then
        { c with tlb := [⟨1, 0, 12, 0x2000, true, false, true, false, false, true, false, 0, none⟩], icache := [] }
      else c
    tasks := [fetchTask]
    blocks := [fetchBlock]
    crews := [fetchCrew]
    agenda := [.issue 0 0] }

end Sys2Proof.Machine
end

