-- ==== Sys2Proof/Safety.lean ====
section
/-! DEFINITION. What counts as a safe run, and the terms that claims use: where an instruction issues, and what a claim about one crew compares. -/

namespace Sys2Proof.Machine

/-- A step goes on. -/
def Completes (o : Host.Outcome State Fault Refusal) : Prop := ∃ t, o = .next t

/-- Home memory and its write clocks are in canonical form. -/
def State.homeWf (s : State) : Bool := Memory.wf s.mem && swf Clock.zero s.wclk

/-- Home memory, its write clocks and the local stores are in canonical form. -/
def State.memoryWf (s : State) : Bool :=
  s.homeWf && s.blocks.all fun b => swf (0 : Byte) b.aStore && swf (0 : Byte) b.wStore

/-- The machine in which an instruction's body runs, for its scope: at lane scope at once; at a wider scope when its rendezvous is
complete (R29, R274).  None while it must wait. -/
def issueState (sp : Spec) (s : State) (u : Cur) (c : Crew) : Option State :=
  match sp.i.pfx.scope with
  | .lane => if mustWait s sp [c.id] then none else some s
  | sc =>
    let a := arrive s c.id u.pc sc
    let ids := (participants a c sc).getD []
    if !rendezvousDone a c u.pc sc || mustWait a sp ids || ids.any (fun id => gatherPoisoned a id u.pc) then none
    else some (ids.foldl (fun s id => gather s id u.pc) a)

/-- The place and the machine in which the instruction that the step has fetched runs: it passes the checks of R29 up to PARTIAL and
need not wait, and no participant's frontier stack holds a poisoned record (R271).  None when it traps before its body, or waits. -/
def issuePoint (sp : Spec) (s : State) : Option (Ctx × State) :=
  match s.cur with
  | none => none
  | some u =>
    match crewAt s u.crew with
    | none => none
    | some c =>
      match entryAt c u.pc with
      | none => none
      | some e =>
        let s := { s with cur := none }
        if preTrap s c e sp ≠ none then none
        else
          match issueState sp s u c with
          | none => none
          | some t =>
            let ps := partsOf t c sp.i.pfx u.pc
            if sp.i.full && ps.any (fun p => !p.full) then none
            else
              let x : Ctx := ⟨c.id, sp.i.pfx.scope, u.pc, u.pc + BitVec.ofNat 32 u.len, u.iword, u.lit, ps⟩
              if stacksSound x t then some (x, t) else none

/-- `r` gives every participant its new crew as the relation `R` says: its part, its crew now, its crew afterwards. -/
def Each (x : Ctx) (t : State) (r : Part → Crew) (R : Part → Crew → Crew → Prop) : Prop :=
  ∀ p ∈ x.parts, ∃ c, crewAt t p.crew = some c ∧ R p c (r p)

/-- The machine with every participant's crew as `r` gives it. -/
def setParts (x : Ctx) (t : State) (r : Part → Crew) : State := x.parts.foldl (fun u p => setCrew u (r p)) t

/-- The instruction issues with one participant, the crew `c`; `t` is the machine in which its body runs. -/
structure Alone (sp : Spec) (s : State) (x : Ctx) (p : Part) (c : Crew) (t : State) : Prop where
  point : issuePoint sp s = some (x, t)
  only : x.parts = [p]
  crew : crewAt t p.crew = some c

/-- A participant whose active set is empty stays as it is; another becomes what `R` says (R19). -/
def orSame (R : Part → Crew → Crew → Prop) (p : Part) (c c' : Crew) : Prop := (p.act = 0 → c' = c) ∧ (p.act ≠ 0 → R p c c')

/-- Wherever the instruction issues, each participant's crew becomes what `R` says, and all go on. -/
def Gives (sp : Spec) (R : Part → Crew → Crew → Prop) : Prop :=
  ∀ s x t r, issuePoint sp s = some (x, t) → Each x t r (orSame R) → exec sp.i s = .next (retire x (setParts x t r))

/-- A result of two sources: `fm` the format rule, `sh` the shape rule, `w` the lane's word. -/
def twoResult (fm : Fmt → Fmt → Option Fmt) (sh : Fmt → Reg → Reg → Shape) (w : Fmt → Word → Word → Word) (d a : RCode) (b : Src)
    (p : Part) (c c' : Crew) : Prop :=
  ∃ ra rb f, srcReg c a.toNat = some ra ∧ srcVal c b ra.fmt = some rb ∧ fm ra.fmt rb.fmt = some f ∧
    c' = writeResult c d.toNat (laneReg (sh f ra rb) f (ra.taint ||| rb.taint) fun l => w f (ra.at l) (rb.at l)) p.act p.full

/-- A result of two sources and vd. -/
def threeResult (fm : Fmt → Fmt → Fmt → Option Fmt) (w : Fmt → Word → Word → Word → Word) (d a : RCode) (b : Src)
    (p : Part) (c c' : Crew) : Prop :=
  ∃ ra rb f, srcReg c a.toNat = some ra ∧ srcVal c b ra.fmt = some rb ∧ fm ra.fmt rb.fmt (vreg c d.toNat).fmt = some f ∧
    c' = writeResult c d.toNat (laneReg (uShape [ra.shape, rb.shape, (vreg c d.toNat).shape]) f (ra.taint ||| rb.taint ||| (vreg c d.toNat).taint)
      fun l => w f (ra.at l) (rb.at l) ((vreg c d.toNat).at l)) p.act p.full

/-- A result of one source; the word depends on the source's format. -/
def oneResult (fm : Fmt → Option Fmt) (w : Fmt → Word → Word) (d a : RCode) (p : Part) (c c' : Crew) : Prop :=
  ∃ ra f, srcReg c a.toNat = some ra ∧ fm ra.fmt = some f ∧
    c' = writeResult c d.toNat (laneReg (uShape [ra.shape]) f ra.taint fun l => w ra.fmt (ra.at l)) p.act p.full

/-- A compare's predicates: pd, and pe when it is not 3, by the combine rule, in the lanes of `act`. -/
def cmpResult (fm : Fmt → Fmt → Bool) (w : Fmt → Word → Word → Bool) (q e k : BitVec 2) (a : RCode) (b : Src)
    (p : Part) (c c' : Crew) : Prop :=
  ∃ ra rb, srcReg c a.toNat = some ra ∧ srcVal c b ra.fmt = some rb ∧ fm ra.fmt rb.fmt = true ∧
    c' = { c with pred :=
      let ps := c.pred.set q.toNat (predWrite p.act (c.pred.getD q.toNat 0) fun l =>
        combineD k (laneIn (c.pred.getD q.toNat 0) l) (w ra.fmt (ra.at l) (rb.at l)))
      if e = 3 then ps else ps.set e.toNat (predWrite p.act (c.pred.getD e.toNat 0) fun l =>
        combineE k (laneIn (c.pred.getD e.toNat 0) l) (w ra.fmt (ra.at l) (rb.at l))) }

/-- The crew's entries after one of them has issued and gone on at `next` (R265-R267). -/
def entriesOn (s : State) (c : Crew) (pc next : Word) : List Entry :=
  match entryAt c pc with
  | none => c.entries
  | some e =>
    let others := c.entries.filter fun y => y.pc != pc
    mergeAll (addEntry (others.map otherIssued) ((countIssue (quantumOf s c.core) others e).to next))

/-! ### Numbers of the floating-point formats -/

/-- The number that a finite value stands for (R160). -/
def FVal.num : FVal → ℚ
  | .fin neg m e => (if neg then -1 else 1) * (m : ℚ) * (2 : ℚ) ^ e
  | _ => 0

/-- The value is a number, not an infinity or a NaN. -/
def FVal.isFinite (v : FVal) : Prop := ∃ s m e, v = .fin s m e

/-- A code that the format has for a number (R159, R161). -/
def FloatFmt.hasCode (F : FloatFmt) (c : Nat) : Prop :=
  c < 2 ^ F.width ∧ (if F.signed then c % 2 ^ (F.width - 1) else c) ≤ F.maxCode

/-- The number of a code. -/
def FloatFmt.num (F : FloatFmt) (c : Nat) : ℚ := (decodeF F c).num

/-- The spacing of the format's largest numbers. -/
def FloatFmt.topStep (F : FloatFmt) : ℚ := (2 : ℚ) ^ (F.emin + (F.maxCode / 2 ^ (F.p - 1) - 1 : Nat))

/-- The number, rounded to the format's precision with an unbounded exponent, exceeds the largest finite value (R163, R175). -/
def Overflows (F : FloatFmt) (mode : RMode) (v : ℝ) : Prop :=
  let top : ℝ := (F.num F.maxCode : ℚ)
  let step : ℝ := (F.topStep : ℚ)
  match mode with
  | .rne => top + step / 2 < |v| ∨ (F.maxCode % 2 = 1 ∧ |v| = top + step / 2)
  | .rtz => top + step ≤ |v|
  | .rdn => (v < 0 ∧ top < |v|) ∨ (0 ≤ v ∧ top + step ≤ |v|)
  | .rup => (v < 0 ∧ top + step ≤ |v|) ∨ (0 ≤ v ∧ top < |v|)

/-- The code stands for the number of the format to which the mode rounds `v`, and has the sign of a `v` that is not zero (R163, Table 2-4). -/
def RoundsTo (F : FloatFmt) (mode : RMode) (v : ℝ) (c : Nat) : Prop :=
  let r : ℝ := (F.num c : ℚ)
  F.hasCode c ∧ (v ≠ 0 → ((decodeF F c).neg = true ↔ v < 0)) ∧ ∀ d, F.hasCode d →
    let x : ℝ := (F.num d : ℚ)
    match mode with
    | .rne => |r - v| ≤ |x - v| ∧ (|r - v| = |x - v| → x = r ∨ c % 2 = 0)
    | .rtz => |r| ≤ |v| ∧ (|x| ≤ |v| → |x| ≤ |r|)
    | .rdn => r ≤ v ∧ (x ≤ v → x ≤ r)
    | .rup => v ≤ r ∧ (v ≤ x → r ≤ x)

/-- The code is `v` rounded once, to nearest with ties to even, an overflow giving the infinity of its sign (R163). -/
def RoundsOnce (F : FloatFmt) (v : ℝ) (c : Nat) : Prop :=
  (¬ Overflows F .rne v → RoundsTo F .rne v c) ∧ (Overflows F .rne v → ∀ s : Bool, (s = true ↔ v < 0) → c = signBit F s + F.inf)

/-- The integer to which a mode rounds `v` (Table 2-4). -/
def IntOf (mode : RMode) (v : ℚ) (n : ℤ) : Prop :=
  match mode with
  | .rne => |(n : ℚ) - v| ≤ 1 / 2 ∧ (|(n : ℚ) - v| = 1 / 2 → n % 2 = 0)
  | .rtz => |(n : ℚ)| ≤ |v| ∧ |v| < |(n : ℚ)| + 1 ∧ 0 ≤ (n : ℚ) * v
  | .rdn => n = ⌊v⌋
  | .rup => n = ⌈v⌉

end Sys2Proof.Machine
end

