-- ==== Sys2Proof/Certificates/Slice0/Obligations.lean ====
section
/-! DEFINITION. The statements about the model, from the numbered rules of the specification. -/

open Sys2Proof Sys2Proof.Machine

/-- Two-source integer instructions complete and write vd and the latch ring (R147, R148, R149, R150, R151, R152, R19, R125, R126, R132). -/
def Obligations.IntegerTwoSource : Prop :=
  ∀ (x : Pfx) (d a : RCode) (b : Src),
  Gives { i := .iadd x d a b, ops := binOps d a b } (twoResult IOp.add.fmt affineShape IOp.add.word d a b) ∧
  Gives { i := .isub x d a b, ops := binOps d a b } (twoResult IOp.sub.fmt affineShape IOp.sub.word d a b) ∧
  Gives { i := .imul x d a b, ops := binOps d a b } (twoResult IOp.mul.fmt affineShape IOp.mul.word d a b) ∧
  Gives { i := .imulh x d a b, ops := binOps d a b } (twoResult IOp.mulh.fmt plainShape IOp.mulh.word d a b) ∧
  Gives { i := .imulhu x d a b, ops := binOps d a b } (twoResult IOp.mulhu.fmt plainShape IOp.mulhu.word d a b) ∧
  Gives { i := .idiv x d a b, ops := binOps d a b } (twoResult IOp.div.fmt plainShape IOp.div.word d a b) ∧
  Gives { i := .idivu x d a b, ops := binOps d a b } (twoResult IOp.divu.fmt plainShape IOp.divu.word d a b) ∧
  Gives { i := .irem x d a b, ops := binOps d a b } (twoResult IOp.rem.fmt plainShape IOp.rem.word d a b) ∧
  Gives { i := .iremu x d a b, ops := binOps d a b } (twoResult IOp.remu.fmt plainShape IOp.remu.word d a b) ∧
  Gives { i := .imin x d a b, ops := binOps d a b } (twoResult IOp.min.fmt plainShape IOp.min.word d a b) ∧
  Gives { i := .imax x d a b, ops := binOps d a b } (twoResult IOp.max.fmt plainShape IOp.max.word d a b) ∧
  Gives { i := .iminu x d a b, ops := binOps d a b } (twoResult IOp.minu.fmt plainShape IOp.minu.word d a b) ∧
  Gives { i := .imaxu x d a b, ops := binOps d a b } (twoResult IOp.maxu.fmt plainShape IOp.maxu.word d a b) ∧
  Gives { i := .iadds x d a b, ops := binOps d a b } (twoResult IOp.adds.fmt plainShape IOp.adds.word d a b) ∧
  Gives { i := .isubs x d a b, ops := binOps d a b } (twoResult IOp.subs.fmt plainShape IOp.subs.word d a b) ∧
  Gives { i := .and x d a b, ops := binOps d a b } (twoResult IOp.and.fmt plainShape IOp.and.word d a b) ∧
  Gives { i := .or x d a b, ops := binOps d a b } (twoResult IOp.or.fmt plainShape IOp.or.word d a b) ∧
  Gives { i := .xor x d a b, ops := binOps d a b } (twoResult IOp.xor.fmt plainShape IOp.xor.word d a b) ∧
  Gives { i := .andn x d a b, ops := binOps d a b } (twoResult IOp.andn.fmt plainShape IOp.andn.word d a b) ∧
  Gives { i := .shl x d a b, ops := binOps d a b } (twoResult IOp.shl.fmt shlShape IOp.shl.word d a b) ∧
  Gives { i := .shr x d a b, ops := binOps d a b } (twoResult IOp.shr.fmt plainShape IOp.shr.word d a b) ∧
  Gives { i := .sar x d a b, ops := binOps d a b } (twoResult IOp.sar.fmt plainShape IOp.sar.word d a b) ∧
  Gives { i := .rol x d a b, ops := binOps d a b } (twoResult IOp.rol.fmt plainShape IOp.rol.word d a b) ∧
  Gives { i := .bfe x d a b, ops := binOps d a b } (twoResult (fun f g => if f.isIndex && g.isIndex then some f else none) plainShape (fun _ => bfeWord) d a b) ∧
  Gives { i := .lea x d a b, ops := binOps d a b } (twoResult leaFmt affineShape (fun _ v w => v + w * 4) d a b)

/-- 16-bit ops 1 to 14 have the effect of the two-source instruction with va = vd and vb = vs (R156, R177). -/
def Obligations.SixteenBitArithmetic : Prop :=
  ((∀ (d : BitVec 5) (v : RCode),
  Gives { i := .iadd16 d v, ops := binOps (v5 d) (v5 d) (.reg v) } (twoResult IOp.add.fmt affineShape IOp.add.word (v5 d) (v5 d) (.reg v)) ∧
  Gives { i := .isub16 d v, ops := binOps (v5 d) (v5 d) (.reg v) } (twoResult IOp.sub.fmt affineShape IOp.sub.word (v5 d) (v5 d) (.reg v)) ∧
  Gives { i := .imul16 d v, ops := binOps (v5 d) (v5 d) (.reg v) } (twoResult IOp.mul.fmt affineShape IOp.mul.word (v5 d) (v5 d) (.reg v)) ∧
  Gives { i := .and16 d v, ops := binOps (v5 d) (v5 d) (.reg v) } (twoResult IOp.and.fmt plainShape IOp.and.word (v5 d) (v5 d) (.reg v)) ∧
  Gives { i := .or16 d v, ops := binOps (v5 d) (v5 d) (.reg v) } (twoResult IOp.or.fmt plainShape IOp.or.word (v5 d) (v5 d) (.reg v)) ∧
  Gives { i := .xor16 d v, ops := binOps (v5 d) (v5 d) (.reg v) } (twoResult IOp.xor.fmt plainShape IOp.xor.word (v5 d) (v5 d) (.reg v)) ∧
  Gives { i := .shl16 d v, ops := binOps (v5 d) (v5 d) (.reg v) } (twoResult IOp.shl.fmt shlShape IOp.shl.word (v5 d) (v5 d) (.reg v)) ∧
  Gives { i := .shr16 d v, ops := binOps (v5 d) (v5 d) (.reg v) } (twoResult IOp.shr.fmt plainShape IOp.shr.word (v5 d) (v5 d) (.reg v)) ∧
  Gives { i := .sar16 d v, ops := binOps (v5 d) (v5 d) (.reg v) } (twoResult IOp.sar.fmt plainShape IOp.sar.word (v5 d) (v5 d) (.reg v)) ∧
  Gives { i := .imin16 d v, ops := binOps (v5 d) (v5 d) (.reg v) } (twoResult IOp.min.fmt plainShape IOp.min.word (v5 d) (v5 d) (.reg v)) ∧
  Gives { i := .imax16 d v, ops := binOps (v5 d) (v5 d) (.reg v) } (twoResult IOp.max.fmt plainShape IOp.max.word (v5 d) (v5 d) (.reg v))) ∧
  (∀ (d : BitVec 5) (s : State) (u : Cur) (c : Crew) (e : Entry), s.cur = some u → crewAt s u.crew = some c → entryAt c u.pc = some e →
    ∀ i ∈ [Instr.iadd16 d 63, .isub16 d 63, .imul16 d 63, .and16 d 63, .or16 d 63, .xor16 d 63, .shl16 d 63, .shr16 d 63, .sar16 d 63, .imin16 d 63, .imax16 d 63],
    exec i s = .next (trapAll ⟨c.id, .lane, u.pc, u.pc + BitVec.ofNat 32 u.len, u.iword, u.lit, [⟨c.id, e.mask, false⟩]⟩ { s with cur := none } trapOperand (·.act) fun _ => [])) ∧
  (∀ (d : BitVec 5) (v : RCode), ∀ p ∈ [(1, Instr.iadd16 d v), (2, .isub16 d v), (3, .imul16 d v), (4, .and16 d v), (5, .or16 d v), (6, .xor16 d v),
      (7, .shl16 d v), (8, .shr16 d v), (9, .sar16 d v), (10, .imin16 d v), (11, .imax16 d v)],
    decodeTableWord 16 (p.1 * 2 + d.toNat * 2 ^ 5 + v.toNat * 2 ^ 10) = some p.2)) ∧
  ((∀ (d : BitVec 5) (v : RCode),
  Gives { i := .fadd16 d v, ops := binOps (v5 d) (v5 d) (.reg v) } (twoResult floatOpFmt plainShape FOp.add.word (v5 d) (v5 d) (.reg v)) ∧
  Gives { i := .fmul16 d v, ops := binOps (v5 d) (v5 d) (.reg v) } (twoResult floatOpFmt plainShape FOp.mul.word (v5 d) (v5 d) (.reg v)) ∧
  Gives { i := .fsub16 d v, ops := binOps (v5 d) (v5 d) (.reg v) } (twoResult floatOpFmt plainShape FOp.sub.word (v5 d) (v5 d) (.reg v))) ∧
  (∀ (d : BitVec 5) (s : State) (u : Cur) (c : Crew) (e : Entry), s.cur = some u → crewAt s u.crew = some c → entryAt c u.pc = some e →
    ∀ i ∈ [Instr.fadd16 d 63, .fmul16 d 63, .fsub16 d 63],
    exec i s = .next (trapAll ⟨c.id, .lane, u.pc, u.pc + BitVec.ofNat 32 u.len, u.iword, u.lit, [⟨c.id, e.mask, false⟩]⟩ { s with cur := none } trapOperand (·.act) fun _ => [])) ∧
  decodeTableWord 16 0x2458 = some (.fadd16 2 9))

/-- IMAD, BFI, IDOT4 and the ten IUN functions complete and write vd and the latch ring (R147, R151, R153, R154). -/
def Obligations.IntegerOneAndThreeSource : Prop :=
  (∀ (x : Pfx) (d a : RCode) (b : Src),
  Gives { i := .imad x d a b, ops := triOps d a b } (threeResult (fun f g h => if f.isInt && f == g && g == h then some f else none) imadWord d a b) ∧
  Gives { i := .bfi x d a b, ops := triOps d a b } (threeResult (fun f g h => if f.isIndex && g.isIndex && h.isIndex then some h else none) (fun _ => bfiWord) d a b) ∧
  Gives { i := .idot4 x d a b, ops := triOps d a b } (threeResult (fun f g h => if f == .i8x4 && g == .i8x4 && h == .i32 then some .i32 else none) (fun _ => idot4Word) d a b)) ∧
  (∀ (x : Pfx) (d a : RCode),
  Gives { i := .iunNot x d a, ops := [.dst d, .src a] } (oneResult UOp.not.fmt UOp.not.word d a) ∧
  Gives { i := .iunIneg x d a, ops := [.dst d, .src a] } (oneResult UOp.neg.fmt UOp.neg.word d a) ∧
  Gives { i := .iunIabs x d a, ops := [.dst d, .src a] } (oneResult UOp.abs.fmt UOp.abs.word d a) ∧
  Gives { i := .iunPopc x d a, ops := [.dst d, .src a] } (oneResult UOp.popc.fmt UOp.popc.word d a) ∧
  Gives { i := .iunClz x d a, ops := [.dst d, .src a] } (oneResult UOp.clz.fmt UOp.clz.word d a) ∧
  Gives { i := .iunBrev x d a, ops := [.dst d, .src a] } (oneResult UOp.brev.fmt UOp.brev.word d a) ∧
  Gives { i := .iunSx8 x d a, ops := [.dst d, .src a] } (oneResult UOp.sx8.fmt UOp.sx8.word d a) ∧
  Gives { i := .iunSx16 x d a, ops := [.dst d, .src a] } (oneResult UOp.sx16.fmt UOp.sx16.word d a) ∧
  Gives { i := .iunZx8 x d a, ops := [.dst d, .src a] } (oneResult UOp.zx8.fmt UOp.zx8.word d a) ∧
  Gives { i := .iunZx16 x d a, ops := [.dst d, .src a] } (oneResult UOp.zx16.fmt UOp.zx16.word d a))

/-- Integer and floating-point compares complete and write only pd and pe (R23, R155, R173). -/
def Obligations.Compares : Prop :=
  ∀ (x : Pfx) (q e k : BitVec 2) (a : RCode) (b : Src),
  Gives { i := .iceq x q e k a b, ops := [.src a, .srcB b], ok := fun _ => cmpOk q e } (cmpResult (fun f g => f.isIndex && f == g) (fun _ => ICmp.eq.holds) q e k a b) ∧
  Gives { i := .icne x q e k a b, ops := [.src a, .srcB b], ok := fun _ => cmpOk q e } (cmpResult (fun f g => f.isIndex && f == g) (fun _ => ICmp.ne.holds) q e k a b) ∧
  Gives { i := .iclt x q e k a b, ops := [.src a, .srcB b], ok := fun _ => cmpOk q e } (cmpResult (fun f g => f.isIndex && f == g) (fun _ => ICmp.lt.holds) q e k a b) ∧
  Gives { i := .icle x q e k a b, ops := [.src a, .srcB b], ok := fun _ => cmpOk q e } (cmpResult (fun f g => f.isIndex && f == g) (fun _ => ICmp.le.holds) q e k a b) ∧
  Gives { i := .icltu x q e k a b, ops := [.src a, .srcB b], ok := fun _ => cmpOk q e } (cmpResult (fun f g => f.isIndex && f == g) (fun _ => ICmp.ltu.holds) q e k a b) ∧
  Gives { i := .icleu x q e k a b, ops := [.src a, .srcB b], ok := fun _ => cmpOk q e } (cmpResult (fun f g => f.isIndex && f == g) (fun _ => ICmp.leu.holds) q e k a b) ∧
  Gives { i := .fceq x q e k a b, ops := [.src a, .srcB b], ok := fun _ => cmpOk q e } (cmpResult (fun f g => (fcmpFmt f g).isSome) FCmp.eq.holds q e k a b) ∧
  Gives { i := .fclt x q e k a b, ops := [.src a, .srcB b], ok := fun _ => cmpOk q e } (cmpResult (fun f g => (fcmpFmt f g).isSome) FCmp.lt.holds q e k a b) ∧
  Gives { i := .fcle x q e k a b, ops := [.src a, .srcB b], ok := fun _ => cmpOk q e } (cmpResult (fun f g => (fcmpFmt f g).isSome) FCmp.le.holds q e k a b) ∧
  Gives { i := .fcun x q e k a b, ops := [.src a, .srcB b], ok := fun _ => cmpOk q e } (cmpResult (fun f g => (fcmpFmt f g).isSome) FCmp.un.holds q e k a b)

/-- The two- and three-source FP instructions, FUN and CVT complete and write vd and the latch ring (R164, R165, R166, R167, R168, R170, R171, R174). -/
def Obligations.FloatInstructions : Prop :=
  (∀ (x : Pfx) (d a : RCode) (b : Src),
  Gives { i := .fadd x d a b, ops := binOps d a b } (twoResult floatOpFmt plainShape FOp.add.word d a b) ∧
  Gives { i := .fsub x d a b, ops := binOps d a b } (twoResult floatOpFmt plainShape FOp.sub.word d a b) ∧
  Gives { i := .fmul x d a b, ops := binOps d a b } (twoResult floatOpFmt plainShape FOp.mul.word d a b) ∧
  Gives { i := .fmin x d a b, ops := binOps d a b } (twoResult floatOpFmt plainShape FOp.min.word d a b) ∧
  Gives { i := .fmax x d a b, ops := binOps d a b } (twoResult floatOpFmt plainShape FOp.max.word d a b) ∧
  Gives { i := .fdiv x d a b, ops := binOps d a b } (twoResult floatOpFmt plainShape FOp.div.word d a b) ∧
  Gives { i := .ffma x d a b, ops := triOps d a b } (threeResult (fun f g h => if f.isFloat && f == g && g == h then some f else none) ffmaWord d a b)) ∧
  (∀ (x : Pfx) (d a : RCode),
  Gives { i := .funFneg x d a, ops := [.dst d, .src a] } (oneResult FunOp.neg.fmt FunOp.neg.word d a) ∧
  Gives { i := .funFabs x d a, ops := [.dst d, .src a] } (oneResult FunOp.abs.fmt FunOp.abs.word d a) ∧
  Gives { i := .funFrcp x d a, ops := [.dst d, .src a] } (oneResult FunOp.rcp.fmt FunOp.rcp.word d a) ∧
  Gives { i := .funFrsq x d a, ops := [.dst d, .src a] } (oneResult FunOp.rsq.fmt FunOp.rsq.word d a) ∧
  Gives { i := .funFsqrt x d a, ops := [.dst d, .src a] } (oneResult FunOp.sqrt.fmt FunOp.sqrt.word d a) ∧
  Gives { i := .funFexp2 x d a, ops := [.dst d, .src a] } (oneResult FunOp.exp2.fmt FunOp.exp2.word d a) ∧
  Gives { i := .funFlog2 x d a, ops := [.dst d, .src a] } (oneResult FunOp.log2.fmt FunOp.log2.word d a) ∧
  Gives { i := .funFsin x d a, ops := [.dst d, .src a] } (oneResult FunOp.sin.fmt FunOp.sin.word d a) ∧
  Gives { i := .funFcos x d a, ops := [.dst d, .src a] } (oneResult FunOp.cos.fmt FunOp.cos.word d a) ∧
  Gives { i := .funFflr x d a, ops := [.dst d, .src a] } (oneResult FunOp.flr.fmt FunOp.flr.word d a) ∧
  Gives { i := .funFceil x d a, ops := [.dst d, .src a] } (oneResult FunOp.ceil.fmt FunOp.ceil.word d a) ∧
  Gives { i := .funFtrnc x d a, ops := [.dst d, .src a] } (oneResult FunOp.trnc.fmt FunOp.trnc.word d a) ∧
  Gives { i := .funFrint x d a, ops := [.dst d, .src a] } (oneResult FunOp.rint.fmt FunOp.rint.word d a) ∧
  Gives { i := .funFcls x d a, ops := [.dst d, .src a] } (oneResult FunOp.cls.fmt FunOp.cls.word d a) ∧
  ∀ (f : Fmt) (m : RMode) (sat : Bool), Gives { i := .cvt x f m sat d a, ops := [.dst d, .src a] } (oneResult (fun _ => some f) (fun g => cvtWord g f m sat) d a))

/-- The active set of every participant is its entry's lanes for which the guard holds (R19, R18, R125). -/
def Obligations.ActiveSet : Prop :=
  (∀ (sp : Spec) (s t : State) (x : Ctx), issuePoint sp s = some (x, t) → ∀ p ∈ x.parts,
    ∃ c e, crewAt t p.crew = some c ∧ entryAt c x.pc = some e ∧ p.act = actOf c e sp.i.pfx.guard) ∧
  (∀ (c : Crew) (e : Entry) (g : Guard) (l : Nat), l < 32 →
    laneIn (actOf c e g) l = (laneIn e.mask l && ((if g.sel = 3 then true else laneIn (c.pred.getD g.sel.toNat 0) l) != g.neg))) ∧
  (∀ (c : Crew) (e : Entry), actOf c e ⟨false, 3⟩ = e.mask ∧ actOf c e ⟨true, 3⟩ = 0)

/-- A result goes to vd and the latch ring in the lanes of act, and nowhere else (R19, R21, R125, R132).  The model's choices: the register takes the result's taint after a write that is not full too, against the words of R131 (log entry 49), and the lanes outside act of a latch that was not valid keep what it last held (log entry 78). -/
def Obligations.ResultWrite : Prop :=
  ∀ (c : Crew) (d : Nat) (r : Reg) (act : Mask) (full : Bool),
  let lane (n o : Reg) (l : Nat) : Word := if full ∧ n.shape = .u then n.at (firstLane act) else if full ∧ n.shape = .a then n.at l
    else if laneIn act l then n.at l else o.at l
  writeResult c d r 0 full = c ∧
  (act ≠ 0 →
    (∀ n, n ≠ d → vreg (writeResult c d r act full) n = vreg c n) ∧
    (60 ≤ d → (writeResult c d r act full).regs = c.regs) ∧
    (d < 60 → d < c.regs.length →
      (∀ l < 32, (vreg (writeResult c d r act full) d).at l = lane r (vreg c d) l) ∧
      (vreg (writeResult c d r act full) d).fmt = r.fmt ∧
      (vreg (writeResult c d r act full) d).taint = r.taint ∧
      (vreg (writeResult c d r act full) d).shape = if full then r.shape else .g) ∧
    (∀ k < 3, ∀ l < 32, ((writeResult c d r act full).latch.getD k Reg.zero).at l =
      lane (if k = 0 then r else c.latch.getD (k - 1) Reg.zero) (c.latch.getD k Reg.zero) l) ∧
    (∀ k < 3, ((writeResult c d r act full).latch.getD k Reg.zero).fmt = (if k = 0 then r else c.latch.getD (k - 1) Reg.zero).fmt ∧
      (full = false → ((writeResult c d r act full).latch.getD k Reg.zero).shape = .g) ∧
      (full = true → ((writeResult c d r act full).latch.getD k Reg.zero).shape = (if k = 0 then r else c.latch.getD (k - 1) Reg.zero).shape)) ∧
    (∀ k < 3, ((writeResult c d r act full).latch.getD k Reg.zero).taint = (if k = 0 then r else c.latch.getD (k - 1) Reg.zero).taint |||
      (if full then 0 else (c.latch.getD k Reg.zero).taint)) ∧
    (writeResult c d r act full).lvalid = [true, c.lvalid.getD 0 false, c.lvalid.getD 1 false] ∧
    ∃ rs ls vs, writeResult c d r act full = { c with regs := rs, latch := ls, lvalid := vs })

/-- Element values of the integer two-source operations (R145, R147, R148, R149). -/
def Obligations.ElementArithmetic : Prop :=
  (∀ (f : Fmt) (a b : Word) (i : Nat), f.isInt = true → i < fmtCount f →
    let w := fmtWidth f
    let x := elem w a i
    let y := elem w b i
    elem w (IOp.add.word f a b) i = (x + y) % 2 ^ w ∧
    elem w (IOp.sub.word f a b) i = (x + 2 ^ w - y) % 2 ^ w ∧
    elem w (IOp.mul.word f a b) i = x * y % 2 ^ w ∧
    elem w (IOp.mulhu.word f a b) i = x * y / 2 ^ w ∧
    (elem w (IOp.mulh.word f a b) i : Int) = (sgn w x * sgn w y / 2 ^ w) % 2 ^ w ∧
    elem w (IOp.and.word f a b) i = x &&& y ∧ elem w (IOp.or.word f a b) i = x ||| y ∧
    elem w (IOp.xor.word f a b) i = x ^^^ y ∧ elem w (IOp.andn.word f a b) i = x &&& (2 ^ w - 1 - y) ∧
    elem w (IOp.minu.word f a b) i = min x y ∧ elem w (IOp.maxu.word f a b) i = max x y ∧
    sgn w (elem w (IOp.min.word f a b) i) = min (sgn w x) (sgn w y) ∧ sgn w (elem w (IOp.max.word f a b) i) = max (sgn w x) (sgn w y) ∧
    sgn w (elem w (IOp.adds.word f a b) i) = max (-2 ^ (w - 1)) (min (2 ^ (w - 1) - 1) (sgn w x + sgn w y)) ∧
    sgn w (elem w (IOp.subs.word f a b) i) = max (-2 ^ (w - 1)) (min (2 ^ (w - 1) - 1) (sgn w x - sgn w y))) ∧
  (∀ (f : Fmt) (a b : Word), f.isIndex = true →
    (b = 0 → IOp.div.word f a b = 0xFFFFFFFF ∧ IOp.divu.word f a b = 0xFFFFFFFF ∧ IOp.rem.word f a b = a ∧ IOp.remu.word f a b = a) ∧
    (b ≠ 0 → IOp.divu.word f a b = a / b ∧ IOp.remu.word f a b = a % b ∧ IOp.div.word f a b = a.sdiv b ∧ IOp.rem.word f a b = a.srem b))

/-- Shifts take a separate count for each element; BFE and BFI read their descriptor from vb (R150, R151). -/
def Obligations.ShiftsAndBitFields : Prop :=
  ((∀ (f : Fmt) (a b : Word) (i : Nat), f.isInt = true → i < fmtCount f →
    let w := fmtWidth f
    let x := elem w a i
    let k := elem w b i % w
    elem w (IOp.shl.word f a b) i = x * 2 ^ k % 2 ^ w ∧ elem w (IOp.shr.word f a b) i = x / 2 ^ k ∧
    sgn w (elem w (IOp.sar.word f a b) i) = sgn w x / 2 ^ k ∧
    (∀ j < w, (elem w (IOp.rol.word f a b) i).testBit ((j + k) % w) = x.testBit j) ∧
    (k = 0 → elem w (IOp.shl.word f a b) i = x ∧ elem w (IOp.shr.word f a b) i = x ∧ elem w (IOp.sar.word f a b) i = x ∧
      elem w (IOp.rol.word f a b) i = x)) ∧
  (∀ (f : Fmt) (b : Word), f.isIndex = true → elem (fmtWidth f) b 0 % fmtWidth f = b.toNat % 32)) ∧
  ((∀ x y z : Word,
    let off := y.toNat % 32
    let w := min (min (y.toNat / 256 % 64) 32) (32 - off)
    (∀ j < 32, (bfeWord x y).getLsbD j = if j < w then x.getLsbD (off + j) else (y.getLsbD 16 && decide (0 < w) && x.getLsbD (off + w - 1))) ∧
    (∀ j < 32, (bfiWord x y z).getLsbD j = if off ≤ j ∧ j < off + w then x.getLsbD (j - off) else z.getLsbD j) ∧
    (y.toNat / 256 % 64 = 0 → bfeWord x y = 0 ∧ bfiWord x y z = z)) ∧
  (∀ x y y' z : Word, y &&& 0x13F1F = y' &&& 0x13F1F → bfeWord x y = bfeWord x y' ∧ bfiWord x y z = bfiWord x y' z) ∧
  (∀ (x : Pfx) (d a : RCode) (b : Src),
    Gives { i := .bfe x d a b, ops := binOps d a b } (twoResult (fun f g => if f.isIndex && g.isIndex then some f else none) plainShape (fun _ => bfeWord) d a b) ∧
    Gives { i := .bfi x d a b, ops := triOps d a b } (threeResult (fun f g h => if f.isIndex && g.isIndex && h.isIndex then some h else none) (fun _ => bfiWord) d a b)))

/-- FMIN and FMAX are the IEEE 754-2019 operations minimum and maximum (R168). -/
def Obligations.FloatMinMax : Prop :=
  ∀ F ∈ [fp32F, fp16F, bf16F], ∀ x y : Nat, x < 2 ^ F.width → y < 2 ^ F.width →
  (decodeF F x = .nan ∨ decodeF F y = .nan → FOp.min.elem F x y = F.nan ∧ FOp.max.elem F x y = F.nan) ∧
  (decodeF F x ≠ .nan → decodeF F y ≠ .nan →
    (FOp.min.elem F x y = x ∨ FOp.min.elem F x y = y) ∧ (FOp.max.elem F x y = x ∨ FOp.max.elem F x y = y) ∧
    fLt (decodeF F x) (decodeF F (FOp.min.elem F x y)) = false ∧ fLt (decodeF F y) (decodeF F (FOp.min.elem F x y)) = false ∧
    fLt (decodeF F (FOp.max.elem F x y)) (decodeF F x) = false ∧ fLt (decodeF F (FOp.max.elem F x y)) (decodeF F y) = false) ∧
  FOp.min.elem F 0 (2 ^ (F.width - 1)) = 2 ^ (F.width - 1) ∧ FOp.min.elem F (2 ^ (F.width - 1)) 0 = 2 ^ (F.width - 1) ∧
  FOp.max.elem F 0 (2 ^ (F.width - 1)) = 0 ∧ FOp.max.elem F (2 ^ (F.width - 1)) 0 = 0

/-- MOV, its 16-bit form, TAGF, TAGQ, TCLR and SEL complete (R135, R138, R24, R127).  The model's choice: SEL pushes the latch ring over the lanes of the whole entry, also with an empty act, against the literal text of R132 (log entry 61). -/
def Obligations.Moves : Prop :=
  (∀ (x : Pfx) (d : RCode) (b : Src),
    Gives { i := .mov x d b, ops := [.dst d, .srcB b] } (fun p c c' => ∃ r, srcVal c b .raw32 = some r ∧ c' = writeResult c d.toNat r p.act p.full)) ∧
  (∀ (d : BitVec 5) (v : RCode),
    Gives { i := .mov16 d v, ops := [.dst (v5 d), .src v] } (fun p c c' => ∃ r, srcReg c v.toNat = some r ∧ c' = writeResult c d.toNat r p.act p.full)) ∧
  (∀ (x : Pfx) (f : Fmt) (d a : RCode),
    Gives { i := .tagf x f d a, ops := [.dst d, .src a] } (fun p c c' => ∃ r, srcReg c a.toNat = some r ∧
      c' = writeResult c d.toNat { r with fmt := f } p.act p.full)) ∧
  (∀ (x : Pfx) (d a : RCode),
    Gives { i := .tagq x d a, ops := [.dst d, .src a] } (fun p c c' => ∃ r, srcReg c a.toNat = some r ∧
      c' = writeResult c d.toNat (uReg .i32 (tagWord r)) p.act p.full)) ∧
  (∀ (x : Pfx) (d : RCode),
    Gives { i := .tclr x d, ops := [.vec d] } (fun _ c c' => c' = { c with regs := c.regs.set d.toNat { vreg c d.toNat with taint := 0 } })) ∧
  (∀ (x : Pfx) (d a : RCode) (b : Src) (s t : State) (u : Ctx) (p : Part) (c : Crew) (e : Entry) (ra rb : Reg) (f : Fmt),
    Alone { i := .sel x d a b, ops := binOps d a b } s u p c t → entryAt c u.pc = some e → srcReg c a.toNat = some ra →
    srcVal c b ra.fmt = some rb → selFmt ra.fmt rb.fmt = some f →
    let yes := guardLanes c.pred x.guard
    let sh : Shape := if (yes &&& e.mask = e.mask ∨ yes &&& e.mask = 0) ∧ ra.shape = .u ∧ rb.shape = .u then .u else .g
    exec (.sel x d a b) s = .next (retire u (setCrew t (writeResult c d.toNat
      (laneReg sh f (ra.taint ||| rb.taint) fun l => if laneIn yes l then ra.at l else rb.at l) e.mask (c.live &&& ~~~e.mask == 0)))))

/-- MOVU, MOVA, the shuffles and VOTE complete over one crew (R123, R135, R136, R137). -/
def Obligations.VectorMoves : Prop :=
  ∀ (x : Pfx) (d a : RCode) (b : Src) (s t : State) (u : Ctx) (p : Part) (c : Crew) (ra : Reg), p.act ≠ 0 →
  (∀ f < 32, laneIn p.act f = true → (∀ j < f, laneIn p.act j = false) →
    Alone { i := .movu x d a, ops := [.dst d, .src a] } s u p c t → srcReg c a.toNat = some ra →
    exec (.movu x d a) s = .next (retire u (setCrew t (writeResult c d.toNat (laneReg .u ra.fmt ra.taint fun _ => ra.at f) p.act p.full)))) ∧
  (∀ rb, Alone { i := .mova x d a b, ops := binOps d a b } s u p c t → srcReg c a.toNat = some ra → srcVal c b ra.fmt = some rb →
    ra.shape = .u → rb.shape = .u → ra.fmt.isIndex = true → rb.fmt.isIndex = true →
    exec (.mova x d a b) s = .next (retire u (setCrew t (writeResult c d.toNat (laneReg .a ra.fmt (ra.taint ||| rb.taint)
      fun l => ra.at l + BitVec.ofNat 32 l * rb.at l) p.act p.full)))) ∧
  (∀ rb, Alone { i := .shfli x d a b, ops := binOps d a b } s u p c t → srcReg c a.toNat = some ra → srcVal c b ra.fmt = some rb →
    rb.fmt.isIndex = true →
    exec (.shfli x d a b) s = .next (retire u (setCrew t (writeResult c d.toNat (laneReg (if ra.shape = .u then .u else .g) ra.fmt
      (ra.taint ||| rb.taint) fun l => ra.at (Shfl.source .idx 32 l (rb.at l).toNat)) p.act p.full)))) ∧
  (∀ rb, Alone { i := .shflu x d a b, ops := binOps d a b } s u p c t → srcReg c a.toNat = some ra → srcVal c b ra.fmt = some rb →
    rb.fmt.isIndex = true → rb.shape = .u →
    exec (.shflu x d a b) s = .next (retire u (setCrew t (writeResult c d.toNat (laneReg (if ra.shape = .u then .u else .g) ra.fmt
      (ra.taint ||| rb.taint) fun l => ra.at (Shfl.source .up 32 l (rb.at l).toNat)) p.act p.full)))) ∧
  (∀ rb, Alone { i := .shfld x d a b, ops := binOps d a b } s u p c t → srcReg c a.toNat = some ra → srcVal c b ra.fmt = some rb →
    rb.fmt.isIndex = true → rb.shape = .u →
    exec (.shfld x d a b) s = .next (retire u (setCrew t (writeResult c d.toNat (laneReg (if ra.shape = .u then .u else .g) ra.fmt
      (ra.taint ||| rb.taint) fun l => ra.at (Shfl.source .down 32 l (rb.at l).toNat)) p.act p.full)))) ∧
  (∀ rb, Alone { i := .shflx x d a b, ops := binOps d a b } s u p c t → srcReg c a.toNat = some ra → srcVal c b ra.fmt = some rb →
    rb.fmt.isIndex = true → rb.shape = .u →
    exec (.shflx x d a b) s = .next (retire u (setCrew t (writeResult c d.toNat (laneReg (if ra.shape = .u then .u else .g) ra.fmt
      (ra.taint ||| rb.taint) fun l => ra.at (Shfl.source .xor 32 l (rb.at l).toNat)) p.act p.full)))) ∧
  (Alone { i := .voteAny x d a, ops := [.dst d, .src a] } s u p c t → srcReg c a.toNat = some ra →
    exec (.voteAny x d a) s = .next (retire u (setCrew t (writeResult c d.toNat (laneReg .u .i32 ra.taint fun _ =>
      if ∃ l ∈ List.range 32, laneIn p.act l = true ∧ ra.at l ≠ 0 then 1 else 0) p.act p.full)))) ∧
  (Alone { i := .voteAll x d a, ops := [.dst d, .src a] } s u p c t → srcReg c a.toNat = some ra →
    exec (.voteAll x d a) s = .next (retire u (setCrew t (writeResult c d.toNat (laneReg .u .i32 ra.taint fun _ =>
      if ∃ l ∈ List.range 32, laneIn p.act l = true ∧ ra.at l = 0 then 0 else 1) p.act p.full)))) ∧
  (Alone { i := .voteBallot x d a, ops := [.dst d, .src a] } s u p c t → srcReg c a.toNat = some ra →
    exec (.voteBallot x d a) s = .next (retire u (setCrew t (writeResult c d.toNat (laneReg .u .i32 ra.taint fun _ =>
      maskOf fun l => laneIn p.act l && ra.at l != 0) p.act p.full))))

/-- Shuffles, moves and votes across the members of a set or the crews of a block (R123, R136, R137, R390, R125). -/
def Obligations.WideVectorMoves : Prop :=
  (∀ (x : Pfx) (d a : RCode) (b : Src) (s t : State) (u : Ctx) (ps : List (Part × Crew)) (cs : List Crew), u.scope = .set →
  u.parts.filterMap (fun p => (crewAt t p.crew).map fun c => (p, c)) = ps →
  (movuBody d a ps = .ok cs → (issuePoint { i := .movu x d a, ops := [.dst d, .src a] } s = some (u, t) →
      exec (.movu x d a) s = .next (retire u (cs.foldl setCrew t))) ∧
    (∀ n < 32 * ps.length, (let on (j : Nat) : Prop := ∃ q, ps[j / 32]? = some q ∧ laneIn q.1.act (j % 32) = true
        on n ∧ ∀ j < n, ¬ on j) →
      ∀ (k : Nat) (q : Part × Crew) (c' : Crew), ps[k]? = some q → cs[k]? = some c' →
        (q.1.act = 0 → c' = { q.2 with floor := (crossTaint ps a q.2).2 }) ∧
        (q.1.act ≠ 0 → d.toNat < 60 → d.toNat < q.2.regs.length →
          (∀ l < 32, laneIn q.1.act l = true ∨ q.1.full = true → (vreg c' d.toNat).at l = vecLane ps a n) ∧
          ((∃ q' ∈ ps, q'.2.id ≠ q.2.id ∧ ∃ r, srcReg q'.2 a.toNat = some r ∧ r.taint ≠ 0) → (vreg c' d.toNat).taint.getLsbD 8 = true)))) ∧
  (eachMember (movaBody d a b) ps = .ok cs → (issuePoint { i := .mova x d a b, ops := binOps d a b } s = some (u, t) →
      exec (.mova x d a b) s = .next (retire u (cs.foldl setCrew t))) ∧
    (∀ (k : Nat) (q : Part × Crew) (c' : Crew) (ra rb : Reg), ps[k]? = some q → cs[k]? = some c' → srcReg q.2 a.toNat = some ra →
      srcVal q.2 b ra.fmt = some rb → (q.1.act = 0 → c' = q.2) ∧
      (q.1.act ≠ 0 → d.toNat < 60 → d.toNat < q.2.regs.length → ∀ l < 32, laneIn q.1.act l = true ∨ q.1.full = true →
        (vreg c' d.toNat).at l = ra.at l + BitVec.ofNat 32 (32 * k + l) * rb.at l))) ∧
  (∀ o ∈ [(Instr.shfli x d a b, Shfl.idx), (.shflu x d a b, .up), (.shfld x d a b, .down), (.shflx x d a b, .xor)],
    shflBody o.2 d a b ps = .ok cs → (issuePoint { i := o.1, ops := binOps d a b } s = some (u, t) → exec o.1 s = .next (retire u (cs.foldl setCrew t))) ∧
    (∀ (k : Nat) (q : Part × Crew) (c' : Crew) (ra rb : Reg), ps[k]? = some q → cs[k]? = some c' → q.1.act ≠ 0 →
      srcReg q.2 a.toNat = some ra → srcVal q.2 b ra.fmt = some rb →
      d.toNat < 60 → d.toNat < q.2.regs.length → ∀ l < 32, laneIn q.1.act l = true →
        (let m := if q.1.full = true ∧ vecU ps a = true then firstLane q.1.act else l
         (vreg c' d.toNat).at l = vecLane ps a (o.2.source (32 * ps.length) (32 * k + m) (rb.at m).toNat)) ∧
        ((∃ q' ∈ ps, q'.2.id ≠ q.2.id ∧ ∃ r, srcReg q'.2 a.toNat = some r ∧ r.taint ≠ 0) → (vreg c' d.toNat).taint.getLsbD 8 = true))) ∧
  (∀ (r : Part → Crew) (w : Word),
    let lane (f : Word → Prop) : Prop := ∃ q ∈ ps, ∃ re, srcReg q.2 a.toNat = some re ∧ ∃ l < 32, laneIn q.1.act l = true ∧ f (re.at l)
    let some_ : Prop := ∃ q ∈ ps, q.1.act ≠ 0
    (some_ → (commonFmt ps a).isSome = true) →
    Each u t r (fun p c c' => (¬ some_ → c' = c) ∧ (some_ → p.act = 0 → c' = { c with floor := (crossTaint ps a c).2 }) ∧ (p.act ≠ 0 → ∃ ra, srcReg c a.toNat = some ra ∧
      c' = { writeResult c d.toNat (laneReg .u .i32 (ra.taint ||| (crossTaint ps a c).1) fun _ => w) p.act p.full with floor := (crossTaint ps a c).2 })) →
    (∀ p ∈ u.parts, ∃ c ra, crewAt t p.crew = some c ∧ srcReg c a.toNat = some ra) →
    (issuePoint { i := .voteAny x d a, ops := [.dst d, .src a] } s = some (u, t) → (lane (· ≠ 0) → w = 1) → (¬ lane (· ≠ 0) → w = 0) →
      exec (.voteAny x d a) s = .next (retire u (setParts u t r))) ∧
    (issuePoint { i := .voteAll x d a, ops := [.dst d, .src a] } s = some (u, t) → (lane (· = 0) → w = 0) → (¬ lane (· = 0) → w = 1) →
      exec (.voteAll x d a) s = .next (retire u (setParts u t r))))) ∧
  (∀ (x : Pfx) (d a : RCode), Gives { i := .voteBallot x d a, ops := [.dst d, .src a] } (fun p c c' => ∃ ra, srcReg c a.toNat = some ra ∧
    c' = writeResult c d.toNat (laneReg .u .i32 ra.taint fun _ => maskOf fun l => laneIn p.act l && ra.at l != 0) p.act p.full) ∧
  ∀ (s t : State) (u : Ctx) (w : Word), u.scope = .block →
  let result (r : Part → Crew) (v : Part → Reg → Word) : Prop := ∀ p ∈ u.parts, ∃ c ra, crewAt t p.crew = some c ∧ srcReg c a.toNat = some ra ∧
    (p.act = 0 → r p = c) ∧ (p.act ≠ 0 → r p = writeResult c d.toNat (laneReg .u .i32 ra.taint fun _ => v p ra) p.act p.full)
  let lane (f : Word → Prop) : Prop := ∃ q ∈ u.parts, ∃ e re, crewAt t q.crew = some e ∧ srcReg e a.toNat = some re ∧ ∃ l < 32, laneIn q.act l = true ∧ f (re.at l)
  (∀ r, issuePoint { i := .voteAny x d a, ops := [.dst d, .src a] } s = some (u, t) → (lane (· ≠ 0) → w = 1) → (¬ lane (· ≠ 0) → w = 0) →
    result r (fun _ _ => w) → exec (.voteAny x d a) s = .next (retire u (setParts u t r))) ∧
  (∀ r, issuePoint { i := .voteAll x d a, ops := [.dst d, .src a] } s = some (u, t) → (lane (· = 0) → w = 0) → (¬ lane (· = 0) → w = 1) →
    result r (fun _ _ => w) → exec (.voteAll x d a) s = .next (retire u (setParts u t r))))

/-- MOVS, MOVC and PMOV complete for every system and control register (R139, R140, R141, R335). -/
def Obligations.SystemAndPredicateMoves : Prop :=
  (∀ (x : Pfx) (n : SysReg) (d : RCode) (s t : State) (u : Ctx) (r : Part → Crew), issuePoint { i := .movs x n d, ops := [.dst d] } s = some (u, t) →
    Each u t r (orSame fun p c c' => c' = writeResult (sysCapture t c n) d.toNat
      (laneReg (sysShape (isFormed t c) n) .i32 0 fun l => sysValue t c l n) p.act p.full) →
    exec (.movs x n d) s = .next (retire u (setParts u t r))) ∧
  (∀ (x : Pfx) (n : CtlReg) (d : RCode) (s t : State) (u : Ctx) (r : Part → Crew), issuePoint { i := .movcRd x n d, ops := [.dst d] } s = some (u, t) →
    Each u t r (orSame fun p c c' => c' = writeResult c d.toNat (uReg .raw32 (readCtl t c n)) p.act p.full) →
    exec (.movcRd x n d) s = .next (retire u (setParts u t r))) ∧
  (∀ (x : Pfx) (n : CtlReg) (a : RCode) (s t : State) (u : Ctx) (p : Part) (c : Crew) (ra : Reg), Alone { i := .movcWr x n a, ops := [.src a] } s u p c t →
    u.crew = p.crew → p.act ≠ 0 → srcReg c a.toNat = some ra → ra.shape = .u →
    exec (.movcWr x n a) s = .next (retire u (writeCtl t c n (ra.at 0)))) ∧
  (∀ (x : Pfx) (d : RCode), Gives { i := .pmovGet x d, ops := [.dst d] } (fun p c c' => c' = writeResult c d.toNat
    (laneReg .g .i32 0 fun l => BitVec.ofNat 32 ((if laneIn (c.pred.getD 0 0) l then 1 else 0) +
      (if laneIn (c.pred.getD 1 0) l then 2 else 0) + (if laneIn (c.pred.getD 2 0) l then 4 else 0))) p.act p.full)) ∧
  (∀ (x : Pfx) (a : RCode), Gives { i := .pmovSet x a, ops := [.src a] } (fun p c c' => ∃ r, srcReg c a.toNat = some r ∧ r.fmt.isIndex = true ∧
    c' = { c with pred := [predWrite p.act (c.pred.getD 0 0) fun l => (r.at l).getLsbD 0, predWrite p.act (c.pred.getD 1 0) fun l => (r.at l).getLsbD 1,
      predWrite p.act (c.pred.getD 2 0) fun l => (r.at l).getLsbD 2] }))

/-- Privileged instructions trap with PRIV outside a privileged context (R30). -/
def Obligations.PrivilegedTraps : Prop :=
  ∀ (x : Pfx) (r : CtlReg) (d a : RCode) (n : BitVec 6),
  (∀ i ∈ [Instr.movcWr x r a, .sysRtt x, .sysSusp x a, .sysResm x a, .sysRdcv x d a, .sysWrcv x d a, .sysIcinv x d a, .sysTlbinv x d a,
      .sysHalt x, .sysIswap x d a] ++ (if r = .frontQuantum then [] else [.movcRd x r d]),
    ∀ (s : State) (u : Cur) (c : Crew) (e : Entry), s.cur = some u → crewAt s u.crew = some c → entryAt c u.pc = some e → c.priv = false →
      exec i s = .next (trapAll ⟨c.id, x.scope, u.pc, u.pc + BitVec.ofNat 32 u.len, u.iword, u.lit, [⟨c.id, actOf c e x.guard, false⟩]⟩
        { s with cur := none } trapPriv (·.act) fun _ => [])) ∧
  (∀ sp : Spec, sp.i ∈ [Instr.movcRd x .frontQuantum d, .sysTrap x n, .sysSysc x n, .dbgBrk x, .dbgTrace x n a, .dbgMark x n, .brk] →
    ∀ (s : State) (c : Crew) (e : Entry), preTrap s c e sp ≠ some trapPriv)

/-- TRAP and SYSC raise traps 0x40 + n and 0x80 + n for the lanes of act (R328). -/
def Obligations.SoftwareTraps : Prop :=
  (∀ (x : Pfx) (n : BitVec 6) (s t : State) (u : Ctx), (actor u t).isSome = true →
    (issuePoint { i := .sysTrap x n } s = some (u, t) → exec (.sysTrap x n) s = .next (trapAll u t (0x40 + n.toNat) (·.act) fun _ => [])) ∧
    (∀ p c, actor u t = some (p, c) → issuePoint { i := .sysSysc x n } s = some (u, t) →
      exec (.sysSysc x n) s = .next (trapNext u p (0x80 + n.toNat) t))) ∧
  (∀ (u : Ctx) (p : Part) (t t' : State) (code : Nat), u.parts = [p] → trapReady t [p.crew] = (true, t') →
    (∃ i : TrapInfo, trapAll u t code (·.act) (fun _ => []) = enterTrap t' p.crew u.pc i ∧ i.code = code ∧ i.pc = u.pc ∧ i.lanes = p.act) ∧
    (∃ i : TrapInfo, trapNext u p code t = enterTrap t' p.crew u.pc i ∧ i.code = code ∧ i.pc = u.next ∧ i.lanes = p.act)) ∧
  (∀ (s : State) (id : Nat) (pc : Word) (i : TrapInfo) (c : Crew) (b : Block), crewAt s id = some c → blockOf s c = some b → c.priv = true →
    enterTrap s id pc i = endTask (emitLoc s c .fault 5 3 i.code 0 i.pc (wordBytes i.lanes)) b.task 6 i.code)

/-- Taking a trap: the frame is written and the handler starts at TRAP_VECTOR (R321, R322). -/
def Obligations.TrapEntry : Prop :=
  (∀ (s s1 s2 : State) (id : Nat) (pc : Word) (i : TrapInfo) (c : Crew) (b : Block), crewAt s id = some c → blockOf s c = some b →
    c.priv = false → b.trapVector ≠ 0xFFFFFFFF → vectorCheck s c b.trapVector = (.valid, s1) →
    pokeVa s1 c.core (pasidOf s1 c) true (shiftAddrs (frameVa s1 c) (frameBytes c pc i)) = some s2 →
    enterTrap s id pc i = powerRows (dropRejects (setCrew (emitLoc s2 c .fault 5 3 i.code 0 i.pc (wordBytes i.lanes)) (handlerCrew s2 c i)) c.id) c.core c.slot 48 60) ∧
  (∀ (s : State) (id : Nat) (pc : Word) (i : TrapInfo) (c : Crew) (b : Block), crewAt s id = some c → blockOf s c = some b →
    c.priv = true ∨ b.trapVector = 0xFFFFFFFF →
    enterTrap s id pc i = endTask (emitLoc s c .fault 5 3 i.code 0 i.pc (wordBytes i.lanes)) b.task 6 i.code) ∧
  (∀ (s s1 : State) (id : Nat) (pc : Word) (i : TrapInfo) (c : Crew) (b : Block), crewAt s id = some c → blockOf s c = some b →
    c.priv = false → b.trapVector ≠ 0xFFFFFFFF →
    (vectorCheck s c b.trapVector = (.invalid, s1) →
      enterTrap s id pc i = endTask (emitLoc s1 c .fault 5 3 i.code 0 i.pc (wordBytes i.lanes)) b.task 6 i.code) ∧
    (vectorCheck s c b.trapVector = (.fault, s1) → enterTrap s id pc i = vectorFault s1 c b.trapVector)) ∧
  (∀ (s : State) (c : Crew) (b : Block) (i : TrapInfo), blockOf s c = some b → c.regs.length = 60 →
    let h := handlerCrew s c i
    h.entries = [⟨b.trapVector, 15, c.live &&& ~~~stackedLanes s c, none, false, 0, 0⟩] ∧ h.priv = true ∧
    vreg h 48 = uReg .i32 (BitVec.ofNat 32 i.cause) ∧ vreg h 49 = uReg .i32 i.pc ∧ (∀ n, 50 ≤ n → n < 60 → vreg h n = Reg.zero) ∧
    (∀ n < 48, vreg h n = vreg c n) ∧ h.pred = [i.lanes, 0, 0] ∧ h.lvalid = [false, false, false] ∧
    (∀ n < 15, recAt h n = recAt c n) ∧ h.slots = c.slots ∧ h.floor = c.floor ∧ h.hist = c.hist ∧ h.sect = c.sect ∧ h.live = c.live ∧
    (15 < c.recs.length → recAt h 15 = ⟨frameRecord (frameVa s c), 0⟩) ∧
    h.cause = BitVec.ofNat 32 i.cause ∧ h.tpc = i.pc ∧ h.tlanes = i.lanes)

/-- RTT restores the frame and ends the privileged context (R269, R272, R287, R325, R329).  The model's choice: what the check of the frame looks at (log entry 21). -/
def Obligations.TrapReturn : Prop :=
  (∀ (x : Pfx) (s t t1 t2 : State) (u : Ctx) (c : Crew) (b : Block) (bs : List Byte), issuePoint { i := .sysRtt x } s = some (u, t) →
    crewAt t u.crew = some c → flightsOf t c.id = [] → (∀ e, c.log = some e → e.priv = false) →
    pagesReady t (.wait c.id) c.core (pasidOf t c) true [(frameVa t c, .read), (frameVa t c + 4095, .read)] = (true, t1) →
    blockOf t1 c = some b → peekVa t1 c.core (pasidOf t1 c) true (frameVa t c) 4096 = some (bs, t2) →
    (frameOk t2 c (frameOf bs) = true → rttFits t2 c (frameOf bs) = true →
      (sectMask c = 0 → exec (.sysRtt x) s = .next (rttGo t2 c (frameOf bs))) ∧
      (∀ t3, sectMask c ≠ 0 → releaseNow t2 c 1 = (true, t3) → exec (.sysRtt x) s = .next (rttGo t3 c (frameOf bs)))) ∧
    (frameOk t2 c (frameOf bs) = false →
      exec (.sysRtt x) s = .next (endTask (emitLoc t2 c .fault 5 3 trapOperand 0 u.pc (wordBytes c.live)) b.task 6 trapOperand))) ∧
  (∀ (s : State) (c : Crew) (f : Frame), crewAt s c.id = some c →
    let kept := f.entries.foldl (fun m e => m ||| e.mask) (stackedLanes s c)
    let gone := c.live &&& ~~~kept
    let base := setCrew s (f.restore c)
    let out := if gone = 0 then base
      else exitLanes (if sectMask c &&& gone = 0 then base else closeSections base c (sectMask c &&& gone)) c.id gone
    (∀ l < 32, laneIn kept l = true ↔ (∃ e ∈ f.entries, laneIn e.mask l = true) ∨ ∃ r ∈ stackRecs s c, laneIn r.mask l = true) ∧
    (∀ t, refill out c.id f.nent = .ok t → rttGo s c f = t) ∧
    (gone = 0 → c.nrec = 0 → rttGo s c f = setCrew s (f.restore c) ∧ crewAt (rttGo s c f) c.id = some (f.restore c))) ∧
  (∀ (f : Frame) (c : Crew), f.regs.length = 12 → c.regs.length = 60 → c.recs.length = 16 →
    let r := f.restore c
    let held (h : Option Reg) : Reg := { h.getD Reg.zero with taint := frameTaint c (h.getD Reg.zero).taint }
    r.priv = false ∧ r.live = c.live ∧ r.nrec = c.nrec ∧ r.sect = c.sect ∧ (∀ i < 12, vreg r (48 + i) = held (f.regs.getD i none)) ∧ r.latch = f.latches.map held ∧
    (∀ k < 3, r.lvalid.getD k false = decide (f.ent / 2 ^ (4 + k) % 2 = 1)) ∧ r.pred = f.preds ∧ recAt r 15 = ⟨f.m15, frameTaint c (BitVec.ofNat 9 (f.taint / 64))⟩ ∧
    (∀ k h, f.slots[k]? = some h → r.slots[k]? = some (frameSlot c k h) ∧ (h.pending = false → frameSlot c k h = h)) ∧ r.floor.covers f.floor = true ∧ r.floor.covers c.floor = true ∧
    (∀ e es, f.entries = e :: es → r.entries = mergeAll ({ e with pc := f.pc } :: es)) ∧
    (c.folded = 0 → ∀ k : BitVec 9, frameTaint c k = k)) ∧
  (∀ (s : State) (c : Crew) (f : Frame), frameOk s c f = true → 1 ≤ f.nent ∧ f.nent ≤ 8 ∧ (∀ e ∈ f.entries, e.mask &&& ~~~c.live = 0) ∧
    (∀ r ∈ f.regs ++ f.latches, r.isSome = true))

/-- HALT ends every crew of the task with error TRAP and the frame's CODE (R293, R334).  The model's choice: TASK_KILL, like every host event, needs the link up (log entry 34). -/
def Obligations.HaltEndsTask : Prop :=
  ∀ (x : Pfx) (s t t1 : State) (u : Ctx) (p : Part) (c : Crew) (b : Block), issuePoint { i := .sysHalt x } s = some (u, t) →
  actor u t = some (p, c) → pagesReady t (.wait c.id) c.core (pasidOf t c) true [(frameVa t c, .read)] = (true, t1) → blockOf t1 c = some b →
  (∀ bs t2, peekVa t1 c.core (pasidOf t1 c) true (frameVa t c) 1 = some (bs, t2) →
    exec (.sysHalt x) s = .next (endTask t2 b.task 6 (leValue bs))) ∧
  (peekVa t1 c.core (pasidOf t1 c) true (frameVa t c) 1 = none → exec (.sysHalt x) s = .next (endTask t1 b.task 8 0)) ∧
  (∀ (k : State) (die : Nat) (v : BitVec 64) (m : Task), hostUp k = true → (dieAt k die).isSome = true →
    k.tasks.find? (fun t => t.tcb == v.toNat % 2 ^ 29 * 128 && (t.state == .ready || t.state == .running)) = some m →
    exec (.taskKill die v) k = .next (endTask k m.no 5 0))

/-- SUSP, RESM, RDCV and WRCV complete and act on the crew they name (R330, R331). -/
def Obligations.SuspendAndContext : Prop :=
  ∀ (x : Pfx) (d a : RCode) (s t : State) (u : Ctx) (p : Part) (c : Crew), actor u t = some (p, c) →
  (∀ n, issuePoint { i := .sysSusp x a, ops := [.src a] } s = some (u, t) → crewIndex c a = .ok n →
    (∀ q, crewByIndex t c n = some q → q.id ≠ c.id → flightsOf t q.id = [] → partOwed t q = false →
      exec (.sysSusp x a) s = .next (retire u (modCrew t q.id fun k => { k with susp := true }))) ∧
    (crewByIndex t c n = none ∨ (∃ q, crewByIndex t c n = some q ∧ q.id = c.id) → exec (.sysSusp x a) s = .next (retire u t))) ∧
  (∀ n, issuePoint { i := .sysResm x a, ops := [.src a] } s = some (u, t) → crewIndex c a = .ok n →
    (∀ q, crewByIndex t c n = some q → q.id ≠ c.id →
      exec (.sysResm x a) s = .next (retire u (modCrew t q.id fun k => { k with susp := false }))) ∧
    (crewByIndex t c n = none ∨ (∃ q, crewByIndex t c n = some q ∧ q.id = c.id) → exec (.sysResm x a) s = .next (retire u t))) ∧
  (∀ (r : Reg) (f : Nat → CtxSel), issuePoint { i := .sysRdcv x d a, ops := [.dst d, .src a] } s = some (u, t) → srcReg c a.toNat = some r →
    r.fmt.isIndex = true → (∀ l < 32, laneIn p.act l = true → ctxSel (r.at l) = some (f l) ∧ ctxPending t c (f l) = false) →
    ∃ v : Nat → Word, (∀ l < 32, laneIn p.act l = true → v l = rdcvLane t c (f l)) ∧
      exec (.sysRdcv x d a) s = .next (retire u (modCrew t c.id fun k =>
        writeVd k d.toNat (laneReg (if r.shape = .u then .u else .g) .raw32 0 v) p.act p.full))) ∧
  (∀ (ra rd : Reg) (f : Nat → CtxSel), issuePoint { i := .sysWrcv x d a, ops := [.src d, .src a] } s = some (u, t) → srcReg c a.toNat = some ra →
    srcReg c d.toNat = some rd → ra.fmt.isIndex = true → rd.fmt.isIndex = true →
    (∀ l < 32, laneIn p.act l = true → ctxSel (ra.at l) = some (f l) ∧ wrcvBad (f l) (rd.at l) = false ∧ ctxPending t c (f l) = false) →
    exec (.sysWrcv x d a) s = .next (retire u (wrcvLanes c ra rd t (laneIds.filter (laneIn p.act)))))

/-- ICINV and TLBINV start once, wait for every acknowledgement, and then complete (R332, R333, R63, R64). -/
def Obligations.Maintenance : Prop :=
  ∀ (x : Pfx) (d a : RCode) (s t : State) (u : Ctx) (p : Part) (c : Crew), actor u t = some (p, c) →
  (issuePoint { i := .sysIcinv x d a, ops := [.dst d, .grp a 3], waits := true } s = some (u, t) →
    (∀ v, t.icinvs.find? (fun v => v.crew == c.id && v.pc == u.pc) = some v → (icinvCores t).all v.acked.contains = true →
      exec (.sysIcinv x d a) s = .next (retire u (modCrew { t with icinvs := t.icinvs.filter fun w => w.id != v.id } c.id
        (sysResult d p (BitVec.ofNat 32 v.acked.length))))) ∧
    (∀ lines t1, t.icinvs.find? (fun v => v.crew == c.id && v.pc == u.pc) = none → icinvArgs c a = .ok lines → releaseNow t c 2 = (true, t1) →
      exec (.sysIcinv x d a) s = .next (holdCrew { t1 with icinvs := t1.icinvs ++ [⟨t1.nextId, c.id, u.pc, pasidOf t1 c, lines, []⟩], nextId := t1.nextId + 1 } u.crew))) ∧
  (issuePoint { i := .sysTlbinv x d a, ops := [.dst d, .grp a 4] } s = some (u, t) →
    (∀ v, t.shootdowns.find? (fun v => v.crew == some c.id && v.pc == u.pc) = some v → sdDone t v = true →
      exec (.sysTlbinv x d a) s = .next (retire u (modCrew { t with shootdowns := t.shootdowns.filter fun w => w.id != v.id } c.id
        (sysResult d p (if 0 ∈ v.acked ∧ 1 ∈ v.acked then 0 else 1))))) ∧
    (∀ pasid range, t.shootdowns.find? (fun v => v.crew == some c.id && v.pc == u.pc) = none → tlbinvArgs c a = .ok (pasid, range) → sdFlying t < 8 →
      exec (.sysTlbinv x d a) s = .next (holdCrew { t with shootdowns := t.shootdowns ++ [⟨t.nextId, dieOfCore c.core, some c.id, u.pc, pasid, range, [], false⟩], nextId := t.nextId + 1 } u.crew)))

/-- BRK traps with BREAK; TRACE emits one USER record; MARK is a checkpoint (R348, R357, R358). -/
def Obligations.DebugFunctions : Prop :=
  (∀ (x : Pfx) (s t : State) (u : Ctx), issuePoint { i := .dbgBrk x } s = some (u, t) →
    ((actor u t).isSome = true → exec (.dbgBrk x) s = .next (trapAll u t trapBreak (·.act) fun _ => [])) ∧
    ((actor u t).isSome = false → exec (.dbgBrk x) s = .next (retire u t))) ∧
  (∀ (s t : State) (u : Ctx), issuePoint { i := .brk } s = some (u, t) → (actor u t).isSome = true →
    exec .brk s = .next (trapAll u t trapBreak (·.act) fun _ => [])) ∧
  (∀ (x : Pfx) (n : BitVec 6) (a : RCode) (s t : State) (u : Ctx), issuePoint { i := .dbgTrace x n a, ops := [.src a] } s = some (u, t) →
    (∀ p c r, actor u t = some (p, c) → srcReg c a.toNat = some r →
      exec (.dbgTrace x n a) s = .next (retire u (emitLoc t c .user 7 4 n.toNat 0 u.pc (wordBytes p.act ++ wordBytes (r.at (lowLane p.act)))))) ∧
    (actor u t = none → exec (.dbgTrace x n a) s = .next (retire u t))) ∧
  (∀ (x : Pfx) (n : BitVec 6) (s t t1 : State) (u : Ctx) (bad : Bool), issuePoint { i := .dbgMark x n } s = some (u, t) →
    (∀ p c, actor u t = some (p, c) → (inRegion t c && !c.hashQ.isEmpty) = false →
      checkpoint (emitLoc t c .user 6 2 n.toNat 0 u.pc []) c.id 1 = (bad, t1) → bad = false ∨ divTraps t c.core = false →
      exec (.dbgMark x n) s = .next (retire u t1)) ∧
    (actor u t = none → exec (.dbgMark x n) s = .next (retire u t)))

/-- BRA, BRL and CALL complete: lanes of act at the target, the others at the next instruction (R265, R281). -/
def Obligations.Branches : Prop :=
  (∀ (x : Pfx) (tt : BitVec 4) (s t t1 : State) (u : Ctx),
    (∀ off : BitVec 14, issuePoint { i := .bra x off tt } s = some (u, t) →
      leaveAll u (fun p _ e => (true, branchPaths e p.act u.next (branchTarget u.pc off.toInt) tt.toNat)) u.parts t = .ok t1 →
      exec (.bra x off tt) s = .next t1) ∧
    (∀ off : Word, issuePoint { i := .brl x off tt } s = some (u, t) →
      leaveAll u (fun p _ e => (true, branchPaths e p.act u.next (branchTarget u.pc off.toInt) tt.toNat)) u.parts t = .ok t1 →
      exec (.brl x off tt) s = .next t1) ∧
    (∀ off : BitVec 14, issuePoint { i := .call x off tt, ops := [.vec 59] } s = some (u, t) →
      leaveAll u (fun p _ e => (true, branchPaths e p.act u.next (branchTarget u.pc off.toInt) tt.toNat)) u.parts t = .ok t1 →
      exec (.call x off tt) s = .next (writeLinks u t1))) ∧
  (∀ (e : Entry) (act : Mask) (next target : Word) (n : Nat),
    (act = e.mask → branchPaths e act next target n = [{ e.to target with prio := n }]) ∧
    (e.mask ≠ 0 → act = 0 → branchPaths e act next target n = [e.to next]) ∧
    (act ≠ 0 → e.mask &&& ~~~act ≠ 0 → branchPaths e act next target n = [{ e.to next with mask := e.mask &&& ~~~act }, Entry.fresh target n act])) ∧
  (∀ (x : Pfx) (off : BitVec 14) (tt : BitVec 4) (s t : State) (u : Ctx) (p : Part) (c : Crew) (e : Entry), Alone { i := .bra x off tt } s u p c t →
    c.nrec = 0 → entryAt c u.pc = some e → e.mask ≠ 0 → p.act = e.mask →
    exec (.bra x off tt) s = .next (setCrew t { c with entries := mergeAll (addEntry ((c.entries.filter fun y => y.pc != u.pc).map otherIssued)
      { (countIssue (quantumOf t c.core) (c.entries.filter fun y => y.pc != u.pc) e).to (branchTarget u.pc off.toInt) with prio := tt.toNat }) })) ∧
  (∀ (u : Ctx) (p : Part) (t : State) (c : Crew), u.parts = [p] → p.act ≠ 0 → crewAt t p.crew = some c → c.regs.length = 60 →
    ∃ c', crewAt (writeLinks u t) p.crew = some c' ∧ (∀ l < 32, (vreg c' 59).at l = if laneIn p.act l = true ∨ p.full = true then u.next else (vreg c 59).at l) ∧
      (vreg c' 59).fmt = .i32 ∧ (vreg c' 59).taint = 0 ∧ (vreg c' 59).shape = (if p.full then .u else .g) ∧ c'.latch = c.latch)

/-- JMPI and RET complete when every target is valid, one path for each target in ascending order (R263, R282). -/
def Obligations.IndirectTransfers : Prop :=
  (∀ (x : Pfx) (tt : BitVec 4) (a : RCode) (s t t1 t2 : State) (u : Ctx),
    (∀ p ∈ u.parts, ∃ c r, crewAt t p.crew = some c ∧ srcReg c a.toNat = some r ∧ r.fmt.isIndex = true) →
    checkJumps a (u.parts.filter fun p => p.act != 0) t = .go t1 →
    (leaveAll u (fun p c e => (false, jumpPaths ((srcReg c a.toNat).getD Reg.zero) e p.act u.next tt.toNat)) u.parts t1 = .ok t2 →
      (issuePoint { i := .jmpi x tt a, ops := [.src a] } s = some (u, t) → exec (.jmpi x tt a) s = .next t2) ∧
      (issuePoint { i := .ret x tt a, ops := [.src a] } s = some (u, t) → exec (.ret x tt a) s = .next t2)) ∧
    (a = 59 → leaveAll u (fun p c e => (false, jumpPaths ((srcReg c a.toNat).getD Reg.zero) e p.act u.next 0)) u.parts t1 = .ok t2 →
      issuePoint { i := .ret16, ops := [.src 59] } s = some (u, t) → exec .ret16 s = .next t2)) ∧
  (∀ (r : Reg) (e : Entry) (act : Mask) (next : Word) (n : Nat), act ≠ 0 → act &&& ~~~e.mask = 0 →
    (∀ l < 32, laneIn e.mask l = true → ∃ q ∈ jumpPaths r e act next n, laneIn q.mask l = true ∧ q.pc = (if laneIn act l then r.at l else next) ∧
      (laneIn act l = true → q.prio = n)) ∧
    (∃ k, (((jumpPaths r e act next n).take k).map fun q => q.pc.toNat).Pairwise (· < ·) ∧
      (∀ w : Word, w ∈ ((jumpPaths r e act next n).take k).map (·.pc) ↔ ∃ l < 32, laneIn act l = true ∧ r.at l = w) ∧
      (jumpPaths r e act next n).drop k = if e.mask &&& ~~~act = 0 then [] else [Entry.fresh next e.prio (e.mask &&& ~~~act)]) ∧
    (∀ q ∈ jumpPaths r e act next n, ∀ l < 32, laneIn q.mask l = true → laneIn e.mask l = true ∧ q.pc = (if laneIn act l then r.at l else next)))

/-- EXIT, YIELD, NOP and their 16-bit forms complete (R283, R284, R25). -/
def Obligations.ExitsAndYield : Prop :=
  (∀ (x : Pfx) (i : Instr) (s t t1 : State) (u : Ctx) (p : Part) (c : Crew), i = .exit x ∨ i = .exit16 → Alone { i := i } s u p c t → u.crew = p.crew →
    (p.act = 0 → exec i s = .next (retire u t)) ∧
    (p.act ≠ 0 → sectMask c &&& p.act = 0 → (c.live &&& ~~~p.act ≠ 0 ∨ c.hashQ = []) →
      leaveBy u (fun p _ e => (false, [{ e.to u.next with mask := e.mask &&& ~~~p.act }])) p t = .ok t1 → exec i s = .next (exitLanes t1 c.id p.act)) ∧
    (∀ t0, p.act ≠ 0 → sectMask c &&& p.act ≠ 0 → (c.live &&& ~~~p.act ≠ 0 ∨ c.hashQ = []) → releaseNow t c 1 = (true, t0) →
      leaveBy u (fun p _ e => (false, [{ e.to u.next with mask := e.mask &&& ~~~p.act }])) p t0 = .ok t1 →
      exec i s = .next (exitLanes (closeSections t1 c (sectMask c &&& p.act)) c.id p.act))) ∧
  (∀ (x : Pfx) (i : Instr) (s t t1 : State) (u : Ctx) (p : Part) (c : Crew), i = .yield x ∨ i = .yield16 → Alone { i := i } s u p c t → u.crew = p.crew →
    (p.act = 0 ∨ (c.entries.length ≤ 1 ∧ (c.nrec = 0 ∨ c.priv = true)) → exec i s = .next (retire u t)) ∧
    (p.act ≠ 0 → 1 < c.entries.length ∨ (c.nrec ≠ 0 ∧ c.priv = false) →
      leaveBy u (fun _ c e => (false, [{ e.to u.next with demoted := true, quantum := 0, left := quantumOf t c.core }])) p t = .ok t1 → exec i s = .next t1)) ∧
  (∀ (s t : State) (u : Ctx), issuePoint { i := .nop } s = some (u, t) → exec .nop s = .next (retire u t))

/-- A lone crew without stacked records goes on at the next instruction, and nothing else changes (R265, R266, R267, R29). -/
def Obligations.GoingOn : Prop :=
  ∀ (s : State) (u : Ctx) (p : Part) (c : Crew) (e : Entry), u.parts = [p] → crewAt s p.crew = some c → c.nrec = 0 →
  entryAt c u.pc = some e → e.mask ≠ 0 →
  retire u s = setCrew s { c with entries := entriesOn s c u.pc u.next } ∧
  (∀ id, id ≠ p.crew → crewAt (retire u s) id = crewAt s id) ∧
  (∃ c', crewAt (retire u s) p.crew = some c' ∧ c'.regs = c.regs ∧ c'.pred = c.pred ∧ c'.recs = c.recs ∧ c'.live = c.live ∧ c'.latch = c.latch ∧
    ∃ e', entryAt c' u.next = some e' ∧ e.mask &&& ~~~e'.mask = 0) ∧
  (∀ a, readByte (retire u s).mem a = readByte s.mem a) ∧ (retire u s).blocks = s.blocks ∧ (retire u s).flights = s.flights ∧ (retire u s).cores = s.cores

/-- BAR, JOIN, LEAVE, ORD.BEGIN and ORD.END complete (R279, R280, R285, R116, R287, R243).  The model's choices: a BAR also takes the clocks of copies of crews that have ended (log entry 56), and the sections of a die order each other through one clock of the die (log entry 20). -/
def Obligations.BarriersSetsAndSections : Prop :=
  ((∀ (x : Pfx) (s t t1 : State) (u : Ctx), issuePoint { i := .bar x, waits := true } s = some (u, t) → releaseEach u.parts t = (true, t1) →
    barCopies t1 u = [] →
    let r := barSeen t1 u (((crewAt t1 u.crew).map (·.block)).getD 0)
    exec (.bar x) s = .next (retire u (u.parts.foldl (fun s p => modCrew s p.crew fun c =>
      { c with acq := c.acq.sup (partsClock t1 u.parts), copyAcq := c.copyAcq.sup r.1 }) r.2))) ∧
  (∀ (s : State) (ps : List Part) (p : Part) (c : Crew), p ∈ ps → crewAt s p.crew = some c → (partsClock s ps).covers (crewClock c) = true) ∧
  (∀ (s : State) (u : Ctx) (n : Nat) (b : Block), blockAt s n = some b →
    (∀ c ∈ s.crews, barCovers s u c.block c.id = true → (∀ k ∈ c.batchClk, (barSeen s u n).1.covers k = true) ∧
      (c.ended = true → (barSeen s u n).1.covers (crewClock c) = true)) ∧
    blockAt (barSeen s u n).2 n = some { b with asOld := b.asOld.filter fun o => !s.crews.any fun c => barCovers s u c.block c.id && c.id == o.crew }) ∧
  (∀ (s : State) (u : Ctx) (c : Crew), crewAt s u.crew = some c → ∀ k ∈ s.copies,
    (k ∈ barCopies s u ↔ (∃ p ∈ u.parts, p.crew = k.crew) ∨ (u.scope = .block ∧ k.block = c.block))) ∧
  (∀ (x : Pfx) (n k : BitVec 3) (s t : State) (u : Ctx) (p : Part) (c : Crew) (b b' : Block), Alone { i := .join x n k, localOnly := true } s u p c t →
    u.crew = p.crew → p.act ≠ 0 → setOf t c = none → blockOf t c = some b → joinSet c k.toNat (n.toNat + 1) b = some b' →
    exec (.join x n k) s = .next (retire u (setBlock t b'))) ∧
  (∀ (c : Crew) (n m : Nat) (b : Block), n < b.sets.length →
    (b.sets.getD n none = none → joinSet c n m b = some { b with sets := b.sets.set n (some ⟨m, decide (m = 1), [c.id]⟩) }) ∧
    (∀ g, b.sets.getD n none = some g → g.expected = m → g.complete = false →
      joinSet c n m b = some { b with sets := b.sets.set n (some ⟨m, decide (g.members.length + 1 = m), g.members ++ [c.id]⟩) }) ∧
    (∀ g, b.sets.getD n none = some g → g.expected ≠ m ∨ g.complete = true → joinSet c n m b = none)) ∧
  (∀ (x : Pfx) (k : BitVec 3) (s t : State) (u : Ctx) (p : Part) (c : Crew) (r : Nat) (g : CrewSet), Alone { i := .leave x k, localOnly := true } s u p c t →
    u.crew = p.crew → p.act ≠ 0 → setOf t c = some (k.toNat, r, g) → exec (.leave x k) s = .next (retire u (leaveSet t c)))) ∧
  ((∀ (x : Pfx) (a : RCode) (s t t1 : State) (u : Ctx) (p : Part) (c : Crew) (r : Reg) (d : Die), Alone { i := .ordBegin x a, ops := [.src a], waits := true } s u p c t →
    u.crew = p.crew → p.act ≠ 0 → srcReg c a.toNat = some r → r.fmt.isIndex = true → sectMask c &&& p.act = 0 → readyLanes t c r p.act ≠ 0 →
    dieAt t (dieOfCore c.core) = some d →
    leaveAll u (fun _ _ e => (true, [{ e.to u.next with mask := e.mask &&& ~~~(p.act &&& ~~~readyLanes t c r p.act) },
      Entry.fresh u.pc e.prio (p.act &&& ~~~readyLanes t c r p.act)])) [p] t = .ok t1 →
    exec (.ordBegin x a) s = .next (modCrew t1 c.id (beginSections d.ordClock r (readyLanes t c r p.act)))) ∧
  (∀ (s : State) (c : Crew) (r : Reg) (act : Mask) (l : Nat), l < 32 →
    (laneIn (readyLanes s c r act) l = true ↔
      let turn (j : Nat) : Prop := laneIn act j = true ∧ (orderCounter s (dieOfCore c.core) ((r.at j).toNat % 2 ^ 16)).toNat = (r.at j).toNat / 2 ^ 16
      turn l ∧ ∀ j < l, turn j → (r.at j).toNat % 2 ^ 16 ≠ (r.at l).toNat % 2 ^ 16)) ∧
  (∀ (k : Clock) (r : Reg) (m : Mask) (c : Crew), c.sect.length = 32 → (beginSections k r m c).acq.covers k = true ∧
    ∀ l < 32, (beginSections k r m c).sect.getD l none = if laneIn m l then some (r.at l) else c.sect.getD l none) ∧
  (∀ (x : Pfx) (s t t1 : State) (u : Ctx) (p : Part) (c : Crew), Alone { i := .ordEnd x, waits := true } s u p c t → u.crew = p.crew →
    (p.act = 0 → exec (.ordEnd x) s = .next (retire u t)) ∧
    (p.act ≠ 0 → releaseNow t c 1 = (true, t1) → exec (.ordEnd x) s = .next (retire u (closeSections t1 c (sectMask c &&& p.act))))))

/-- Element values of IMAD, IDOT4 and the ten IUN functions (R145, R147, R153, R154). -/
def Obligations.IntegerElementValues : Prop :=
  (∀ (f : Fmt) (a b c : Word) (i : Nat), f.isInt = true → i < fmtCount f →
    let w := fmtWidth f
    let x := elem w a i
    let r (o : UOp) : Nat := elem w (o.word f a) i
    elem w (imadWord f a b c) i = (elem w c i + x * elem w b i) % 2 ^ w ∧
    (∀ j < w, (r .not).testBit j = !x.testBit j) ∧ r .neg = (2 ^ w - x) % 2 ^ w ∧
    (x = 2 ^ (w - 1) → r .abs = x) ∧ (x ≠ 2 ^ (w - 1) → (r .abs : Int) = |sgn w x|) ∧
    r .popc = ((List.range w).filter x.testBit).length ∧
    (x = 0 → r .clz = w) ∧ (x ≠ 0 → r .clz < w ∧ 2 ^ (w - 1 - r .clz) ≤ x ∧ x < 2 ^ (w - r .clz)) ∧
    (∀ j < w, (r .brev).testBit j = x.testBit (w - 1 - j))) ∧
  (∀ a b c : Word, idot4Word a b c =
    c + BitVec.ofInt 32 (((List.range 4).map fun i => sgn 8 (elem 8 a i) * sgn 8 (elem 8 b i)).sum)) ∧
  (∀ (f : Fmt) (a : Word), f.isIndex = true → UOp.sx8.word f a = (a.setWidth 8).signExtend 32 ∧ UOp.sx16.word f a = (a.setWidth 16).signExtend 32 ∧
    UOp.zx8.word f a = (a.setWidth 8).setWidth 32 ∧ UOp.zx16.word f a = (a.setWidth 16).setWidth 32) ∧
  (∀ f : Fmt, (∀ o ∈ [UOp.not, .neg, .abs, .popc, .clz, .brev], o.fmt f = if f.isInt then some f else none) ∧
    ∀ o ∈ [UOp.sx8, .sx16, .zx8, .zx16], o.fmt f = if f.isIndex then some .i32 else none)

/-- SPAWN submits the task its registers name; REORD bins the lanes of act (R302, R303, R304). -/
def Obligations.SpawnAndReord : Prop :=
  (∀ (x : Pfx) (d a : RCode) (s t t1 t2 t3 : State) (u : Ctx) (p : Part) (c : Crew) (va pk : Nat) (unc : Bool),
    issuePoint { i := .spawn x d a, ops := [.dst d, .grp a 2], waits := true } s = some (u, t) → actor u t = some (p, c) → spawnArgs c a = .ok va →
    releaseNow t c 2 = (true, t1) → xlateFor t1 (.wait c.id) c.core (pasidOf t1 c) va .read c.priv = (.hit pk unc, t2) → pk < hostBase →
    pinnedElsewhere t2 c.core (pk / 256) = false → linkBars t2 c.core (pk / 256) = false →
    (submit (writeBack t2 c.core (pk / 256)) pk c.core (crewClock ((crewAt t2 c.id).getD c)) = .accepted t3 →
      exec (.spawn x d a) s = .next (retire u (spawnResult u d 0 t3))) ∧
    (submit (writeBack t2 c.core (pk / 256)) pk c.core (crewClock ((crewAt t2 c.id).getD c)) = .busy t3 →
      exec (.spawn x d a) s = .next (retire u (spawnResult u d 1 t3)))) ∧
  (∀ (x : Pfx) (n : BitVec 4) (k d : RCode) (s t t1 t2 t3 t4 : State) (u : Ctx) (p : Part) (c c2 : Crew) (e : Entry) (kr : Reg) (tk : Task),
    Alone { i := .reord x n k d, ops := [.src k, .grp d (n.toNat + 1)], waits := true } s u p c t → u.crew = p.crew → p.act ≠ 0 →
    srcReg c k.toNat = some kr → taskOf t c = some tk → sectMask c &&& p.act = 0 → kr.fmt.isIndex = true → enckeOn t (dieOfCore c.core) = true →
    tk.fslots ≠ 0 → checkTarget t (some (.wait c.id)) c u.next = (.valid, t1) → (c.live &&& ~~~p.act ≠ 0 ∨ c.hashQ = []) →
    releaseNow t1 c 1 = (true, t2) → crewAt t2 p.crew = some c2 → entryAt c2 u.pc = some e →
    binLanes c2 e kr d.toNat (n.toNat + 1) u.next tk (dieOfCore c2.core) (laneIds.filter (laneIn p.act)) t2 = (p.act, t3) →
    leaveBy u (fun p _ e => (false, [{ e.to u.next with mask := e.mask &&& ~~~p.act }])) p t3 = .ok t4 →
    exec (.reord x n k d) s = .next (exitLanes t4 c2.id p.act))

/-- Loads, stores, LDM, STM, atomics, LDACQ and STREL set out, or are logged when a line misses or faults (R75, R83, R85, R86, R143, R238, R241, R310, R56, R128).  The model's choices: some crews of one access set out while others are logged (log entry 54), and an LDM waits at its instruction for its data (log entry 14). -/
def Obligations.AccessesSetOut : Prop :=
  (∀ (x : Pfx) (h : BitVec 2) (m : BitVec 4) (n : BitVec 3) (d a : RCode) (s t t1 : State) (u : Ctx),
  let sets (w : Acc) : Prop := ldmUnderWay t u = false ∧ pairWaits t u w.m w.idx = false ∧
    (∀ p ∈ u.parts, prepPart w u t p = .skip ∨ ∃ q, prepPart w u t p = .ready q) ∧
    let ps := u.parts.filterMap fun p => (prepPart w u t p).prep?
    let (ks, t0) := lookAll w t ps
    (∀ k ∈ ks, k.waits = true ∨ k.bad t0 w = []) ∧ (ks.filter (·.waits)).length ≤ 16 ∧ 
      (let r := match ks.head?.bind fun k => crewAt t0 k.prep.part.crew with | some c => countSample t0 c.core | none => (false, t0)
       goParts w (ps.map (·.part.crew)) r.1 r.2 ks = .ok t1)
  (∀ w ∈ ([(.ldb x h m d a, [.vec d, .src a], ⟨.load 1 1 false, d, a, m, h⟩), (.ldbs x h m d a, [.vec d, .src a], ⟨.load 1 1 true, d, a, m, h⟩),
      (.ldh x h m d a, [.vec d, .src a], ⟨.load 2 1 false, d, a, m, h⟩), (.ldhs x h m d a, [.vec d, .src a], ⟨.load 2 1 true, d, a, m, h⟩),
      (.ldw x h m d a, [.vec d, .src a], ⟨.load 4 1 false, d, a, m, h⟩), (.ldd x h m d a, [.grp d 2, .src a], ⟨.load 8 2 false, d, a, m, h⟩),
      (.ldq x h m d a, [.grp d 4, .src a], ⟨.load 16 4 false, d, a, m, h⟩),
      (.stb x h m d a, [.src d, .src a], ⟨.store 1 1, d, a, m, h⟩), (.sth x h m d a, [.src d, .src a], ⟨.store 2 1, d, a, m, h⟩),
      (.stw x h m d a, [.src d, .src a], ⟨.store 4 1, d, a, m, h⟩), (.std x h m d a, [.grp d 2, .src a], ⟨.store 8 2, d, a, m, h⟩),
      (.stq x h m d a, [.grp d 4, .src a], ⟨.store 16 4, d, a, m, h⟩),
      (.axchg x h m d a, [.vec d, .src a], ⟨.atomic .xchg h, d, a, m, 0⟩), (.acas x h m d a, [.grp d 2, .src a], ⟨.atomic .cas h, d, a, m, 0⟩),
      (.aadd x h m d a, [.vec d, .src a], ⟨.atomic .add h, d, a, m, 0⟩), (.amin x h m d a, [.vec d, .src a], ⟨.atomic .min h, d, a, m, 0⟩),
      (.amax x h m d a, [.vec d, .src a], ⟨.atomic .max h, d, a, m, 0⟩), (.aminu x h m d a, [.vec d, .src a], ⟨.atomic .minu h, d, a, m, 0⟩),
      (.amaxu x h m d a, [.vec d, .src a], ⟨.atomic .maxu h, d, a, m, 0⟩), (.aand x h m d a, [.vec d, .src a], ⟨.atomic .and h, d, a, m, 0⟩),
      (.aor x h m d a, [.vec d, .src a], ⟨.atomic .or h, d, a, m, 0⟩), (.axor x h m d a, [.vec d, .src a], ⟨.atomic .xor h, d, a, m, 0⟩),
      (.afadd x h m d a, [.vec d, .src a], ⟨.atomic .fadd h, d, a, m, 0⟩), (.ldacq x m d a, [.vec d, .src a], ⟨.ldacq, d, a, m, 0⟩),
      (.strel x m d a, [.src d, .src a], ⟨.strel, d, a, m, 0⟩), (.stm x h m n d a, [.grp d (n.toNat + 1), .src a], ⟨.stm (n.toNat + 1), d, a, m, h⟩)] : List (Instr × List Opnd × Acc)),
    issuePoint { i := w.1, ops := w.2.1, waits := true } s = some (u, t) → sets w.2.2 → exec w.1 s = .next (retire u t1)) ∧
  (issuePoint { i := .ldm x h m n d a, ops := [.grp d (n.toNat + 1), .src a], ok := fun _ => ldmIndexOk d a (n.toNat + 1), waits := true } s = some (u, t) →
    sets ⟨.ldm (n.toNat + 1), d, a, m, h⟩ →
    (ldmUnderWay t1 u = false → exec (.ldm x h m n d a) s = .next (retire u t1)) ∧
    (∀ p, u.parts = [p] → ldmUnderWay t1 u = true → exec (.ldm x h m n d a) s = .next (block t1 p.crew u.pc .stall)))) ∧
  ((∀ (a : Acc) (s s1 : State) (p : Prep) (c : Crew) (xs : List (Nat × Xl)), crewAt s p.part.crew = some c →
    xlateLines s (.log c.id) c.core (pasidOf s c) a.op.kind c.priv (unitLines p.units) = (xs, s1) → lookAll a s [p] = ([⟨p, xs⟩], s1)) ∧
  (∀ (a : Acc) (ids : List Nat) (smp : Bool) (s s1 : State) (k : Look) (c c' : Crew) (q : MemReq), crewAt s k.prep.part.crew = some c →
    withSlot a c k.prep.req = some (c', q) →
    (k.waits = false → startAccess (setCrew s { c' with ldmDone := none }) ids c.id a q k.prep.part.full (a.op.group.isSome && a.op.reads) false smp
        k.prep.clock (keyUnits k.lines k.prep.units) = .ok s1 → goPart a ids smp s k = .ok s1) ∧
    (k.waits = true → logsUsed s c.core < 16 → goPart a ids smp s k = .ok (setCrew s
      { c' with ldmDone := none, log := some ⟨q, k.lines.map (fun x => (x.1, x.2.out)), k.prep.clock, k.prep.part.full, c.priv, smp⟩ }))) ∧
  (∀ (a : Acc) (pc : Word) (s s1 : State) (ps : List Prep) (ks : List Look), a.op.group = none → lookAll a s ps = (ks, s1) →
    (∃ k ∈ ks, k.waits = false ∧ k.bad s1 a ≠ []) → ∃ recs, issueAccess a pc s ps = .lanes recs s1 ∧
      ∀ k ∈ ks, k.bad s1 a ≠ [] → ∃ r ∈ recs, r.1 = k.prep.part.crew))

/-- FADD, FSUB, FMUL, FDIV and FFMA round the exact result once, with the signs of zeros, infinities and NaN (R159, R160, R162, R163, R164, R166, R167). -/
def Obligations.FloatElementValues : Prop :=
  (∀ F ∈ [fp32F, fp16F, bf16F],
    let m := F.p - 1
    let top := 2 ^ (F.width - F.p) - 1
    let bias : Int := (2 ^ (F.width - F.p - 1) : Nat) - 1
    (∀ s e k : Nat, s < 2 → e ≤ top → k < 2 ^ m →
      let v := decodeF F (s * 2 ^ (F.width - 1) + e * 2 ^ m + k)
      (e < top → v.isFinite ∧ v.neg = decide (s = 1) ∧
        v.num = (-1) ^ s * (if e = 0 then (k : ℚ) / 2 ^ m * 2 ^ (1 - bias) else (1 + (k : ℚ) / 2 ^ m) * 2 ^ ((e : Int) - bias))) ∧
      (e = top → v = if k = 0 then .inf (decide (s = 1)) else .nan)) ∧
    ∀ x y z : Nat, x < 2 ^ F.width → y < 2 ^ F.width → z < 2 ^ F.width →
    let a := decodeF F x
    let b := decodeF F y
    let c := decodeF F z
    let add := FOp.add.elem F x y
    let sub := FOp.sub.elem F x y
    let mul := FOp.mul.elem F x y
    let div := FOp.div.elem F x y
    let fma := ffmaElem F x y z
    let nz := 2 ^ (F.width - 1)
    let inf (s : Bool) : Nat := signBit F s + F.inf
    let sg := a.neg != b.neg
    (a = .nan ∨ b = .nan → add = F.nan ∧ sub = F.nan ∧ mul = F.nan ∧ div = F.nan ∧ fma = F.nan) ∧ (c = .nan → fma = F.nan) ∧
    (a.isFinite → b.isFinite →
      RoundsOnce F ((a.num + b.num : ℚ) : ℝ) add ∧ (a.num + b.num = 0 → add = if x = nz ∧ y = nz then nz else 0) ∧
      RoundsOnce F ((a.num - b.num : ℚ) : ℝ) sub ∧ (a.num - b.num = 0 → sub = if x = nz ∧ y = 0 then nz else 0) ∧
      RoundsOnce F ((a.num * b.num : ℚ) : ℝ) mul ∧ (a.num * b.num = 0 → mul = signBit F sg) ∧
      (b.num ≠ 0 → RoundsOnce F ((a.num / b.num : ℚ) : ℝ) div ∧ (a.num = 0 → div = signBit F sg)) ∧
      (b.num = 0 → div = if a.num = 0 then F.nan else inf sg) ∧
      (c.isFinite → RoundsOnce F ((a.num * b.num + c.num : ℚ) : ℝ) fma ∧
        (a.num * b.num + c.num = 0 → fma = if a.num * b.num = 0 ∧ sg = true ∧ z = nz then nz else 0)) ∧
      (∀ t, c = .inf t → fma = inf t)) ∧
    (∀ s t, a = .inf s → b = .inf t → add = (if s = t then inf s else F.nan) ∧ sub = (if s = t then F.nan else inf s) ∧ mul = inf sg ∧ div = F.nan) ∧
    (∀ s, a = .inf s → b.isFinite → add = inf s ∧ sub = inf s ∧ mul = (if b.num = 0 then F.nan else inf sg) ∧ div = inf sg) ∧
    (∀ t, a.isFinite → b = .inf t → add = inf t ∧ sub = inf (!t) ∧ mul = (if a.num = 0 then F.nan else inf sg) ∧ div = signBit F sg) ∧
    ((∃ s, a = .inf s) ∨ (∃ t, b = .inf t) → a ≠ .nan → b ≠ .nan → c ≠ .nan →
      let invalid : Prop := (a.isFinite ∧ a.num = 0) ∨ (b.isFinite ∧ b.num = 0) ∨ c = .inf (!sg)
      (invalid → fma = F.nan) ∧ (¬ invalid → fma = inf sg))) ∧
  (∀ (f : Fmt) (F : FloatFmt) (o : FOp) (a b c : Word) (i : Nat), f.isFloat = true → floatFmt f = some F → i < fmtCount f →
    let w := fmtWidth f
    elem w (o.word f a b) i = o.elem F (elem w a i) (elem w b i) ∧ elem w (ffmaWord f a b c) i = ffmaElem F (elem w a i) (elem w b i) (elem w c i) ∧
    (f = .fp16x1 → (o.word f a b).toNat < 2 ^ 16 ∧ (ffmaWord f a b c).toNat < 2 ^ 16))

/-- The address of a lane: base plus the swizzled offset, checked against the extent and the size (R72, R73). -/
def Obligations.AccessAddresses : Prop :=
  (∀ (q : MemReq) (size l : Nat),
    let off := q.index l * rStride q.record
    let ea := (rBase q.record + swz (rSwizzle q.record) off) % 2 ^ 57
    (off + size ≤ rExtent q.record → ea % size = 0 → laneCheck q size l = ([(l, ea)], [])) ∧
    (off + size ≤ rExtent q.record → ea % size ≠ 0 → laneCheck q size l = ([], [(l, trapMisalign, ea / 4096)]))) ∧
  (∀ q : MemReq, ∀ l : Nat, (rFlat q.record = false → q.index l = ((q.image 0).at l).toNat) ∧
    (rFlat q.record = true → q.index l = ((q.image 0).at l).toNat + 2 ^ 32 * ((q.image 1).at l).toNat ∧ rExtent q.record = 2 ^ 57)) ∧
  (∀ sw x : Nat, sw < 16 → swz 0 x = x ∧ swz sw x / 256 = x / 256 ∧ swz sw x % swzUnit sw = x % swzUnit sw ∧ swz sw (swz sw x) = x ∧
    (sw ≠ 0 → swz sw x = x ^^^ (x / 2 ^ (8 + sw / 4) % 2 ^ (6 - sw % 4) * 2 ^ (2 + sw % 4))))

/-- An out-of-bounds lane traps or accesses nothing by OOBZ; STW, STD and STQ check their data formats, STB and STH none (R74, R84). -/
def Obligations.BoundsAndStoreFormats : Prop :=
  ((∀ (q : MemReq) (size l : Nat), rExtent q.record < q.index l * rStride q.record + size →
    (rOobz q.record = false → laneCheck q size l = ([], [(l, trapBounds, effAddr q.record (q.index l * rStride q.record) / 4096)])) ∧
    (rOobz q.record = true → laneCheck q size l = ([], []))) ∧
  (∀ (o : MemOp) (q : MemReq) (full : Bool) (us : List (Nat × Nat)) (l : Nat), o.group = none → reqCheck o q full = .pass us →
    rExtent q.record < q.index l * rStride q.record + o.size → rOobz q.record = true → ∀ w ∈ us, w.1 ≠ l) ∧
  (∀ (s : State) (c : Crew) (a : Acc) (q : MemReq) (full parked : Bool) (k : Clock) (us : List KeyUnit) (l : Nat), (∀ w ∈ us, w.no ≠ l) →
    let f := newFlight s c a q full parked k us
    (∀ size sx i, loadWord f size sx i l = 0) ∧
    (∀ old : Crew, l < 32 → laneIn q.act l = true → laneIn old.live l = true → f.vd < 60 → f.vd < old.regs.length →
      (vreg (writeAtomic f old) f.vd).at l = 0) ∧
    (∀ b ∈ f.bytes, ∃ w ∈ us, b ∈ unitBytes a.op q w)) ∧
  (∀ (size n : Nat) (sx : Bool) (f : Flight) (c : Crew) (i l : Nat), i < n → f.vd + n ≤ 60 → f.vd + n ≤ c.regs.length → l < 32 → laneIn f.req.act l = true → laneIn c.live l = true →
    (vreg (writeLoad f size n sx c) (f.vd + i)).at l = loadWord f size sx i (if f.uidx = true ∧ f.full = true then firstLane (writeMask f c) else l))) ∧
  (∀ (q : MemReq) (full : Bool), recordOk q.record false true = true → (∀ r ∈ q.images.take (idxImages q.record), r.fmt.isIndex = true) →
  (∀ w ∈ [(4, 1), (8, 2), (16, 4)],
    ((∃ r ∈ q.images.drop (idxImages q.record), r.fmt ≠ recordFmt q.record ∧ r.fmt ≠ .raw32 ∧ recordFmt q.record ≠ .raw32) →
      reqCheck (.store w.1 w.2) q full = .trap trapFormat) ∧
    ((∀ r ∈ q.images.drop (idxImages q.record), r.fmt = recordFmt q.record ∨ r.fmt = .raw32 ∨ recordFmt q.record = .raw32) →
      reqCheck (.store w.1 w.2) q full ≠ .trap trapFormat)) ∧
  (∀ n < 4, reqCheck (.store n 1) q full ≠ .trap trapFormat))

/-- The data of a load, LDACQ or atomic returns, and the new word of each atomic (R85, R128, R238, R252, R254, R239).  The model's choice: the data lands in the lanes of act that are live at the return (log entry 68, on R283). -/
def Obligations.AccessReturns : Prop :=
  ((∀ (s s1 s2 : State) (n line : Nat) (f : Flight), flightAt s n = some f → lineGo s f line = (some s1, s2) →
    (f.op.reads = true → f.op.writes = false → exec (.loadDataReturn n line) s = .next (serveLoad s1 f line)) ∧
    (∀ o h, f.op = .atomic o h → exec (.atomicReturn n line) s = .next (performAtomic s1 f o line)) ∧
    (f.op.reads = false → f.op.writes = true → exec (.writePerformed n line) s = .next (performStore s1 f line))) ∧
  (∀ (s : State) (f : Flight) (c : Crew) (size n : Nat) (sx : Bool), f.op = .load size n sx → f.sampled = false → crewAt s f.crew = some c → c.ended = false →
    (f.under c = true → ∀ r ∈ f.op.dests f.vd, r < 48) →
    finishFlight s f = setCrew (endFlight s f.id) (giveSlot (writeLoad f size n sx c) f) ∧ flightAt (finishFlight s f) f.id = none) ∧
  (∀ (f : Flight) (c : Crew) (size n : Nat) (sx : Bool) (i : Nat), i < n → f.vd + n ≤ 60 → f.vd + n ≤ c.regs.length →
    writeMask f c ≠ 0 →
    let r := vreg (writeLoad f size n sx c) (f.vd + i)
    (∀ l < 32, r.at l = if f.uidx = true ∧ f.full = true then loadWord f size sx i (firstLane (writeMask f c))
      else if laneIn f.req.act l && laneIn c.live l then loadWord f size sx i l else (vreg c (f.vd + i)).at l) ∧ r.fmt = f.fmt ∧
    r.taint = slotTaint f.req ∧ r.shape = (if f.uidx = true ∧ f.full = true then .u else .g) ∧ (writeLoad f size n sx c).latch = c.latch) ∧
  (∀ v : Nat, v < 256 → extend 1 false v = BitVec.ofNat 32 v ∧ extend 1 true v = (BitVec.ofNat 8 v).signExtend 32) ∧
  (∀ v : Nat, v < 65536 → extend 2 false v = BitVec.ofNat 32 v ∧ extend 2 true v = (BitVec.ofNat 16 v).signExtend 32)) ∧
  ((∀ (f : Fmt) (m v w : Word), AOp.apply .xchg f m v w = some v ∧ AOp.apply .cas f m v w = (if m = v then some w else none) ∧
    AOp.apply .add f m v w = some (m + v) ∧ AOp.apply .and f m v w = some (m &&& v) ∧ AOp.apply .or f m v w = some (m ||| v) ∧
    AOp.apply .xor f m v w = some (m ^^^ v) ∧ AOp.apply .fadd f m v w = some (FOp.add.word f m v) ∧
    AOp.apply .min f m v w = some (if v.slt m then v else m) ∧ AOp.apply .max f m v w = some (if m.slt v then v else m) ∧
    AOp.apply .minu f m v w = some (if v.ult m then v else m) ∧ AOp.apply .maxu f m v w = some (if m.ult v then v else m)) ∧
  (∀ (f : Flight) (c : Crew), f.vd < 60 → f.vd < c.regs.length → writeMask f c ≠ 0 →
    let r := vreg (writeAtomic f c) f.vd
    (∀ l < 32, laneIn f.req.act l = true → laneIn c.live l = true → (∃ w ∈ f.lanes, w.1 = l) → r.at l = sget 0 f.old l) ∧
    (∀ l < 32, laneIn f.req.act l = false ∨ laneIn c.live l = false → r.at l = (vreg c f.vd).at l) ∧ r.shape = .g ∧ r.fmt = f.fmt ∧
    r.taint = slotTaint f.req ∧ (∀ n, n ≠ f.vd → vreg (writeAtomic f c) n = vreg c n) ∧ (writeAtomic f c).latch = c.latch))

/-- Element values of the FUN functions (of FEXP2, FLOG2, FSIN and FCOS the special and exact ones) and of CVT (R162, R163, R169, R170, R171, R174, R175, R176). -/
def Obligations.FunAndConversionValues : Prop :=
  (∀ F ∈ [fp32F, fp16F, bf16F], ∀ x < 2 ^ F.width,
    let a := decodeF F x
    let r (o : FunOp) : Nat := o.elem F x
    (∀ j < F.width, (r .neg).testBit j = (x.testBit j != decide (j = F.width - 1)) ∧ (r .abs).testBit j = (x.testBit j && decide (j ≠ F.width - 1))) ∧
    (a = .nan → ∀ o ∈ [FunOp.rcp, .rsq, .sqrt, .exp2, .log2, .sin, .cos, .flr, .ceil, .trnc, .rint], r o = F.nan) ∧
    (∀ o ∈ [(FunOp.flr, RMode.rdn), (.ceil, .rup), (.trnc, .rtz), (.rint, .rne)],
      (∀ s, a = .inf s → r o.1 = signBit F s + F.inf) ∧
      (a.isFinite → (decodeF F (r o.1)).isFinite ∧ (decodeF F (r o.1)).neg = a.neg ∧ ∃ n : ℤ, (decodeF F (r o.1)).num = n ∧ IntOf o.2 a.num n)) ∧
    (∀ s, a = .inf s → r .cls = 2 ^ (if s then 2 else 9)) ∧ (a = .nan → r .cls = if x.testBit (F.p - 2) then 2 else 1) ∧
    (a.isFinite → r .cls = 2 ^ (if a.num = 0 then (if a.neg then 5 else 6)
      else if |a.num| < 2 ^ (F.emin + (F.p - 1 : Nat)) then (if a.neg then 4 else 7) else (if a.neg then 3 else 8)))) ∧
  (∀ x < 2 ^ 32,
    let F := fp32F
    let a := decodeF F x
    let r (o : FunOp) : Nat := o.elem F x
    (a.isFinite → (a.num ≠ 0 → RoundsOnce F ((1 / a.num : ℚ) : ℝ) (r .rcp)) ∧ (a.num = 0 → r .rcp = signBit F a.neg + F.inf ∧ r .rsq = signBit F a.neg + F.inf ∧
        r .sqrt = x ∧ r .exp2 = 0x3F800000 ∧ r .log2 = 0xFF800000 ∧ r .sin = x ∧ r .cos = 0x3F800000) ∧
      (0 < a.num → RoundsOnce F (1 / Real.sqrt ((a.num : ℚ) : ℝ)) (r .rsq) ∧ RoundsOnce F (Real.sqrt ((a.num : ℚ) : ℝ)) (r .sqrt)) ∧
      (a.num < 0 → r .rsq = F.nan ∧ r .sqrt = F.nan ∧ r .log2 = F.nan) ∧
      (∀ k : ℤ, a.num = k → RoundsOnce F ((2 : ℝ) ^ k) (r .exp2)) ∧ (∀ k : ℤ, a.num = 2 ^ k → RoundsOnce F (k : ℝ) (r .log2)) ∧ (a.num = 1 → r .log2 = 0)) ∧
    (a = .inf false → r .rcp = 0 ∧ r .rsq = 0 ∧ r .sqrt = F.inf ∧ r .exp2 = F.inf ∧ r .log2 = F.inf ∧ r .sin = F.nan ∧ r .cos = F.nan) ∧
    (a = .inf true → r .rcp = 0x80000000 ∧ r .rsq = F.nan ∧ r .sqrt = F.nan ∧ r .exp2 = 0 ∧ r .log2 = F.nan ∧ r .sin = F.nan ∧ r .cos = F.nan)) ∧
  (∀ f ∈ [(Fmt.fp16x2, fp16F), (.fp16x1, fp16F), (.bf16x2, bf16F)], ∀ o ∈ [FunOp.rcp, .rsq, .sqrt], ∀ x < 2 ^ 16,
    o.elem f.2 x = cvtElem .fp32 f.1 .rne false (o.elem fp32F (cvtElem f.1 .fp32 .rne false x))) ∧
  (∀ (sf df : Fmt) (D : FloatFmt) (mode : RMode) (sat : Bool) (x : Nat) (v : FVal), x < 2 ^ fmtWidth sf → floatFmt df = some D →
    (∀ S, floatFmt sf = some S → v = decodeF S x) → (floatFmt sf = none → v = ofInt (sgn (fmtWidth sf) x)) →
    let r := cvtElem sf df mode sat x
    let big : Nat := match D.above with
      | .ieee => signBit D v.neg + D.inf
      | .nanOnly => D.nan
      | .finite => signBit D v.neg + D.maxCode
    (v = .nan → r = D.nan) ∧ (v.neg = true → D.signed = false → r = 0) ∧
    ((v.neg = false ∨ D.signed = true) →
      (∀ s, v = .inf s → r = if sat then signBit D s + D.maxCode else big) ∧
      (v.isFinite → (v.num = 0 → r = signBit D v.neg) ∧ (v.num ≠ 0 → (¬ Overflows D mode ((v.num : ℚ) : ℝ) → RoundsTo D mode ((v.num : ℚ) : ℝ) r) ∧
        (Overflows D mode ((v.num : ℚ) : ℝ) → r = if sat = false ∧ (mode = .rne ∨ (mode = .rdn ∧ v.neg = true) ∨ (mode = .rup ∧ v.neg = false)) then big
          else signBit D v.neg + D.maxCode))))) ∧
  (∀ (sf df : Fmt) (mode : RMode) (sat : Bool) (x : Nat), x < 2 ^ fmtWidth sf → floatFmt df = none →
    let w := fmtWidth df
    let r := cvtElem sf df mode sat x
    let clamp (n : Int) : Int := max (-2 ^ (w - 1)) (min (2 ^ (w - 1) - 1) n)
    r < 2 ^ w ∧
    (∀ S, floatFmt sf = some S → (decodeF S x = .nan → r = 0) ∧ (∀ s, decodeF S x = .inf s → r = if s then 2 ^ (w - 1) else 2 ^ (w - 1) - 1) ∧
      ((decodeF S x).isFinite → ∃ n : ℤ, IntOf mode (decodeF S x).num n ∧ sgn w r = clamp n)) ∧
    (floatFmt sf = none → (sat = true → sgn w r = clamp (sgn (fmtWidth sf) x)) ∧ (sat = false → (r : Int) = sgn (fmtWidth sf) x % 2 ^ w))) ∧
  (∀ (sf df : Fmt) (mode : RMode) (sat : Bool) (x : Word), ∀ i < 32 / fmtWidth df,
    elem (fmtWidth df) (cvtWord sf df mode sat x) i = if i < fmtCount sf ∧ i < fmtCount df then
      cvtElem (if sf.isIndex then .i32 else sf) df mode sat (elem (fmtWidth sf) x i) else 0) ∧
  cvtWord .fp32 .e4m3x4 .rne false 0x3E99999A = 0x2A ∧ cvtWord .fp32 .e4m3x4 .rtz false 0x3E99999A = 0x29 ∧ cvtWord .fp32 .e4m3x4 .rne false 0x43FA0000 = 0x7F ∧
  cvtWord .fp32 .e4m3x4 .rne true 0x43FA0000 = 0x7E ∧ cvtWord .fp32 .e4m3x4 .rtz false 0x43FA0000 = 0x7E ∧ cvtWord .fp32 .e2m1x8 .rne false 0x40266666 = 5 ∧
  cvtWord .fp32 .e2m1x8 .rne false 0xC0A00000 = 0xE ∧ cvtWord .fp32 .bf16x2 .rne false 0x40490FDB = 0x4049 ∧ cvtWord .fp32 .i32 .rne false 0xC0200000 = 0xFFFFFFFE ∧
  cvtWord .fp32 .i32 .rne false 0x4F32D05E = 0x7FFFFFFF ∧ cvtWord .i32 .fp16x1 .rne false 0x11170 = 0x7C00 ∧ cvtWord .i32 .i8x4 .rne false 0x1F4 = 0xF4 ∧
  cvtWord .i32 .i8x4 .rne true 0x1F4 = 0x7F ∧ cvtWord .fp16x2 .fp32 .rne false 0xB6003C00 = 0x3F800000

/-- A write at its home slice changes exactly its own bytes, and memory keeps its canonical form (R79, R44, R87). -/
def Obligations.HomeMemory : Prop :=
  (∀ (s : State) (c : Clock) (ws : List (Nat × Byte)), s.homeWf = true →
    (homeWrite s c ws).homeWf = true ∧ (∀ a, (∀ w ∈ ws, w.1 ≠ a) → readByte (homeWrite s c ws).mem a = readByte s.mem a) ∧
    ((∀ w ∈ ws.head?, badDpa s w.1 = false) → ∀ (i : Nat) (w : Nat × Byte), ws[i]? = some w → (∀ j v, i < j → ws[j]? = some v → v.1 ≠ w.1) → readByte (homeWrite s c ws).mem w.1 = w.2)) ∧
  (∀ (s : State) (f : Flight) (line : Nat), s.homeWf = true → (∃ n k, f.op = .store n k) → f.sampled = false →
    (∀ w ∈ storeBytes f line, badDpa s w.1 = false) → (∀ w ∈ storeBytes f line, ∀ v ∈ storeBytes f line, v.1 = w.1 → v.2 = w.2) →
    (∀ a, (∀ w ∈ storeBytes f line, w.1 ≠ a) → readByte (performStore s f line).mem a = readByte s.mem a) ∧
    (∀ w ∈ storeBytes f line, readByte (performStore s f line).mem w.1 = w.2))

/-- MREC, MRST, FENCE, PREF and LINV complete (R89, R90, R91, R242).  The model's choices: PREF and LINV take each lane as one byte, so never trap with MISALIGN (log entry 10), and a PREF under a hint that does not allocate drops no line (log entry 74). -/
def Obligations.RecordsFencesAndHints : Prop :=
  (∀ (x : Pfx) (m : BitVec 4) (d : RCode),
    Gives { i := .mrec x m d, ops := [.grp d 4] } (fun _ c c' => (∀ i < 4, (vreg c (d.toNat + i)).shape = .u) ∧
      c' = { c with recs := c.recs.set m.toNat ⟨BitVec.ofNat 128 (((vreg c d.toNat).at 0).toNat + 2 ^ 32 * ((vreg c (d.toNat + 1)).at 0).toNat +
          2 ^ 64 * ((vreg c (d.toNat + 2)).at 0).toNat + 2 ^ 96 * ((vreg c (d.toNat + 3)).at 0).toNat),
        (vreg c d.toNat).taint ||| (vreg c (d.toNat + 1)).taint ||| (vreg c (d.toNat + 2)).taint ||| (vreg c (d.toNat + 3)).taint⟩ }) ∧
    Gives { i := .mrst x m d, ops := [.grp d 4] } (fun p c c' =>
      c' = (List.range 4).foldl (fun c' i => writeVd c' (d.toNat + i)
        (laneReg .u .raw32 (recAt c m.toNat).taint fun _ => BitVec.ofNat 32 (rbits (recAt c m.toNat).bits (32 * i) 32)) p.act p.full) c)) ∧
  (∀ (x : Pfx) (sc : BitVec 2) (s t t1 : State) (u : Ctx), issuePoint { i := .fence x sc, waits := true } s = some (u, t) →
    releaseParts sc.toNat u.parts t = (true, t1) →
    exec (.fence x sc) s = .next (retire u (u.parts.foldl (fun s p => if p.act = 0 then s else modCrew s p.crew fun c => { c with acq := c.acq.sup (crewClock c) }) t1))) ∧
  (∀ (x : Pfx) (h : BitVec 2) (m : BitVec 4) (a : RCode) (s t : State) (u : Ctx), issuePoint { i := .pref x h m a, ops := [.src a], waits := true, unordered := true } s = some (u, t) →
    pairWaits t u m a = false → exec (.pref x h m a) s = .next (retire u (u.parts.foldl (prefCrew m h a u) t))) ∧
  (∀ (x : Pfx) (m : BitVec 4) (a : RCode) (s t t1 : State) (u : Ctx) (p : Part) (c : Crew) (us : List (Nat × Nat)) (xs : List (Nat × Xl)),
    Alone { i := .linv x m a, ops := [.src a], waits := true } s u p c t →
    (p.act = 0 → exec (.linv x m a) s = .next (retire u t)) ∧
    (p.act ≠ 0 → pairWaits t u m a = false → linvCheck t c (byteReq c m 0 a u p.act) a = .pass us →
      xlateLines t (.wait c.id) c.core (pasidOf t c) .read c.priv (unitLines us) = (xs, t1) → (∀ o ∈ xs, o.2 ≠ .miss ∧ o.2 ≠ .fault ∧ o.2 ≠ .access) →
      let ks := ((keyUnits xs us).map fun u => u.pk / 256).eraseDups
      wbWaits t1 c.core ks = [] → exec (.linv x m a) s = .next (retire u (forget (purge t1 c.core ks) (.wait c.id)))))

/-- LDA and STA complete: their parts go through the lane port, what words they read and write, and what they leave alone (R93, R94, R97, R99, R108).  The model's choices: of two parts of one instruction on one quarter the earlier in rank or index goes first (log entry 57). -/
def Obligations.LocalStores : Prop :=
  (∀ (x : Pfx) (d a : RCode) (s t : State) (u : Ctx),
    let core := ((crewAt t u.crew).map (·.core)).getD 0
    let parts (wr : Bool) : List AsPart := (asSides u t a).map fun q => { crew := q.2.1.id, quarter := q.2.1.slot % 4, wr := wr, dest := d.toNat, addr := q.2.2, data := (srcReg q.2.1 d.toNat).getD Reg.zero, act := q.1.act, full := q.1.full }
    (∀ q ∈ asSides u t a, q.2.2.fmt.isIndex = true ∧ (∃ b, blockOf t q.2.1 = some b ∧
      ∀ l < 32, laneIn q.1.act l = true → (q.2.2.at l).toNat % 4 = 0 ∧ (q.2.2.at l).toNat + 4 ≤ b.asBytes) ∧
      ∀ k ∈ t.copies, k.crew = q.2.1.id → rangeHits k ((laneIds.filter (laneIn q.1.act)).map fun l => (q.2.2.at l).toNat) = false) →
    (issuePoint { i := .lda x d a, ops := [.vec d, .src a], waits := true, localOnly := true } s = some (u, t) →
      exec (.lda x d a) s = .next (retire u (present t core (parts false)))) ∧
    (issuePoint { i := .sta x d a, ops := [.src d, .src a], waits := true, localOnly := true } s = some (u, t) →
      exec (.sta x d a) s = .next (retire u (present t core (parts true))))) ∧
  (∀ (s : State) (core : Nat) (p : AsPart), p.quarter < 4 → (∃ k ∈ s.cores, k.id = core) → (∀ k ∈ s.cores, k.id = core → k.asParts = []) →
    present s core [p] = modCore (p.perform s) core fun k => { k with asPort := p.quarter }) ∧
  (∀ (s : State) (core : Nat) (k : CoreSt), coreAt s core = some k → (∀ q ∈ k.asParts, q.quarter < 4) →
    (k.asParts = [] → grantPort s core = s) ∧
    (k.asParts ≠ [] → ∃ p ∈ k.asParts, (∀ q ∈ k.asParts, (p.quarter + 3 * (k.asPort + 1)) % 4 ≤ (q.quarter + 3 * (k.asPort + 1)) % 4) ∧
      grantPort s core = modCore (p.perform s) core fun k => { k with asPort := p.quarter, asParts := k.asParts.filter fun q => q.crew != p.crew })) ∧
  (∀ (s : State) (c : Crew) (k : CoreSt) (p : AsPart), coreAt s c.core = some k → p ∈ k.asParts → p.crew = c.id → choose s c = none) ∧
  (∀ (s : State) (p : AsPart) (c : Crew) (b : Block), crewAt s p.crew = some c → blockOf s c = some b →
    p.perform s = if p.wr then modBlock s c.block (staBlock p.addr p.data p.act) else modCrew s c.id (ldaCrew b p.dest p.addr p.act p.full)) ∧
  (∀ (b : Block) (d : Nat) (ra : Reg) (act : Mask) (full : Bool) (c : Crew), d < 60 → c.regs.length = 60 →
    let c' := ldaCrew b d ra act full c
    let r := vreg c' d
    (∀ l < 32, r.at l =
      if act ≠ 0 ∧ full = true ∧ ra.shape = .u then BitVec.ofNat 32 (readNat b.aStore (ra.at (firstLane act)).toNat 4)
      else if laneIn act l then BitVec.ofNat 32 (readNat b.aStore (ra.at l).toNat 4) else (vreg c d).at l) ∧
    (act ≠ 0 → r.fmt = .raw32 ∧ r.taint = ra.taint ∧ r.shape = (if full = true ∧ ra.shape = .u then .u else .g)) ∧
    (∀ n, n ≠ d → vreg c' n = vreg c n) ∧ c'.pred = c.pred ∧ c'.slots = c.slots) ∧
  (∀ (b : Block) (ra rd : Reg) (act : Mask), swf (0 : Byte) b.aStore = true → (∀ l < 32, laneIn act l = true → (ra.at l).toNat % 4 = 0) →
    (∀ l < 32, laneIn act l = true → (∀ m < 32, l < m → laneIn act m = true → ra.at m ≠ ra.at l) →
      readNat (staBlock ra rd act b).aStore (ra.at l).toNat 4 = (rd.at l).toNat) ∧
    (∀ k, (∀ l < 32, laneIn act l = true → k < (ra.at l).toNat ∨ (ra.at l).toNat + 4 ≤ k) → sget (0 : Byte) (staBlock ra rd act b).aStore k = sget 0 b.aStore k) ∧
    staBlock ra rd act b = { b with aStore := (staBlock ra rd act b).aStore, asOld := (staBlock ra rd act b).asOld } ∧ swf (0 : Byte) (staBlock ra rd act b).aStore = true)

/-- In a crew that REORD formed, LDA, STA, BCOPY, BATCH, BARO and the matrix instructions trap with REORDER_SCOPE at issue (R95, R187, R306).  The model's choices: REORDER_SCOPE comes ahead of OPERAND and SCOPE (log entry 69), and a formed crew is held with a record of its own (log entry 45). -/
def Obligations.FormedCrewRefused : Prop :=
  ∀ (x : Pfx) (d a : RCode) (m : BitVec 4) (b : Src) (s : State) (u : Cur) (c : Crew) (e : Entry), s.cur = some u → crewAt s u.crew = some c →
    entryAt c u.pc = some e → isFormed s c = true →
  ∀ i ∈ [Instr.lda x d a, .sta x d a, .bcopyG2a x m d, .bcopyG2w x m d, .bcopyA2g x m d, .bcopyA2w x d, .batchSeal x d, .batchWait x a,
      .batchPoll x d a, .baroInit x a, .baroArrive x a, .baroWait x a, .mma x d a b, .mmas x d a b, .mclrFp32 x d, .mclrI32 x d, .mqnt x d a b,
      .mscl x a b, .mhnd x b],
    exec i s = .next (trapAll ⟨c.id, x.scope, u.pc, u.pc + BitVec.ofNat 32 u.len, u.iword, u.lit, [⟨c.id, actOf c e x.guard, false⟩]⟩
      { s with cur := none } trapReorder (·.act) fun _ => [])

/-- BCOPY, BATCH, BARO and a copy unit's move complete (R104, R105, R110, R111, R112, R114, R115).  The model's choices: BARO acts once, with the first participant's operands (log entry 16), and its address is checked before va+1 and va+2 (log entry 60). -/
def Obligations.CopiesAndBatches : Prop :=
  (∀ (x : Pfx) (m : BitVec 4) (d : RCode) (s t : State) (u : Ctx) (p : Part) (c : Crew) (b : Block) (cs : CoreSt), u.parts.head? = some p →
    crewAt t u.crew = some c → blockOf t c = some b → coreAt t c.core = some cs → copyRoom t cs c.id u.pc = true →
    ∀ w ∈ [(0, Instr.bcopyG2a x m d, m), (1, .bcopyG2w x m d, m), (2, .bcopyA2g x m d, m), (3, .bcopyA2w x d, 0)],
      issuePoint { i := w.2.1, ops := [.grp d 4], waits := true, localOnly := true } s = some (u, t) →
      bcopyCheck w.1 (recAt c w.2.2.toNat).bits ((List.range 4).map fun i => vreg c (d.toNat + i)) b.asBytes b.wsBytes = none →
      ∃ k : Copy, exec w.2.1 s = .next (retire u { modCore t c.core fun q => { q with copyWait := (copyLine t cs).filter (· != (c.id, u.pc)) } with
          copies := t.copies ++ [k], nextId := t.nextId + 1 }) ∧ k.id = t.nextId ∧ k.crew = c.id ∧
        k.block = c.block ∧ k.core = c.core ∧ k.dir = w.1 ∧ k.index = (vreg c d.toNat).at 0 ∧ k.localAddr = (vreg c (d.toNat + 1)).at 0 ∧
        k.bytes = ((vreg c (d.toNat + 2)).at 0).toNat ∧ k.barrier = (vreg c (d.toNat + 3)).at 0 ∧ k.ahead = [] ∧
        (w.1 ≠ 3 → k.record = (recAt c m.toNat).bits) ∧ k.batch = none ∧ k.next = 0 ∧ k.held = false ∧ k.failed = .none) ∧
  (∀ (s : State) (cs : CoreSt) (crew : Nat) (pc : Word), cs.copyWait = [] → (s.copies.filter fun k => k.core == cs.id).length < 64 →
    (copiesOf s crew).length < 16 → copyRoom s cs crew pc = true) ∧
  (∀ (x : Pfx) (d a : RCode) (s t : State) (u : Ctx) (p : Part) (c : Crew), u.parts = [p] → p.crew = u.crew → crewAt t u.crew = some c →
    (issuePoint { i := .batchSeal x d, ops := [.dst d], waits := true, localOnly := true } s = some (u, t) →
      (p.act = 0 → exec (.batchSeal x d) s = .next (retire u t)) ∧
      (p.act ≠ 0 → (c.sealed.getD c.nextBatch false = false ∨ batchCopies t c.id [c.nextBatch] = []) →
        exec (.batchSeal x d) s = .next (retire u (setCrew (modBlock { t with copies := t.copies.map fun k =>
          if k.crew == c.id && k.batch.isNone then { k with batch := some c.nextBatch } else k } c.block fun b => { b with asOld := b.asOld.map (·.sealed c.id c.nextBatch) }) (sealCrew d p c))))) ∧
    (issuePoint { i := .batchWait x a, ops := [.src a], waits := true, localOnly := true } s = some (u, t) →
      (p.act = 0 → exec (.batchWait x a) s = .next (retire u t)) ∧
      (∀ n, p.act ≠ 0 → batchNo c a = .ok n → batchCopies t c.id (batchesTo c n) = [] → batchMark c (batchesTo c n) = none →
        exec (.batchWait x a) s = .next (retire u (batchSeen t c (batchesTo c n))))) ∧
    (issuePoint { i := .batchPoll x d a, ops := [.dst d, .src a], waits := true, localOnly := true } s = some (u, t) →
      (p.act = 0 → exec (.batchPoll x d a) s = .next (retire u t)) ∧
      (∀ n, p.act ≠ 0 → batchNo c a = .ok n → exec (.batchPoll x d a) s = .next (retire u (setCrew t (writeVd c d.toNat (uReg .i32
        (if batchCopies t c.id (batchesTo c n) ≠ [] then 0 else if batchMark c (batchesTo c n) ≠ none then 3 else 1)) p.act p.full)))))) ∧
  (∀ (x : Pfx) (a : RCode) (s t : State) (u : Ctx) (p : Part) (c : Crew) (b : Block) (v : Nat), baroPart u t = some (p, c, b) → baroAddr c b a = .ok v →
    (issuePoint { i := .baroInit x a, ops := [.grp a 3], waits := true, localOnly := true } s = some (u, t) →
      (vreg c (a.toNat + 1)).shape = .u → (vreg c (a.toNat + 2)).shape = .u → ((vreg c (a.toNat + 2)).at 0).toNat ≤ 0xFFFF →
      exec (.baroInit x a) s = .next (retire u (modBar (modBlock t b.id fun k => { k with barClk := sput Clock.zero k.barClk v Clock.zero, barCopies := sput Clock.zero k.barCopies v Clock.zero }) b.id v Clock.zero fun _ => ⟨((vreg c (a.toNat + 1)).at 0).toNat, ((vreg c (a.toNat + 2)).at 0).toNat, 0⟩))) ∧
    (issuePoint { i := .baroArrive x a, ops := [.src a], waits := true, localOnly := true } s = some (u, t) →
      (u.parts.any fun p => (flightsOf t p.crew).any fun f => f.op.writes && f.scope == 0) = false →
      exec (.baroArrive x a) s = .next (retire u (modBlock (modBar t b.id v (partsClock t u.parts) fun o => o.lower 0 1) b.id fun k =>
        { k with barCopies := sput Clock.zero k.barCopies v ((sget Clock.zero k.barCopies v).sup (partsCopies t u.parts)) }))) ∧
    (issuePoint { i := .baroWait x a, ops := [.src a], waits := true, localOnly := true } s = some (u, t) →
      barAt b v = ⟨0, 0, 0⟩ → exec (.baroWait x a) s = .next (retire u (u.parts.foldl (fun s p => modCrew s p.crew fun c =>
        { c with acq := c.acq.sup (sget Clock.zero b.barClk v), copyAcq := c.copyAcq.sup (sget Clock.zero b.barCopies v) }) t)))) ∧
  (∀ (c : Crew) (ns : List Nat) (s : State) (b : Block), crewAt s c.id = some c → blockAt s c.block = some b → ∃ c' b', crewAt (batchSeen s c ns) c.id = some c' ∧
    c'.acq.covers c.acq = true ∧ (∀ n ∈ ns, c'.acq.covers (c.batchClk.getD n Clock.zero) = true) ∧ blockAt (batchSeen s c ns) c.block = some b' ∧
    b'.aStore = b.aStore ∧ (∀ o ∈ b'.asOld, o.crew = c.id → o.batch ∉ ns) ∧
    (ns ≠ [] → c'.acq.covers (c.batchClk.getD 9 Clock.zero) = true ∧ ∀ o ∈ b'.asOld, o.crew = c.id → o.batch ≠ 9)) ∧
  (∀ (d : RCode) (p : Part) (c : Crew), c.nextBatch < 8 → c.batchClk.length = 10 →
    let c' := sealCrew d p c
    c'.nextBatch = (c.nextBatch + 1) % 8 ∧ (c'.batchClk.getD 9 Clock.zero).covers (c.batchClk.getD c.nextBatch Clock.zero) = true ∧
    (c'.batchClk.getD 9 Clock.zero).covers (c.batchClk.getD 9 Clock.zero) = true ∧ c'.batchClk.getD c.nextBatch Clock.zero = c.batchClk.getD 8 Clock.zero ∧
    c'.batchClk.getD 8 Clock.zero = Clock.zero ∧ ∀ n < 8, n ≠ c.nextBatch → c'.batchClk.getD n Clock.zero = c.batchClk.getD n Clock.zero) ∧
  (∀ (o : Barrier) (n k : Nat), (n ≤ o.bytes → k ≤ o.arrivals → o.lower n k = ⟨o.bytes - n, o.arrivals - k, o.err⟩) ∧
    (o.bytes < n ∨ o.arrivals < k → (o.lower n k).err = (if o.err = 0 then 3 else o.err)) ∧
    (o.bytes < n → (o.lower n k).bytes = 0) ∧ (n ≤ o.bytes → (o.lower n k).bytes = o.bytes - n) ∧
    (o.arrivals < k → (o.lower n k).arrivals = 0) ∧ (k ≤ o.arrivals → (o.lower n k).arrivals = o.arrivals - k)) ∧
  (∀ (b : Block) (a : Nat) (o : Barrier), swf (0 : Byte) b.aStore = true → o.bytes < 2 ^ 32 → o.arrivals < 2 ^ 16 → o.err < 4 →
    barAt { b with aStore := writeBytes b.aStore a o.bits } a = o) ∧
  (∀ (s : State) (k : Copy) (n : Nat), s.copies.find? (fun x => x.id == k.id && x.awaits n) = some k →
    exec (.bcopyUnitMove k.id n) s = .next (moveUnit s k n) ∧ 16 * n < k.bytes ∧ k.next ≤ n ∧ n ∉ k.ahead ∧
    (k.dir = 3 → k.held = false → inUnit s k = true → macroBusy s k n = false → copyTraceHeld s k = false → ∀ b, blockAt s k.block = some b → swf (0 : Byte) b.wStore = true →
      ∃ b', blockAt (moveUnit s k n) k.block = some b' ∧ readBytes b'.wStore (k.wsAddr n) 16 = readBytes b.aStore (k.asAddr n) 16))

/-- MMA, MMAS, MCLR, MQNT, MSCL and MHND complete; the end of an occupancy frees the engine (R180, R187, R195, R196, R198, R199, R200, R201, R202).  The model's choices: the age of a waiting instruction is counted in steps that did something (log entry 23), and the place of the checks that R199 adds for MQNT (log entry 81). -/
def Obligations.MatrixInstructions : Prop :=
  (∀ (x : Pfx) (d a : RCode) (b : Src) (s t t1 : State) (u : Ctx) (p : Part) (c : Crew) (blk : Block) (va h : Word) (r : ShapeRec) (k : CoreSt),
    u.parts.head? = some p → crewAt t p.crew = some c → blockOf t c = some blk → uniformOps t u.parts a b = .ok (va, h) →
    getShape t c p.act ((taintClock c (opTaint c a b)).sup c.acq) h false = .ok r t1 →
    (∀ w ∈ [(false, Instr.mma x d a b, 0x71), (true, .mmas x d a b, 0x72)],
      issuePoint { i := w.2.1, ops := [.grp d 16, .src a, .srcB b], waits := true, localOnly := true } s = some (u, t) →
      mmaCheck t u.parts w.1 (u.scope == .set) blk r d va.toNat = none → (matrixWait c u.pc blk r (mmaRegs d a b)).ready t1 c.core = true →
      engineTraceHeld t1 c.core = false → coreAt t1 c.core = some k → k.matrix = none →
      (engineLine t1 k = [] ∨ ∃ w, (engineLine t1 k).head? = some w ∧ w.of c.id u.pc = true) →
      exec w.2.1 s = .next (retire u (emitMatrix (mmaRun (modCore t1 c.core fun k' => { k' with mwait := k.mwait.filter fun w => !w.of c.id u.pc })
        u w.1 blk r d a b va.toNat) c w.2.2 u.parts.length u.pc))) ∧
    (issuePoint { i := .mqnt x d a b, ops := [.grp d 16, .src a, .srcB b], waits := true, localOnly := true } s = some (u, t) →
      va.toNat / 2 ^ 19 = 0 → r.afmt = 9 → r.asrc = false → accFmtOk t u.parts d .fp32 = true → va.toNat % 16 = 0 →
      (let base := va.toNat % 2 ^ 18
       let half := va.toNat / 2 ^ 18 % 2
       base + (16 * u.parts.length - 1) * r.pitch + 16 * half + 16 ≤ blk.asBytes → base + r.soff + 8 * (16 * u.parts.length - 1) + 4 * half + 4 ≤ blk.asBytes →
      exec (.mqnt x d a b) s = .next (retire u (setBlock t1 (mqntRun t1 u.parts blk r d.toNat base half)))))) ∧
  (∀ (i32 : Bool) (d : Nat) (tt : BitVec 9) (rows cols : List (List FVal)) (c : Crew), rows.length = 16 → cols.length = 32 → d + 16 ≤ c.regs.length →
    (∀ i < 16, let q := vreg (accCrew i32 d tt rows cols c) (d + i)
      (∀ l < 32, q.at l = accumulate i32 ((vreg c (d + i)).at l) (rows.getD i []) (cols.getD l [])) ∧ q.shape = .g ∧ q.fmt = (vreg c (d + i)).fmt ∧
      q.taint = (vreg c (d + i)).taint ||| tt) ∧
    (∀ n, n < d ∨ d + 16 ≤ n → vreg (accCrew i32 d tt rows cols c) n = vreg c n) ∧ (accCrew i32 d tt rows cols c).latch = c.latch ∧
    (accCrew i32 d tt rows cols c).pred = c.pred ∧ (accCrew i32 d tt rows cols c).slots = c.slots) ∧
  (∀ (x : Pfx) (d : RCode) (s t : State) (u : Ctx), ∀ w ∈ [(Instr.mclrFp32 x d, Fmt.fp32), (.mclrI32 x d, .i32)],
    issuePoint { i := w.1, ops := [.grp d 16], localOnly := true } s = some (u, t) →
    exec w.1 s = .next (retire u (u.parts.foldl (fun s p => modCrew s p.crew (clearGroup d.toNat w.2)) t)) ∧
    (∀ c : Crew, d.toNat + 16 ≤ c.regs.length → (∀ i < 16, vreg (clearGroup d.toNat w.2 c) (d.toNat + i) = uReg w.2 0) ∧
      (∀ n, n < d.toNat ∨ d.toNat + 16 ≤ n → vreg (clearGroup d.toNat w.2 c) n = vreg c n) ∧ (clearGroup d.toNat w.2 c).latch = c.latch)) ∧
  (∀ (x : Pfx) (a : RCode) (b : Src) (s t : State) (u : Ctx) (p : Part) (c : Crew), actor u t = some (p, c) →
    (∀ ra rb, issuePoint { i := .mscl x a b, ops := [.src a, .srcB b], localOnly := true } s = some (u, t) → srcReg c a.toNat = some ra →
      srcVal c b ra.fmt = some rb → ra.shape = .u → ra.fmt.isIndex = true → (ra.at 0).toNat ≤ 63 → rb.fmt ∈ [Fmt.bf16x2, .raw32, .i32] →
      exec (.mscl x a b) s = .next (retire u (modBlock t c.block fun k => { k with bands := sclBands (ra.at 0).toNat rb p.act k.bands }))) ∧
    (∀ rb r t1, issuePoint { i := .mhnd x b, ops := [.srcB b], waits := true, localOnly := true } s = some (u, t) → srcVal c b .i32 = some rb →
      rb.shape = .u → rb.fmt.isIndex = true → getShape t c p.act ((taintClock c rb.taint).sup c.acq) (rb.at 0) true = .ok r t1 →
      exec (.mhnd x b) s = .next (retire u t1))) ∧
  (∀ (e : Nat) (r : Reg) (act : Mask) (bands : List (BitVec 16)), bands.length = 64 → e ≤ 63 → ∀ i < 64,
    (sclBands e r act bands).getD i 0 = if e ≤ i ∧ i - e < 32 ∧ laneIn act (i - e) = true then BitVec.ofNat 16 (r.at (i - e)).toNat else bands.getD i 0) ∧
  (∀ (s : State) (c : Crew) (pc : Word) (blk : Block) (r : ShapeRec) (regs : List Nat) (core : Nat), (matrixWait c pc blk r regs).ready s core = true ↔
    (∀ k ∈ s.copies, k.block = blk.id → k.dir = 1 ∨ k.dir = 3 → (r.wsbase + r.macros) * 16384 ≤ k.wsAddr 0 ∨ k.wsAddr 0 + k.bytes ≤ r.wsbase * 16384) ∧
    (r.asrc = true → let q := queueAt s core r.q
      q.bound = true ∧ q.out = true ∧ q.task = blk.task ∧ (if r.afmt = 9 then 4 else 8) ≤ q.entries.length)) ∧
  (∀ (s : State) (k : CoreSt), (∀ w : MatrixWait, w ∈ engineLine s k ↔ w ∈ k.mwait ∧ w.canGo s k.id = true) ∧ (∀ w : MatrixWait, w.canGo s k.id = true → w.ready s k.id = true) ∧
    (engineLine s k).Pairwise fun v w => ∀ j, w.since = some j → ∃ i, v.since = some i ∧ (i < j ∨ (i = j ∧ v.slot s ≤ w.slot s))) ∧
  (∀ (s : State) (k : CoreSt), coreAt s s.unit = some k → k.matrix.isSome = true →
    exec .matrixOccupancyEnd s = .next (match engineLine (modCore s k.id fun k => { k with matrix := none }) k with
      | w :: _ => modCrew (modCore s k.id fun k => { k with matrix := none }) w.crew (unstall w.pc)
      | [] => modCore s k.id fun k => { k with matrix := none }))

/-- The tile of an MMA or MMAS: the rows of A, the columns of B, the scales, and the accumulators of each rank (R183, R184, R185, R186, R187, R191, R196, R203, R204). -/
def Obligations.MatrixTile : Prop :=
  (∀ (t : State) (u : Ctx) (mmas : Bool) (blk : Block) (r : ShapeRec) (d a : RCode) (b : Src) (va : Nat) (k : CoreSt),
    (u.parts.map (·.crew)).Nodup → coreAt t blk.core = some k → (∀ o ∈ blk.asOld, o.crew ∉ u.parts.map (·.crew)) →
    let T := mmaRun t u mmas blk r d a b va
    let base := va % 2 ^ 18
    let tile := tileBytes blk r (va / 2 ^ 18 % 2 ^ 10)
    let row (m : Nat) : List FVal := aRow r.afmt (aRowBytes t blk blk.core r base m) (if mmas then some (readBytes blk.aStore (base + r.soff + 8 * m) 8) else none)
      (decodeF bf16F (blk.bands.getD ((r.aband + m / 64) % 64) 0x3F80).toNat)
    let col := bCol r.bfmt tile (decodeF bf16F (blk.bands.getD ((tile.getD 0 0).toNat % 64) 0x3F80).toNat)
    (∀ rk p c, u.parts[rk]? = some p → crewAt t p.crew = some c → crewAt T p.crew =
      some (accCrew (r.acc == 1) d.toNat (opTaint c a b) ((List.range 16).map fun i => row (16 * rk + i)) (laneIds.map col) c)) ∧
    (∀ c, (∀ p ∈ u.parts, p.crew ≠ c) → crewAt T c = crewAt t c) ∧
    ∃ k', coreAt T blk.core = some k' ∧ k'.matrix = some ⟨u.parts.map (·.crew), BitVec.ofNat 16 ((2 ^ r.macros - 1) * 2 ^ r.wsbase)⟩ ∧
      (r.asrc = false → k' = { k with matrix := k'.matrix }) ∧ (r.asrc = true → r.q < k.queues.length →
        k' = { k with matrix := k'.matrix, queues := k.queues.set r.q { k.queues.getD r.q Queue.unbound with
          entries := (k.queues.getD r.q Queue.unbound).entries.drop (if r.afmt = 9 then 4 else 8) } })) ∧
  (∀ (s : State) (b : Block) (core : Nat) (r : ShapeRec) (a m j : Nat), j < (if r.afmt = 9 then 32 else if r.afmt = 13 then 128 else 64) →
    (r.asrc = false → (aRowBytes s b core r a m).getD j 0 = sget (0 : Byte) b.aStore (a + m * r.pitch + j)) ∧
    (r.asrc = true →
      let q := m * (if r.afmt = 9 then 32 else if r.afmt = 13 then 128 else 64) + j
      ∀ e, (queueAt s core r.q).entries[q / 128]? = some e → q / 128 < (if r.afmt = 9 then 4 else 8) →
        (aRowBytes s b core r a m).getD j 0 = if laneIn e.valid (q % 128 / 4) then ((e.words.getD (q % 128 / 4) 0) >>> (8 * (q % 4))).setWidth 8 else 0)) ∧
  (∀ (b : Block) (r : ShapeRec) (t i : Nat), i < (if r.bfmt = 9 then 1296 else 2048) →
    (tileBytes b r t).getD i 0 = sget (0 : Byte) b.wStore (r.wsbase * 16384 + t * (if r.bfmt = 9 then 1296 else 2048) + i)) ∧
  (∀ (f : Nat) (bs : List Byte) (sc : Option (List Byte)) (g : FVal) (k : Nat), k < 64 →
    let v := (aRow f bs sc g).getD k .nan
    let y (i : Nat) : Nat := (bs.getD i (0 : Byte)).toNat
    (f = 9 → v = fMul (fMul (decodeF e2m1F (y (k / 2) / 16 ^ (k % 2) % 16)) (match sc with
      | some b => decodeF e3m5F (b.getD (k / 8) (0 : Byte)).toNat
      | none => .fin false 1 0)) g) ∧
    (f = 13 → v = decodeF bf16F (y (2 * k) + 256 * y (2 * k + 1))) ∧ (f = 7 → v = decodeF e4m3F (y k)) ∧ (f = 8 → v = decodeF e5m2F (y k)) ∧
    (f ∉ [9, 13, 7, 8] → v = ofInt (sgn 8 (y k)))) ∧
  (∀ (f : Nat) (bs : List Byte) (g : FVal) (n k : Nat), k < 64 →
    let v := (bCol f bs g n).getD k .nan
    let y (i : Nat) : Nat := (bs.getD i (0 : Byte)).toNat
    (f = 9 → v = fMul (fMul (decodeF e2m1F (y (0x10 + 4 * (32 * (k / 8) + n) + k % 8 / 2) / 16 ^ (k % 2) % 16)) (decodeF e3m5F (y (0x410 + 32 * (k / 8) + n)))) g) ∧
    (f = 7 → v = decodeF e4m3F (y (4 * (32 * (k / 4) + n) + k % 4))) ∧ (f ∉ [9, 7] → v = ofInt (sgn 8 (y (4 * (32 * (k / 4) + n) + k % 4)))))

/-- Accumulation of an element: I32 adds exact products modulo 2^32; FP32 adds eight group sums, each rounded once (R163, R192, R193, R194). -/
def Obligations.ElementAccumulation : Prop :=
  (∀ (acc : Word) (ps : List (Int × Int)), (∀ p ∈ ps, -128 ≤ p.1 ∧ p.1 ≤ 127 ∧ -128 ≤ p.2 ∧ p.2 ≤ 127) →
  accumulate true acc (ps.map fun p => ofInt p.1) (ps.map fun p => ofInt p.2) = acc + BitVec.ofInt 32 (ps.map fun p => p.1 * p.2).sum ∧
  (∀ qs : List (Int × Int), qs.Perm ps →
    accumulate true acc (qs.map fun p => ofInt p.1) (qs.map fun p => ofInt p.2) =
      accumulate true acc (ps.map fun p => ofInt p.1) (ps.map fun p => ofInt p.2))) ∧
  (∀ (acc : Word) (xs ys : List FVal), xs.length = 64 → ys.length = 64 →
    accumulate false acc xs ys = (List.range 8).foldl (fun (w : Word) g => BitVec.ofNat 32 (FOp.add.elem fp32F w.toNat
      (rne fp32F (sumF (List.zipWith fMul ((xs.drop (8 * g)).take 8) ((ys.drop (8 * g)).take 8)))))) acc) ∧
  (∀ xs ys : List FVal, xs.length = 8 → ys.length = 8 →
    let S := rne fp32F (sumF (List.zipWith fMul xs ys))
    let x (i : Nat) : FVal := xs.getD i .nan
    let y (i : Nat) : FVal := ys.getD i .nan
    let bad (i : Nat) : Prop := x i = .nan ∨ y i = .nan ∨ (∃ t, x i = .inf t ∧ (y i).isFinite ∧ (y i).num = 0) ∨ ∃ t, y i = .inf t ∧ (x i).isFinite ∧ (x i).num = 0
    let inf (i : Nat) (s : Bool) : Prop := ((∃ t, x i = .inf t) ∨ ∃ t, y i = .inf t) ∧ ((x i).neg != (y i).neg) = s
    ((∃ i < 8, bad i) → S = 0x7FC00000) ∧
    ((∀ i < 8, ¬ bad i) → ((∃ i < 8, inf i false) → (∃ i < 8, inf i true) → S = 0x7FC00000) ∧
      ∀ s, (∃ i < 8, inf i s) → (∀ i < 8, ¬ inf i (!s)) → S = signBit fp32F s + 0x7F800000) ∧
    ((∀ i < 8, (x i).isFinite ∧ (y i).isFinite) →
      let e : ℚ := ((List.range 8).map fun i => (x i).num * (y i).num).sum
      RoundsOnce fp32F ((e : ℚ) : ℝ) S ∧
      (e = 0 → ((∀ i < 8, (x i).num * (y i).num = 0 ∧ ((x i).neg != (y i).neg) = true) → S = 0x80000000) ∧
        ((∃ i < 8, (x i).num * (y i).num ≠ 0 ∨ ((x i).neg != (y i).neg) = false) → S = 0)))) ∧
  (∀ x y : FVal, x.isFinite → y.isFinite → (fMul x y).isFinite ∧ (fMul x y).num = x.num * y.num ∧ (fMul x y).neg = (x.neg != y.neg))

/-- MQNT: where the elements and scales of each row go, and how a group of 8 values is quantised (R161, R163, R183, R187, R199, R200). -/
def Obligations.QuantisedGroup : Prop :=
  (∀ (s : State) (parts : List Part) (b : Block) (r : ShapeRec) (d a h n : Nat) (regs : Nat → Reg), parts.length = n → swf (0 : Byte) b.aStore = true →
    (∀ k p, parts[k]? = some p → ∃ c, crewAt s p.crew = some c ∧ ∀ i < 16, regs (16 * k + i) = vreg c (d + i)) → 16 ≤ r.pitch → h < 2 →
    (∀ m < 16 * n, ∀ k < 16 * n, m * r.pitch + 16 * h + 16 ≤ r.soff + 8 * k + 4 * h ∨ r.soff + 8 * k + 4 * h + 4 ≤ m * r.pitch + 16 * h) →
    let b' := mqntRun s parts b r d a h
    let ys (m j : Nat) : List FVal := (List.range 8).map fun i => decodeF fp32F (rne fp32F (fDiv (decodeF fp32F ((regs m).at (8 * j + i)).toNat)
      (decodeF bf16F (b.bands.getD ((r.aband + m / 64) % 64) 0x3F80).toNat)))
    (∀ m < 16 * n, ∀ j < 4, (sget (0 : Byte) b'.aStore (a + r.soff + 8 * m + 4 * h + j)).toNat = (quantGroup (ys m j)).1 ∧
      ∀ i < 4, (sget (0 : Byte) b'.aStore (a + m * r.pitch + 16 * h + 4 * j + i)).toNat =
        (quantGroup (ys m j)).2.getD (2 * i) 0 + 16 * (quantGroup (ys m j)).2.getD (2 * i + 1) 0) ∧
    (∀ k, (∀ m < 16 * n, (k < a + m * r.pitch + 16 * h ∨ a + m * r.pitch + 16 * h + 16 ≤ k) ∧ (k < a + r.soff + 8 * m + 4 * h ∨ a + r.soff + 8 * m + 4 * h + 4 ≤ k)) →
      sget (0 : Byte) b'.aStore k = sget 0 b.aStore k) ∧
    b' = { b with aStore := b'.aStore, asOld := b'.asOld } ∧ swf (0 : Byte) b'.aStore = true) ∧
  (∀ ys : List FVal,
    let s := (quantGroup ys).1
    ((∀ y ∈ ys, y = .nan ∨ (y.isFinite ∧ y.num = 0)) → s = 0) ∧ ((∃ y ∈ ys, ∃ t, y = .inf t) → s = 0xFE) ∧
    (∀ m : ℚ, 0 < m → (∀ y ∈ ys, y = .nan ∨ (y.isFinite ∧ |y.num| ≤ m)) → (∃ y ∈ ys, y.isFinite ∧ |y.num| = m) →
      1 ≤ s ∧ s ≤ 0xFE ∧ (∀ c < s, 6 * e3m5F.num c < m) ∧ ((∃ c ≤ 0xFE, m ≤ 6 * e3m5F.num c) → m ≤ 6 * e3m5F.num s)) ∧
    (quantGroup ys).2.length = ys.length ∧ ∀ i < ys.length,
      let y := ys.getD i .nan
      let q := (quantGroup ys).2.getD i 0
      (y = .nan → q = 0) ∧ (y ≠ .nan → s = 0 → q = if y.neg then 8 else 0) ∧
      (s ≠ 0 → (∀ t, y = .inf t → q = signBit e2m1F t + 7) ∧
        (y.isFinite → (y.num = 0 → q = signBit e2m1F y.neg) ∧
          (y.num ≠ 0 → (¬ Overflows e2m1F .rne ((y.num / e3m5F.num s : ℚ) : ℝ) → RoundsTo e2m1F .rne ((y.num / e3m5F.num s : ℚ) : ℝ) q) ∧
            (Overflows e2m1F .rne ((y.num / e3m5F.num s : ℚ) : ℝ) → q = signBit e2m1F y.neg + 7))))) ∧
  (∀ x y : FVal, x.isFinite → y.isFinite → y.num ≠ 0 → RoundsOnce fp32F ((x.num / y.num : ℚ) : ℝ) (rne fp32F (fDiv x y)))

/-- QOP PUSH, POP, DEM and STAT complete; entries move between registers and ports (R224, R225, R227, R228, R230).  The model's choice: POP writes all 32 lanes of vd and of pK, those of exited lanes too (log entry 42). -/
def Obligations.QueueOperations : Prop :=
  (∀ (x : Pfx) (n : BitVec 4) (k : BitVec 2) (d a : RCode) (s t : State) (u : Ctx) (p : Part) (c : Crew), actor u t = some (p, c) →
    let q := crewQueue t c n.toNat
    (∀ r, issuePoint { i := .qopPush x n a, ops := [.src a], waits := true } s = some (u, t) → srcReg c a.toNat = some r → q.bound = true → q.out = false →
      (r.fmt = q.fmt ∨ r.fmt = .raw32 ∨ q.fmt = .raw32) → q.entries.length < 8 →
      exec (.qopPush x n a) s = .next (retire u (modQueue t c.core n.toNat fun q =>
        { q with entries := q.entries ++ [⟨r.lanes, BitVec.allOnes 32, 0, (crewClock c).sup (taintClock c r.taint)⟩] }))) ∧
    (∀ e es, issuePoint { i := .qopPop x n k d, ops := [.dst d], waits := true } s = some (u, t) → q.bound = true → q.out = true → q.entries = e :: es →
      exec (.qopPop x n k d) s = .next (retire u (modCrew (modQueue t c.core n.toNat fun q => { q with entries := es }) c.id (popInto k.toNat d q.fmt e)))) ∧
    (∀ r, issuePoint { i := .qopDem x n a, ops := [.src a], waits := true } s = some (u, t) → srcReg c a.toNat = some r → q.bound = true → q.out = true →
      r.shape = .u → r.fmt.isIndex = true → exec (.qopDem x n a) s = .next (retire u (addDemand t c.core n.toNat (r.at 0).toNat))) ∧
    (issuePoint { i := .qopStat x n d, ops := [.dst d], waits := true } s = some (u, t) → q.bound = true →
      exec (.qopStat x n d) s = .next (retire u (u.parts.foldl (fun s p => if p.act = 0 then s else modCrew s p.crew (sysResult d p (queueStatus t c.core q)))
        (modQueue t c.core n.toNat fun q => { q with err := false, clamp := false }))))) ∧
  (∀ (k : Nat) (d : RCode) (f : Fmt) (e : QEntry) (c : Crew), c.regs.length = 60 → c.pred.length = 3 →
    let c' := popInto k d f e c
    (d.toNat < 60 → (∀ l < 32, (vreg c' d.toNat).at l = e.words.getD l 0) ∧ (vreg c' d.toNat).fmt = f ∧ (vreg c' d.toNat).shape = .g ∧ (vreg c' d.toNat).taint = 0) ∧
    (∀ n, n ≠ d.toNat → vreg c' n = vreg c n) ∧ (k < 3 → c'.pred.getD k 0 = e.valid) ∧ (∀ j < 3, j ≠ k → c'.pred.getD j 0 = c.pred.getD j 0) ∧
    c'.acq = c.acq.sup e.clock ∧ c'.hist = c.hist.sup e.clock ∧ c'.entries = c.entries) ∧
  (∀ (s : State) (core n : Nat) (e : QEntry) (es : List QEntry) (i : Isle) (p : InPort),
    let r := queueAt s core n
    r.entries = e :: es → isleAt s (dieOfCore core) r.island = some i → i.inp.find? (fun p => p.no == r.port) = some p → r.bound = true → r.out = false →
    p.fifo.length < 32 →
    exec (.pushEntryToPort core n) s = .next (modIsle (modQueue s core n fun r => { r with entries := es }) i.die i.code fun i =>
      i.modIn p.no fun p => { p with fifo := p.fifo ++ [⟨e.words, e.valid, e.errs, e.clock, Clock.zero, core, n⟩] })) ∧
  (∀ (s : State) (die isl port : Nat) (i : Isle) (due : Nat) (v : PortVec) (n : Nat), isleAt s die isl = some i →
    ((i.outp.find? fun p => p.no == port).bind fun p => p.done.head?) = some (due, v) → due ≤ i.cycle → dieOfCore v.core = die →
    takerOf s isl port v.core = some n →
    exec (.outputVectorDeliver die isl port) s = .next (modIsle (modQueue s v.core n fun q =>
      { q with entries := q.entries ++ [⟨v.words, v.valid, v.errs, v.acq⟩], demand := q.demand - 1, err := q.err || v.errs != 0 }) die isl fun i =>
      i.modOut port fun p => { p with done := p.done.tail }))

/-- QOP DEM: its traps, its clamped demand, and its word (R229). -/
def Obligations.QueueDemand : Prop :=
  (∀ (x : Pfx) (n : BitVec 4) (a : RCode) (s t : State) (u : Ctx) (p : Part) (c : Crew) (r : Reg), actor u t = some (p, c) →
    issuePoint { i := .qopDem x n a, ops := [.src a], waits := true } s = some (u, t) → srcReg c a.toNat = some r →
    (crewQueue t c n.toNat).bound = true → (crewQueue t c n.toNat).out = true →
    (r.shape ≠ .u → exec (.qopDem x n a) s = .next (trapAll u t trapOperand (·.act) fun _ => [])) ∧
    (r.shape = .u → r.fmt ≠ .raw32 → r.fmt ≠ .i32 → r.fmt ≠ .idx → exec (.qopDem x n a) s = .next (trapAll u t trapFormat (·.act) fun _ => [])) ∧
    (r.shape = .u → (r.fmt = .raw32 ∨ r.fmt = .i32 ∨ r.fmt = .idx) → exec (.qopDem x n a) s = .next (retire u (addDemand t c.core n.toNat (r.at 0).toNat)))) ∧
  (∀ (s : State) (core n k : Nat) (cs : CoreSt), coreAt s core = some cs → n < cs.queues.length →
    let q := queueAt s core n
    let q' := queueAt (addDemand s core n k) core n
    q' = { q with demand := q.demand + min k (8 - (q.demand + q.entries.length)), clamp := q.clamp || decide (8 - (q.demand + q.entries.length) < k) } ∧
    (q.demand + q.entries.length ≤ 8 → q'.demand + q'.entries.length ≤ 8)) ∧
  (∀ (s : State) (core n : Nat), addDemand s core n 0 = s) ∧
  (∃ x, decodeTableWord 32 0x90703BB1 = some (.qopDem x 4 7))

/-- Submission, placement, wake, save, retirement and scrub events complete (R290, R292, R297, R299, R300, R295, R262, R107, R94, R121). -/
def Obligations.SchedulingEvents : Prop :=
  (∀ (s : State) (die n : Nat) (v : BitVec 64) (d : Die), n < 16 → dieAt s die = some d → hostUp s = true →
    exec (.sqPush die n v) s = .next (runPush s die (n, v.toNat % 2 ^ 29 * 128))) ∧
  (∀ (s : State) (t : Task), taskAt s s.unit = some t → taskOver s t = true → retireSectors s t = [] → ∀ s1, settleCores s (taskCores s t.no) = (true, s1) →
    exec .taskRetire s = .next (retireTask s1 t)) ∧
  (∀ (s : State) (d : Die), dieAt (runPushes s) (runPushes s).unit = some d → fenced (runPushes s) (runPushes s).unit = false →
    placeHeld (runPushes s) (runPushes s).unit = false → exec .placementDecision s = .next (decide_ (runPushes s).unit [0, 1, 2, 3] (runPushes s)).2) ∧
  (∀ (s : State) (die q : Nat) (d : Die) (t : Task) (k : CoreSt), dieAt s die = some d →
    (headTasks s d (queueClass s die q)).find? (fun h => h.1 == q) = some (q, t) → 64 ≤ t.waited → (t.bind = false ∨ t.binding.isSome = true) →
    (∀ k ∈ s.cores, k.reserve ≠ some (needNext s (queueClass s die q) t).key) →
    s.cores.find? (fun k => dieOfCore k.id == die && fits s (needNext s (queueClass s die q) t) k.id
      ((s.blocks.filter fun b => b.core == k.id && b.placed && b.formed.isNone && decide ((needNext s (queueClass s die q) t).cls ≤ blockClass s b)).map (·.id))) = some k →
    exec (.starvationReservation die q) s = .next (reserveCore s k.id (needNext s (queueClass s die q) t).key)) ∧
  (∀ (s : State) (b : Block) (t : Task), blockAt s s.unit = some b → taskAt s b.task = some t →
    (b.state = .waking → exec .blockWakeDone s = .next (wakeBlock s t b)) ∧
    (∀ swap, b.state = .saving swap → exec .blockSaveComplete s = .next (finishSave s b swap)) ∧
    (b.state = .stopping → allEnded s b = false → noSections s b = true → blockQuiet s b = true →
      (∀ c ∈ s.crews, c.block = b.id → crewHalted s c = true ∧ c.log = none) → exec .blockSaveComplete s = .next (finishSave s b false)) ∧
    (b.state = .stopping → exec .preemptSlowStop s = .next (emitTask s b.core (some t) 16 2
      ([BitVec.ofNat 8 b.core, BitVec.ofNat 8 ((((s.crews.filter fun c => c.block == b.id).map (·.slot)).min?).getD 0), 0, 0] ++ leSplit 4 b.task))) ∧
    (b.state = .running ∨ b.state = .stopping ∨ b.state = .draining → allEnded s b = true →
      ((∃ k ∈ s.copies, k.block = b.id) → b.state ≠ .draining → exec .blockRetire s = .next (modBlock s b.id fun b => { b with state := .draining })) ∧
      ((∀ k ∈ s.copies, k.block ≠ b.id) → (∀ p ∈ pinnedLines s b.id, wbBlocked s p.1 p.2 = false) →
        exec .blockRetire s = .next (formDue (formDue (retireBlock s b) (dieOfCore b.core)) (1 - dieOfCore b.core))))) ∧
  (∀ (s : State) (k : CoreSt), coreAt s s.unit = some k → k.scrub ≠ [] → exec .allocationScrub s = .next (modCore s k.id fun k => { k with scrub := k.scrub.drop 1 })) ∧
  (∀ (s : State) (core g : Nat) (k : CoreSt), coreAt s core = some k → k.groups.getLsbD g = true → groupOwned s core g = false →
    exec (.registerGroupGate core g) s = .next (modCore s core fun k => { k with groups := k.groups &&& ~~~(BitVec.ofNat 15 (2 ^ g)) }))

/-- Crew and memory-system events complete: flushes, expiry, deadlock, ILLEGAL, walks, retries, gates (R28, R267, R276, R305, R56, R57, R82, R246, R355). -/
def Obligations.CrewAndMemoryEvents : Prop :=
  ((∀ (s : State) (die key : Nat) (d : Die) (r : LaneRec), dieAt s die = some d → d.bins.find? (fun r => r.key == key && !r.aged) = some r →
    exec (.enckeAgeFlush die key) s = .next (formDue (markAged s die fun x => x.key == key && x.task == r.task) die)) ∧
  (∀ (s : State) (die task : Nat) (d : Die) (t : Task), dieAt s die = some d → taskAt s task = some t →
    (∃ r ∈ d.bins, r.task = task ∧ r.aged = false) → noMoreLanes s die t = true →
    exec (.enckeFinalFlush die task) s = .next (formDue (markAged s die fun r => r.task == task) die)) ∧
  (∀ (s : State) (c : Crew) (e : Entry), crewAt s s.unit = some c →
    c.entries.find? (fun e => !e.demoted && decide (quantumOf s c.core ≤ e.quantum) && c.entries.any fun o => o.pc != e.pc && o.wait.isNone) = some e →
    let r := rotateDemoted (setCrew s { c with entries := c.entries.map fun x =>
      if x.pc == e.pc then { x with quantum := 0, demoted := true, left := 1 } else x }) c.id e.pc
    (∀ t, r = .ok t → exec .frontQuantumExpire s = .next t) ∧ (∀ f, r = .error f → exec .frontQuantumExpire s = .next (rotateTrap s c e f))) ∧
  (∀ (s t : State) (c0 c : Crew) (e : Entry) (w lit len : Nat), crewAt s s.unit = some c0 → allHeld c0 = true →
    (rdvClosure s s.crews.length [c0.id]).all (crewStuck s) = true → stuckEntry s (rdvClosure s s.crews.length [c0.id]) = some (c, e) →
    fetchInstr s c e.pc = (.word w lit len, t) →
    ∃ x : Ctx, x.crew = c.id ∧ x.pc = e.pc ∧ x.next = e.pc + BitVec.ofNat 32 len ∧ x.iword = BitVec.ofNat 32 w ∧ x.parts = [⟨c.id, e.mask, false⟩] ∧
      exec .rendezvousDeadlock s = .next (trapAll x t (if (instrOf w lit len).full then trapPartial else trapRendezvous) (·.act) fun _ => [])) ∧
  (∀ (word lit : Word) (len : Nat) (why : Why) (s : State) (u : Cur) (c : Crew) (e : Entry), s.cur = some u → crewAt s u.crew = some c → entryAt c u.pc = some e →
    ∃ code, ((∀ p, why ≠ .scope p) → code = trapIllegal) ∧ (∀ p, why = .scope p → code = if p = true ∧ c.priv = false then trapPriv else trapScope) ∧
      exec (.illegalInstruction word lit len why) s = .next (trapAll ⟨c.id, .lane, u.pc, u.pc + BitVec.ofNat 32 len, word, lit,
        [⟨c.id, actOf c e (wordGuard word len), false⟩]⟩ { s with cur := none } code (·.act) fun _ => []))) ∧
  ((∀ (s t : State) (w : Walk) (o : LineOut), s.walks.find? (fun w => w.id == s.unit) = some w → w.ats = false → w.result = .pending →
    walkBlocked s w = false → walkNow s w.core w.pasid w.va w.acc w.priv = (o, t) → exec .walkComplete s = .next (walkEnd t w o)) ∧
  (∀ (s : State) (k : CoreSt), coreAt s s.unit = some k → ∀ r rs, k.rejects.filter (Reject.stands s) = r :: rs → s.link.retraining = false →
    exec .mshrAgeLimitReached s = .next (modCore s k.id fun k => { k with rejects := { r with aged := true } :: rs })) ∧
  (∀ (s : State) (k : CoreSt), coreAt s s.unit = some k →
    let rs := k.rejects.filter (Reject.stands s)
    let t := modCore s k.id fun k => { k with rejects := rs }
    (rs = [] → exec .missEntryFree s = .next { t with progress := false }) ∧
    (∀ r, rs.find? (Reject.ready t) = some r ∨ (rs.find? (Reject.ready t) = none ∧ rs.head? = some r) →
      let logged : Prop := ∃ c e, crewAt s r.crew = some c ∧ c.log = some e ∧ e.req.pc = r.pc
      (logged → exec .missEntryFree s = .next (advanceLog t r.crew)) ∧ (¬ logged → exec .missEntryFree s = .next (modCrew t r.crew (unstall r.pc))))) ∧
  (∀ (s : State) (r : Reject), r.stands s = true ↔ ∃ c, crewAt s r.crew = some c ∧
    ((∃ e, c.log = some e ∧ e.req.pc = r.pc) ∨ (c.ended = false ∧ ∃ e, entryAt c r.pc = some e))) ∧
  (∀ (s : State) (n line h : Nat) (f : Flight) (c : Crew), flightAt s n = some f → line ∈ f.todo → pinnedElsewhere s f.core line = true →
    crewAt s f.crew = some c → pinHolder s line = some h → filterPasses s f.core (taskOf s c) = true →
    exec (.lineRetry n line) s = .next (emitDie s (homeDie s (line * 256)) 321 .mem 9 2
      ([BitVec.ofNat 8 f.core, BitVec.ofNat 8 c.slot, BitVec.ofNat 8 h, 0] ++ leSplit 4 (line % 2 ^ 28)))) ∧
  (∀ (s : State) (line : Nat) (g : Nat × Nat), (gatedNow s).find? (fun g => g.2 == line) = some g →
    exec (.replayGateTimeout (homeDie s (line * 256)) line) s = .next (abandonLine s line 3 (regionReq s g.1))) ∧
  (∀ (s : State) (crew line : Nat), (crew, line) ∈ gatedNow s ↔ gateHolds s line crew = true ∧
    ((∃ f ∈ s.flights, f.crew = crew ∧ line ∈ f.todo ∧ reachesSlice s f line = true ∧ partCounted s f line = false) ∨
      ∃ c ∈ s.crews, c.id = crew ∧ c.gated = some line)))

/-- Host reads, writes and snoops of memory, and BIRsp, complete (R45, R46, R47, R247, R258). -/
def Obligations.HostMemoryEvents : Prop :=
  ∀ (s : State), hostUp s = true →
  (∀ (addr len : Nat) (keep : Option HostHold), hpaKey s addr < hostBase → hostReaches s (hpaKey s addr) len = true → syncHeld s (hpaKey s addr / 256) = [] →
    ∃ t bs, exec (.hostRead addr len keep) s = .next t ∧ t.out.getLast? = some (.readData addr bs) ∧
      (badDpa s (hpaKey s addr) = true → bs = none ∧ t.mem = s.mem) ∧ (badDpa s (hpaKey s addr) = false →
        let r := sliceAccess (syncLine s (hpaKey s addr / 256)) (hpaKey s addr / 256) none
        t.mem = r.mem ∧ bs = if (rangeSectors (hpaKey s addr) len).any (fun x => r.poison.contains x) then none else some (readBytes r.mem (hpaKey s addr) len))) ∧
  (∀ (addr : Nat) (data : List Byte) (keep : Option HostHold), hostReaches s (hpaKey s addr) data.length = true → syncHeld s (hpaKey s addr / 256) = [] → badDpa s (hpaKey s addr) = false →
    ∃ t, exec (.hostWrite addr data keep) s = .next t ∧ (s.homeWf = true → t.homeWf = true ∧
      let r := sliceAccess (syncLine s (hpaKey s addr / 256)) (hpaKey s addr / 256) none
      let k := writeClock r (hpaKey s addr) r.hostClock
      (∀ i < data.length, readByte t.mem (hpaKey s addr + i) = data.getD i 0 ∧ sget Clock.zero t.wclk (hpaKey s addr + i) = k) ∧
      (∀ a, a < hpaKey s addr ∨ hpaKey s addr + data.length ≤ a → readByte t.mem a = readByte r.mem a) ∧ t.hostClock = r.hostClock.sup k)) ∧
  (∀ (addr len : Nat) (data : List Byte) (keep : Option HostHold), hpaKey s addr < hostBase → hostReaches s (hpaKey s addr) len = true → data.length = len →
    syncHeld s (hpaKey s addr / 256) ≠ [] → ∀ i ∈ [Instr.hostRead addr len keep, .hostWrite addr data keep], exec i s = .next (askHost s (syncHeld s (hpaKey s addr / 256)))) ∧
  (∀ (addr : Nat) (inv : Bool), hostBase ≤ hpaKey s addr →
    let b := hpaKey s addr / 64 * 64
    let r := if inv then syncLine s (hpaKey s addr / 256) else sliceAccess (syncLine s (hpaKey s addr / 256)) (hpaKey s addr / 256) none
    ∃ t, exec (.hostSnoop addr inv) s = .next t ∧ t.mem = r.mem ∧ t.poison = r.poison ∧
      t.out.getLast? = some (.snoopDone addr (if r.poison.contains (b / 64) then none else some (readBytes r.mem b 64)))) ∧
  (∀ line : Nat, s.homeWf = true →
    (∀ a, a / 256 ≠ line → readByte (syncLine s line).mem a = readByte s.mem a) ∧
    ((∀ c ∈ s.cores, ∀ l ∈ c.l1, l.key = line → l.pin = none) → syncLine s line = s) ∧
    (∀ d, dieAt s (homeDie s (line * 256)) = some d → d.rp.active = false ∨ d.rp.mode ≠ 1 → (sliceAccess s line none).mem = s.mem)) ∧
  (∀ n, n ∈ s.biWait → exec (.birsp n) s = .next (runPushes { s with biWait := s.biWait.filter (· != n), hostHeld := s.hostHeld.filter fun h => h.1 != n }))

/-- Completions, page responses, PFQ, PRI, host invalidations and stack-cache registers complete (R49, R50, R51, R59, R60, R61, R62).  The model's choices: a Response Failure refuses the unsent requests too, all shootdowns count to the limit of 8, and host events need the link up (log entry 34); a completion without the permission asked is cached (log entry 65); the check of a pin (log entry 33), pins released while being installed (log entry 70), and the oldest entry of the host-translation cache giving way (log entry 9). -/
def Obligations.PageAndPinEvents : Prop :=
  ∀ (s : State), hostUp s = true →
  (∀ (req : Nat) (ans : AtsAnswer) (w : Walk), s.walks.find? (fun w => w.id == req && w.ats && w.result == .pending) = some w →
    ((ans.read || ans.write || ans.exec) = true → 12 ≤ ans.sizeLog → exec (.atsTranslationCompletion req ans) s = .next { s with
      hostTc := pushFront 4096 (atsEntry s w ans) (s.hostTc.filter fun x => !(x.pasid == (atsEntry s w ans).pasid && x.va == (atsEntry s w ans).va))
      walks := s.walks.filter fun x => x.id != req }) ∧
    ((ans.read || ans.write || ans.exec) = false → exec (.atsTranslationCompletion req ans) s = .next { s with
      walks := s.walks.map fun x => if x.id == req then { x with result := .fault } else x })) ∧
  (∀ (req : Nat) (r : PageReq), s.pageReqs.find? (fun r => r.tag == req && r.pri && r.sent) = some r →
    exec (.pageGroupResponse req .success) s = .next (answer { s with hostTc := s.hostTc.filter fun e => !e.hits r.pasid (r.page * 4096) } r false) ∧
    exec (.pageGroupResponse req .invalidRequest) s = .next (answer s r true) ∧
    exec (.pageGroupResponse req .responseFailure) s = .next ((s.pageReqs.filter (·.pri)).foldl (fun s r => answer s r true) { s with priOff := true })) ∧
  exec .priEnable s = .next { s with priOff := false } ∧
  (∀ (pasid va pages : Nat), sdFlying s < 8 → exec (.atsInvalidateRequest pasid va pages) s = .next (endShootdowns { s with
    shootdowns := s.shootdowns ++ [⟨s.nextId, 0, none, 0, pasid, if pages = 0 then none else some (va / 4096 * 4096, pages), [], false⟩], nextId := s.nextId + 1 })) ∧
  (∀ (die : Nat) (d : Die), dieAt s die = some d →
    (∀ (v : Word) (r : PageReq), s.pageReqs.find? (fun r => r.sent && !r.pri && r.tag == 2 ^ 32 * (die + 1) + v.toNat % 2 ^ 16) = some r →
      exec (.mcPfqResp die v) s = .next (answer (modDie s die fun d => { d with pfqResp := v &&& 0x1FFFF }) r (v.getLsbD 16))) ∧
    (∀ v : Word, s.pageReqs.find? (fun r => r.sent && !r.pri && r.tag == 2 ^ 32 * (die + 1) + v.toNat % 2 ^ 16) = none →
      exec (.mcPfqResp die v) s = .next (modDie s die fun d => { d with pfqResp := v &&& 0x1FFFF })) ∧
    (∀ v : Word, exec (.mcPfqTail die v) s = .next (modDie s die fun d => { d with pfqTail := v.toNat % 2 ^ 17 })) ∧
    (∀ (n : Nat) (v : BitVec 64), n < 64 →
      let w := v &&& 0x000FFFFFFFFF001F
      let e := { d with pins := d.pins.set n w, pinStatus := d.pinStatus.set n 0 }
      exec (.scPin die n v) s = .next (if v.getLsbD 0 then setDie (setDie s e) { e with pinStatus := e.pinStatus.set n (pinCheck (setDie s e) e w) } else setDie s e)) ∧
    (∀ (n : Nat) (v : BitVec 64), n < 16 → exec (.scPartWrite die (0x100 + 8 * n) v) s =
      .next (setDie s (releasePins { d with scPart := d.scPart.set n (if n = 0 then v &&& 0xFFFF ||| 0x10000 else v &&& 0x1FFFF) }))) ∧
    (∀ v : BitVec 64, exec (.scPartWrite die 0x180 v) s = .next (setDie s { d with tenantMap := v }) ∧
      exec (.scPartWrite die 0x188 v) s = .next (setDie s { d with hostMap := v &&& 0xF })) ∧
    (∀ n, d.pinStatus.getD n 0 = 1 → exec (.pinInstallDone die n) s = .next (setDie s { d with pinStatus := d.pinStatus.set n 2 })))

/-- Flits, retrains, fences, acknowledgements, heartbeats and memory errors complete (R44, R63, R64, R65, R66, R332, R338).  The model's choices: FLIT_RECEIVE applies all the other die's writes at once, with the conditions on lane locks and flits (log entry 35), and an uncorrectable error waits for reads of its line in flight (log entry 36). -/
def Obligations.LinkAndFenceEvents : Prop :=
  (∀ (s : State) (die : Nat) (d : Die), dieAt s die = some d → s.link.retraining = false → fenced s 0 = false → fenced s 1 = false →
    exec (.flitReceive die true) s = .next (applyRemote { s with link := { s.link with crcFails := s.link.crcFails.set die 0 } } die) ∧
    (s.link.crcFails.getD die 0 < 4 → exec (.flitReceive die false) s =
      .next { s with link := { s.link with crcFails := s.link.crcFails.set die (s.link.crcFails.getD die 0 + 1) } }) ∧
    (4 ≤ s.link.crcFails.getD die 0 → exec (.flitReceive die false) s = .next (retrain s)) ∧
    exec .laneLockLoss s = .next (retrain s) ∧ exec .linkHeartbeat s = .next { s with link := { s.link with beat := s.time1 } } ∧
    (retrain s).link.retraining = true) ∧
  (∀ s : State, s.link.retraining = true →
    exec (.linkRetrainEnd true) s = .next (sendRequests (runPushes (emitLink { s with link := { s.link with retraining := false } } (if s.link.half then 2 else 1)))) ∧
    (s.link.half = true → let t := emitLink { s with link := { s.link with retraining := false, down := true } } 3
      exec (.linkRetrainEnd false) s = .next (if fenced s 1 then announce t else fenceDie t 1 4)) ∧
    (s.link.half = false → exec (.linkRetrainEnd false) s = .next (degrade { s with link := { s.link with half := true } } 4 0 4))) ∧
  (∀ (s : State) (n die : Nat) (d : Die) (v : Shootdown), s.shootdowns.find? (fun v => v.id == n) = some v → dieAt s die = some d → fenced s die = false →
    v.acked.contains die = false →
    (∀ t, sdBusy s v die = false → (s.link.retraining = false ∨ die = v.die) →
      settleCores s ((s.cores.filter fun c => dieOfCore c.id == die).map (·.id)) = (true, t) →
      exec (.shootdownAck n die) s = .next (endShootdowns { dropRange t v die with
      shootdowns := (dropRange t v die).shootdowns.map fun x => if x.id == n then { x with acked := x.acked ++ [die] } else x })) ∧
    exec (.dieFence die) s = .next (fenceDie s die 3)) ∧
  (∀ (s : State) (n core : Nat) (v : IcInv), s.icinvs.find? (fun v => v.id == n) = some v → v.acked.contains core = false → (icinvCores s).contains core = true →
    (s.link.retraining = false ∨ dieOfCore core = icinvDie s v.crew) →
    ∃ t, exec (.icinvAck n core) s = .next t ∧ t.icinvs = (s.icinvs.map fun w => if w.id == n then { w with acked := w.acked ++ [core] } else w) ∧
      (∀ k, coreAt t core = some k → ∀ l ∈ k.icache, l.pasid = v.pasid → ∃ f c, v.lines = some (f, c) ∧ (l.line < f ∨ f + c ≤ l.line)) ∧
      (∀ c, c ≠ core → coreAt t c = coreAt s c) ∧ t.mem = s.mem ∧ t.crews = s.crews) ∧
  (∀ (s : State) (die addr : Nat), fenced s die = false → badDpa s addr = false → homeDie s addr = die →
    exec (.eccError die addr true) s = .next (emitEcc s die 321 0 0 0) ∧
    ((∀ f ∈ s.flights, f.op.reads = true → f.todo.contains (addr / 256) = false) →
      ∃ t, exec (.eccError die addr false) s = .next t ∧ poisoned t addr = true ∧ (∀ a, a / 64 ≠ addr / 64 → poisoned t a = poisoned s a) ∧ t.mem = s.mem)) ∧
  (∀ (s : State) (die k : Nat) (d : Die), dieAt s die = some d → d.fenced = false → d.ctls.contains k = true →
    exec (.burstCrcFailure die k) s = .next (emitEcc s die 322 (1 + k) 1 k))

/-- Cells, tokens, credits, requests, fetches, stores and the image check complete (R208, R209, R210, R211, R212, R220, R221, R222, R232, R234).  The model's choices: what sets ERR and the clocks of a firing's result, and FETCH and STORE one at a time (log entry 24). -/
def Obligations.IslandEvents : Prop :=
  (∀ (s : State) (die isl cell k : Nat) (i : Isle) (im : Image) (c : CellSt), isleAt s die isl = some i → i.image = some im →
    i.cells.find? (fun c => c.idx == cell) = some c → firingRule (cellRec im cell) c = some k → canFire im i c = true → i.arriving = false → isleTraceHeld s die isl = false →
    let op := wfield (cellRec im cell) 0 12 6
    (op = 38 ∨ op = 39 → exec (.cellFire die isl cell) s = .next (modIsle { s with nextId := s.nextId + 1 } die isl fun i =>
      i.modCell cell fun c => { c with busy := some ⟨op == 39, k, s.nextId, false, false⟩ })) ∧
    (op ≠ 38 → op ≠ 39 → let v := (sources (cellRec im cell)).map (srcOf (cellRec im cell) c)
      exec (.cellFire die isl cell) s = .next (fireEffect s i im c k (cellLatency op)
        (cellOp op ((cellRec im cell).getD 1 0) (v.getD 0 0) (v.getD 1 0) (v.getD 2 0)) false Clock.zero))) ∧
  (∀ (ws : List Word) (c : CellSt) (n k : Nat) (res : Word) (err : Bool) (acq : Clock), (resultToken ws c k res err acq).val = res ∧
    (n < 4 → srcOf ws c n = match c.head n with | some t => t.val | none => 0) ∧ srcOf ws c 4 = ws.getD 1 0 ∧ srcOf ws c 5 = c.preds.setWidth 32 ∧
    (6 ≤ n → srcOf ws c n = 0)) ∧
  (∀ k a b c : Word, cellOp 0 k a b c = a ∧ cellOp 1 k a b c = k ∧ cellOp 2 k a b c = a + b ∧ cellOp 3 k a b c = a - b ∧ cellOp 4 k a b c = a * b ∧
    cellOp 5 k a b c = IOp.mulh.word .i32 a b ∧ cellOp 6 k a b c = IOp.min.word .i32 a b ∧ cellOp 7 k a b c = IOp.max.word .i32 a b ∧
    cellOp 8 k a b c = IOp.minu.word .i32 a b ∧ cellOp 9 k a b c = IOp.maxu.word .i32 a b ∧ cellOp 10 k a b c = a &&& b ∧ cellOp 11 k a b c = a ||| b ∧
    cellOp 12 k a b c = a ^^^ b ∧ cellOp 13 k a b c = a &&& ~~~b ∧ cellOp 14 k a b c = a <<< (b.toNat % 32) ∧ cellOp 15 k a b c = a >>> (b.toNat % 32) ∧
    cellOp 16 k a b c = a.sshiftRight (b.toNat % 32) ∧ cellOp 17 k a b c = (if a = b then 1 else 0) ∧ cellOp 18 k a b c = (if a.slt b then 1 else 0) ∧
    cellOp 19 k a b c = (if a.ult b then 1 else 0) ∧ cellOp 20 k a b c = (if c = 0 then b else a) ∧ cellOp 21 k a b c = FOp.add.word .fp32 a b ∧
    cellOp 22 k a b c = FOp.sub.word .fp32 a b ∧ cellOp 23 k a b c = FOp.mul.word .fp32 a b ∧ cellOp 24 k a b c = ffmaWord .fp32 a b c ∧
    cellOp 25 k a b c = FOp.min.word .fp32 a b ∧ cellOp 26 k a b c = FOp.max.word .fp32 a b ∧ cellOp 27 k a b c = (if FCmp.eq.holds .fp32 a b then 1 else 0) ∧
    cellOp 28 k a b c = (if FCmp.lt.holds .fp32 a b then 1 else 0) ∧ cellOp 29 k a b c = (if FCmp.le.holds .fp32 a b then 1 else 0) ∧
    cellOp 30 k a b c = FunOp.abs.word .fp32 a ∧ cellOp 31 k a b c = FunOp.neg.word .fp32 a ∧ cellOp 32 k a b c = cvtWord .i32 .fp32 .rne false a ∧
    cellOp 33 k a b c = cvtWord .fp32 .i32 .rtz false a ∧ cellOp 34 k a b c = FunOp.flr.word .fp32 a ∧ cellOp 35 k a b c = FunOp.rcp.word .fp32 a ∧
    cellOp 36 k a b c = FunOp.rsq.word .fp32 a ∧ cellOp 37 k a b c = FunOp.sqrt.word .fp32 a) ∧
  (∀ (s : State) (die isl n : Nat) (i : Isle) (x : Item), isleAt s die isl = some i →
    let rest (i : Isle) : Isle := { i with items := i.items.filter fun y => y.id != n }
    (dueItem i n sameTarget = some x →
      (∀ c q t, x.what = .token c q t → exec (.tokenDeliver die isl n) s = .next (modIsle s die isl fun i => (rest i).modCell c fun c =>
        { c with queues := c.queues.set q (c.queues.getD q [] ++ [t]), asked := c.asked.set q (c.asked.getD q 0 - 1) })) ∧
      (∀ p t, x.what = .port p t → exec (.tokenDeliver die isl n) s = .next (modIsle s die isl fun i => (rest i).modOut p (portTake i t)))) ∧
    (dueItem i n (fun _ _ => false) = some x →
      (∀ c o k, x.what = .credit c o k → exec (.demandCreditArrive die isl n) s = .next (modIsle s die isl fun i => (rest i).modCell c fun c =>
        { c with credits := c.credits.set o (c.credits.getD o 0 + k) })) ∧
      (∀ c o, x.what = .request c o → exec (.tokenRequestArrive die isl n) s = .next (modIsle s die isl fun i => (rest i).modCell c fun c =>
        { c with credits := c.credits.set o (c.credits.getD o 0 + 1) })) ∧
      (∀ p, x.what = .portRequest p → exec (.tokenRequestArrive die isl n) s = .next (modIsle s die isl fun i => (rest i).modIn p fun p => { p with owed := p.owed + 1 })))) ∧
  (∀ (s t : State) (die isl n : Nat) (i : Isle) (im : Image) (c : CellSt) (b : CellBusy),
    let ws := cellRec im n
    let a := srcOf ws c ((sources ws).headD 6)
    let acc := cellAccess s i b (leadToken ws c b.rule) (wfield ws 8 0 2) a
    let tk := resultToken ws c b.rule 0 false Clock.zero
    (busyCell s die isl n false = some (i, im, c, b) →
      (acc = .fail t → exec (.islandFetchReturn die isl n) s = .next (fireEffect t i im { c with node := none } b.rule 0 0 true Clock.zero)) ∧
      (∀ pasid va pk nb, acc = .at_ pasid va pk t → c.node = some nb → nb.pasid = pasid → nb.node = va / 64 →
        nb.clock.covers tk.clock = true → exec (.islandFetchReturn die isl n) s =
          .next (fireEffect t i im c b.rule 0 (BitVec.ofNat 32 (leValue ((nb.data.drop (va % 64)).take 4))) false Clock.zero))) ∧
    (busyCell s die isl n true = some (i, im, c, b) →
      (acc = .fail t → exec (.islandStoreDone die isl n) s = .next (fireEffect t i im c b.rule 0 0 true Clock.zero)) ∧
      (∀ pasid va pk t1, acc = .at_ pasid va pk t → isleLine t i.die tk.core tk.q pk true = (true, t1) →
        (appliedClock t1 i.die).covers tk.clock = true →
        exec (.islandStoreDone die isl n) s = .next (fireEffect (isleStore t1 pk (tk.clock.sup tk.acq) (srcOf ws c ((sources ws).getD 1 6)))
          i im c b.rule 0 a false (writeClock t1 pk (tk.clock.sup tk.acq)))))) ∧
  (∀ (s : State) (pk : Nat) (k : Clock) (v : Word),
    let r := sliceAccess s (pk / 256) none
    r.homeWf = true → badDpa r pk = false → (isleStore s pk k v).homeWf = true ∧ readBytes (isleStore s pk k v).mem pk 4 = wordBytes v ∧
      ∀ a, a < pk ∨ pk + 4 ≤ a → readByte (isleStore s pk k v).mem a = readByte r.mem a) ∧
  (∀ (s : State) (j : LoadJob) (bs : List Byte) (d : Die), dieAt s s.unit = some d →
    d.loader.find? (fun j => j.answer.isNone && jobStands s j) = some j → j.image = some bs →
    ∃ t, exec .islandImageCheck s = .next t ∧ (∀ c, crewAt s j.crew = some c → c.ended = false →
      ∃ e, dieAt t s.unit = some e ∧ e.loader = d.loader.map fun x => if x == j then { x with answer := some (checkImage s s.unit j.code bs).1 } else x) ∧
      ((checkImage s s.unit j.code bs).1 ≠ 0 → t.isles = s.isles) ∧
      (∀ i, (checkImage s s.unit j.code bs).1 = 0 → isleAt s s.unit j.code = some i →
        (i.pasid.isSome = true → isleAt t s.unit j.code = some { i with shadow := some (checkImage s s.unit j.code bs).2 }) ∧
        (i.pasid = none → ∃ i', isleAt t s.unit j.code = some i' ∧ i'.image = some (checkImage s s.unit j.code bs).2 ∧ i'.shadow = none))) ∧
  (∀ (x : Pfx) (d a : RCode) (s t : State) (u : Ctx) (p : Part) (c : Crew) (die : Die), actor u t = some (p, c) → dieAt t (dieOfCore c.core) = some die →
    issuePoint { i := .sysIswap x d a, ops := [.dst d, .grp a 3], waits := true } s = some (u, t) →
    (∀ j r, die.loader.find? (fun j => j.crew == c.id && j.pc == u.pc) = some j → j.answer = some r →
      exec (.sysIswap x d a) s = .next (retire u (modCrew (dropJob (dieOfCore c.core) c.id t) c.id (sysResult d p (BitVec.ofNat 32 r))))) ∧
    (∀ va code h t1, die.loader.find? (fun j => j.crew == c.id && j.pc == u.pc) = none → iswapArgs c a = .ok (va, code) →
      let k := (taintClock c ((List.range 3).foldl (fun t i => t ||| (vreg c (a.toNat + i)).taint) 0)).sup c.acq
      let t0 := modLoader t (dieOfCore c.core) fun l => l.filter (fun j => j.crew != c.id) ++ [⟨c.id, u.pc, code, none, none⟩]
      (readImage c p.act k va t0 = (.bytes h t1, false) →
        exec (.sysIswap x d a) s = .next (retire u (modCrew (dropJob (dieOfCore c.core) c.id t1) c.id (sysResult d p 1)))) ∧
      (readImage c p.act k va t0 = (.bytes h t1, true) → exec (.sysIswap x d a) s = .next (holdCrew (modLoader t1 (dieOfCore c.core) fun l =>
        l.map fun j => if j.crew == c.id then { j with image := some h } else j) u.crew)) ∧
      (∀ t1, readLines c p.act k t0 (linePieces va 64) = .bytes h t1 → headerOk h = false → readImage c p.act k va t0 = (.bytes h t1, false))))

/-- Trace records, register writes, resets, alarms, the update mailbox and SPDM complete (R6, R335, R337, R340, R345, R369, R370, R372, R373, R374, R375, R376).  The model's choices: which write of TR_CTL loses records (log entry 22), what a loss of standby power and a reset leave (log entry 32), the boot as one event (log entry 37), the copy of the timebase on die 1 (log entry 67), and, presumed from the DMTF standard, the SPDM answers (log entry 39). -/
def Obligations.RegistersBootAndFirmware : Prop :=
  ((∀ (s : State) (t : TraceBlk) (size : Nat) (r : TraceRec), trace0 s = some t → nextRec s.traceQ = some r → t.size = some size → t.on = true → recReady s r = true →
    (r.loc = none → exec .traceRecordWrite s = .next (writeRec s t size r)) ∧
    (∀ l w s1, r.loc = some l → findLoc s r.die l = .word w s1 →
      exec .traceRecordWrite s = .next (writeRec { s1 with traceQ := replaceFirst r (r.located w) s1.traceQ } t size (r.located w)))) ∧
  (∀ s : State, hostUp s = true →
    (∀ (die : Nat) (v : Word) (d : Die), dieAt s die = some d → ∃ t e, exec (.trCtl die v) s = .next t ∧ dieAt t die = some e ∧ e.trace.ctl = v &&& 0xFFFF03FF) ∧
    (∀ (v : BitVec 64) (d : Die), dieAt s 0 = some d → exec (.trTime v) s = .next (if d.trace.on then s else
      { s with time := v.toNat, time1 := v.toNat, slewed := 0, link := { s.link with beat := 0 } })) ∧
    (∀ v : Word, exec (.trAdj v) s = .next (modTrace s fun t => { t with adj := v })) ∧
    (∀ v : Word, exec (.trTail v) s = .next (modTrace s fun t => { t with tail := v.toNat % 2 ^ 30 })) ∧
    (∀ (core : Nat) (v : Word), exec (.traceSample core v) s = .next (modCore s core fun k => k.setCtl .traceSample v))) ∧
  (∀ (s : State), s.boot.linkUp = true →
    (∀ v : Word, ∃ t, exec (.bootClear v) s = .next t ∧ t.boot.steps.length = s.boot.steps.length ∧
      (∀ n < s.boot.steps.length, t.boot.steps.getD n 0 = if v.getLsbD n then 0 else s.boot.steps.getD n 0) ∧ t = { s with boot := { s.boot with steps := t.boot.steps } }) ∧
    (∀ (off : Nat) (v : BitVec 64), ownRow off = false → exec (.registerWrite off v) s = .next (if s.boot.recovery then standbyWrite s off v else barWrite s off v)))) ∧
  ((∀ (s : State) (env : BootEnv),
    (∀ c, s.boot.pending = some c → exec (.powerOnReset env) s = .next (bootAll s env)) ∧
    (s.boot.pending = none → env.cause = 0 ∨ env.cause = 1 → exec (.powerOnReset env) s = .next (bootAll (resetNow s env.cause) env)) ∧
    exec .standbyPowerLoss s = .next { s with boot := { s.boot with steps := List.replicate 6 0, cause := 0, secAlarm := 0 } } ∧
    exec .thermalTrip s = .next (resetNow s 3)) ∧
  (∀ (s : State) (m : BitVec 4), m ≠ 0 →
    let t := refreshStatus { s with boot := { s.boot with secAlarm := s.boot.secAlarm ||| m, alarmed := true } }
    (t.fuses.policy = 0 → exec (.securityAlarm m) s = .next (tellVec t 6)) ∧ (t.fuses.policy = 1 → exec (.securityAlarm m) s = .next (resetNow t 2)) ∧
    (t.fuses.policy = 2 ∨ t.fuses.policy = 3 → exec (.securityAlarm m) s = .next (resetNow { t with boot := { t.boot with zeroised := true } } 2))) ∧
  (∀ s : State, (25 < s.boot.mhz → exec (.clockThrottle true) s = .next { s with boot := { s.boot with mhz := s.boot.mhz - 25 } }) ∧
    (s.boot.mhz + 25 ≤ (configFigures s).1 → exec (.clockThrottle false) s = .next { s with boot := { s.boot with mhz := s.boot.mhz + 25 } })) ∧
  (∀ s : State, s.boot.linkUp = true → s.mbox.busy = false →
    (∀ w ∈ [(1, Instr.fwErase), (2, .fwProgram), (3, .fwVerify), (4, .fwCommit)], (w.1 = 2 → s.mbox.arg < Config.flashSize.toNat) →
      exec w.2 s = .next { s with mbox := { s.mbox with cmd := w.1, unit := s.mbox.arg, busy := true, touched := false } }) ∧
    (∀ k, (k = 0 ∨ (5 ≤ k ∧ k < 16)) ∨ (k = 2 ∧ Config.flashSize.toNat ≤ s.mbox.arg) →
      exec (.fwInvalidCommand k) s = .next (completeFw { s with mbox := { s.mbox with cmd := k } } 3))) ∧
  (∀ (s : State) (ok : Bool), s.mbox.busy = true → exec (.fwCommandComplete ok) s = .next (finishFw s ok) ∧ (finishFw s ok).mbox.busy = false ∧
    (finishFw s ok).mbox.isDone = true) ∧
  (∀ (s : State) (slot off len n : Nat) (signed : Bool) (nonce : List Byte), s.boot.linkUp = true →
    let answers (i : Instr) (r : SpdmResp) : Prop := exec i s = .next { s with out := s.out ++ [.spdm r] }
    answers .getVersion (.version 12) ∧ answers .getCapabilities .capabilities ∧ answers .negotiateAlgorithms (.algorithms 384 384) ∧
    answers .getDigests (.digests (sha384 Config.identityChain)) ∧ (∃ r, answers (.getCertificate slot off len) r) ∧
    (slot ≠ 0 ∨ s.boot.zeroised = true → answers (.challenge slot nonce) .error) ∧
    (s.boot.zeroised = false → ∃ d sig, answers (.challenge 0 nonce) (.challengeAuth d sig)) ∧
    (∃ r, answers (.getMeasurements n signed nonce) r) ∧ (s.boot.zeroised = true → answers (.getMeasurements n true nonce) .error)))

/-- When an instruction issues at lane scope, and the frame of its issue (R19, R29, R30, R265, R274). -/
def Obligations.IssueAtLaneScope : Prop :=
  (∀ (sp : Spec) (s t : State) (x : Ctx), sp.i.pfx.scope = .lane → issuePoint sp s = some (x, t) →
    t = { s with cur := none } ∧ ∃ u c e, s.cur = some u ∧ crewAt s u.crew = some c ∧ entryAt c u.pc = some e ∧ x.crew = u.crew ∧ x.pc = u.pc ∧
      x.next = u.pc + BitVec.ofNat 32 u.len ∧
      x.parts = [⟨u.crew, actOf c e sp.i.pfx.guard, c.live &&& ~~~actOf c e sp.i.pfx.guard == 0⟩]) ∧
  (∀ (sp : Spec) (s : State) (u : Cur) (c : Crew) (e : Entry), sp.i.pfx.scope = .lane → s.cur = some u → crewAt s u.crew = some c →
    entryAt c u.pc = some e → (sp.i.privileged = false ∨ c.priv = true) → (sp.localOnly = false ∨ isFormed s c = false) →
    (∀ o ∈ sp.ops, opndOk { s with cur := none } c o = true) → sp.ok c = true → (∀ r ∈ sp.ops.flatMap opndRegs, r ∉ pendingRegs s c) →
    (sp.waits = false ∨ c.log = none ∧ c.acqWait = false) → stackSound { s with cur := none } c = true → (sp.i.full = false ∨ ∀ l < 32, laneIn c.live l = true → laneIn (actOf c e sp.i.pfx.guard) l = true) →
    (issuePoint sp s).isSome = true) ∧
  (∀ (x : Ctx) (t : State) (p : Part) (c : Crew) (e : Entry), x.parts = [p] → crewAt t p.crew = some c → c.nrec = 0 → entryAt c x.pc = some e → e.mask ≠ 0 →
    retire x t = setCrew t { c with entries := entriesOn t c x.pc x.next }) ∧
  (∀ (s : State) (d : Crew), setCrew s d = { s with crews := (setCrew s d).crews } ∧ (∀ id, id ≠ d.id → crewAt (setCrew s d) id = crewAt s id) ∧
    (∀ c, crewAt s d.id = some c → crewAt (setCrew s d) d.id = some d) ∧ ∀ a, readByte (setCrew s d).mem a = readByte s.mem a)

/-- A step runs the instruction that the fetched bytes decode to, or the event at the head of the agenda (R17, R26, R28, R264, R268). -/
def Obligations.StepRunsDecoded : Prop :=
  (∀ (s t : State) (rest : List Act) (core q w lit len : Nat) (c : Crew) (e : Entry) (k : State),
    s.agenda = .issue core q :: rest → selectCrew { s with agenda := rest, progress := true } core q = some (c, e) →
    k = modCore { s with agenda := rest, progress := true } core (fun k => { k with rr := k.rr.set q c.slot }) → fetchInstr k c e.pc = (.word w lit len, t) →
    (∀ i, decodeWord w lit = .ok i → step s = finish (exec i { t with cur := some ⟨c.id, e.pc, len, BitVec.ofNat 32 w, BitVec.ofNat 32 lit⟩ })) ∧
    (∀ y, decodeWord w lit = .error y → step s = finish (exec (.illegalInstruction (BitVec.ofNat 32 w) (BitVec.ofNat 32 lit) len y)
      { t with cur := some ⟨c.id, e.pc, len, BitVec.ofNat 32 w, BitVec.ofNat 32 lit⟩ }))) ∧
  (∀ (s : State) (rest : List Act) (i : Instr) (u : Nat), s.agenda = .event i u :: rest →
    step s = finish (exec i { s with agenda := rest, unit := u, cur := none, progress := true })) ∧
  (∀ t : State, finish (.next t) = .next (settle { t with cur := none })) ∧
  (∀ (s t : State) (who : WalkFor) (core pasid va pk : Nat) (unc priv sync : Bool) (k : CoreSt), xlateFor s who core pasid va .fetch priv = (.hit pk unc, t) →
    pk % 256 = va % 256 → pinnedElsewhere t core (pk / 256) = false → linkBars t core (pk / 256) = false →
    hostBars t false ((List.range 4).map (pk / 256 * 4 + ·)) = [] → coreAt t core = some k →
    k.icache.find? (fun l => l.pasid == pasid && l.line == va / 256) = none → homePoison t (pk / 256) = 0 →
    ∃ t', fetchFrom s who sync core pasid priv va 1 = (.bytes [readByte t.mem pk], t'))

/-- No step faults, and no step that the machine chooses by itself refuses (R8, R29, R320). -/
def Obligations.StepGoesOn : Prop :=
  (∀ s : State, (∃ t, step s = .next t) ∨ step s = .refused .noIssuingCrew) ∧
  (∀ (s : State) (rest : List Act) (core q : Nat), (s.crews.map (·.id)).Nodup → s.agenda = .issue core q :: rest → ∃ t, step s = .next t) ∧
  (∀ (s : State) (rest : List Act) (die isl : Nat), s.agenda = .islandCycle die isl :: rest → ∃ t, step s = .next t) ∧
  (∀ s : State, (s.crews.map (·.id)).Nodup → s.agenda = [] → ∃ t, step s = .next t) ∧
  (∀ (i : Instr) (s : State), i.encoded = false → (∀ w l n y, i ≠ .illegalInstruction w l n y) → ∃ t, exec i s = .next t)

/-- Every step keeps home memory in its canonical form (R44, R71, R79). -/
def Obligations.MemoryStaysCanonical : Prop :=
  ∀ s t : State, s.homeWf = true → step s = .next t → t.homeWf = true

/-- Decoding an encoded instruction gives it back, and only an instruction's own bytes decode to it (R17, R18, R20, R21, R22, R23, R24, R25, R26, R28). -/
def Obligations.DecodeEncode : Prop :=
  (∀ i : Instr, i.wellFormed = true → i.encoded = true → decodeBytes (encodeBytes i) = .ok (i, (encodeBytes i).length)) ∧
  (∀ (bs : List Byte) (i : Instr) (n : Nat), decodeBytes bs = .ok (i, n) → i.wellFormed = true ∧ i.encoded = true ∧ encodeBytes i = bs.take n)

/-- Words that the spec writes out decode to the instructions it names (R24, R26, R28, R115, R177, R228, R229, R230). -/
def Obligations.DecodeWords : Prop :=
  decodeTableWord 16 0x2458 = some (.fadd16 2 9) ∧
  decodeTableWord 32 0x01403831 = some (.baroInit ⟨false, .lane, ⟨false, 3⟩⟩ 20) ∧
  decodeTableWord 32 0x0540383D = some (.baroArrive ⟨false, .block, ⟨false, 3⟩⟩ 20) ∧
  decodeTableWord 32 0x09403831 = some (.baroWait ⟨false, .lane, ⟨false, 3⟩⟩ 20) ∧
  decodeTableWord 32 0x5001BBB5 = some (.qopPop ⟨false, .crew, ⟨false, 3⟩⟩ 4 0 6) ∧
  decodeTableWord 32 0x90703BB1 = some (.qopDem ⟨false, .lane, ⟨false, 3⟩⟩ 4 7) ∧
  decodeTableWord 32 0xD0023BB1 = some (.qopStat ⟨false, .lane, ⟨false, 3⟩⟩ 4 8) ∧
  decodeTableWord 32 0x00000001 = none ∧ decodeTableWord 32 0x00003DB1 = none

/-- What reset leaves (R82, R140, R221, R347, R370).  The model's choices: no task, block or crew and no program at reset (log entry 5), and the fields of queue registers and the fuses (log entry 8). -/
def Obligations.ResetState : Prop :=
  (∀ core < 96, ∃ k, coreAt State.reset core = some k ∧ k.quantum = 0x040 ∧ k.stackBase = 0 ∧ k.ageLimit = 0x1000 ∧ k.pinPolicy = 0 ∧ k.traceCtl = 0 ∧
    k.traceFilter = 0xFFFF ∧ k.traceSample = 0 ∧ k.replayCtl = 1 ∧ (∀ q < 16, (queueAt State.reset core q).bound = false)) ∧
  (∀ die < 2, ∃ d, dieAt State.reset die = some d ∧ d.pasidBase = 0 ∧ d.fenced = false ∧ d.trace.ctl = 0 ∧ d.sqCtl = List.replicate 16 0x100 ∧
    d.scPart.getD 0 0 = 0x1FFFF ∧ d.enckeCtl = 0x40) ∧
  (∀ die < 2, ∀ code < 20, ∃ i, isleAt State.reset die code = some i ∧ i.pasid = none) ∧
  State.reset.tasks = [] ∧ State.reset.blocks = [] ∧ State.reset.crews = [] ∧ State.reset.boot.steps = List.replicate 6 0 ∧ State.reset.boot.linkUp = false ∧
  State.reset.memoryWf = true ∧ ∀ a, readByte State.reset.mem a = 0
end

