-- ==== Sys2Proof/Laws/Encoding.lean ====
section
/-! SUPPORT. Lemmas over the encoder and the decoder: a word built from fields gives them back, and an
R-format instruction decodes to itself. -/

namespace Sys2Proof
namespace Laws.Encoding

/-- A lead field fills bits 0 to 6, and bit 0 is 1 (R19). -/
theorem pcode_lt (x : Pfx) : x.code < 128 ∧ x.code % 2 = 1 := by
  obtain ⟨st, sc, ⟨n, g⟩⟩ := x
  unfold Pfx.code Guard.code Scope.code
  have := g.isLt
  cases st <;> cases sc <;> cases n <;> simp <;> omega

/-- The lead field is read back from a word whose other bits are anything (R19). -/
theorem pfx_code (x : Pfx) (r : Nat) : pfxOf (x.code + 128 * r) = x := by
  obtain ⟨st, sc, ⟨n, g⟩⟩ := x
  have hg := g.isLt
  have e1 : field (Pfx.code ⟨st, sc, ⟨n, g⟩⟩ + 128 * r) 1 1 = st.toNat := by
    unfold field Pfx.code Guard.code Scope.code; cases st <;> cases sc <;> cases n <;> simp <;> omega
  have e2 : field (Pfx.code ⟨st, sc, ⟨n, g⟩⟩ + 128 * r) 2 2 = sc.code := by
    unfold field Pfx.code Guard.code Scope.code; cases st <;> cases sc <;> cases n <;> simp <;> omega
  have e3 : field (Pfx.code ⟨st, sc, ⟨n, g⟩⟩ + 128 * r) 6 1 = n.toNat := by
    unfold field Pfx.code Guard.code Scope.code; cases st <;> cases sc <;> cases n <;> simp <;> omega
  have e4 : field (Pfx.code ⟨st, sc, ⟨n, g⟩⟩ + 128 * r) 4 2 = g.toNat := by
    unfold field Pfx.code Guard.code Scope.code; cases st <;> cases sc <;> cases n <;> simp <;> omega
  unfold pfxOf bits
  rw [e1, e2, e3, e4]
  cases st <;> cases sc <;> cases n <;> simp [Scope.code, scopeOf]

/-- What a 32-bit word made of the given fields holds (R18-R21). -/
structure W32 (w : Nat) (x : Pfx) (mj d a hi : Nat) : Prop where
  odd : field w 0 1 = 1
  fmj : field w 7 7 = mj
  fd : field w 14 6 = d
  fa : field w 20 6 = a
  fhi : field w 26 6 = hi
  px : pfxOf w = x
  lt : w < 2 ^ 32
  raw : w = x.code + 128 * mj + 2 ^ 14 * d + 2 ^ 20 * a + 2 ^ 26 * hi

/-- A word built from fields holds them (R18-R21). -/
theorem w32_fields (x : Pfx) (mj d a hi : Nat) (h1 : mj < 128) (h2 : d < 64) (h3 : a < 64) (h4 : hi < 64) :
    W32 (x.code + 2 ^ 7 * mj + 2 ^ 14 * d + 2 ^ 20 * a + 2 ^ 26 * hi) x mj d a hi := by
  have hx := pcode_lt x
  refine ⟨?_, ?_, ?_, ?_, ?_, ?_, ?_, ?_⟩
  · unfold field; omega
  · unfold field; omega
  · unfold field; omega
  · unfold field; omega
  · unfold field; omega
  · have e : x.code + 2 ^ 7 * mj + 2 ^ 14 * d + 2 ^ 20 * a + 2 ^ 26 * hi = x.code + 128 * (mj + 2 ^ 7 * d + 2 ^ 13 * a + 2 ^ 19 * hi) := by omega
    rw [e]; exact pfx_code x _
  · omega
  · omega

/-- Halfwords are laid out low byte first (R17). -/
theorem leNat_half (h1 h2 : Nat) (a : h1 < 65536) (b : h2 < 65536) (r : List Nat) :
    leNat ((halfBytes (h1 :: h2 :: r)).take 4) = h1 + 65536 * h2 ∧ leNat ((halfBytes (h1 :: h2 :: r)).take 2) = h1 ∧
    (halfBytes (h1 :: h2 :: r)).drop 4 = halfBytes r := by
  simp [halfBytes, leNat, BitVec.toNat_ofNat]
  omega

/-- A 32-bit word and its literal decode to what `decode32` reads from the fields. -/
theorem decode_w32 (x : Pfx) (mj d a hi : Nat) (lit : Option Nat) (h1 : mj < 128) (h2 : d < 64) (h3 : a < 64) (h4 : hi < 64)
    (hl : ∀ l, lit = some l → l < 2 ^ 32)
    (hn : ∀ w, W32 w x mj d a hi → instrLength w = if lit.isSome then 8 else 4) {i : Instr}
    (hd : ∀ w, W32 w x mj d a hi → decode32 w (lit.getD 0) = .ok i) :
    decodeBytes (halfBytes (w32 x mj d a hi lit)) = .ok (i, (halfBytes (w32 x mj d a hi lit)).length) := by
  have hw := w32_fields x mj d a hi h1 h2 h3 h4
  have hx := pcode_lt x
  generalize hW : x.code + 2 ^ 7 * mj + 2 ^ 14 * d + 2 ^ 20 * a + 2 ^ 26 * hi = w at hw
  have hn := hn w hw
  have hd := hd w hw
  have hlt := hw.lt
  have hodd : w % 2 = 1 := by have := hw.odd; unfold field at this; simpa using this
  have e : w32 x mj d a hi lit = w % 65536 :: w / 65536 :: litHalves lit := by unfold w32; simp only [hW]; rfl
  rw [e]
  obtain ⟨q1, q2, q3⟩ := leNat_half (w % 65536) (w / 65536) (by omega) (by omega) (litHalves lit)
  have q1' : w % 65536 + 65536 * (w / 65536) = w := by omega
  unfold decodeBytes
  rw [q1, q2, q3, q1', hn]
  have : ¬ (w % 65536 % 2 = 0) := by omega
  simp only [this, if_false]
  cases lit with
  | none =>
    simp [litHalves, halfBytes]
    unfold decodeWord
    simp only [Option.getD] at hd
    rw [hw.odd, hd]; simp
  | some l =>
    have hl := hl l rfl
    have q4 : leNat (List.take 4 (halfBytes (litHalves (some l)))) = l := by
      have := (leNat_half (l % 65536) (l / 65536) (by omega) (by omega) []).1
      simp only [litHalves]; rw [this]; omega
    have q5 : (halfBytes (w % 65536 :: w / 65536 :: litHalves (some l))).length = 8 := by simp [litHalves, halfBytes]
    simp only [q5, q4, Option.isSome, if_true]
    unfold decodeWord
    simp only [Option.getD] at hd
    simp [hw.odd, hd]

/-- A bit vector is below its width. -/
theorem bvlt {n : Nat} (x : BitVec n) : x.toNat < 2 ^ n := x.isLt
/-- A bit vector from its own number. -/
theorem ofNat_toNat' {n : Nat} (x : BitVec n) : BitVec.ofNat n x.toNat = x := by simp

/-- A source code fits its field (R21). -/
theorem src_code_lt (b : Src) : b.code < 64 := by cases b <;> simp [Src.code]; exact (by rename_i r; exact r.isLt)
/-- A literal fits one word (R22). -/
theorem src_lit_lt (b : Src) : ∀ l, b.litWord = some l → l < 2 ^ 32 := by
  cases b <;> simp [Src.litWord]
  exact (by rename_i r; exact r.isLt)

/-- The vb operand is read back (R21, R22). -/
theorem src_of {w : Nat} {x : Pfx} {mj d a : Nat} {b : Src} (hb : b.wf = true) (h : W32 w x mj d a b.code) :
    srcOf w (b.litWord.getD 0) = b := by
  unfold srcOf
  rw [h.fhi]
  cases b with
  | lit v => simp [Src.code, Src.litWord]
  | reg c =>
    have : c.toNat ≠ 63 := by
      intro hc; simp [Src.wf] at hb; apply hb; apply BitVec.eq_of_toNat_eq; simpa using hc
    simp only [Src.code, this, if_false]
    unfold bits; rw [h.fhi]; simp [Src.code]

/-- Length where vb decides on a literal (R22). -/
theorem len_src {w : Nat} {x : Pfx} {mj d a : Nat} {b : Src} (hb : b.wf = true) (h : W32 w x mj d a b.code) (hm : litByVb.contains mj = true)
    (hm2 : litAlways.contains mj = false) : instrLength w = if b.litWord.isSome then 8 else 4 := by
  unfold instrLength
  rw [h.odd, h.fmj, h.fhi, hm, hm2]
  cases b with
  | lit v => simp [Src.code, Src.litWord]
  | reg c =>
    have : c.toNat ≠ 63 := by
      intro hc; simp [Src.wf] at hb; apply hb; apply BitVec.eq_of_toNat_eq; simpa using hc
    simp [Src.code, this, Src.litWord]

/-- Length of a major without literal (R22). -/
theorem len_none {w : Nat} {x : Pfx} {mj d a hi : Nat} (h : W32 w x mj d a hi) (hm : litByVb.contains mj = false)
    (hm2 : litAlways.contains mj = false) : instrLength w = 4 := by
  unfold instrLength
  rw [h.odd, h.fmj, hm, hm2]; simp
/-- The same in the form `decode_w32` asks for. -/
theorem len_none' {w : Nat} {x : Pfx} {mj d a hi : Nat} (h : W32 w x mj d a hi) (hm : litByVb.contains mj = false)
    (hm2 : litAlways.contains mj = false) : instrLength w = if (none : Option Nat).isSome then 8 else 4 := by
  simpa using len_none h hm hm2

/-- Decode of the encoded word for every R-format instruction (R20). -/
theorem decR_ok (mk : Pfx → RCode → RCode → Src → Instr) (ok : Scope → Bool) (mj : Nat) (x : Pfx) (d a : RCode) (b : Src)
   (hb : b.wf = true) (hs : ok x.scope = true) (h1 : mj < 128) (hm : litByVb.contains mj = true) (hm2 : litAlways.contains mj = false)
   (hdec : ∀ w l, field w 7 7 = mj → decode32 w l = decR mk ok w l) :
   decodeBytes (halfBytes (w32 x mj d.toNat a.toNat b.code b.litWord)) =
     .ok (mk x d a b, (halfBytes (w32 x mj d.toNat a.toNat b.code b.litWord)).length) := by
  refine decode_w32 x mj _ _ _ _ h1 d.isLt a.isLt (src_code_lt b) (src_lit_lt b) (fun w h => len_src hb h hm hm2) (fun w h => ?_)
  rw [hdec w _ h.fmj]
  unfold decR inScope fd fa
  rw [h.px, hs, if_pos rfl, src_of hb h]
  unfold bits
  rw [h.fd, h.fa]; simp

end Laws.Encoding
end Sys2Proof
end

