-- ==== Sys2Proof/Laws/State.lean ====
section
/-! SUPPORT. Every field that an update of a crew, block, task, core or die leaves alone. -/

namespace Sys2Proof.Machine

@[simp] theorem setCrew_mem (s : State) (c : Crew) : (setCrew s c).mem = s.mem := rfl
@[simp] theorem setCrew_wclk (s : State) (c : Crew) : (setCrew s c).wclk = s.wclk := rfl
@[simp] theorem setCrew_posted (s : State) (c : Crew) : (setCrew s c).posted = s.posted := rfl
@[simp] theorem setCrew_poison (s : State) (c : Crew) : (setCrew s c).poison = s.poison := rfl
@[simp] theorem setCrew_blocks (s : State) (c : Crew) : (setCrew s c).blocks = s.blocks := rfl
@[simp] theorem setCrew_tasks (s : State) (c : Crew) : (setCrew s c).tasks = s.tasks := rfl
@[simp] theorem setCrew_cores (s : State) (c : Crew) : (setCrew s c).cores = s.cores := rfl
@[simp] theorem setCrew_dies (s : State) (c : Crew) : (setCrew s c).dies = s.dies := rfl
@[simp] theorem setCrew_flights (s : State) (c : Crew) : (setCrew s c).flights = s.flights := rfl
@[simp] theorem setCrew_walks (s : State) (c : Crew) : (setCrew s c).walks = s.walks := rfl
@[simp] theorem setCrew_copies (s : State) (c : Crew) : (setCrew s c).copies = s.copies := rfl
@[simp] theorem setCrew_pageReqs (s : State) (c : Crew) : (setCrew s c).pageReqs = s.pageReqs := rfl
@[simp] theorem setCrew_priOff (s : State) (c : Crew) : (setCrew s c).priOff = s.priOff := rfl
@[simp] theorem setCrew_shootdowns (s : State) (c : Crew) : (setCrew s c).shootdowns = s.shootdowns := rfl
@[simp] theorem setCrew_icinvs (s : State) (c : Crew) : (setCrew s c).icinvs = s.icinvs := rfl
@[simp] theorem setCrew_hostTc (s : State) (c : Crew) : (setCrew s c).hostTc = s.hostTc := rfl
@[simp] theorem setCrew_hostHeld (s : State) (c : Crew) : (setCrew s c).hostHeld = s.hostHeld := rfl
@[simp] theorem setCrew_biWait (s : State) (c : Crew) : (setCrew s c).biWait = s.biWait := rfl
@[simp] theorem setCrew_mesi (s : State) (c : Crew) : (setCrew s c).mesi = s.mesi := rfl
@[simp] theorem setCrew_hdm (s : State) (c : Crew) : (setCrew s c).hdm = s.hdm := rfl
@[simp] theorem setCrew_rangeBase (s : State) (c : Crew) : (setCrew s c).rangeBase = s.rangeBase := rfl
@[simp] theorem setCrew_link (s : State) (c : Crew) : (setCrew s c).link = s.link := rfl
@[simp] theorem setCrew_traceQ (s : State) (c : Crew) : (setCrew s c).traceQ = s.traceQ := rfl
@[simp] theorem setCrew_isles (s : State) (c : Crew) : (setCrew s c).isles = s.isles := rfl
@[simp] theorem setCrew_fuses (s : State) (c : Crew) : (setCrew s c).fuses = s.fuses := rfl
@[simp] theorem setCrew_boot (s : State) (c : Crew) : (setCrew s c).boot = s.boot := rfl
@[simp] theorem setCrew_mbox (s : State) (c : Crew) : (setCrew s c).mbox = s.mbox := rfl
@[simp] theorem setCrew_region (s : State) (c : Crew) : (setCrew s c).region = s.region := rfl
@[simp] theorem setCrew_taskCount (s : State) (c : Crew) : (setCrew s c).taskCount = s.taskCount := rfl
@[simp] theorem setCrew_relClock (s : State) (c : Crew) : (setCrew s c).relClock = s.relClock := rfl
@[simp] theorem setCrew_predClk (s : State) (c : Crew) : (setCrew s c).predClk = s.predClk := rfl
@[simp] theorem setCrew_hostCount (s : State) (c : Crew) : (setCrew s c).hostCount = s.hostCount := rfl
@[simp] theorem setCrew_hostClock (s : State) (c : Crew) : (setCrew s c).hostClock = s.hostClock := rfl
@[simp] theorem setCrew_nextId (s : State) (c : Crew) : (setCrew s c).nextId = s.nextId := rfl
@[simp] theorem setCrew_free (s : State) (c : Crew) : (setCrew s c).free = s.free := rfl
@[simp] theorem setCrew_ticks (s : State) (c : Crew) : (setCrew s c).ticks = s.ticks := rfl
@[simp] theorem setCrew_time (s : State) (c : Crew) : (setCrew s c).time = s.time := rfl
@[simp] theorem setCrew_time1 (s : State) (c : Crew) : (setCrew s c).time1 = s.time1 := rfl
@[simp] theorem setCrew_slewed (s : State) (c : Crew) : (setCrew s c).slewed = s.slewed := rfl
@[simp] theorem setCrew_stamp (s : State) (c : Crew) : (setCrew s c).stamp = s.stamp := rfl
@[simp] theorem setCrew_era (s : State) (c : Crew) : (setCrew s c).era = s.era := rfl
@[simp] theorem setCrew_out (s : State) (c : Crew) : (setCrew s c).out = s.out := rfl
@[simp] theorem setCrew_progress (s : State) (c : Crew) : (setCrew s c).progress = s.progress := rfl
@[simp] theorem setCrew_agenda (s : State) (c : Crew) : (setCrew s c).agenda = s.agenda := rfl
@[simp] theorem setCrew_unit (s : State) (c : Crew) : (setCrew s c).unit = s.unit := rfl
@[simp] theorem setCrew_cur (s : State) (c : Crew) : (setCrew s c).cur = s.cur := rfl

@[simp] theorem modCrew_mem (s : State) (id : Nat) (f : Crew → Crew) : (modCrew s id f).mem = s.mem := rfl
@[simp] theorem modCrew_wclk (s : State) (id : Nat) (f : Crew → Crew) : (modCrew s id f).wclk = s.wclk := rfl
@[simp] theorem modCrew_posted (s : State) (id : Nat) (f : Crew → Crew) : (modCrew s id f).posted = s.posted := rfl
@[simp] theorem modCrew_poison (s : State) (id : Nat) (f : Crew → Crew) : (modCrew s id f).poison = s.poison := rfl
@[simp] theorem modCrew_blocks (s : State) (id : Nat) (f : Crew → Crew) : (modCrew s id f).blocks = s.blocks := rfl
@[simp] theorem modCrew_tasks (s : State) (id : Nat) (f : Crew → Crew) : (modCrew s id f).tasks = s.tasks := rfl
@[simp] theorem modCrew_cores (s : State) (id : Nat) (f : Crew → Crew) : (modCrew s id f).cores = s.cores := rfl
@[simp] theorem modCrew_dies (s : State) (id : Nat) (f : Crew → Crew) : (modCrew s id f).dies = s.dies := rfl
@[simp] theorem modCrew_flights (s : State) (id : Nat) (f : Crew → Crew) : (modCrew s id f).flights = s.flights := rfl
@[simp] theorem modCrew_walks (s : State) (id : Nat) (f : Crew → Crew) : (modCrew s id f).walks = s.walks := rfl
@[simp] theorem modCrew_copies (s : State) (id : Nat) (f : Crew → Crew) : (modCrew s id f).copies = s.copies := rfl
@[simp] theorem modCrew_pageReqs (s : State) (id : Nat) (f : Crew → Crew) : (modCrew s id f).pageReqs = s.pageReqs := rfl
@[simp] theorem modCrew_priOff (s : State) (id : Nat) (f : Crew → Crew) : (modCrew s id f).priOff = s.priOff := rfl
@[simp] theorem modCrew_shootdowns (s : State) (id : Nat) (f : Crew → Crew) : (modCrew s id f).shootdowns = s.shootdowns := rfl
@[simp] theorem modCrew_icinvs (s : State) (id : Nat) (f : Crew → Crew) : (modCrew s id f).icinvs = s.icinvs := rfl
@[simp] theorem modCrew_hostTc (s : State) (id : Nat) (f : Crew → Crew) : (modCrew s id f).hostTc = s.hostTc := rfl
@[simp] theorem modCrew_hostHeld (s : State) (id : Nat) (f : Crew → Crew) : (modCrew s id f).hostHeld = s.hostHeld := rfl
@[simp] theorem modCrew_biWait (s : State) (id : Nat) (f : Crew → Crew) : (modCrew s id f).biWait = s.biWait := rfl
@[simp] theorem modCrew_mesi (s : State) (id : Nat) (f : Crew → Crew) : (modCrew s id f).mesi = s.mesi := rfl
@[simp] theorem modCrew_hdm (s : State) (id : Nat) (f : Crew → Crew) : (modCrew s id f).hdm = s.hdm := rfl
@[simp] theorem modCrew_rangeBase (s : State) (id : Nat) (f : Crew → Crew) : (modCrew s id f).rangeBase = s.rangeBase := rfl
@[simp] theorem modCrew_link (s : State) (id : Nat) (f : Crew → Crew) : (modCrew s id f).link = s.link := rfl
@[simp] theorem modCrew_traceQ (s : State) (id : Nat) (f : Crew → Crew) : (modCrew s id f).traceQ = s.traceQ := rfl
@[simp] theorem modCrew_isles (s : State) (id : Nat) (f : Crew → Crew) : (modCrew s id f).isles = s.isles := rfl
@[simp] theorem modCrew_fuses (s : State) (id : Nat) (f : Crew → Crew) : (modCrew s id f).fuses = s.fuses := rfl
@[simp] theorem modCrew_boot (s : State) (id : Nat) (f : Crew → Crew) : (modCrew s id f).boot = s.boot := rfl
@[simp] theorem modCrew_mbox (s : State) (id : Nat) (f : Crew → Crew) : (modCrew s id f).mbox = s.mbox := rfl
@[simp] theorem modCrew_region (s : State) (id : Nat) (f : Crew → Crew) : (modCrew s id f).region = s.region := rfl
@[simp] theorem modCrew_taskCount (s : State) (id : Nat) (f : Crew → Crew) : (modCrew s id f).taskCount = s.taskCount := rfl
@[simp] theorem modCrew_relClock (s : State) (id : Nat) (f : Crew → Crew) : (modCrew s id f).relClock = s.relClock := rfl
@[simp] theorem modCrew_predClk (s : State) (id : Nat) (f : Crew → Crew) : (modCrew s id f).predClk = s.predClk := rfl
@[simp] theorem modCrew_hostCount (s : State) (id : Nat) (f : Crew → Crew) : (modCrew s id f).hostCount = s.hostCount := rfl
@[simp] theorem modCrew_hostClock (s : State) (id : Nat) (f : Crew → Crew) : (modCrew s id f).hostClock = s.hostClock := rfl
@[simp] theorem modCrew_nextId (s : State) (id : Nat) (f : Crew → Crew) : (modCrew s id f).nextId = s.nextId := rfl
@[simp] theorem modCrew_free (s : State) (id : Nat) (f : Crew → Crew) : (modCrew s id f).free = s.free := rfl
@[simp] theorem modCrew_ticks (s : State) (id : Nat) (f : Crew → Crew) : (modCrew s id f).ticks = s.ticks := rfl
@[simp] theorem modCrew_time (s : State) (id : Nat) (f : Crew → Crew) : (modCrew s id f).time = s.time := rfl
@[simp] theorem modCrew_time1 (s : State) (id : Nat) (f : Crew → Crew) : (modCrew s id f).time1 = s.time1 := rfl
@[simp] theorem modCrew_slewed (s : State) (id : Nat) (f : Crew → Crew) : (modCrew s id f).slewed = s.slewed := rfl
@[simp] theorem modCrew_stamp (s : State) (id : Nat) (f : Crew → Crew) : (modCrew s id f).stamp = s.stamp := rfl
@[simp] theorem modCrew_era (s : State) (id : Nat) (f : Crew → Crew) : (modCrew s id f).era = s.era := rfl
@[simp] theorem modCrew_out (s : State) (id : Nat) (f : Crew → Crew) : (modCrew s id f).out = s.out := rfl
@[simp] theorem modCrew_progress (s : State) (id : Nat) (f : Crew → Crew) : (modCrew s id f).progress = s.progress := rfl
@[simp] theorem modCrew_agenda (s : State) (id : Nat) (f : Crew → Crew) : (modCrew s id f).agenda = s.agenda := rfl
@[simp] theorem modCrew_unit (s : State) (id : Nat) (f : Crew → Crew) : (modCrew s id f).unit = s.unit := rfl
@[simp] theorem modCrew_cur (s : State) (id : Nat) (f : Crew → Crew) : (modCrew s id f).cur = s.cur := rfl

@[simp] theorem setBlock_mem (s : State) (b : Block) : (setBlock s b).mem = s.mem := rfl
@[simp] theorem setBlock_wclk (s : State) (b : Block) : (setBlock s b).wclk = s.wclk := rfl
@[simp] theorem setBlock_posted (s : State) (b : Block) : (setBlock s b).posted = s.posted := rfl
@[simp] theorem setBlock_poison (s : State) (b : Block) : (setBlock s b).poison = s.poison := rfl
@[simp] theorem setBlock_crews (s : State) (b : Block) : (setBlock s b).crews = s.crews := rfl
@[simp] theorem setBlock_tasks (s : State) (b : Block) : (setBlock s b).tasks = s.tasks := rfl
@[simp] theorem setBlock_cores (s : State) (b : Block) : (setBlock s b).cores = s.cores := rfl
@[simp] theorem setBlock_dies (s : State) (b : Block) : (setBlock s b).dies = s.dies := rfl
@[simp] theorem setBlock_flights (s : State) (b : Block) : (setBlock s b).flights = s.flights := rfl
@[simp] theorem setBlock_walks (s : State) (b : Block) : (setBlock s b).walks = s.walks := rfl
@[simp] theorem setBlock_copies (s : State) (b : Block) : (setBlock s b).copies = s.copies := rfl
@[simp] theorem setBlock_pageReqs (s : State) (b : Block) : (setBlock s b).pageReqs = s.pageReqs := rfl
@[simp] theorem setBlock_priOff (s : State) (b : Block) : (setBlock s b).priOff = s.priOff := rfl
@[simp] theorem setBlock_shootdowns (s : State) (b : Block) : (setBlock s b).shootdowns = s.shootdowns := rfl
@[simp] theorem setBlock_icinvs (s : State) (b : Block) : (setBlock s b).icinvs = s.icinvs := rfl
@[simp] theorem setBlock_hostTc (s : State) (b : Block) : (setBlock s b).hostTc = s.hostTc := rfl
@[simp] theorem setBlock_hostHeld (s : State) (b : Block) : (setBlock s b).hostHeld = s.hostHeld := rfl
@[simp] theorem setBlock_biWait (s : State) (b : Block) : (setBlock s b).biWait = s.biWait := rfl
@[simp] theorem setBlock_mesi (s : State) (b : Block) : (setBlock s b).mesi = s.mesi := rfl
@[simp] theorem setBlock_hdm (s : State) (b : Block) : (setBlock s b).hdm = s.hdm := rfl
@[simp] theorem setBlock_rangeBase (s : State) (b : Block) : (setBlock s b).rangeBase = s.rangeBase := rfl
@[simp] theorem setBlock_link (s : State) (b : Block) : (setBlock s b).link = s.link := rfl
@[simp] theorem setBlock_traceQ (s : State) (b : Block) : (setBlock s b).traceQ = s.traceQ := rfl
@[simp] theorem setBlock_isles (s : State) (b : Block) : (setBlock s b).isles = s.isles := rfl
@[simp] theorem setBlock_fuses (s : State) (b : Block) : (setBlock s b).fuses = s.fuses := rfl
@[simp] theorem setBlock_boot (s : State) (b : Block) : (setBlock s b).boot = s.boot := rfl
@[simp] theorem setBlock_mbox (s : State) (b : Block) : (setBlock s b).mbox = s.mbox := rfl
@[simp] theorem setBlock_region (s : State) (b : Block) : (setBlock s b).region = s.region := rfl
@[simp] theorem setBlock_taskCount (s : State) (b : Block) : (setBlock s b).taskCount = s.taskCount := rfl
@[simp] theorem setBlock_relClock (s : State) (b : Block) : (setBlock s b).relClock = s.relClock := rfl
@[simp] theorem setBlock_predClk (s : State) (b : Block) : (setBlock s b).predClk = s.predClk := rfl
@[simp] theorem setBlock_hostCount (s : State) (b : Block) : (setBlock s b).hostCount = s.hostCount := rfl
@[simp] theorem setBlock_hostClock (s : State) (b : Block) : (setBlock s b).hostClock = s.hostClock := rfl
@[simp] theorem setBlock_nextId (s : State) (b : Block) : (setBlock s b).nextId = s.nextId := rfl
@[simp] theorem setBlock_free (s : State) (b : Block) : (setBlock s b).free = s.free := rfl
@[simp] theorem setBlock_ticks (s : State) (b : Block) : (setBlock s b).ticks = s.ticks := rfl
@[simp] theorem setBlock_time (s : State) (b : Block) : (setBlock s b).time = s.time := rfl
@[simp] theorem setBlock_time1 (s : State) (b : Block) : (setBlock s b).time1 = s.time1 := rfl
@[simp] theorem setBlock_slewed (s : State) (b : Block) : (setBlock s b).slewed = s.slewed := rfl
@[simp] theorem setBlock_stamp (s : State) (b : Block) : (setBlock s b).stamp = s.stamp := rfl
@[simp] theorem setBlock_era (s : State) (b : Block) : (setBlock s b).era = s.era := rfl
@[simp] theorem setBlock_out (s : State) (b : Block) : (setBlock s b).out = s.out := rfl
@[simp] theorem setBlock_progress (s : State) (b : Block) : (setBlock s b).progress = s.progress := rfl
@[simp] theorem setBlock_agenda (s : State) (b : Block) : (setBlock s b).agenda = s.agenda := rfl
@[simp] theorem setBlock_unit (s : State) (b : Block) : (setBlock s b).unit = s.unit := rfl
@[simp] theorem setBlock_cur (s : State) (b : Block) : (setBlock s b).cur = s.cur := rfl

@[simp] theorem modBlock_mem (s : State) (id : Nat) (f : Block → Block) : (modBlock s id f).mem = s.mem := rfl
@[simp] theorem modBlock_wclk (s : State) (id : Nat) (f : Block → Block) : (modBlock s id f).wclk = s.wclk := rfl
@[simp] theorem modBlock_posted (s : State) (id : Nat) (f : Block → Block) : (modBlock s id f).posted = s.posted := rfl
@[simp] theorem modBlock_poison (s : State) (id : Nat) (f : Block → Block) : (modBlock s id f).poison = s.poison := rfl
@[simp] theorem modBlock_crews (s : State) (id : Nat) (f : Block → Block) : (modBlock s id f).crews = s.crews := rfl
@[simp] theorem modBlock_tasks (s : State) (id : Nat) (f : Block → Block) : (modBlock s id f).tasks = s.tasks := rfl
@[simp] theorem modBlock_cores (s : State) (id : Nat) (f : Block → Block) : (modBlock s id f).cores = s.cores := rfl
@[simp] theorem modBlock_dies (s : State) (id : Nat) (f : Block → Block) : (modBlock s id f).dies = s.dies := rfl
@[simp] theorem modBlock_flights (s : State) (id : Nat) (f : Block → Block) : (modBlock s id f).flights = s.flights := rfl
@[simp] theorem modBlock_walks (s : State) (id : Nat) (f : Block → Block) : (modBlock s id f).walks = s.walks := rfl
@[simp] theorem modBlock_copies (s : State) (id : Nat) (f : Block → Block) : (modBlock s id f).copies = s.copies := rfl
@[simp] theorem modBlock_pageReqs (s : State) (id : Nat) (f : Block → Block) : (modBlock s id f).pageReqs = s.pageReqs := rfl
@[simp] theorem modBlock_priOff (s : State) (id : Nat) (f : Block → Block) : (modBlock s id f).priOff = s.priOff := rfl
@[simp] theorem modBlock_shootdowns (s : State) (id : Nat) (f : Block → Block) : (modBlock s id f).shootdowns = s.shootdowns := rfl
@[simp] theorem modBlock_icinvs (s : State) (id : Nat) (f : Block → Block) : (modBlock s id f).icinvs = s.icinvs := rfl
@[simp] theorem modBlock_hostTc (s : State) (id : Nat) (f : Block → Block) : (modBlock s id f).hostTc = s.hostTc := rfl
@[simp] theorem modBlock_hostHeld (s : State) (id : Nat) (f : Block → Block) : (modBlock s id f).hostHeld = s.hostHeld := rfl
@[simp] theorem modBlock_biWait (s : State) (id : Nat) (f : Block → Block) : (modBlock s id f).biWait = s.biWait := rfl
@[simp] theorem modBlock_mesi (s : State) (id : Nat) (f : Block → Block) : (modBlock s id f).mesi = s.mesi := rfl
@[simp] theorem modBlock_hdm (s : State) (id : Nat) (f : Block → Block) : (modBlock s id f).hdm = s.hdm := rfl
@[simp] theorem modBlock_rangeBase (s : State) (id : Nat) (f : Block → Block) : (modBlock s id f).rangeBase = s.rangeBase := rfl
@[simp] theorem modBlock_link (s : State) (id : Nat) (f : Block → Block) : (modBlock s id f).link = s.link := rfl
@[simp] theorem modBlock_traceQ (s : State) (id : Nat) (f : Block → Block) : (modBlock s id f).traceQ = s.traceQ := rfl
@[simp] theorem modBlock_isles (s : State) (id : Nat) (f : Block → Block) : (modBlock s id f).isles = s.isles := rfl
@[simp] theorem modBlock_fuses (s : State) (id : Nat) (f : Block → Block) : (modBlock s id f).fuses = s.fuses := rfl
@[simp] theorem modBlock_boot (s : State) (id : Nat) (f : Block → Block) : (modBlock s id f).boot = s.boot := rfl
@[simp] theorem modBlock_mbox (s : State) (id : Nat) (f : Block → Block) : (modBlock s id f).mbox = s.mbox := rfl
@[simp] theorem modBlock_region (s : State) (id : Nat) (f : Block → Block) : (modBlock s id f).region = s.region := rfl
@[simp] theorem modBlock_taskCount (s : State) (id : Nat) (f : Block → Block) : (modBlock s id f).taskCount = s.taskCount := rfl
@[simp] theorem modBlock_relClock (s : State) (id : Nat) (f : Block → Block) : (modBlock s id f).relClock = s.relClock := rfl
@[simp] theorem modBlock_predClk (s : State) (id : Nat) (f : Block → Block) : (modBlock s id f).predClk = s.predClk := rfl
@[simp] theorem modBlock_hostCount (s : State) (id : Nat) (f : Block → Block) : (modBlock s id f).hostCount = s.hostCount := rfl
@[simp] theorem modBlock_hostClock (s : State) (id : Nat) (f : Block → Block) : (modBlock s id f).hostClock = s.hostClock := rfl
@[simp] theorem modBlock_nextId (s : State) (id : Nat) (f : Block → Block) : (modBlock s id f).nextId = s.nextId := rfl
@[simp] theorem modBlock_free (s : State) (id : Nat) (f : Block → Block) : (modBlock s id f).free = s.free := rfl
@[simp] theorem modBlock_ticks (s : State) (id : Nat) (f : Block → Block) : (modBlock s id f).ticks = s.ticks := rfl
@[simp] theorem modBlock_time (s : State) (id : Nat) (f : Block → Block) : (modBlock s id f).time = s.time := rfl
@[simp] theorem modBlock_time1 (s : State) (id : Nat) (f : Block → Block) : (modBlock s id f).time1 = s.time1 := rfl
@[simp] theorem modBlock_slewed (s : State) (id : Nat) (f : Block → Block) : (modBlock s id f).slewed = s.slewed := rfl
@[simp] theorem modBlock_stamp (s : State) (id : Nat) (f : Block → Block) : (modBlock s id f).stamp = s.stamp := rfl
@[simp] theorem modBlock_era (s : State) (id : Nat) (f : Block → Block) : (modBlock s id f).era = s.era := rfl
@[simp] theorem modBlock_out (s : State) (id : Nat) (f : Block → Block) : (modBlock s id f).out = s.out := rfl
@[simp] theorem modBlock_progress (s : State) (id : Nat) (f : Block → Block) : (modBlock s id f).progress = s.progress := rfl
@[simp] theorem modBlock_agenda (s : State) (id : Nat) (f : Block → Block) : (modBlock s id f).agenda = s.agenda := rfl
@[simp] theorem modBlock_unit (s : State) (id : Nat) (f : Block → Block) : (modBlock s id f).unit = s.unit := rfl
@[simp] theorem modBlock_cur (s : State) (id : Nat) (f : Block → Block) : (modBlock s id f).cur = s.cur := rfl

@[simp] theorem modTask_mem (s : State) (no : Nat) (f : Task → Task) : (modTask s no f).mem = s.mem := rfl
@[simp] theorem modTask_wclk (s : State) (no : Nat) (f : Task → Task) : (modTask s no f).wclk = s.wclk := rfl
@[simp] theorem modTask_posted (s : State) (no : Nat) (f : Task → Task) : (modTask s no f).posted = s.posted := rfl
@[simp] theorem modTask_poison (s : State) (no : Nat) (f : Task → Task) : (modTask s no f).poison = s.poison := rfl
@[simp] theorem modTask_crews (s : State) (no : Nat) (f : Task → Task) : (modTask s no f).crews = s.crews := rfl
@[simp] theorem modTask_blocks (s : State) (no : Nat) (f : Task → Task) : (modTask s no f).blocks = s.blocks := rfl
@[simp] theorem modTask_cores (s : State) (no : Nat) (f : Task → Task) : (modTask s no f).cores = s.cores := rfl
@[simp] theorem modTask_dies (s : State) (no : Nat) (f : Task → Task) : (modTask s no f).dies = s.dies := rfl
@[simp] theorem modTask_flights (s : State) (no : Nat) (f : Task → Task) : (modTask s no f).flights = s.flights := rfl
@[simp] theorem modTask_walks (s : State) (no : Nat) (f : Task → Task) : (modTask s no f).walks = s.walks := rfl
@[simp] theorem modTask_copies (s : State) (no : Nat) (f : Task → Task) : (modTask s no f).copies = s.copies := rfl
@[simp] theorem modTask_pageReqs (s : State) (no : Nat) (f : Task → Task) : (modTask s no f).pageReqs = s.pageReqs := rfl
@[simp] theorem modTask_priOff (s : State) (no : Nat) (f : Task → Task) : (modTask s no f).priOff = s.priOff := rfl
@[simp] theorem modTask_shootdowns (s : State) (no : Nat) (f : Task → Task) : (modTask s no f).shootdowns = s.shootdowns := rfl
@[simp] theorem modTask_icinvs (s : State) (no : Nat) (f : Task → Task) : (modTask s no f).icinvs = s.icinvs := rfl
@[simp] theorem modTask_hostTc (s : State) (no : Nat) (f : Task → Task) : (modTask s no f).hostTc = s.hostTc := rfl
@[simp] theorem modTask_hostHeld (s : State) (no : Nat) (f : Task → Task) : (modTask s no f).hostHeld = s.hostHeld := rfl
@[simp] theorem modTask_biWait (s : State) (no : Nat) (f : Task → Task) : (modTask s no f).biWait = s.biWait := rfl
@[simp] theorem modTask_mesi (s : State) (no : Nat) (f : Task → Task) : (modTask s no f).mesi = s.mesi := rfl
@[simp] theorem modTask_hdm (s : State) (no : Nat) (f : Task → Task) : (modTask s no f).hdm = s.hdm := rfl
@[simp] theorem modTask_rangeBase (s : State) (no : Nat) (f : Task → Task) : (modTask s no f).rangeBase = s.rangeBase := rfl
@[simp] theorem modTask_link (s : State) (no : Nat) (f : Task → Task) : (modTask s no f).link = s.link := rfl
@[simp] theorem modTask_traceQ (s : State) (no : Nat) (f : Task → Task) : (modTask s no f).traceQ = s.traceQ := rfl
@[simp] theorem modTask_isles (s : State) (no : Nat) (f : Task → Task) : (modTask s no f).isles = s.isles := rfl
@[simp] theorem modTask_fuses (s : State) (no : Nat) (f : Task → Task) : (modTask s no f).fuses = s.fuses := rfl
@[simp] theorem modTask_boot (s : State) (no : Nat) (f : Task → Task) : (modTask s no f).boot = s.boot := rfl
@[simp] theorem modTask_mbox (s : State) (no : Nat) (f : Task → Task) : (modTask s no f).mbox = s.mbox := rfl
@[simp] theorem modTask_region (s : State) (no : Nat) (f : Task → Task) : (modTask s no f).region = s.region := rfl
@[simp] theorem modTask_taskCount (s : State) (no : Nat) (f : Task → Task) : (modTask s no f).taskCount = s.taskCount := rfl
@[simp] theorem modTask_relClock (s : State) (no : Nat) (f : Task → Task) : (modTask s no f).relClock = s.relClock := rfl
@[simp] theorem modTask_predClk (s : State) (no : Nat) (f : Task → Task) : (modTask s no f).predClk = s.predClk := rfl
@[simp] theorem modTask_hostCount (s : State) (no : Nat) (f : Task → Task) : (modTask s no f).hostCount = s.hostCount := rfl
@[simp] theorem modTask_hostClock (s : State) (no : Nat) (f : Task → Task) : (modTask s no f).hostClock = s.hostClock := rfl
@[simp] theorem modTask_nextId (s : State) (no : Nat) (f : Task → Task) : (modTask s no f).nextId = s.nextId := rfl
@[simp] theorem modTask_free (s : State) (no : Nat) (f : Task → Task) : (modTask s no f).free = s.free := rfl
@[simp] theorem modTask_ticks (s : State) (no : Nat) (f : Task → Task) : (modTask s no f).ticks = s.ticks := rfl
@[simp] theorem modTask_time (s : State) (no : Nat) (f : Task → Task) : (modTask s no f).time = s.time := rfl
@[simp] theorem modTask_time1 (s : State) (no : Nat) (f : Task → Task) : (modTask s no f).time1 = s.time1 := rfl
@[simp] theorem modTask_slewed (s : State) (no : Nat) (f : Task → Task) : (modTask s no f).slewed = s.slewed := rfl
@[simp] theorem modTask_stamp (s : State) (no : Nat) (f : Task → Task) : (modTask s no f).stamp = s.stamp := rfl
@[simp] theorem modTask_era (s : State) (no : Nat) (f : Task → Task) : (modTask s no f).era = s.era := rfl
@[simp] theorem modTask_out (s : State) (no : Nat) (f : Task → Task) : (modTask s no f).out = s.out := rfl
@[simp] theorem modTask_progress (s : State) (no : Nat) (f : Task → Task) : (modTask s no f).progress = s.progress := rfl
@[simp] theorem modTask_agenda (s : State) (no : Nat) (f : Task → Task) : (modTask s no f).agenda = s.agenda := rfl
@[simp] theorem modTask_unit (s : State) (no : Nat) (f : Task → Task) : (modTask s no f).unit = s.unit := rfl
@[simp] theorem modTask_cur (s : State) (no : Nat) (f : Task → Task) : (modTask s no f).cur = s.cur := rfl

@[simp] theorem setCore_mem (s : State) (c : CoreSt) : (setCore s c).mem = s.mem := rfl
@[simp] theorem setCore_wclk (s : State) (c : CoreSt) : (setCore s c).wclk = s.wclk := rfl
@[simp] theorem setCore_posted (s : State) (c : CoreSt) : (setCore s c).posted = s.posted := rfl
@[simp] theorem setCore_poison (s : State) (c : CoreSt) : (setCore s c).poison = s.poison := rfl
@[simp] theorem setCore_crews (s : State) (c : CoreSt) : (setCore s c).crews = s.crews := rfl
@[simp] theorem setCore_blocks (s : State) (c : CoreSt) : (setCore s c).blocks = s.blocks := rfl
@[simp] theorem setCore_tasks (s : State) (c : CoreSt) : (setCore s c).tasks = s.tasks := rfl
@[simp] theorem setCore_dies (s : State) (c : CoreSt) : (setCore s c).dies = s.dies := rfl
@[simp] theorem setCore_flights (s : State) (c : CoreSt) : (setCore s c).flights = s.flights := rfl
@[simp] theorem setCore_walks (s : State) (c : CoreSt) : (setCore s c).walks = s.walks := rfl
@[simp] theorem setCore_copies (s : State) (c : CoreSt) : (setCore s c).copies = s.copies := rfl
@[simp] theorem setCore_pageReqs (s : State) (c : CoreSt) : (setCore s c).pageReqs = s.pageReqs := rfl
@[simp] theorem setCore_priOff (s : State) (c : CoreSt) : (setCore s c).priOff = s.priOff := rfl
@[simp] theorem setCore_shootdowns (s : State) (c : CoreSt) : (setCore s c).shootdowns = s.shootdowns := rfl
@[simp] theorem setCore_icinvs (s : State) (c : CoreSt) : (setCore s c).icinvs = s.icinvs := rfl
@[simp] theorem setCore_hostTc (s : State) (c : CoreSt) : (setCore s c).hostTc = s.hostTc := rfl
@[simp] theorem setCore_hostHeld (s : State) (c : CoreSt) : (setCore s c).hostHeld = s.hostHeld := rfl
@[simp] theorem setCore_biWait (s : State) (c : CoreSt) : (setCore s c).biWait = s.biWait := rfl
@[simp] theorem setCore_mesi (s : State) (c : CoreSt) : (setCore s c).mesi = s.mesi := rfl
@[simp] theorem setCore_hdm (s : State) (c : CoreSt) : (setCore s c).hdm = s.hdm := rfl
@[simp] theorem setCore_rangeBase (s : State) (c : CoreSt) : (setCore s c).rangeBase = s.rangeBase := rfl
@[simp] theorem setCore_link (s : State) (c : CoreSt) : (setCore s c).link = s.link := rfl
@[simp] theorem setCore_traceQ (s : State) (c : CoreSt) : (setCore s c).traceQ = s.traceQ := rfl
@[simp] theorem setCore_isles (s : State) (c : CoreSt) : (setCore s c).isles = s.isles := rfl
@[simp] theorem setCore_fuses (s : State) (c : CoreSt) : (setCore s c).fuses = s.fuses := rfl
@[simp] theorem setCore_boot (s : State) (c : CoreSt) : (setCore s c).boot = s.boot := rfl
@[simp] theorem setCore_mbox (s : State) (c : CoreSt) : (setCore s c).mbox = s.mbox := rfl
@[simp] theorem setCore_region (s : State) (c : CoreSt) : (setCore s c).region = s.region := rfl
@[simp] theorem setCore_taskCount (s : State) (c : CoreSt) : (setCore s c).taskCount = s.taskCount := rfl
@[simp] theorem setCore_relClock (s : State) (c : CoreSt) : (setCore s c).relClock = s.relClock := rfl
@[simp] theorem setCore_predClk (s : State) (c : CoreSt) : (setCore s c).predClk = s.predClk := rfl
@[simp] theorem setCore_hostCount (s : State) (c : CoreSt) : (setCore s c).hostCount = s.hostCount := rfl
@[simp] theorem setCore_hostClock (s : State) (c : CoreSt) : (setCore s c).hostClock = s.hostClock := rfl
@[simp] theorem setCore_nextId (s : State) (c : CoreSt) : (setCore s c).nextId = s.nextId := rfl
@[simp] theorem setCore_free (s : State) (c : CoreSt) : (setCore s c).free = s.free := rfl
@[simp] theorem setCore_ticks (s : State) (c : CoreSt) : (setCore s c).ticks = s.ticks := rfl
@[simp] theorem setCore_time (s : State) (c : CoreSt) : (setCore s c).time = s.time := rfl
@[simp] theorem setCore_time1 (s : State) (c : CoreSt) : (setCore s c).time1 = s.time1 := rfl
@[simp] theorem setCore_slewed (s : State) (c : CoreSt) : (setCore s c).slewed = s.slewed := rfl
@[simp] theorem setCore_stamp (s : State) (c : CoreSt) : (setCore s c).stamp = s.stamp := rfl
@[simp] theorem setCore_era (s : State) (c : CoreSt) : (setCore s c).era = s.era := rfl
@[simp] theorem setCore_out (s : State) (c : CoreSt) : (setCore s c).out = s.out := rfl
@[simp] theorem setCore_progress (s : State) (c : CoreSt) : (setCore s c).progress = s.progress := rfl
@[simp] theorem setCore_agenda (s : State) (c : CoreSt) : (setCore s c).agenda = s.agenda := rfl
@[simp] theorem setCore_unit (s : State) (c : CoreSt) : (setCore s c).unit = s.unit := rfl
@[simp] theorem setCore_cur (s : State) (c : CoreSt) : (setCore s c).cur = s.cur := rfl

@[simp] theorem modCore_mem (s : State) (n : Nat) (f : CoreSt → CoreSt) : (modCore s n f).mem = s.mem := rfl
@[simp] theorem modCore_wclk (s : State) (n : Nat) (f : CoreSt → CoreSt) : (modCore s n f).wclk = s.wclk := rfl
@[simp] theorem modCore_posted (s : State) (n : Nat) (f : CoreSt → CoreSt) : (modCore s n f).posted = s.posted := rfl
@[simp] theorem modCore_poison (s : State) (n : Nat) (f : CoreSt → CoreSt) : (modCore s n f).poison = s.poison := rfl
@[simp] theorem modCore_crews (s : State) (n : Nat) (f : CoreSt → CoreSt) : (modCore s n f).crews = s.crews := rfl
@[simp] theorem modCore_blocks (s : State) (n : Nat) (f : CoreSt → CoreSt) : (modCore s n f).blocks = s.blocks := rfl
@[simp] theorem modCore_tasks (s : State) (n : Nat) (f : CoreSt → CoreSt) : (modCore s n f).tasks = s.tasks := rfl
@[simp] theorem modCore_dies (s : State) (n : Nat) (f : CoreSt → CoreSt) : (modCore s n f).dies = s.dies := rfl
@[simp] theorem modCore_flights (s : State) (n : Nat) (f : CoreSt → CoreSt) : (modCore s n f).flights = s.flights := rfl
@[simp] theorem modCore_walks (s : State) (n : Nat) (f : CoreSt → CoreSt) : (modCore s n f).walks = s.walks := rfl
@[simp] theorem modCore_copies (s : State) (n : Nat) (f : CoreSt → CoreSt) : (modCore s n f).copies = s.copies := rfl
@[simp] theorem modCore_pageReqs (s : State) (n : Nat) (f : CoreSt → CoreSt) : (modCore s n f).pageReqs = s.pageReqs := rfl
@[simp] theorem modCore_priOff (s : State) (n : Nat) (f : CoreSt → CoreSt) : (modCore s n f).priOff = s.priOff := rfl
@[simp] theorem modCore_shootdowns (s : State) (n : Nat) (f : CoreSt → CoreSt) : (modCore s n f).shootdowns = s.shootdowns := rfl
@[simp] theorem modCore_icinvs (s : State) (n : Nat) (f : CoreSt → CoreSt) : (modCore s n f).icinvs = s.icinvs := rfl
@[simp] theorem modCore_hostTc (s : State) (n : Nat) (f : CoreSt → CoreSt) : (modCore s n f).hostTc = s.hostTc := rfl
@[simp] theorem modCore_hostHeld (s : State) (n : Nat) (f : CoreSt → CoreSt) : (modCore s n f).hostHeld = s.hostHeld := rfl
@[simp] theorem modCore_biWait (s : State) (n : Nat) (f : CoreSt → CoreSt) : (modCore s n f).biWait = s.biWait := rfl
@[simp] theorem modCore_mesi (s : State) (n : Nat) (f : CoreSt → CoreSt) : (modCore s n f).mesi = s.mesi := rfl
@[simp] theorem modCore_hdm (s : State) (n : Nat) (f : CoreSt → CoreSt) : (modCore s n f).hdm = s.hdm := rfl
@[simp] theorem modCore_rangeBase (s : State) (n : Nat) (f : CoreSt → CoreSt) : (modCore s n f).rangeBase = s.rangeBase := rfl
@[simp] theorem modCore_link (s : State) (n : Nat) (f : CoreSt → CoreSt) : (modCore s n f).link = s.link := rfl
@[simp] theorem modCore_traceQ (s : State) (n : Nat) (f : CoreSt → CoreSt) : (modCore s n f).traceQ = s.traceQ := rfl
@[simp] theorem modCore_isles (s : State) (n : Nat) (f : CoreSt → CoreSt) : (modCore s n f).isles = s.isles := rfl
@[simp] theorem modCore_fuses (s : State) (n : Nat) (f : CoreSt → CoreSt) : (modCore s n f).fuses = s.fuses := rfl
@[simp] theorem modCore_boot (s : State) (n : Nat) (f : CoreSt → CoreSt) : (modCore s n f).boot = s.boot := rfl
@[simp] theorem modCore_mbox (s : State) (n : Nat) (f : CoreSt → CoreSt) : (modCore s n f).mbox = s.mbox := rfl
@[simp] theorem modCore_region (s : State) (n : Nat) (f : CoreSt → CoreSt) : (modCore s n f).region = s.region := rfl
@[simp] theorem modCore_taskCount (s : State) (n : Nat) (f : CoreSt → CoreSt) : (modCore s n f).taskCount = s.taskCount := rfl
@[simp] theorem modCore_relClock (s : State) (n : Nat) (f : CoreSt → CoreSt) : (modCore s n f).relClock = s.relClock := rfl
@[simp] theorem modCore_predClk (s : State) (n : Nat) (f : CoreSt → CoreSt) : (modCore s n f).predClk = s.predClk := rfl
@[simp] theorem modCore_hostCount (s : State) (n : Nat) (f : CoreSt → CoreSt) : (modCore s n f).hostCount = s.hostCount := rfl
@[simp] theorem modCore_hostClock (s : State) (n : Nat) (f : CoreSt → CoreSt) : (modCore s n f).hostClock = s.hostClock := rfl
@[simp] theorem modCore_nextId (s : State) (n : Nat) (f : CoreSt → CoreSt) : (modCore s n f).nextId = s.nextId := rfl
@[simp] theorem modCore_free (s : State) (n : Nat) (f : CoreSt → CoreSt) : (modCore s n f).free = s.free := rfl
@[simp] theorem modCore_ticks (s : State) (n : Nat) (f : CoreSt → CoreSt) : (modCore s n f).ticks = s.ticks := rfl
@[simp] theorem modCore_time (s : State) (n : Nat) (f : CoreSt → CoreSt) : (modCore s n f).time = s.time := rfl
@[simp] theorem modCore_time1 (s : State) (n : Nat) (f : CoreSt → CoreSt) : (modCore s n f).time1 = s.time1 := rfl
@[simp] theorem modCore_slewed (s : State) (n : Nat) (f : CoreSt → CoreSt) : (modCore s n f).slewed = s.slewed := rfl
@[simp] theorem modCore_stamp (s : State) (n : Nat) (f : CoreSt → CoreSt) : (modCore s n f).stamp = s.stamp := rfl
@[simp] theorem modCore_era (s : State) (n : Nat) (f : CoreSt → CoreSt) : (modCore s n f).era = s.era := rfl
@[simp] theorem modCore_out (s : State) (n : Nat) (f : CoreSt → CoreSt) : (modCore s n f).out = s.out := rfl
@[simp] theorem modCore_progress (s : State) (n : Nat) (f : CoreSt → CoreSt) : (modCore s n f).progress = s.progress := rfl
@[simp] theorem modCore_agenda (s : State) (n : Nat) (f : CoreSt → CoreSt) : (modCore s n f).agenda = s.agenda := rfl
@[simp] theorem modCore_unit (s : State) (n : Nat) (f : CoreSt → CoreSt) : (modCore s n f).unit = s.unit := rfl
@[simp] theorem modCore_cur (s : State) (n : Nat) (f : CoreSt → CoreSt) : (modCore s n f).cur = s.cur := rfl

@[simp] theorem setDie_mem (s : State) (d : Die) : (setDie s d).mem = s.mem := rfl
@[simp] theorem setDie_wclk (s : State) (d : Die) : (setDie s d).wclk = s.wclk := rfl
@[simp] theorem setDie_posted (s : State) (d : Die) : (setDie s d).posted = s.posted := rfl
@[simp] theorem setDie_poison (s : State) (d : Die) : (setDie s d).poison = s.poison := rfl
@[simp] theorem setDie_crews (s : State) (d : Die) : (setDie s d).crews = s.crews := rfl
@[simp] theorem setDie_blocks (s : State) (d : Die) : (setDie s d).blocks = s.blocks := rfl
@[simp] theorem setDie_tasks (s : State) (d : Die) : (setDie s d).tasks = s.tasks := rfl
@[simp] theorem setDie_cores (s : State) (d : Die) : (setDie s d).cores = s.cores := rfl
@[simp] theorem setDie_flights (s : State) (d : Die) : (setDie s d).flights = s.flights := rfl
@[simp] theorem setDie_walks (s : State) (d : Die) : (setDie s d).walks = s.walks := rfl
@[simp] theorem setDie_copies (s : State) (d : Die) : (setDie s d).copies = s.copies := rfl
@[simp] theorem setDie_pageReqs (s : State) (d : Die) : (setDie s d).pageReqs = s.pageReqs := rfl
@[simp] theorem setDie_priOff (s : State) (d : Die) : (setDie s d).priOff = s.priOff := rfl
@[simp] theorem setDie_shootdowns (s : State) (d : Die) : (setDie s d).shootdowns = s.shootdowns := rfl
@[simp] theorem setDie_icinvs (s : State) (d : Die) : (setDie s d).icinvs = s.icinvs := rfl
@[simp] theorem setDie_hostTc (s : State) (d : Die) : (setDie s d).hostTc = s.hostTc := rfl
@[simp] theorem setDie_hostHeld (s : State) (d : Die) : (setDie s d).hostHeld = s.hostHeld := rfl
@[simp] theorem setDie_biWait (s : State) (d : Die) : (setDie s d).biWait = s.biWait := rfl
@[simp] theorem setDie_mesi (s : State) (d : Die) : (setDie s d).mesi = s.mesi := rfl
@[simp] theorem setDie_hdm (s : State) (d : Die) : (setDie s d).hdm = s.hdm := rfl
@[simp] theorem setDie_rangeBase (s : State) (d : Die) : (setDie s d).rangeBase = s.rangeBase := rfl
@[simp] theorem setDie_link (s : State) (d : Die) : (setDie s d).link = s.link := rfl
@[simp] theorem setDie_traceQ (s : State) (d : Die) : (setDie s d).traceQ = s.traceQ := rfl
@[simp] theorem setDie_isles (s : State) (d : Die) : (setDie s d).isles = s.isles := rfl
@[simp] theorem setDie_fuses (s : State) (d : Die) : (setDie s d).fuses = s.fuses := rfl
@[simp] theorem setDie_boot (s : State) (d : Die) : (setDie s d).boot = s.boot := rfl
@[simp] theorem setDie_mbox (s : State) (d : Die) : (setDie s d).mbox = s.mbox := rfl
@[simp] theorem setDie_region (s : State) (d : Die) : (setDie s d).region = s.region := rfl
@[simp] theorem setDie_taskCount (s : State) (d : Die) : (setDie s d).taskCount = s.taskCount := rfl
@[simp] theorem setDie_relClock (s : State) (d : Die) : (setDie s d).relClock = s.relClock := rfl
@[simp] theorem setDie_predClk (s : State) (d : Die) : (setDie s d).predClk = s.predClk := rfl
@[simp] theorem setDie_hostCount (s : State) (d : Die) : (setDie s d).hostCount = s.hostCount := rfl
@[simp] theorem setDie_hostClock (s : State) (d : Die) : (setDie s d).hostClock = s.hostClock := rfl
@[simp] theorem setDie_nextId (s : State) (d : Die) : (setDie s d).nextId = s.nextId := rfl
@[simp] theorem setDie_free (s : State) (d : Die) : (setDie s d).free = s.free := rfl
@[simp] theorem setDie_ticks (s : State) (d : Die) : (setDie s d).ticks = s.ticks := rfl
@[simp] theorem setDie_time (s : State) (d : Die) : (setDie s d).time = s.time := rfl
@[simp] theorem setDie_time1 (s : State) (d : Die) : (setDie s d).time1 = s.time1 := rfl
@[simp] theorem setDie_slewed (s : State) (d : Die) : (setDie s d).slewed = s.slewed := rfl
@[simp] theorem setDie_stamp (s : State) (d : Die) : (setDie s d).stamp = s.stamp := rfl
@[simp] theorem setDie_era (s : State) (d : Die) : (setDie s d).era = s.era := rfl
@[simp] theorem setDie_out (s : State) (d : Die) : (setDie s d).out = s.out := rfl
@[simp] theorem setDie_progress (s : State) (d : Die) : (setDie s d).progress = s.progress := rfl
@[simp] theorem setDie_agenda (s : State) (d : Die) : (setDie s d).agenda = s.agenda := rfl
@[simp] theorem setDie_unit (s : State) (d : Die) : (setDie s d).unit = s.unit := rfl
@[simp] theorem setDie_cur (s : State) (d : Die) : (setDie s d).cur = s.cur := rfl

@[simp] theorem modDie_mem (s : State) (n : Nat) (f : Die → Die) : (modDie s n f).mem = s.mem := rfl
@[simp] theorem modDie_wclk (s : State) (n : Nat) (f : Die → Die) : (modDie s n f).wclk = s.wclk := rfl
@[simp] theorem modDie_posted (s : State) (n : Nat) (f : Die → Die) : (modDie s n f).posted = s.posted := rfl
@[simp] theorem modDie_poison (s : State) (n : Nat) (f : Die → Die) : (modDie s n f).poison = s.poison := rfl
@[simp] theorem modDie_crews (s : State) (n : Nat) (f : Die → Die) : (modDie s n f).crews = s.crews := rfl
@[simp] theorem modDie_blocks (s : State) (n : Nat) (f : Die → Die) : (modDie s n f).blocks = s.blocks := rfl
@[simp] theorem modDie_tasks (s : State) (n : Nat) (f : Die → Die) : (modDie s n f).tasks = s.tasks := rfl
@[simp] theorem modDie_cores (s : State) (n : Nat) (f : Die → Die) : (modDie s n f).cores = s.cores := rfl
@[simp] theorem modDie_flights (s : State) (n : Nat) (f : Die → Die) : (modDie s n f).flights = s.flights := rfl
@[simp] theorem modDie_walks (s : State) (n : Nat) (f : Die → Die) : (modDie s n f).walks = s.walks := rfl
@[simp] theorem modDie_copies (s : State) (n : Nat) (f : Die → Die) : (modDie s n f).copies = s.copies := rfl
@[simp] theorem modDie_pageReqs (s : State) (n : Nat) (f : Die → Die) : (modDie s n f).pageReqs = s.pageReqs := rfl
@[simp] theorem modDie_priOff (s : State) (n : Nat) (f : Die → Die) : (modDie s n f).priOff = s.priOff := rfl
@[simp] theorem modDie_shootdowns (s : State) (n : Nat) (f : Die → Die) : (modDie s n f).shootdowns = s.shootdowns := rfl
@[simp] theorem modDie_icinvs (s : State) (n : Nat) (f : Die → Die) : (modDie s n f).icinvs = s.icinvs := rfl
@[simp] theorem modDie_hostTc (s : State) (n : Nat) (f : Die → Die) : (modDie s n f).hostTc = s.hostTc := rfl
@[simp] theorem modDie_hostHeld (s : State) (n : Nat) (f : Die → Die) : (modDie s n f).hostHeld = s.hostHeld := rfl
@[simp] theorem modDie_biWait (s : State) (n : Nat) (f : Die → Die) : (modDie s n f).biWait = s.biWait := rfl
@[simp] theorem modDie_mesi (s : State) (n : Nat) (f : Die → Die) : (modDie s n f).mesi = s.mesi := rfl
@[simp] theorem modDie_hdm (s : State) (n : Nat) (f : Die → Die) : (modDie s n f).hdm = s.hdm := rfl
@[simp] theorem modDie_rangeBase (s : State) (n : Nat) (f : Die → Die) : (modDie s n f).rangeBase = s.rangeBase := rfl
@[simp] theorem modDie_link (s : State) (n : Nat) (f : Die → Die) : (modDie s n f).link = s.link := rfl
@[simp] theorem modDie_traceQ (s : State) (n : Nat) (f : Die → Die) : (modDie s n f).traceQ = s.traceQ := rfl
@[simp] theorem modDie_isles (s : State) (n : Nat) (f : Die → Die) : (modDie s n f).isles = s.isles := rfl
@[simp] theorem modDie_fuses (s : State) (n : Nat) (f : Die → Die) : (modDie s n f).fuses = s.fuses := rfl
@[simp] theorem modDie_boot (s : State) (n : Nat) (f : Die → Die) : (modDie s n f).boot = s.boot := rfl
@[simp] theorem modDie_mbox (s : State) (n : Nat) (f : Die → Die) : (modDie s n f).mbox = s.mbox := rfl
@[simp] theorem modDie_region (s : State) (n : Nat) (f : Die → Die) : (modDie s n f).region = s.region := rfl
@[simp] theorem modDie_taskCount (s : State) (n : Nat) (f : Die → Die) : (modDie s n f).taskCount = s.taskCount := rfl
@[simp] theorem modDie_relClock (s : State) (n : Nat) (f : Die → Die) : (modDie s n f).relClock = s.relClock := rfl
@[simp] theorem modDie_predClk (s : State) (n : Nat) (f : Die → Die) : (modDie s n f).predClk = s.predClk := rfl
@[simp] theorem modDie_hostCount (s : State) (n : Nat) (f : Die → Die) : (modDie s n f).hostCount = s.hostCount := rfl
@[simp] theorem modDie_hostClock (s : State) (n : Nat) (f : Die → Die) : (modDie s n f).hostClock = s.hostClock := rfl
@[simp] theorem modDie_nextId (s : State) (n : Nat) (f : Die → Die) : (modDie s n f).nextId = s.nextId := rfl
@[simp] theorem modDie_free (s : State) (n : Nat) (f : Die → Die) : (modDie s n f).free = s.free := rfl
@[simp] theorem modDie_ticks (s : State) (n : Nat) (f : Die → Die) : (modDie s n f).ticks = s.ticks := rfl
@[simp] theorem modDie_time (s : State) (n : Nat) (f : Die → Die) : (modDie s n f).time = s.time := rfl
@[simp] theorem modDie_time1 (s : State) (n : Nat) (f : Die → Die) : (modDie s n f).time1 = s.time1 := rfl
@[simp] theorem modDie_slewed (s : State) (n : Nat) (f : Die → Die) : (modDie s n f).slewed = s.slewed := rfl
@[simp] theorem modDie_stamp (s : State) (n : Nat) (f : Die → Die) : (modDie s n f).stamp = s.stamp := rfl
@[simp] theorem modDie_era (s : State) (n : Nat) (f : Die → Die) : (modDie s n f).era = s.era := rfl
@[simp] theorem modDie_out (s : State) (n : Nat) (f : Die → Die) : (modDie s n f).out = s.out := rfl
@[simp] theorem modDie_progress (s : State) (n : Nat) (f : Die → Die) : (modDie s n f).progress = s.progress := rfl
@[simp] theorem modDie_agenda (s : State) (n : Nat) (f : Die → Die) : (modDie s n f).agenda = s.agenda := rfl
@[simp] theorem modDie_unit (s : State) (n : Nat) (f : Die → Die) : (modDie s n f).unit = s.unit := rfl
@[simp] theorem modDie_cur (s : State) (n : Nat) (f : Die → Die) : (modDie s n f).cur = s.cur := rfl

end Sys2Proof.Machine
end

