-- ==== Sys2Proof/Laws/Issue.lean ====
section
/-! SUPPORT. Crews by their numbers, and the issue of an instruction. -/

namespace Sys2Proof.Machine

/-- A crew found by a number has that number. -/
theorem crewAt_id {s : State} {id : Nat} {c : Crew} (h : crewAt s id = some c) : c.id = id := by
  have := List.find?_some h
  simpa using this

theorem find_map_set {α : Type} {p : α → Bool} (g : α → α) (hp : ∀ a, p (g a) = p a) :
    ∀ l : List α, (l.map g).find? p = (l.find? p).map g
  | [] => rfl
  | a :: l => by
    simp only [List.map_cons, List.find?_cons, hp]
    cases p a
    · exact find_map_set g hp l
    · rfl

/-- The crew that an update sets. -/
theorem crewAt_setCrew_self {s : State} {c c' : Crew} (h : crewAt s c'.id = some c) : crewAt (setCrew s c') c'.id = some c' := by
  unfold crewAt setCrew
  rw [find_map_set (fun x => if x.id == c'.id then c' else x)]
  · have h' : s.crews.find? (fun x => x.id == c'.id) = some c := h
    rw [h']
    have := crewAt_id h
    simp [this]
  · intro a; by_cases ha : a.id = c'.id <;> simp [ha]

theorem find_map_other {α : Type} {p : α → Bool} (g : α → α) (hp : ∀ a, g a = a ∨ (p (g a) = false ∧ p a = false)) :
    ∀ l : List α, (l.map g).find? p = l.find? p
  | [] => rfl
  | a :: l => by
    have ih := find_map_other g hp l
    simp only [List.map_cons, List.find?_cons, ih]
    rcases hp a with h | ⟨h1, h2⟩
    · rw [h]
    · rw [h1, h2]

/-- Every other crew is as it was. -/
theorem crewAt_setCrew_other (s : State) (c' : Crew) {id : Nat} (h : id ≠ c'.id) : crewAt (setCrew s c') id = crewAt s id := by
  unfold crewAt setCrew
  apply find_map_other
  intro a
  by_cases ha : a.id = c'.id
  · right; simp [ha, Ne.symm h]
  · left; simp [ha]

/-- The last of two updates of one crew counts. -/
theorem setCrew_setCrew (s : State) {c d : Crew} (h : c.id = d.id) : setCrew (setCrew s c) d = setCrew s d := by
  unfold setCrew
  simp only [List.map_map]
  congr 1
  apply List.map_congr_left
  intro a _
  by_cases ha : a.id = d.id <;> simp [ha, h]

/-- The issue of an instruction that need not wait: its body, and what it comes to (R29). -/
theorem issue_point {sp : Spec} {s t : State} {x : Ctx} (body : Ctx → State → Res) (h : issuePoint sp s = some (x, t)) :
    issue sp body s = .next (conclude x t (body x t)) := by
  unfold issuePoint at h
  unfold issue
  cases hu : s.cur with
  | none => simp [hu] at h
  | some u =>
    cases hc : crewAt s u.crew with
    | none => simp [hu, hc] at h
    | some c =>
      cases he : entryAt c u.pc with
      | none => simp [hu, hc, he] at h
      | some e =>
        simp only [hu, hc, he] at h ⊢
        split at h
        · exact absurd h (by simp)
        · rename_i hp
          have hp' : preTrap { s with cur := none } c e sp = none := by simpa using hp
          cases hi : issueState sp { s with cur := none } u c with
          | none => simp [hi] at h
          | some t' =>
            simp only [hi] at h
            split at h
            · exact absurd h (by simp)
            · rename_i hf
              split at h
              case isFalse => exact absurd h (by simp)
              simp only [Option.some.injEq, Prod.mk.injEq] at h
              obtain ⟨rfl, rfl⟩ := h
              congr 1
              unfold issueAt
              simp only [hp']
              unfold issueState at hi
              cases hsc : sp.i.pfx.scope with
              | lane =>
                simp only [hsc] at hi ⊢
                split at hi
                · exact absurd hi (by simp)
                · rename_i hw
                  simp only [Option.some.injEq] at hi
                  subst hi
                  simp only [hw]
                  unfold issueNow
                  simp only [hf]
                  rfl
              | crew | set | block =>
                simp only [hsc] at hi ⊢
                split at hi
                · exact absurd hi (by simp)
                · rename_i hw
                  simp only [Option.some.injEq] at hi
                  subst hi
                  simp only [Bool.or_eq_true, Bool.not_eq_true', not_or, Bool.not_eq_false, Bool.not_eq_true] at hw
                  have hg := List.find?_eq_none.mpr fun i hi => by
                    have := (List.any_eq_false.mp hw.2) i hi
                    simpa using this
                  simp only [hw.1.1, hw.1.2]
                  simp only [hg]
                  unfold issueNow
                  simp only [hf]
                  rfl

theorem countIssue_mask (q : Nat) (os : List Entry) (e : Entry) : (countIssue q os e).mask = e.mask := by
  unfold countIssue; simp only; split <;> (split <;> try split) <;> rfl

theorem rotateDemoted_flat {s : State} {id : Nat} {c : Crew} (hc : crewAt s id = some c) (hf : c.nrec = 0) (pc : Word) :
    rotateDemoted s id pc = .ok s := by
  unfold rotateDemoted
  simp only [hc]
  split
  · rfl
  · simp [hf]

/-- A crew without stacked records has nothing to take in. -/
theorem refill_flat {s : State} {id : Nat} {c : Crew} (hc : crewAt s id = some c) (hf : c.nrec = 0) (most : Nat) : refill s id most = .ok s := by
  unfold refill
  simp [hc, hf]

/-- A crew that has no stacked records goes on at the next instruction, and nothing else changes (R265-R267). -/
theorem advance_flat {s : State} {id : Nat} {pc next : Word} {c : Crew} {e : Entry} (hc : crewAt s id = some c) (hf : c.nrec = 0)
    (he : entryAt c pc = some e) (hm : e.mask ≠ 0) :
    advance s id pc next = .ok (setCrew s { c with entries := entriesOn s c pc next }) := by
  have hid := crewAt_id hc
  have hm' : ((countIssue (quantumOf s c.core) (c.entries.filter fun x => x.pc != pc) e).to next).mask ≠ 0 := by
    simp only [Entry.to, countIssue_mask]; exact hm
  have hgo : goOn s id pc false [(countIssue (quantumOf s c.core) (c.entries.filter fun x => x.pc != pc) e).to next] =
      .ok (setCrew s { c with entries := entriesOn s c pc next }) := by
    have hm2 : (((countIssue (quantumOf s c.core) (c.entries.filter fun x => x.pc != pc) e).to next).mask != 0) = true := by
      simpa using hm'
    unfold goOn
    simp only [hc, List.filter_cons, hm2, if_true, List.filter_nil, place, List.isEmpty_nil, Bool.false_eq_true, if_false]
    rw [refill_flat (c := { c with entries := entriesOn s c pc next }) _ hf]
    · unfold entriesOn
      simp only [he]
    · have hs := crewAt_setCrew_self (s := s) (c := c) (c' := { c with entries := entriesOn s c pc next }) (by simpa [hid] using hc)
      unfold entriesOn at hs ⊢
      simpa only [he, hid] using hs
  have hrot : rotateDemoted (setCrew s { c with entries := entriesOn s c pc next }) id next =
      .ok (setCrew s { c with entries := entriesOn s c pc next }) := by
    have hc' : crewAt (setCrew s { c with entries := entriesOn s c pc next }) id = some { c with entries := entriesOn s c pc next } := by
      have := crewAt_setCrew_self (s := s) (c := c) (c' := { c with entries := entriesOn s c pc next }) (by simpa [hid] using hc)
      simpa [hid] using this
    exact rotateDemoted_flat hc' hf _
  unfold advance
  simp only [hc, he, hgo, hrot]

/-- A lone participant without stacked records goes on at the next instruction. -/
theorem retire_alone {s : State} {x : Ctx} {p : Part} {c : Crew} {e : Entry} (hx : x.parts = [p]) (hc : crewAt s p.crew = some c)
    (hf : c.nrec = 0) (he : entryAt c x.pc = some e) (hm : e.mask ≠ 0) :
    retire x s = setCrew s { c with entries := entriesOn s c x.pc x.next } := by
  unfold retire
  simp only [hx, List.foldl_cons, List.foldl_nil, advance_flat hc hf he hm]

/-- A crew's place is its own: what an update of it leaves at another crew's number. -/
theorem crewAt_modCrew_other (s : State) (f : Crew → Crew) {id n : Nat} (hf : ∀ c, (f c).id = c.id) (h : id ≠ n) :
    crewAt (modCrew s n f) id = crewAt s id := by
  unfold crewAt modCrew
  apply find_map_other
  intro a
  by_cases ha : a.id = n
  · right; simp [ha, hf, Ne.symm h]
  · left; simp [ha]

theorem crewAt_modCrew_self {s : State} {f : Crew → Crew} {n : Nat} {c : Crew} (hf : ∀ c, (f c).id = c.id) (h : crewAt s n = some c) :
    crewAt (modCrew s n f) n = some (f c) := by
  unfold crewAt modCrew
  rw [find_map_set (fun x => if x.id == n then f x else x)]
  · have h' : s.crews.find? (fun x => x.id == n) = some c := h
    rw [h']
    have := crewAt_id h
    simp [this]
  · intro a; by_cases ha : a.id = n <;> simp [ha, hf]

/-- Where an instruction issues: its place, and its participants. -/
theorem issuePoint_parts {sp : Spec} {s t : State} {x : Ctx} (hp : issuePoint sp s = some (x, t)) :
    ∃ d, x.parts = partsOf t d sp.i.pfx x.pc := by
  unfold issuePoint at hp
  cases hu : s.cur with
  | none => simp [hu] at hp
  | some u =>
    cases hd : crewAt s u.crew with
    | none => simp [hu, hd] at hp
    | some d =>
      cases he : entryAt d u.pc with
      | none => simp [hu, hd, he] at hp
      | some e =>
        simp only [hu, hd, he] at hp
        split at hp
        · exact absurd hp (by simp)
        · cases hi : issueState sp { s with cur := none } u d with
          | none => simp [hi] at hp
          | some t' =>
            simp only [hi] at hp
            split at hp
            · exact absurd hp (by simp)
            · split at hp
              case isFalse => exact absurd hp (by simp)
              simp only [Option.some.injEq, Prod.mk.injEq] at hp
              obtain ⟨rfl, rfl⟩ := hp
              exact ⟨d, rfl⟩

/-- Where an instruction issues, no participant's stack holds a poisoned record. -/
theorem issuePoint_sound {sp : Spec} {s t : State} {x : Ctx} (hp : issuePoint sp s = some (x, t)) : stacksSound x t = true := by
  unfold issuePoint at hp
  cases hu : s.cur with
  | none => simp [hu] at hp
  | some u =>
    cases hd : crewAt s u.crew with
    | none => simp [hu, hd] at hp
    | some d =>
      cases he : entryAt d u.pc with
      | none => simp [hu, hd, he] at hp
      | some e =>
        simp only [hu, hd, he] at hp
        split at hp
        · exact absurd hp (by simp)
        · cases hi : issueState sp { s with cur := none } u d with
          | none => simp [hi] at hp
          | some t' =>
            simp only [hi] at hp
            split at hp
            · exact absurd hp (by simp)
            · split at hp
              case isFalse => exact absurd hp (by simp)
              rename_i hs
              simp only [Option.some.injEq, Prod.mk.injEq] at hp
              obtain ⟨rfl, rfl⟩ := hp
              exact hs

/-- Where a lone participant stands, and its active set (R19). -/
theorem Alone.entry {sp : Spec} {s t : State} {x : Ctx} {p : Part} {c : Crew} (h : Alone sp s x p c t) :
    ∃ e, entryAt c x.pc = some e ∧ p.act = actOf c e sp.i.pfx.guard := by
  obtain ⟨hp, ho, hc⟩ := h
  obtain ⟨d, hx⟩ := issuePoint_parts hp
  rw [ho] at hx
  unfold partsOf at hx
  have hmem : p ∈ [p] := List.mem_singleton.mpr rfl
  rw [hx] at hmem
  simp only [List.mem_map, List.mem_filterMap] at hmem
  obtain ⟨⟨id, a, l⟩, ⟨id', _, h1⟩, h2⟩ := hmem
  cases hq : crewAt t id' with
  | none => simp [hq] at h1
  | some q =>
    simp only [hq] at h1
    cases he : entryAt q x.pc with
    | none => simp [he] at h1
    | some e =>
      simp only [he, Option.some.injEq, Prod.mk.injEq] at h1
      obtain ⟨h3, h4, _⟩ := h1
      have hid : p.crew = id := by rw [← h2]
      have hact : p.act = a := by rw [← h2]
      rw [hid, ← h3, hq] at hc
      cases hc
      exact ⟨e, he, by rw [hact, ← h4]⟩

/-- An active lane lies in the entry. -/
theorem Alone.mask {sp : Spec} {s t : State} {x : Ctx} {p : Part} {c : Crew} (h : Alone sp s x p c t) (ha : p.act ≠ 0) :
    ∃ e, entryAt c x.pc = some e ∧ e.mask ≠ 0 := by
  obtain ⟨e, he, hact⟩ := h.entry
  refine ⟨e, he, fun h0 => ha ?_⟩
  rw [hact, actOf, h0]
  simp

theorem entryAt_congr {c d : Crew} (h : d.entries = c.entries) (pc : Word) : entryAt d pc = entryAt c pc := by
  unfold entryAt; rw [h]

theorem entriesOn_congr {s t : State} {c d : Crew} (hs : t.cores = s.cores) (h : d.entries = c.entries) (hk : d.core = c.core) (pc next : Word) :
    entriesOn t d pc next = entriesOn s c pc next := by
  unfold entriesOn
  rw [entryAt_congr h, h, hk]
  unfold quantumOf coreAt
  rw [hs]

/-- An instruction whose body performs: every participant goes on. -/
theorem issue_done {sp : Spec} {s t u : State} {x : Ctx} {body : Ctx → State → Res} (h : issuePoint sp s = some (x, t))
    (hb : body x t = .done u) : issue sp body s = .next (retire x u) := by
  rw [issue_point body h, hb]
  simp only [conclude, issuePoint_sound h, if_true]

theorem mem_distinct : ∀ {l : List Nat} {a : Nat}, a ∈ distinct l → a ∈ l
  | [], _, h => h
  | b :: l, a, h => by
    simp only [distinct, List.mem_cons, List.mem_filter] at h
    rcases h with h | ⟨h, _⟩
    · exact List.mem_cons.mpr (.inl h)
    · exact List.mem_cons.mpr (.inr (mem_distinct h))

theorem nodup_distinct : ∀ l : List Nat, (distinct l).Nodup
  | [] => List.nodup_nil
  | a :: l => by
    refine List.nodup_cons.mpr ⟨?_, (nodup_distinct l).filter _⟩
    simp

/-- Participants are distinct crews. -/
theorem partsOf_nodup (s : State) (c : Crew) (x : Pfx) (pc : Word) : ((partsOf s c x pc).map (·.crew)).Nodup := by
  unfold partsOf
  simp only [List.map_map]
  have key : ∀ l : List Nat, l.Nodup → ((l.filterMap fun id =>
      match crewAt s id with
      | none => none
      | some p => match entryAt p pc with
        | none => none
        | some e => some (id, actOf p e x.guard, p.live)).map (·.1)).Nodup ∧
      ∀ i ∈ ((l.filterMap fun id =>
      match crewAt s id with
      | none => none
      | some p => match entryAt p pc with
        | none => none
        | some e => some (id, actOf p e x.guard, p.live)).map (·.1)), i ∈ l := by
    intro l
    induction l with
    | nil => intro _; exact ⟨List.nodup_nil, by simp⟩
    | cons a l ih =>
      intro h
      obtain ⟨ha, hl⟩ := List.nodup_cons.mp h
      obtain ⟨h1, h2⟩ := ih hl
      simp only [List.filterMap_cons]
      cases crewAt s a with
      | none => exact ⟨h1, fun i hi => List.mem_cons.mpr (.inr (h2 i hi))⟩
      | some p =>
        simp only
        cases entryAt p pc with
        | none => exact ⟨h1, fun i hi => List.mem_cons.mpr (.inr (h2 i hi))⟩
        | some e =>
          simp only [List.map_cons]
          refine ⟨List.nodup_cons.mpr ⟨fun hm => ha (h2 a hm), h1⟩, fun i hi => ?_⟩
          rcases List.mem_cons.mp hi with hi | hi
          · exact List.mem_cons.mpr (.inl hi)
          · exact List.mem_cons.mpr (.inr (h2 i hi))
  exact (key _ (nodup_distinct _)).1

/-- The participants of an issuing instruction are distinct crews. -/
theorem issuePoint_nodup {sp : Spec} {s t : State} {x : Ctx} (hp : issuePoint sp s = some (x, t)) : (x.parts.map (·.crew)).Nodup := by
  obtain ⟨d, h⟩ := issuePoint_parts hp
  rw [h]; exact partsOf_nodup _ _ _ _

/-- A body that acts on each participant's crew by itself, when no participant traps. -/
theorem eachCrew_all {f : Part → Crew → Option Nat × Crew} {r : Part → Crew} {x : Ctx} {t : State} (hn : (x.parts.map (·.crew)).Nodup)
    (h : Each x t r fun p c d => f p c = (none, d) ∧ d.id = c.id) : eachCrew f x t = .done (setParts x t r) := by
  unfold eachCrew setParts Each at *
  have key : ∀ (l : List Part) (t : State), (l.map (·.crew)).Nodup →
      (∀ p ∈ l, ∃ c, crewAt t p.crew = some c ∧ f p c = (none, r p) ∧ (r p).id = c.id) →
      l.foldl (eachStep f) (none, t) = (none, l.foldl (fun u p => setCrew u (r p)) t) := by
    intro l
    induction l with
    | nil => intro t _ _; rfl
    | cons p l ih =>
      intro t hn h
      obtain ⟨hp, hl⟩ := List.nodup_cons.mp hn
      obtain ⟨c, hc, hf, hi⟩ := h p (List.mem_cons_self ..)
      simp only [List.foldl_cons, eachStep, hc, hf]
      apply ih _ hl
      intro q hq
      obtain ⟨cq, hcq, hfq⟩ := h q (List.mem_cons_of_mem _ hq)
      refine ⟨cq, ?_, hfq⟩
      rw [crewAt_setCrew_other]
      · exact hcq
      · intro he
        have : (r p).id = p.crew := by rw [hi, crewAt_id hc]
        apply hp
        have hq' : q.crew ∈ l.map (·.crew) := List.mem_map_of_mem hq
        rwa [he, this] at hq'
  rw [key _ _ hn h]

/-- The issue of an instruction whose body acts on each participant's crew by itself. -/
theorem issue_each {sp : Spec} {s t : State} {x : Ctx} {f : Part → Crew → Option Nat × Crew} {r : Part → Crew}
    (hp : issuePoint sp s = some (x, t)) (h : Each x t r fun p c d => f p c = (none, d) ∧ d.id = c.id) :
    issue sp (eachCrew f) s = .next (retire x (setParts x t r)) :=
  issue_done hp (eachCrew_all (issuePoint_nodup hp) h)

end Sys2Proof.Machine
end

