-- ==== Sys2Proof/Laws/Memory.lean ====
section
/-! SUPPORT. Sparse contents: read after write, and that every memory operation keeps the canonical form. -/

namespace Sys2Proof.Machine

theorem swfFrom_weaken {α : Type} [DecidableEq α] {d : α} {m : Sparse α} {lo : Nat} (h : swfFrom d (some lo) m = true) :
    swfFrom d none m = true := by
  cases m with
  | nil => rfl
  | cons e r => simp only [swfFrom, Bool.and_eq_true, Bool.true_and] at h ⊢; exact ⟨h.1.2, h.2⟩

theorem swfFrom_mono {α : Type} [DecidableEq α] {d : α} {m : Sparse α} {lo hi : Nat} (h : swfFrom d (some hi) m = true)
    (hl : lo ≤ hi) : swfFrom d (some lo) m = true := by
  cases m with
  | nil => rfl
  | cons e r =>
    simp only [swfFrom, Bool.and_eq_true, decide_eq_true_eq] at h ⊢
    exact ⟨⟨by omega, h.1.2⟩, h.2⟩

/-- Nothing is listed at or below the bound. -/
theorem sget_below {α : Type} [DecidableEq α] {d : α} : ∀ {m : Sparse α} {lo a : Nat}, swfFrom d (some lo) m = true → a ≤ lo →
    sget d m a = d
  | [], _, _, _, _ => rfl
  | (k, v) :: r, lo, a, h, ha => by
    simp only [swfFrom, Bool.and_eq_true, decide_eq_true_eq] at h
    have hk : k ≠ a := by omega
    simp only [sget, hk, if_false]
    exact sget_below h.2 (by omega)

theorem swfFrom_sput {α : Type} [DecidableEq α] {d : α} (v : α) : ∀ {m : Sparse α} {lo : Option Nat} {a : Nat},
    swfFrom d lo m = true → (∀ l, lo = some l → l < a) → swfFrom d lo (sput d m a v) = true
  | [], lo, a, _, ha => by
    unfold sput
    split
    · rfl
    · cases lo with
      | none => simp_all [swfFrom]
      | some l => simp_all [swfFrom]
  | (k, w) :: r, lo, a, h, ha => by
    have h' := h
    simp only [swfFrom, Bool.and_eq_true] at h
    obtain ⟨⟨h1, h2⟩, h3⟩ := h
    unfold sput
    split
    · rename_i hak
      split
      · exact h'
      · rename_i hv
        simp only [swfFrom, Bool.and_eq_true, decide_eq_true_eq]
        refine ⟨⟨?_, hv⟩, ⟨hak, by simpa using h2⟩, h3⟩
        cases lo with
        | none => rfl
        | some l => simpa using ha l rfl
    · split
      · rename_i hak
        split
        · cases lo with
          | none => exact swfFrom_weaken h3
          | some l => exact swfFrom_mono h3 (by have := of_decide_eq_true h1; omega)
        · rename_i hv
          simp only [swfFrom, Bool.and_eq_true, decide_eq_true_eq]
          exact ⟨⟨by simpa using h1, hv⟩, h3⟩
      · simp only [swfFrom, Bool.and_eq_true]
        refine ⟨⟨h1, h2⟩, swfFrom_sput v h3 ?_⟩
        intro l hl
        cases hl
        omega

/-- A write keeps the canonical form. -/
theorem swf_sput {α : Type} [DecidableEq α] {d : α} {m : Sparse α} (a : Nat) (v : α) (h : swf d m = true) :
    swf d (sput d m a v) = true := swfFrom_sput v h (fun _ hl => by cases hl)

theorem sget_sput_from {α : Type} [DecidableEq α] {d : α} (v : α) : ∀ {m : Sparse α} {lo : Option Nat} {a : Nat} (b : Nat),
    swfFrom d lo m = true → sget d (sput d m a v) b = if b = a then v else sget d m b
  | [], lo, a, b, _ => by
    unfold sput
    split
    · rename_i hv; simp only [sget]; split <;> simp_all
    · simp only [sget]; by_cases h : a = b
      · simp [h]
      · simp [h, Ne.symm h]
  | (k, w) :: r, lo, a, b, h => by
    simp only [swfFrom, Bool.and_eq_true] at h
    obtain ⟨⟨_, _⟩, h3⟩ := h
    unfold sput
    split
    · rename_i hak
      split
      · rename_i hv
        by_cases hb : b = a
        · subst hb
          have : k ≠ b := by omega
          simp only [sget, this, if_false, if_true]
          rw [sget_below h3 (by omega), hv]
        · simp [hb]
      · by_cases hb : b = a
        · simp [sget, hb]
        · simp [sget, hb, Ne.symm hb]
    · split
      · rename_i _ hak
        subst hak
        split
        · rename_i hv
          by_cases hb : b = a
          · subst hb; simp only [if_true]; rw [sget_below h3 (Nat.le_refl _), hv]
          · simp [sget, hb, Ne.symm hb]
        · by_cases hb : b = a
          · simp [sget, hb]
          · simp [sget, hb, Ne.symm hb]
      · rename_i hne
        simp only [sget]
        by_cases hk : k = b
        · subst hk; simp [Ne.symm hne]
        · simp only [hk, if_false]; exact sget_sput_from v b h3

/-- What is read after a write (read after write, and every other place alone). -/
theorem sget_sput {α : Type} [DecidableEq α] {d : α} {m : Sparse α} (h : swf d m = true) (a : Nat) (v : α) (b : Nat) :
    sget d (sput d m a v) b = if b = a then v else sget d m b := sget_sput_from v b h

/-- Several writes keep the canonical form. -/
theorem swf_sputAll {α : Type} [DecidableEq α] {d : α} : ∀ {ws : List (Nat × α)} {m : Sparse α}, swf d m = true →
    swf d (sputAll d m ws) = true
  | [], _, h => h
  | w :: ws, m, h => swf_sputAll (ws := ws) (m := sput d m w.1 w.2) (swf_sput w.1 w.2 h)

/-- An address that several writes do not name keeps its value. -/
theorem sget_sputAll_other {α : Type} [DecidableEq α] {d : α} : ∀ {ws : List (Nat × α)} {m : Sparse α} {b : Nat}, swf d m = true →
    (∀ w ∈ ws, w.1 ≠ b) → sget d (sputAll d m ws) b = sget d m b
  | [], _, _, _, _ => rfl
  | w :: ws, m, b, h, hb => by
    have h1 : sget d (sputAll d (sput d m w.1 w.2) ws) b = sget d (sput d m w.1 w.2) b :=
      sget_sputAll_other (swf_sput w.1 w.2 h) (fun x hx => hb x (List.mem_cons_of_mem _ hx))
    have h2 : b ≠ w.1 := Ne.symm (hb w (List.mem_cons_self ..))
    simpa [sputAll, sget_sput h, h2] using h1

/-- The addresses of a run of bytes. -/
theorem mem_addrs {x : Nat × Byte} : ∀ {bs : List Byte} {a : Nat}, x ∈ addrs a bs → a ≤ x.1 ∧ x.1 < a + bs.length
  | [], _, h => by simp [addrs] at h
  | b :: bs, a, h => by
    simp only [addrs, List.mem_cons, List.length_cons] at h ⊢
    rcases h with h | h
    · subst h; simp
    · have := mem_addrs h; omega

/-- Bytes stored from `a` up keep the canonical form. -/
theorem swf_writeBytes {m : Sparse Byte} (a : Nat) (bs : List Byte) (h : swf (0 : Byte) m = true) :
    swf (0 : Byte) (writeBytes m a bs) = true := swf_sputAll h

/-- Bytes outside a store keep their values. -/
theorem sget_writeBytes_other {m : Sparse Byte} (h : swf (0 : Byte) m = true) (a : Nat) (bs : List Byte) {b : Nat}
    (hb : b < a ∨ a + bs.length ≤ b) : sget (0 : Byte) (writeBytes m a bs) b = sget 0 m b :=
  sget_sputAll_other h fun x hx => by have := mem_addrs hx; omega

/-- The byte at place `i` of a store. -/
theorem sget_writeBytes {m : Sparse Byte} (h : swf (0 : Byte) m = true) : ∀ (bs : List Byte) (a i : Nat), i < bs.length →
    sget (0 : Byte) (writeBytes m a bs) (a + i) = bs.getD i 0
  | [], _, _, hi => by simp at hi
  | b :: bs, a, i, hi => by
    have e : writeBytes m a (b :: bs) = writeBytes (sput 0 m a b) (a + 1) bs := rfl
    rw [e]
    have hw : swf (0 : Byte) (sput 0 m a b) = true := swf_sput a b h
    cases i with
    | zero =>
      rw [sget_writeBytes_other hw _ _ (Or.inl (by omega)), sget_sput h]
      simp
    | succ i =>
      have := sget_writeBytes hw bs (a + 1) i (by simpa using hi)
      rw [show a + (i + 1) = a + 1 + i by omega, this]
      simp

theorem bumpHome_mem (s : State) (a : Nat) : (bumpHome s a).mem = s.mem := by unfold bumpHome; split <;> rfl
theorem bumpHome_wclk (s : State) (a : Nat) : (bumpHome s a).wclk = s.wclk := by unfold bumpHome; split <;> rfl

/-- What an update of the cached states of host memory leaves: home memory, its clocks, and the canonical form of the states. -/
theorem mesiSet_mem (s : State) (m : Mesi) (secs : List Nat) : (mesiSet s m secs).mem = s.mem := rfl
theorem mesiSet_wclk (s : State) (m : Mesi) (secs : List Nat) : (mesiSet s m secs).wclk = s.wclk := rfl
theorem swf_mesiSet (s : State) (m : Mesi) (secs : List Nat) (h : swf Mesi.invalid s.mesi = true) : swf Mesi.invalid (mesiSet s m secs).mesi = true :=
  swf_sputAll h
theorem swf_mesiRead (s : State) (secs : List Nat) (h : swf Mesi.invalid s.mesi = true) : swf Mesi.invalid (mesiRead s secs).mesi = true :=
  swf_mesiSet s _ _ h

/-- The one operation that writes home memory keeps the canonical form. -/
theorem homeWf_homeWrite (s : State) (c : Clock) (ws : List (Nat × Byte)) (h : s.homeWf = true) : (homeWrite s c ws).homeWf = true := by
  cases ws with
  | nil => exact h
  | cons w ws =>
    obtain ⟨a, b⟩ := w
    have h' := h
    simp only [State.homeWf, Bool.and_eq_true] at h
    simp only [homeWrite]
    split
    · exact h'
    · simp only [State.homeWf, Bool.and_eq_true, mesiSet_mem, mesiSet_wclk, bumpHome_mem, bumpHome_wclk]
      exact ⟨swf_sputAll h.1, swf_sputAll h.2⟩

/-- Bytes that a write at the home slice does not name keep their values. -/
theorem readByte_homeWrite_other (s : State) (c : Clock) (ws : List (Nat × Byte)) (h : s.homeWf = true) {b : Nat}
    (hb : ∀ w ∈ ws, w.1 ≠ b) : readByte (homeWrite s c ws).mem b = readByte s.mem b := by
  cases ws with
  | nil => rfl
  | cons w ws =>
    obtain ⟨a, v⟩ := w
    simp only [State.homeWf, Bool.and_eq_true] at h
    simp only [homeWrite]
    split
    · rfl
    · simp only [readByte, mesiSet_mem, bumpHome_mem]
      exact sget_sputAll_other h.1 hb

/-- A fold of operations that each keep the canonical form keeps it. -/
theorem homeWf_foldl {α : Type} {f : State → α → State} (hf : ∀ s a, s.homeWf = true → (f s a).homeWf = true) :
    ∀ (l : List α) {s : State}, s.homeWf = true → (l.foldl f s).homeWf = true
  | [], _, h => h
  | a :: l, _, h => homeWf_foldl hf l (hf _ a h)

/-- The positions of L1 lines in their sets, and snoops to the host, leave home memory alone (R46, R70, R78). -/
theorem touchLine_mem (s : State) (core key : Nat) : (touchLine s core key).mem = s.mem := rfl
theorem touchLine_wclk (s : State) (core key : Nat) : (touchLine s core key).wclk = s.wclk := rfl
theorem lowLine_mem (s : State) (core key : Nat) : (lowLine s core key).mem = s.mem := rfl
theorem lowLine_wclk (s : State) (core key : Nat) : (lowLine s core key).wclk = s.wclk := rfl

theorem homeWf_placeLines (old new : State) (core : Nat) (low : Bool) (keys : List Nat) (h : new.homeWf = true) :
    (placeLines old new core low keys).homeWf = true := by
  unfold placeLines
  refine homeWf_foldl (fun s k hs => ?_) keys h
  cases low
  · exact hs
  · simp only [if_true]
    split <;> exact hs

theorem homeWf_askHost (s : State) (secs : List Nat) (h : s.homeWf = true) : (askHost s secs).homeWf = true := by
  unfold askHost
  refine homeWf_foldl (fun s x hs => ?_) secs h
  show State.homeWf (if _ then _ else _) = true
  split <;> exact hs

/-- A line's bytes written back keep the canonical form (R78, R79). -/
theorem homeWf_writeBack (s : State) (core key : Nat) (h : s.homeWf = true) : (writeBack s core key).homeWf = true := by
  unfold writeBack
  split
  · exact h
  · split
    · exact h
    · exact homeWf_homeWrite s _ _ h

theorem homeWf_syncLine (s : State) (key : Nat) (h : s.homeWf = true) : (syncLine s key).homeWf = true :=
  homeWf_foldl (fun s _ hs => homeWf_writeBack s _ _ hs) _ h

/-- A device's own write keeps the canonical form, performed or waiting, and so do those that link tasks and fill lane records (R46, R65, R289, R304). -/
theorem homeWf_post (s : State) (core : Nat) (va : Option (Nat × Nat)) (ws : List (Nat × Byte)) (h : s.homeWf = true) :
    (post s core va ws).homeWf = true := by
  unfold post
  split
  · exact homeWf_askHost s _ h
  · exact homeWf_homeWrite _ _ _ h

theorem homeWf_poke (s : State) (die a : Nat) (bs : List Byte) (h : s.homeWf = true) : (poke s die a bs).homeWf = true := homeWf_post s _ none _ h

theorem homeWf_drainPosted (s : State) (h : s.homeWf = true) : (drainPosted s).homeWf = true :=
  homeWf_foldl (fun s p hs => homeWf_post s p.core p.va p.bytes hs) s.posted h

theorem homeWf_linkTasks (s : State) (die : Nat) (nos : List Nat) (h : s.homeWf = true) : (linkTasks s die nos).homeWf = true := by
  unfold linkTasks
  refine homeWf_foldl (fun s no hs => ?_) nos h
  split
  · exact homeWf_poke _ _ _ _ hs
  · exact hs

theorem homeWf_unqueue (s : State) (die : Nat) (t : Task) (h : s.homeWf = true) : (unqueue s die t).homeWf = true := homeWf_poke _ _ _ _ h

theorem homeWf_writeLaneRec (s : State) (d : Die) (place : Nat) (h : s.homeWf = true) : (writeLaneRec s d place).2.homeWf = true :=
  homeWf_poke _ _ _ _ h

end Sys2Proof.Machine
end

