-- ==== Sys2Proof/Laws/PerInstr.lean ====
section
/-! SUPPORT. Facts of every instruction as syntax, one lemma per constructor.  `Length`: an event has no halfword; an encoded
instruction has 1, 2 or 4 (R17, R22). -/

namespace Sys2Proof.Laws.Length

/-- An event has no word; an encoded instruction has 1, 2 or 4 halfwords (R17, R22). -/
def Statement (i : Instr) : Prop :=
  (i.encoded = false ∧ (encode i).length = 0) ∨ (i.encoded = true ∧ ((encode i).length = 1 ∨ (encode i).length = 2 ∨ (encode i).length = 4))

theorem event {i : Instr} (he : i.encoded = false) (h : encode i = []) : Statement i := .inl ⟨he, by rw [h]; rfl⟩

theorem word32 {i : Instr} {x : Pfx} {mj d a hi : Nat} {lit : Option Nat} (he : i.encoded = true) (h : encode i = w32 x mj d a hi lit) :
    Statement i := .inr ⟨he, by rw [h]; cases lit <;> simp [w32, litHalves]⟩

theorem wordB {i : Instr} {x : Pfx} {mj t off : Nat} {lit : Option Nat} (he : i.encoded = true) (h : encode i = wB x mj t off lit) :
    Statement i := .inr ⟨he, by rw [h]; cases lit <;> simp [wB, litHalves]⟩

theorem word16 {i : Instr} {op d v : Nat} (he : i.encoded = true) (h : encode i = w16 op d v) : Statement i :=
  .inr ⟨he, .inl (by rw [h]; rfl)⟩

theorem iadd (x : Pfx) (d a : RCode) (b : Src) : Statement (.iadd x d a b) := word32 rfl rfl
theorem isub (x : Pfx) (d a : RCode) (b : Src) : Statement (.isub x d a b) := word32 rfl rfl
theorem imul (x : Pfx) (d a : RCode) (b : Src) : Statement (.imul x d a b) := word32 rfl rfl
theorem imulh (x : Pfx) (d a : RCode) (b : Src) : Statement (.imulh x d a b) := word32 rfl rfl
theorem imulhu (x : Pfx) (d a : RCode) (b : Src) : Statement (.imulhu x d a b) := word32 rfl rfl
theorem imad (x : Pfx) (d a : RCode) (b : Src) : Statement (.imad x d a b) := word32 rfl rfl
theorem idiv (x : Pfx) (d a : RCode) (b : Src) : Statement (.idiv x d a b) := word32 rfl rfl
theorem idivu (x : Pfx) (d a : RCode) (b : Src) : Statement (.idivu x d a b) := word32 rfl rfl
theorem irem (x : Pfx) (d a : RCode) (b : Src) : Statement (.irem x d a b) := word32 rfl rfl
theorem iremu (x : Pfx) (d a : RCode) (b : Src) : Statement (.iremu x d a b) := word32 rfl rfl
theorem imin (x : Pfx) (d a : RCode) (b : Src) : Statement (.imin x d a b) := word32 rfl rfl
theorem imax (x : Pfx) (d a : RCode) (b : Src) : Statement (.imax x d a b) := word32 rfl rfl
theorem iminu (x : Pfx) (d a : RCode) (b : Src) : Statement (.iminu x d a b) := word32 rfl rfl
theorem imaxu (x : Pfx) (d a : RCode) (b : Src) : Statement (.imaxu x d a b) := word32 rfl rfl
theorem iadds (x : Pfx) (d a : RCode) (b : Src) : Statement (.iadds x d a b) := word32 rfl rfl
theorem isubs (x : Pfx) (d a : RCode) (b : Src) : Statement (.isubs x d a b) := word32 rfl rfl
theorem and (x : Pfx) (d a : RCode) (b : Src) : Statement (.and x d a b) := word32 rfl rfl
theorem or (x : Pfx) (d a : RCode) (b : Src) : Statement (.or x d a b) := word32 rfl rfl
theorem xor (x : Pfx) (d a : RCode) (b : Src) : Statement (.xor x d a b) := word32 rfl rfl
theorem andn (x : Pfx) (d a : RCode) (b : Src) : Statement (.andn x d a b) := word32 rfl rfl
theorem shl (x : Pfx) (d a : RCode) (b : Src) : Statement (.shl x d a b) := word32 rfl rfl
theorem shr (x : Pfx) (d a : RCode) (b : Src) : Statement (.shr x d a b) := word32 rfl rfl
theorem sar (x : Pfx) (d a : RCode) (b : Src) : Statement (.sar x d a b) := word32 rfl rfl
theorem rol (x : Pfx) (d a : RCode) (b : Src) : Statement (.rol x d a b) := word32 rfl rfl
theorem bfe (x : Pfx) (d a : RCode) (b : Src) : Statement (.bfe x d a b) := word32 rfl rfl
theorem bfi (x : Pfx) (d a : RCode) (b : Src) : Statement (.bfi x d a b) := word32 rfl rfl
theorem lea (x : Pfx) (d a : RCode) (b : Src) : Statement (.lea x d a b) := word32 rfl rfl
theorem idot4 (x : Pfx) (d a : RCode) (b : Src) : Statement (.idot4 x d a b) := word32 rfl rfl
theorem iunNot (x : Pfx) (d a : RCode) : Statement (.iunNot x d a) := word32 rfl rfl
theorem iunIneg (x : Pfx) (d a : RCode) : Statement (.iunIneg x d a) := word32 rfl rfl
theorem iunIabs (x : Pfx) (d a : RCode) : Statement (.iunIabs x d a) := word32 rfl rfl
theorem iunPopc (x : Pfx) (d a : RCode) : Statement (.iunPopc x d a) := word32 rfl rfl
theorem iunClz (x : Pfx) (d a : RCode) : Statement (.iunClz x d a) := word32 rfl rfl
theorem iunBrev (x : Pfx) (d a : RCode) : Statement (.iunBrev x d a) := word32 rfl rfl
theorem iunSx8 (x : Pfx) (d a : RCode) : Statement (.iunSx8 x d a) := word32 rfl rfl
theorem iunSx16 (x : Pfx) (d a : RCode) : Statement (.iunSx16 x d a) := word32 rfl rfl
theorem iunZx8 (x : Pfx) (d a : RCode) : Statement (.iunZx8 x d a) := word32 rfl rfl
theorem iunZx16 (x : Pfx) (d a : RCode) : Statement (.iunZx16 x d a) := word32 rfl rfl
theorem iceq (x : Pfx) (p e k : BitVec 2) (a : RCode) (b : Src) : Statement (.iceq x p e k a b) := word32 rfl rfl
theorem icne (x : Pfx) (p e k : BitVec 2) (a : RCode) (b : Src) : Statement (.icne x p e k a b) := word32 rfl rfl
theorem iclt (x : Pfx) (p e k : BitVec 2) (a : RCode) (b : Src) : Statement (.iclt x p e k a b) := word32 rfl rfl
theorem icle (x : Pfx) (p e k : BitVec 2) (a : RCode) (b : Src) : Statement (.icle x p e k a b) := word32 rfl rfl
theorem icltu (x : Pfx) (p e k : BitVec 2) (a : RCode) (b : Src) : Statement (.icltu x p e k a b) := word32 rfl rfl
theorem icleu (x : Pfx) (p e k : BitVec 2) (a : RCode) (b : Src) : Statement (.icleu x p e k a b) := word32 rfl rfl
theorem fceq (x : Pfx) (p e k : BitVec 2) (a : RCode) (b : Src) : Statement (.fceq x p e k a b) := word32 rfl rfl
theorem fclt (x : Pfx) (p e k : BitVec 2) (a : RCode) (b : Src) : Statement (.fclt x p e k a b) := word32 rfl rfl
theorem fcle (x : Pfx) (p e k : BitVec 2) (a : RCode) (b : Src) : Statement (.fcle x p e k a b) := word32 rfl rfl
theorem fcun (x : Pfx) (p e k : BitVec 2) (a : RCode) (b : Src) : Statement (.fcun x p e k a b) := word32 rfl rfl
theorem mov (x : Pfx) (d : RCode) (b : Src) : Statement (.mov x d b) := word32 rfl rfl
theorem sel (x : Pfx) (d a : RCode) (b : Src) : Statement (.sel x d a b) := word32 rfl rfl
theorem movu (x : Pfx) (d a : RCode) : Statement (.movu x d a) := word32 rfl rfl
theorem mova (x : Pfx) (d a : RCode) (b : Src) : Statement (.mova x d a b) := word32 rfl rfl
theorem shfli (x : Pfx) (d a : RCode) (b : Src) : Statement (.shfli x d a b) := word32 rfl rfl
theorem shflu (x : Pfx) (d a : RCode) (b : Src) : Statement (.shflu x d a b) := word32 rfl rfl
theorem shfld (x : Pfx) (d a : RCode) (b : Src) : Statement (.shfld x d a b) := word32 rfl rfl
theorem shflx (x : Pfx) (d a : RCode) (b : Src) : Statement (.shflx x d a b) := word32 rfl rfl
theorem voteAny (x : Pfx) (d a : RCode) : Statement (.voteAny x d a) := word32 rfl rfl
theorem voteAll (x : Pfx) (d a : RCode) : Statement (.voteAll x d a) := word32 rfl rfl
theorem voteBallot (x : Pfx) (d a : RCode) : Statement (.voteBallot x d a) := word32 rfl rfl
theorem tagf (x : Pfx) (f : Fmt) (d a : RCode) : Statement (.tagf x f d a) := word32 rfl rfl
theorem tagq (x : Pfx) (d a : RCode) : Statement (.tagq x d a) := word32 rfl rfl
theorem tclr (x : Pfx) (d : RCode) : Statement (.tclr x d) := word32 rfl rfl
theorem movs (x : Pfx) (r : SysReg) (d : RCode) : Statement (.movs x r d) := word32 rfl rfl
theorem movcRd (x : Pfx) (r : CtlReg) (d : RCode) : Statement (.movcRd x r d) := word32 rfl rfl
theorem movcWr (x : Pfx) (r : CtlReg) (a : RCode) : Statement (.movcWr x r a) := word32 rfl rfl
theorem pmovGet (x : Pfx) (d : RCode) : Statement (.pmovGet x d) := word32 rfl rfl
theorem pmovSet (x : Pfx) (a : RCode) : Statement (.pmovSet x a) := word32 rfl rfl
theorem fadd (x : Pfx) (d a : RCode) (b : Src) : Statement (.fadd x d a b) := word32 rfl rfl
theorem fsub (x : Pfx) (d a : RCode) (b : Src) : Statement (.fsub x d a b) := word32 rfl rfl
theorem fmul (x : Pfx) (d a : RCode) (b : Src) : Statement (.fmul x d a b) := word32 rfl rfl
theorem ffma (x : Pfx) (d a : RCode) (b : Src) : Statement (.ffma x d a b) := word32 rfl rfl
theorem fmin (x : Pfx) (d a : RCode) (b : Src) : Statement (.fmin x d a b) := word32 rfl rfl
theorem fmax (x : Pfx) (d a : RCode) (b : Src) : Statement (.fmax x d a b) := word32 rfl rfl
theorem fdiv (x : Pfx) (d a : RCode) (b : Src) : Statement (.fdiv x d a b) := word32 rfl rfl
theorem funFneg (x : Pfx) (d a : RCode) : Statement (.funFneg x d a) := word32 rfl rfl
theorem funFabs (x : Pfx) (d a : RCode) : Statement (.funFabs x d a) := word32 rfl rfl
theorem funFrcp (x : Pfx) (d a : RCode) : Statement (.funFrcp x d a) := word32 rfl rfl
theorem funFrsq (x : Pfx) (d a : RCode) : Statement (.funFrsq x d a) := word32 rfl rfl
theorem funFsqrt (x : Pfx) (d a : RCode) : Statement (.funFsqrt x d a) := word32 rfl rfl
theorem funFexp2 (x : Pfx) (d a : RCode) : Statement (.funFexp2 x d a) := word32 rfl rfl
theorem funFlog2 (x : Pfx) (d a : RCode) : Statement (.funFlog2 x d a) := word32 rfl rfl
theorem funFsin (x : Pfx) (d a : RCode) : Statement (.funFsin x d a) := word32 rfl rfl
theorem funFcos (x : Pfx) (d a : RCode) : Statement (.funFcos x d a) := word32 rfl rfl
theorem funFflr (x : Pfx) (d a : RCode) : Statement (.funFflr x d a) := word32 rfl rfl
theorem funFceil (x : Pfx) (d a : RCode) : Statement (.funFceil x d a) := word32 rfl rfl
theorem funFtrnc (x : Pfx) (d a : RCode) : Statement (.funFtrnc x d a) := word32 rfl rfl
theorem funFrint (x : Pfx) (d a : RCode) : Statement (.funFrint x d a) := word32 rfl rfl
theorem funFcls (x : Pfx) (d a : RCode) : Statement (.funFcls x d a) := word32 rfl rfl
theorem cvt (x : Pfx) (f : Fmt) (m : RMode) (sat : Bool) (d a : RCode) : Statement (.cvt x f m sat d a) := word32 rfl rfl
theorem bra (x : Pfx) (off : BitVec 14) (t : BitVec 4) : Statement (.bra x off t) := wordB rfl rfl
theorem brl (x : Pfx) (off : Word) (t : BitVec 4) : Statement (.brl x off t) := wordB rfl rfl
theorem call (x : Pfx) (off : BitVec 14) (t : BitVec 4) : Statement (.call x off t) := wordB rfl rfl
theorem jmpi (x : Pfx) (t : BitVec 4) (a : RCode) : Statement (.jmpi x t a) := word32 rfl rfl
theorem ret (x : Pfx) (t : BitVec 4) (a : RCode) : Statement (.ret x t a) := word32 rfl rfl
theorem exit (x : Pfx) : Statement (.exit x) := word32 rfl rfl
theorem join (x : Pfx) (n s : BitVec 3) : Statement (.join x n s) := word32 rfl rfl
theorem leave (x : Pfx) (s : BitVec 3) : Statement (.leave x s) := word32 rfl rfl
theorem bar (x : Pfx) : Statement (.bar x) := word32 rfl rfl
theorem yield (x : Pfx) : Statement (.yield x) := word32 rfl rfl
theorem spawn (x : Pfx) (d a : RCode) : Statement (.spawn x d a) := word32 rfl rfl
theorem reord (x : Pfx) (n : BitVec 4) (k d : RCode) : Statement (.reord x n k d) := word32 rfl rfl
theorem ldb (x : Pfx) (h : BitVec 2) (m : BitVec 4) (d a : RCode) : Statement (.ldb x h m d a) := word32 rfl rfl
theorem ldbs (x : Pfx) (h : BitVec 2) (m : BitVec 4) (d a : RCode) : Statement (.ldbs x h m d a) := word32 rfl rfl
theorem ldh (x : Pfx) (h : BitVec 2) (m : BitVec 4) (d a : RCode) : Statement (.ldh x h m d a) := word32 rfl rfl
theorem ldhs (x : Pfx) (h : BitVec 2) (m : BitVec 4) (d a : RCode) : Statement (.ldhs x h m d a) := word32 rfl rfl
theorem ldw (x : Pfx) (h : BitVec 2) (m : BitVec 4) (d a : RCode) : Statement (.ldw x h m d a) := word32 rfl rfl
theorem ldd (x : Pfx) (h : BitVec 2) (m : BitVec 4) (d a : RCode) : Statement (.ldd x h m d a) := word32 rfl rfl
theorem ldq (x : Pfx) (h : BitVec 2) (m : BitVec 4) (d a : RCode) : Statement (.ldq x h m d a) := word32 rfl rfl
theorem stb (x : Pfx) (h : BitVec 2) (m : BitVec 4) (d a : RCode) : Statement (.stb x h m d a) := word32 rfl rfl
theorem sth (x : Pfx) (h : BitVec 2) (m : BitVec 4) (d a : RCode) : Statement (.sth x h m d a) := word32 rfl rfl
theorem stw (x : Pfx) (h : BitVec 2) (m : BitVec 4) (d a : RCode) : Statement (.stw x h m d a) := word32 rfl rfl
theorem std (x : Pfx) (h : BitVec 2) (m : BitVec 4) (d a : RCode) : Statement (.std x h m d a) := word32 rfl rfl
theorem stq (x : Pfx) (h : BitVec 2) (m : BitVec 4) (d a : RCode) : Statement (.stq x h m d a) := word32 rfl rfl
theorem lda (x : Pfx) (d a : RCode) : Statement (.lda x d a) := word32 rfl rfl
theorem sta (x : Pfx) (d a : RCode) : Statement (.sta x d a) := word32 rfl rfl
theorem ldm (x : Pfx) (h : BitVec 2) (m : BitVec 4) (n : BitVec 3) (d a : RCode) : Statement (.ldm x h m n d a) := word32 rfl rfl
theorem stm (x : Pfx) (h : BitVec 2) (m : BitVec 4) (n : BitVec 3) (d a : RCode) : Statement (.stm x h m n d a) := word32 rfl rfl
theorem mrec (x : Pfx) (m : BitVec 4) (d : RCode) : Statement (.mrec x m d) := word32 rfl rfl
theorem mrst (x : Pfx) (m : BitVec 4) (d : RCode) : Statement (.mrst x m d) := word32 rfl rfl
theorem pref (x : Pfx) (h : BitVec 2) (m : BitVec 4) (a : RCode) : Statement (.pref x h m a) := word32 rfl rfl
theorem linv (x : Pfx) (m : BitVec 4) (a : RCode) : Statement (.linv x m a) := word32 rfl rfl
theorem axchg (x : Pfx) (h : BitVec 2) (m : BitVec 4) (d a : RCode) : Statement (.axchg x h m d a) := word32 rfl rfl
theorem acas (x : Pfx) (h : BitVec 2) (m : BitVec 4) (d a : RCode) : Statement (.acas x h m d a) := word32 rfl rfl
theorem aadd (x : Pfx) (h : BitVec 2) (m : BitVec 4) (d a : RCode) : Statement (.aadd x h m d a) := word32 rfl rfl
theorem amin (x : Pfx) (h : BitVec 2) (m : BitVec 4) (d a : RCode) : Statement (.amin x h m d a) := word32 rfl rfl
theorem amax (x : Pfx) (h : BitVec 2) (m : BitVec 4) (d a : RCode) : Statement (.amax x h m d a) := word32 rfl rfl
theorem aminu (x : Pfx) (h : BitVec 2) (m : BitVec 4) (d a : RCode) : Statement (.aminu x h m d a) := word32 rfl rfl
theorem amaxu (x : Pfx) (h : BitVec 2) (m : BitVec 4) (d a : RCode) : Statement (.amaxu x h m d a) := word32 rfl rfl
theorem aand (x : Pfx) (h : BitVec 2) (m : BitVec 4) (d a : RCode) : Statement (.aand x h m d a) := word32 rfl rfl
theorem aor (x : Pfx) (h : BitVec 2) (m : BitVec 4) (d a : RCode) : Statement (.aor x h m d a) := word32 rfl rfl
theorem axor (x : Pfx) (h : BitVec 2) (m : BitVec 4) (d a : RCode) : Statement (.axor x h m d a) := word32 rfl rfl
theorem afadd (x : Pfx) (h : BitVec 2) (m : BitVec 4) (d a : RCode) : Statement (.afadd x h m d a) := word32 rfl rfl
theorem ldacq (x : Pfx) (m : BitVec 4) (d a : RCode) : Statement (.ldacq x m d a) := word32 rfl rfl
theorem strel (x : Pfx) (m : BitVec 4) (d a : RCode) : Statement (.strel x m d a) := word32 rfl rfl
theorem fence (x : Pfx) (sc : BitVec 2) : Statement (.fence x sc) := word32 rfl rfl
theorem bcopyG2a (x : Pfx) (m : BitVec 4) (d : RCode) : Statement (.bcopyG2a x m d) := word32 rfl rfl
theorem bcopyG2w (x : Pfx) (m : BitVec 4) (d : RCode) : Statement (.bcopyG2w x m d) := word32 rfl rfl
theorem bcopyA2g (x : Pfx) (m : BitVec 4) (d : RCode) : Statement (.bcopyA2g x m d) := word32 rfl rfl
theorem bcopyA2w (x : Pfx) (d : RCode) : Statement (.bcopyA2w x d) := word32 rfl rfl
theorem batchSeal (x : Pfx) (d : RCode) : Statement (.batchSeal x d) := word32 rfl rfl
theorem batchWait (x : Pfx) (a : RCode) : Statement (.batchWait x a) := word32 rfl rfl
theorem batchPoll (x : Pfx) (d a : RCode) : Statement (.batchPoll x d a) := word32 rfl rfl
theorem baroInit (x : Pfx) (a : RCode) : Statement (.baroInit x a) := word32 rfl rfl
theorem baroArrive (x : Pfx) (a : RCode) : Statement (.baroArrive x a) := word32 rfl rfl
theorem baroWait (x : Pfx) (a : RCode) : Statement (.baroWait x a) := word32 rfl rfl
theorem mma (x : Pfx) (d a : RCode) (b : Src) : Statement (.mma x d a b) := word32 rfl rfl
theorem mmas (x : Pfx) (d a : RCode) (b : Src) : Statement (.mmas x d a b) := word32 rfl rfl
theorem mclrFp32 (x : Pfx) (d : RCode) : Statement (.mclrFp32 x d) := word32 rfl rfl
theorem mclrI32 (x : Pfx) (d : RCode) : Statement (.mclrI32 x d) := word32 rfl rfl
theorem mqnt (x : Pfx) (d a : RCode) (b : Src) : Statement (.mqnt x d a b) := word32 rfl rfl
theorem mscl (x : Pfx) (a : RCode) (b : Src) : Statement (.mscl x a b) := word32 rfl rfl
theorem mhnd (x : Pfx) (b : Src) : Statement (.mhnd x b) := word32 rfl rfl
theorem qopPush (x : Pfx) (q : BitVec 4) (a : RCode) : Statement (.qopPush x q a) := word32 rfl rfl
theorem qopPop (x : Pfx) (q : BitVec 4) (k : BitVec 2) (d : RCode) : Statement (.qopPop x q k d) := word32 rfl rfl
theorem qopDem (x : Pfx) (q : BitVec 4) (a : RCode) : Statement (.qopDem x q a) := word32 rfl rfl
theorem qopStat (x : Pfx) (q : BitVec 4) (d : RCode) : Statement (.qopStat x q d) := word32 rfl rfl
theorem sysTrap (x : Pfx) (n : BitVec 6) : Statement (.sysTrap x n) := word32 rfl rfl
theorem sysRtt (x : Pfx) : Statement (.sysRtt x) := word32 rfl rfl
theorem sysSysc (x : Pfx) (n : BitVec 6) : Statement (.sysSysc x n) := word32 rfl rfl
theorem sysSusp (x : Pfx) (a : RCode) : Statement (.sysSusp x a) := word32 rfl rfl
theorem sysResm (x : Pfx) (a : RCode) : Statement (.sysResm x a) := word32 rfl rfl
theorem sysRdcv (x : Pfx) (d a : RCode) : Statement (.sysRdcv x d a) := word32 rfl rfl
theorem sysWrcv (x : Pfx) (d a : RCode) : Statement (.sysWrcv x d a) := word32 rfl rfl
theorem sysIcinv (x : Pfx) (d a : RCode) : Statement (.sysIcinv x d a) := word32 rfl rfl
theorem sysTlbinv (x : Pfx) (d a : RCode) : Statement (.sysTlbinv x d a) := word32 rfl rfl
theorem sysHalt (x : Pfx) : Statement (.sysHalt x) := word32 rfl rfl
theorem sysIswap (x : Pfx) (d a : RCode) : Statement (.sysIswap x d a) := word32 rfl rfl
theorem dbgBrk (x : Pfx) : Statement (.dbgBrk x) := word32 rfl rfl
theorem dbgTrace (x : Pfx) (n : BitVec 6) (a : RCode) : Statement (.dbgTrace x n a) := word32 rfl rfl
theorem dbgMark (x : Pfx) (n : BitVec 6) : Statement (.dbgMark x n) := word32 rfl rfl
theorem ordBegin (x : Pfx) (a : RCode) : Statement (.ordBegin x a) := word32 rfl rfl
theorem ordEnd (x : Pfx) : Statement (.ordEnd x) := word32 rfl rfl
theorem mov16 (d : BitVec 5) (v : RCode) : Statement (.mov16 d v) := word16 rfl rfl
theorem iadd16 (d : BitVec 5) (v : RCode) : Statement (.iadd16 d v) := word16 rfl rfl
theorem isub16 (d : BitVec 5) (v : RCode) : Statement (.isub16 d v) := word16 rfl rfl
theorem imul16 (d : BitVec 5) (v : RCode) : Statement (.imul16 d v) := word16 rfl rfl
theorem and16 (d : BitVec 5) (v : RCode) : Statement (.and16 d v) := word16 rfl rfl
theorem or16 (d : BitVec 5) (v : RCode) : Statement (.or16 d v) := word16 rfl rfl
theorem xor16 (d : BitVec 5) (v : RCode) : Statement (.xor16 d v) := word16 rfl rfl
theorem shl16 (d : BitVec 5) (v : RCode) : Statement (.shl16 d v) := word16 rfl rfl
theorem shr16 (d : BitVec 5) (v : RCode) : Statement (.shr16 d v) := word16 rfl rfl
theorem sar16 (d : BitVec 5) (v : RCode) : Statement (.sar16 d v) := word16 rfl rfl
theorem imin16 (d : BitVec 5) (v : RCode) : Statement (.imin16 d v) := word16 rfl rfl
theorem imax16 (d : BitVec 5) (v : RCode) : Statement (.imax16 d v) := word16 rfl rfl
theorem fadd16 (d : BitVec 5) (v : RCode) : Statement (.fadd16 d v) := word16 rfl rfl
theorem fmul16 (d : BitVec 5) (v : RCode) : Statement (.fmul16 d v) := word16 rfl rfl
theorem fsub16 (d : BitVec 5) (v : RCode) : Statement (.fsub16 d v) := word16 rfl rfl
theorem nop : Statement (.nop) := word16 rfl rfl
theorem brk : Statement (.brk) := word16 rfl rfl
theorem exit16 : Statement (.exit16) := word16 rfl rfl
theorem ret16 : Statement (.ret16) := word16 rfl rfl
theorem yield16 : Statement (.yield16) := word16 rfl rfl
theorem rendezvousDeadlock : Statement (.rendezvousDeadlock) := event rfl rfl
theorem frontQuantumExpire : Statement (.frontQuantumExpire) := event rfl rfl
theorem sqPush (die n : Nat) (v : BitVec 64) : Statement (.sqPush die n v) := event rfl rfl
theorem taskKill (die : Nat) (v : BitVec 64) : Statement (.taskKill die v) := event rfl rfl
theorem taskRetire : Statement (.taskRetire) := event rfl rfl
theorem placementDecision : Statement (.placementDecision) := event rfl rfl
theorem starvationReservation (die queue : Nat) : Statement (.starvationReservation die queue) := event rfl rfl
theorem blockWakeDone : Statement (.blockWakeDone) := event rfl rfl
theorem blockSaveComplete : Statement (.blockSaveComplete) := event rfl rfl
theorem preemptSlowStop : Statement (.preemptSlowStop) := event rfl rfl
theorem blockRetire : Statement (.blockRetire) := event rfl rfl
theorem allocationScrub : Statement (.allocationScrub) := event rfl rfl
theorem registerGroupGate (core group : Nat) : Statement (.registerGroupGate core group) := event rfl rfl
theorem enckeAgeFlush (die key : Nat) : Statement (.enckeAgeFlush die key) := event rfl rfl
theorem enckeFinalFlush (die task : Nat) : Statement (.enckeFinalFlush die task) := event rfl rfl
theorem loadDataReturn (flight line : Nat) : Statement (.loadDataReturn flight line) := event rfl rfl
theorem atomicReturn (flight line : Nat) : Statement (.atomicReturn flight line) := event rfl rfl
theorem writePerformed (flight line : Nat) : Statement (.writePerformed flight line) := event rfl rfl
theorem walkComplete : Statement (.walkComplete) := event rfl rfl
theorem missEntryFree : Statement (.missEntryFree) := event rfl rfl
theorem mshrAgeLimitReached : Statement (.mshrAgeLimitReached) := event rfl rfl
theorem lineRetry (flight line : Nat) : Statement (.lineRetry flight line) := event rfl rfl
theorem bcopyUnitMove (copy unit : Nat) : Statement (.bcopyUnitMove copy unit) := event rfl rfl
theorem matrixOccupancyEnd : Statement (.matrixOccupancyEnd) := event rfl rfl
theorem scPin (die n : Nat) (v : BitVec 64) : Statement (.scPin die n v) := event rfl rfl
theorem pinInstallDone (die n : Nat) : Statement (.pinInstallDone die n) := event rfl rfl
theorem scPartWrite (die off : Nat) (v : BitVec 64) : Statement (.scPartWrite die off v) := event rfl rfl
theorem mcPfqResp (die : Nat) (v : Word) : Statement (.mcPfqResp die v) := event rfl rfl
theorem mcPfqTail (die : Nat) (v : Word) : Statement (.mcPfqTail die v) := event rfl rfl
theorem hostRead (addr len : Nat) (keep : Option HostHold) : Statement (.hostRead addr len keep) := event rfl rfl
theorem hostWrite (addr : Nat) (data : List Byte) (keep : Option HostHold) : Statement (.hostWrite addr data keep) := event rfl rfl
theorem hostSnoop (addr : Nat) (inv : Bool) : Statement (.hostSnoop addr inv) := event rfl rfl
theorem birsp (sector : Nat) : Statement (.birsp sector) := event rfl rfl
theorem atsTranslationCompletion (req : Nat) (ans : AtsAnswer) : Statement (.atsTranslationCompletion req ans) := event rfl rfl
theorem pageGroupResponse (req : Nat) (code : PriCode) : Statement (.pageGroupResponse req code) := event rfl rfl
theorem priEnable : Statement (.priEnable) := event rfl rfl
theorem atsInvalidateRequest (pasid va pages : Nat) : Statement (.atsInvalidateRequest pasid va pages) := event rfl rfl
theorem shootdownAck (sd die : Nat) : Statement (.shootdownAck sd die) := event rfl rfl
theorem dieFence (die : Nat) : Statement (.dieFence die) := event rfl rfl
theorem icinvAck (ic core : Nat) : Statement (.icinvAck ic core) := event rfl rfl
theorem flitReceive (die : Nat) (crcOk : Bool) : Statement (.flitReceive die crcOk) := event rfl rfl
theorem laneLockLoss : Statement (.laneLockLoss) := event rfl rfl
theorem linkRetrainEnd (passed : Bool) : Statement (.linkRetrainEnd passed) := event rfl rfl
theorem linkHeartbeat : Statement (.linkHeartbeat) := event rfl rfl
theorem cellFire (die isl cell : Nat) : Statement (.cellFire die isl cell) := event rfl rfl
theorem tokenDeliver (die isl n : Nat) : Statement (.tokenDeliver die isl n) := event rfl rfl
theorem demandCreditArrive (die isl n : Nat) : Statement (.demandCreditArrive die isl n) := event rfl rfl
theorem tokenRequestArrive (die isl n : Nat) : Statement (.tokenRequestArrive die isl n) := event rfl rfl
theorem islandFetchReturn (die isl n : Nat) : Statement (.islandFetchReturn die isl n) := event rfl rfl
theorem islandStoreDone (die isl n : Nat) : Statement (.islandStoreDone die isl n) := event rfl rfl
theorem outputVectorDeliver (die isl port : Nat) : Statement (.outputVectorDeliver die isl port) := event rfl rfl
theorem pushEntryToPort (core q : Nat) : Statement (.pushEntryToPort core q) := event rfl rfl
theorem islandImageCheck : Statement (.islandImageCheck) := event rfl rfl
theorem traceRecordWrite : Statement (.traceRecordWrite) := event rfl rfl
theorem replayGateTimeout (die line : Nat) : Statement (.replayGateTimeout die line) := event rfl rfl
theorem trCtl (die : Nat) (v : Word) : Statement (.trCtl die v) := event rfl rfl
theorem trTime (v : BitVec 64) : Statement (.trTime v) := event rfl rfl
theorem trAdj (v : Word) : Statement (.trAdj v) := event rfl rfl
theorem traceSample (core : Nat) (v : Word) : Statement (.traceSample core v) := event rfl rfl
theorem registerWrite (off : Nat) (v : BitVec 64) : Statement (.registerWrite off v) := event rfl rfl
theorem bootClear (v : Word) : Statement (.bootClear v) := event rfl rfl
theorem fwErase : Statement (.fwErase) := event rfl rfl
theorem fwProgram : Statement (.fwProgram) := event rfl rfl
theorem fwVerify : Statement (.fwVerify) := event rfl rfl
theorem fwCommit : Statement (.fwCommit) := event rfl rfl
theorem fwInvalidCommand (code : Nat) : Statement (.fwInvalidCommand code) := event rfl rfl
theorem fwCommandComplete (flashOk : Bool) : Statement (.fwCommandComplete flashOk) := event rfl rfl
theorem getVersion : Statement (.getVersion) := event rfl rfl
theorem getCapabilities : Statement (.getCapabilities) := event rfl rfl
theorem negotiateAlgorithms : Statement (.negotiateAlgorithms) := event rfl rfl
theorem getDigests : Statement (.getDigests) := event rfl rfl
theorem getCertificate (slot off len : Nat) : Statement (.getCertificate slot off len) := event rfl rfl
theorem challenge (slot : Nat) (nonce : List Byte) : Statement (.challenge slot nonce) := event rfl rfl
theorem getMeasurements (index : Nat) (signed : Bool) (nonce : List Byte) : Statement (.getMeasurements index signed nonce) := event rfl rfl
theorem powerOnReset (env : BootEnv) : Statement (.powerOnReset env) := event rfl rfl
theorem standbyPowerLoss : Statement (.standbyPowerLoss) := event rfl rfl
theorem securityAlarm (monitors : BitVec 4) : Statement (.securityAlarm monitors) := event rfl rfl
theorem clockThrottle (lower : Bool) : Statement (.clockThrottle lower) := event rfl rfl
theorem thermalTrip : Statement (.thermalTrip) := event rfl rfl
theorem illegalInstruction (word lit : Word) (len : Nat) (why : Why) : Statement (.illegalInstruction word lit len why) := event rfl rfl
theorem trTail (v : Word) : Statement (.trTail v) := event rfl rfl
theorem eccError (die addr : Nat) (fixable : Bool) : Statement (.eccError die addr fixable) := event rfl rfl
theorem burstCrcFailure (die ctl : Nat) : Statement (.burstCrcFailure die ctl) := event rfl rfl

end Sys2Proof.Laws.Length
end

