-- ==== Sys2Proof/Laws/Writes.lean ====
section
/-! SUPPORT. What a result's write leaves: registers, the latch ring, and everything else of the crew as it was. -/

namespace Sys2Proof.Machine

theorem writeVd_frame (c : Crew) (d : Nat) (r : Reg) (a : Mask) (f : Bool) : writeVd c d r a f = { c with regs := (writeVd c d r a f).regs } := by
  unfold writeVd setReg; split <;> rfl

theorem pushLatch_frame (c : Crew) (r : Reg) (a : Mask) (f : Bool) :
    pushLatch c r a f = { c with latch := (pushLatch c r a f).latch, lvalid := (pushLatch c r a f).lvalid } := by
  unfold pushLatch; split <;> rfl

theorem pushLatch_regs (c : Crew) (r : Reg) (a : Mask) (f : Bool) : (pushLatch c r a f).regs = c.regs := by
  unfold pushLatch; split <;> rfl

theorem writeVd_latch (c : Crew) (d : Nat) (r : Reg) (a : Mask) (f : Bool) : (writeVd c d r a f).latch = c.latch := by
  rw [writeVd_frame]

theorem writeVd_lvalid (c : Crew) (d : Nat) (r : Reg) (a : Mask) (f : Bool) : (writeVd c d r a f).lvalid = c.lvalid := by
  rw [writeVd_frame]

/-- What a write leaves in each lane (R19, R125). -/
theorem newLanes_at (old res : Reg) (act : Mask) (full : Bool) {l : Nat} (hl : l < 32) : (newLanes old res act full).getD l 0 =
    if full = true ∧ res.shape = .u then res.at (firstLane act) else if full = true ∧ res.shape = .a then res.at l
    else if laneIn act l then res.at l else old.at l := by
  unfold newLanes
  cases full <;> cases hs : res.shape <;>
    simp only [reduceIte, reduceCtorEq, and_true, and_false, Bool.false_eq_true]
  all_goals first
    | (rw [List.getD_eq_getElem?_getD, List.getElem?_replicate]; simp [hl])
    | (simp only [mergeLanes, laneIds, Reg.at, List.getD_eq_getElem?_getD, List.getElem?_map, List.getElem?_range hl, Option.map_some, Option.getD_some])

/-- A result's write changes the registers and the latch ring only (R132, R147). -/
theorem writeResult_frame (c : Crew) (d : Nat) (r : Reg) (a : Mask) (f : Bool) :
    writeResult c d r a f = { c with regs := (writeResult c d r a f).regs, latch := (writeResult c d r a f).latch
                                     lvalid := (writeResult c d r a f).lvalid } := by
  unfold writeResult
  split
  · rfl
  · rw [pushLatch_frame (writeVd c d r a f), writeVd_frame]

theorem writeResult_id (c : Crew) (d : Nat) (r : Reg) (a : Mask) (f : Bool) : (writeResult c d r a f).id = c.id := by
  rw [writeResult_frame]

/-- An instruction that acts on each participant's crew by itself gives what its function gives. -/
theorem gives_each {sp : Spec} {f : Part → Crew → Option Nat × Crew} {R : Part → Crew → Crew → Prop}
    (he : ∀ s, exec sp.i s = issue sp (eachCrew f) s) (h0 : ∀ p c, p.act = 0 → f p c = (none, c))
    (h1 : ∀ p c d, p.act ≠ 0 → R p c d → f p c = (none, d) ∧ d.id = c.id) : Gives sp R := by
  intro s x t r hp h
  rw [he]
  refine issue_each hp fun p hm => ?_
  obtain ⟨c, hc, h2, h3⟩ := h p hm
  refine ⟨c, hc, ?_⟩
  by_cases ha : p.act = 0
  · rw [h2 ha]; exact ⟨h0 p c ha, rfl⟩
  · exact h1 p c _ ha (h3 ha)

/-- What a two-source effect answers (R147). -/
theorem bin_result {fm : Fmt → Fmt → Option Fmt} {w : Fmt → Word → Word → Word} {sh : Fmt → Reg → Reg → Shape} {d a : RCode} {b : Src}
    {p : Part} {c e : Crew} (h : p.act ≠ 0) (hr : twoResult fm sh w d a b p c e) : bin fm w sh d a b p c = (none, e) ∧ e.id = c.id := by
  obtain ⟨ra, rb, f, h1, h2, h3, rfl⟩ := hr
  exact ⟨by unfold bin; rw [if_neg h]; simp only [h1, h2, h3], writeResult_id ..⟩

/-- What a three-source effect answers (R153). -/
theorem tri_result {fm : Fmt → Fmt → Fmt → Option Fmt} {w : Fmt → Word → Word → Word → Word} {d a : RCode} {b : Src}
    {p : Part} {c e : Crew} (h : p.act ≠ 0) (hr : threeResult fm w d a b p c e) : tri fm w d a b p c = (none, e) ∧ e.id = c.id := by
  obtain ⟨ra, rb, f, h1, h2, h3, rfl⟩ := hr
  exact ⟨by unfold tri; rw [if_neg h]; simp only [h1, h2, h3], writeResult_id ..⟩

/-- What a one-source effect answers (R154). -/
theorem una_result {fm : Fmt → Option Fmt} {w : Fmt → Word → Word} {d a : RCode} {p : Part} {c e : Crew} (h : p.act ≠ 0)
    (hr : oneResult fm w d a p c e) : una fm w d a p c = (none, e) ∧ e.id = c.id := by
  obtain ⟨ra, f, h1, h2, rfl⟩ := hr
  exact ⟨by unfold una; rw [if_neg h]; simp only [h1, h2], writeResult_id ..⟩

/-- What a compare answers (R23, R155, R173). -/
theorem cmp_result {fm : Fmt → Fmt → Bool} {w : Fmt → Word → Word → Bool} {q e k : BitVec 2} {a : RCode} {b : Src}
    {p : Part} {c d : Crew} (h : p.act ≠ 0) (hr : cmpResult fm w q e k a b p c d) : cmp fm w q e k a b p c = (none, d) ∧ d.id = c.id := by
  obtain ⟨ra, rb, h1, h2, h3, rfl⟩ := hr
  exact ⟨by unfold cmp; rw [if_neg h]; simp only [h1, h2, h3, if_true], rfl⟩

end Sys2Proof.Machine
end

