-- ==== Sys2Proof/Tests/Slice0.lean ====
section
/-! SUPPORT. Tests: well-formedness, words, single steps, and a witness for the hypotheses of every statement. -/

open Sys2Proof Sys2Proof.Machine

namespace Sys2Proof.Tests

set_option maxRecDepth 100000
set_option Elab.async false

/-! ### Well-formedness: one ill-formed term for each check -/

theorem test_wf_register_63 : (Instr.iadd ⟨false, .lane, ⟨false, 3⟩⟩ 1 2 (.reg 63)).wellFormed = false := by decide +kernel
theorem test_wf_literal : (Instr.iadd ⟨false, .lane, ⟨false, 3⟩⟩ 1 2 (.lit 63)).wellFormed = true := by decide +kernel
theorem test_wf_lane_only : (Instr.exit ⟨false, .crew, ⟨false, 3⟩⟩).wellFormed = false := by decide +kernel
theorem test_wf_crew_only : (Instr.qopPush ⟨false, .lane, ⟨false, 3⟩⟩ 1 2).wellFormed = false := by decide +kernel
theorem test_wf_lane_crew : (Instr.sysTrap ⟨false, .set, ⟨false, 3⟩⟩ 1).wellFormed = false := by decide +kernel
theorem test_wf_crew_set : (Instr.mma ⟨false, .block, ⟨false, 3⟩⟩ 16 2 (.reg 3)).wellFormed = false := by decide +kernel
theorem test_wf_crew_set_block : (Instr.bar ⟨false, .lane, ⟨false, 3⟩⟩).wellFormed = false := by decide +kernel
theorem test_wf_cvt_format : (Instr.cvt ⟨false, .lane, ⟨false, 3⟩⟩ .raw32 .rne false 1 2).wellFormed = false := by decide +kernel

/-! ### Words -/

/-- The decoder reads the instruction from the word, and the instruction is well formed. -/
def decodesTo (p : Nat × Nat × Instr) : Bool := decodeTableWord p.1 p.2.1 == some p.2.2 && p.2.2.wellFormed

/-- Words of the integer group, composed from the encoding tables (Tables 2-1 to 2-7): stop 1, guard !p1. -/
theorem test_words_integer :
    [
      (32, 0x349140D3, .iadd ⟨true, .lane, ⟨true, 1⟩⟩ 5 9 (.reg 13)),
      (32, 0x34914157, .isub ⟨true, .crew, ⟨true, 1⟩⟩ 5 9 (.reg 13)),
      (32, 0x349141DB, .imul ⟨true, .set, ⟨true, 1⟩⟩ 5 9 (.reg 13)),
      (32, 0x3491425F, .imulh ⟨true, .block, ⟨true, 1⟩⟩ 5 9 (.reg 13)),
      (32, 0x349142D3, .imulhu ⟨true, .lane, ⟨true, 1⟩⟩ 5 9 (.reg 13)),
      (32, 0x34914357, .imad ⟨true, .crew, ⟨true, 1⟩⟩ 5 9 (.reg 13)),
      (32, 0x349143DB, .idiv ⟨true, .set, ⟨true, 1⟩⟩ 5 9 (.reg 13)),
      (32, 0x3491445F, .idivu ⟨true, .block, ⟨true, 1⟩⟩ 5 9 (.reg 13)),
      (32, 0x349144D3, .irem ⟨true, .lane, ⟨true, 1⟩⟩ 5 9 (.reg 13)),
      (32, 0x34914557, .iremu ⟨true, .crew, ⟨true, 1⟩⟩ 5 9 (.reg 13)),
      (32, 0x349145DB, .imin ⟨true, .set, ⟨true, 1⟩⟩ 5 9 (.reg 13)),
      (32, 0x3491465F, .imax ⟨true, .block, ⟨true, 1⟩⟩ 5 9 (.reg 13)),
      (32, 0x349146D3, .iminu ⟨true, .lane, ⟨true, 1⟩⟩ 5 9 (.reg 13)),
      (32, 0x34914757, .imaxu ⟨true, .crew, ⟨true, 1⟩⟩ 5 9 (.reg 13)),
      (32, 0x349147DB, .iadds ⟨true, .set, ⟨true, 1⟩⟩ 5 9 (.reg 13)),
      (32, 0x3491485F, .isubs ⟨true, .block, ⟨true, 1⟩⟩ 5 9 (.reg 13)),
      (32, 0x349148D3, .and ⟨true, .lane, ⟨true, 1⟩⟩ 5 9 (.reg 13)),
      (32, 0x34914957, .or ⟨true, .crew, ⟨true, 1⟩⟩ 5 9 (.reg 13)),
      (32, 0x349149DB, .xor ⟨true, .set, ⟨true, 1⟩⟩ 5 9 (.reg 13)),
      (32, 0x34914A5F, .andn ⟨true, .block, ⟨true, 1⟩⟩ 5 9 (.reg 13)),
      (32, 0x34914AD3, .shl ⟨true, .lane, ⟨true, 1⟩⟩ 5 9 (.reg 13)),
      (32, 0x34914B57, .shr ⟨true, .crew, ⟨true, 1⟩⟩ 5 9 (.reg 13)),
      (32, 0x34914BDB, .sar ⟨true, .set, ⟨true, 1⟩⟩ 5 9 (.reg 13)),
      (32, 0x34914C5F, .rol ⟨true, .block, ⟨true, 1⟩⟩ 5 9 (.reg 13)),
      (32, 0x34914CD3, .bfe ⟨true, .lane, ⟨true, 1⟩⟩ 5 9 (.reg 13)),
      (32, 0x34914D57, .bfi ⟨true, .crew, ⟨true, 1⟩⟩ 5 9 (.reg 13)),
      (32, 0x34914DDB, .lea ⟨true, .set, ⟨true, 1⟩⟩ 5 9 (.reg 13)),
      (32, 0x34914E5F, .idot4 ⟨true, .block, ⟨true, 1⟩⟩ 5 9 (.reg 13)),
      (32, 0x00914ED3, .iunNot ⟨true, .lane, ⟨true, 1⟩⟩ 5 9),
      (32, 0x04914ED7, .iunIneg ⟨true, .crew, ⟨true, 1⟩⟩ 5 9),
      (32, 0x08914EDB, .iunIabs ⟨true, .set, ⟨true, 1⟩⟩ 5 9),
      (32, 0x0C914EDF, .iunPopc ⟨true, .block, ⟨true, 1⟩⟩ 5 9),
      (32, 0x10914ED3, .iunClz ⟨true, .lane, ⟨true, 1⟩⟩ 5 9),
      (32, 0x14914ED7, .iunBrev ⟨true, .crew, ⟨true, 1⟩⟩ 5 9),
      (32, 0x18914EDB, .iunSx8 ⟨true, .set, ⟨true, 1⟩⟩ 5 9),
      (32, 0x1C914EDF, .iunSx16 ⟨true, .block, ⟨true, 1⟩⟩ 5 9),
      (32, 0x20914ED3, .iunZx8 ⟨true, .lane, ⟨true, 1⟩⟩ 5 9),
      (32, 0x24914ED7, .iunZx16 ⟨true, .crew, ⟨true, 1⟩⟩ 5 9),
      (32, 0x34990F5B, .iceq ⟨true, .set, ⟨true, 1⟩⟩ 0 1 2 9 (.reg 13)),
      (32, 0x34990FDF, .icne ⟨true, .block, ⟨true, 1⟩⟩ 0 1 2 9 (.reg 13)),
      (32, 0x34991053, .iclt ⟨true, .lane, ⟨true, 1⟩⟩ 0 1 2 9 (.reg 13)),
      (32, 0x349910D7, .icle ⟨true, .crew, ⟨true, 1⟩⟩ 0 1 2 9 (.reg 13)),
      (32, 0x3499115B, .icltu ⟨true, .set, ⟨true, 1⟩⟩ 0 1 2 9 (.reg 13)),
      (32, 0x349911DF, .icleu ⟨true, .block, ⟨true, 1⟩⟩ 0 1 2 9 (.reg 13)),
      (32, 0x34991253, .fceq ⟨true, .lane, ⟨true, 1⟩⟩ 0 1 2 9 (.reg 13)),
      (32, 0x349912D7, .fclt ⟨true, .crew, ⟨true, 1⟩⟩ 0 1 2 9 (.reg 13)),
      (32, 0x3499135B, .fcle ⟨true, .set, ⟨true, 1⟩⟩ 0 1 2 9 (.reg 13)),
      (32, 0x349913DF, .fcun ⟨true, .block, ⟨true, 1⟩⟩ 0 1 2 9 (.reg 13))
    ].all decodesTo = true := by decide +kernel

/-- Words of the moves group, composed from the encoding tables (Tables 2-1 to 2-7): stop 1, guard !p1. -/
theorem test_words_moves :
    [
      (32, 0xF4015453, .mov ⟨true, .lane, ⟨true, 1⟩⟩ 5 (.reg 61)),
      (32, 0x349154D7, .sel ⟨true, .crew, ⟨true, 1⟩⟩ 5 9 (.reg 13)),
      (32, 0x0091555B, .movu ⟨true, .set, ⟨true, 1⟩⟩ 5 9),
      (32, 0x349155DF, .mova ⟨true, .block, ⟨true, 1⟩⟩ 5 9 (.reg 13)),
      (32, 0x34915653, .shfli ⟨true, .lane, ⟨true, 1⟩⟩ 5 9 (.reg 13)),
      (32, 0x349156D7, .shflu ⟨true, .crew, ⟨true, 1⟩⟩ 5 9 (.reg 13)),
      (32, 0x3491575B, .shfld ⟨true, .set, ⟨true, 1⟩⟩ 5 9 (.reg 13)),
      (32, 0x349157DF, .shflx ⟨true, .block, ⟨true, 1⟩⟩ 5 9 (.reg 13)),
      (32, 0x00915853, .voteAny ⟨true, .lane, ⟨true, 1⟩⟩ 5 9),
      (32, 0x04915857, .voteAll ⟨true, .crew, ⟨true, 1⟩⟩ 5 9),
      (32, 0x0891585B, .voteBallot ⟨true, .set, ⟨true, 1⟩⟩ 5 9),
      (32, 0x349158DF, .tagf ⟨true, .block, ⟨true, 1⟩⟩ .bf16x2 5 9),
      (32, 0x00915953, .tagq ⟨true, .lane, ⟨true, 1⟩⟩ 5 9),
      (32, 0x000159D7, .tclr ⟨true, .crew, ⟨true, 1⟩⟩ 5),
      (32, 0x34015A5B, .movs ⟨true, .set, ⟨true, 1⟩⟩ .clocklo 5),
      (64, 0x0000002000015AD3, .movcRd ⟨true, .lane, ⟨true, 1⟩⟩ .trapVector 5),
      (64, 0x0000001004901AD3, .movcWr ⟨true, .lane, ⟨true, 1⟩⟩ .frontQuantum 9),
      (32, 0x00015B57, .pmovGet ⟨true, .crew, ⟨true, 1⟩⟩ 5),
      (32, 0x04901B5B, .pmovSet ⟨true, .set, ⟨true, 1⟩⟩ 9),
      (64, 0x0000007CFC915FD3, .cvt ⟨true, .lane, ⟨true, 1⟩⟩ .fp16x1 .rup true 5 9)
    ].all decodesTo = true := by decide +kernel

/-- Words of the float group, composed from the encoding tables (Tables 2-1 to 2-7): stop 1, guard !p1. -/
theorem test_words_float :
    [
      (32, 0x34915BDF, .fadd ⟨true, .block, ⟨true, 1⟩⟩ 5 9 (.reg 13)),
      (32, 0x34915C53, .fsub ⟨true, .lane, ⟨true, 1⟩⟩ 5 9 (.reg 13)),
      (32, 0x34915CD7, .fmul ⟨true, .crew, ⟨true, 1⟩⟩ 5 9 (.reg 13)),
      (32, 0x34915D5B, .ffma ⟨true, .set, ⟨true, 1⟩⟩ 5 9 (.reg 13)),
      (32, 0x34915DDF, .fmin ⟨true, .block, ⟨true, 1⟩⟩ 5 9 (.reg 13)),
      (32, 0x34915E53, .fmax ⟨true, .lane, ⟨true, 1⟩⟩ 5 9 (.reg 13)),
      (32, 0x34915ED7, .fdiv ⟨true, .crew, ⟨true, 1⟩⟩ 5 9 (.reg 13)),
      (32, 0x00915F5B, .funFneg ⟨true, .set, ⟨true, 1⟩⟩ 5 9),
      (32, 0x04915F5F, .funFabs ⟨true, .block, ⟨true, 1⟩⟩ 5 9),
      (32, 0x08915F53, .funFrcp ⟨true, .lane, ⟨true, 1⟩⟩ 5 9),
      (32, 0x0C915F57, .funFrsq ⟨true, .crew, ⟨true, 1⟩⟩ 5 9),
      (32, 0x10915F5B, .funFsqrt ⟨true, .set, ⟨true, 1⟩⟩ 5 9),
      (32, 0x14915F5F, .funFexp2 ⟨true, .block, ⟨true, 1⟩⟩ 5 9),
      (32, 0x18915F53, .funFlog2 ⟨true, .lane, ⟨true, 1⟩⟩ 5 9),
      (32, 0x1C915F57, .funFsin ⟨true, .crew, ⟨true, 1⟩⟩ 5 9),
      (32, 0x20915F5B, .funFcos ⟨true, .set, ⟨true, 1⟩⟩ 5 9),
      (32, 0x24915F5F, .funFflr ⟨true, .block, ⟨true, 1⟩⟩ 5 9),
      (32, 0x28915F53, .funFceil ⟨true, .lane, ⟨true, 1⟩⟩ 5 9),
      (32, 0x2C915F57, .funFtrnc ⟨true, .crew, ⟨true, 1⟩⟩ 5 9),
      (32, 0x30915F5B, .funFrint ⟨true, .set, ⟨true, 1⟩⟩ 5 9),
      (32, 0x34915F5F, .funFcls ⟨true, .block, ⟨true, 1⟩⟩ 5 9)
    ].all decodesTo = true := by decide +kernel

/-- Words of the control group, composed from the encoding tables (Tables 2-1 to 2-7): stop 1, guard !p1. -/
theorem test_words_control :
    [
      (32, 0x800DA057, .bra ⟨true, .crew, ⟨true, 1⟩⟩ 0x2003 6),
      (64, 0xFFFFFF000001A0DB, .brl ⟨true, .set, ⟨true, 1⟩⟩ 0xFFFFFF00 6),
      (32, 0x800DA15F, .call ⟨true, .block, ⟨true, 1⟩⟩ 0x2003 6),
      (32, 0x189021D3, .jmpi ⟨true, .lane, ⟨true, 1⟩⟩ 6 9),
      (32, 0x18902257, .ret ⟨true, .crew, ⟨true, 1⟩⟩ 6 9),
      (32, 0x000022D3, .exit ⟨true, .lane, ⟨true, 1⟩⟩),
      (32, 0xA8002357, .join ⟨true, .crew, ⟨true, 1⟩⟩ 5 2),
      (32, 0x080023D7, .leave ⟨true, .crew, ⟨true, 1⟩⟩ 2),
      (32, 0x0000245B, .bar ⟨true, .set, ⟨true, 1⟩⟩),
      (32, 0x000024D3, .yield ⟨true, .lane, ⟨true, 1⟩⟩),
      (32, 0x0091655F, .spawn ⟨true, .block, ⟨true, 1⟩⟩ 5 9),
      (32, 0x312165D3, .reord ⟨true, .lane, ⟨true, 1⟩⟩ 11 18 5)
    ].all decodesTo = true := by decide +kernel

/-- Words of the memory group, composed from the encoding tables (Tables 2-1 to 2-7): stop 1, guard !p1. -/
theorem test_words_memory :
    [
      (32, 0xAC916657, .ldb ⟨true, .crew, ⟨true, 1⟩⟩ 2 11 5 9),
      (32, 0xAC9166DB, .ldbs ⟨true, .set, ⟨true, 1⟩⟩ 2 11 5 9),
      (32, 0xAC91675F, .ldh ⟨true, .block, ⟨true, 1⟩⟩ 2 11 5 9),
      (32, 0xAC9167D3, .ldhs ⟨true, .lane, ⟨true, 1⟩⟩ 2 11 5 9),
      (32, 0xAC916857, .ldw ⟨true, .crew, ⟨true, 1⟩⟩ 2 11 5 9),
      (32, 0xAC9168DB, .ldd ⟨true, .set, ⟨true, 1⟩⟩ 2 11 5 9),
      (32, 0xAC91695F, .ldq ⟨true, .block, ⟨true, 1⟩⟩ 2 11 5 9),
      (32, 0xAC9169D3, .stb ⟨true, .lane, ⟨true, 1⟩⟩ 2 11 5 9),
      (32, 0xAC916A57, .sth ⟨true, .crew, ⟨true, 1⟩⟩ 2 11 5 9),
      (32, 0xAC916ADB, .stw ⟨true, .set, ⟨true, 1⟩⟩ 2 11 5 9),
      (32, 0xAC916B5F, .std ⟨true, .block, ⟨true, 1⟩⟩ 2 11 5 9),
      (32, 0xAC916BD3, .stq ⟨true, .lane, ⟨true, 1⟩⟩ 2 11 5 9),
      (32, 0x00916C57, .lda ⟨true, .crew, ⟨true, 1⟩⟩ 5 9),
      (32, 0x00916CDB, .sta ⟨true, .set, ⟨true, 1⟩⟩ 5 9),
      (64, 0x00000007AC916D5F, .ldm ⟨true, .block, ⟨true, 1⟩⟩ 2 11 7 5 9),
      (64, 0x00000007AC916DD3, .stm ⟨true, .lane, ⟨true, 1⟩⟩ 2 11 7 5 9),
      (32, 0x2C016E57, .mrec ⟨true, .crew, ⟨true, 1⟩⟩ 11 5),
      (32, 0x2C016EDB, .mrst ⟨true, .set, ⟨true, 1⟩⟩ 11 5),
      (32, 0xAC902F5F, .pref ⟨true, .block, ⟨true, 1⟩⟩ 2 11 9),
      (32, 0x2C902FD3, .linv ⟨true, .lane, ⟨true, 1⟩⟩ 11 9),
      (32, 0xAC917057, .axchg ⟨true, .crew, ⟨true, 1⟩⟩ 2 11 5 9),
      (32, 0xAC9170DB, .acas ⟨true, .set, ⟨true, 1⟩⟩ 2 11 5 9),
      (32, 0xAC91715F, .aadd ⟨true, .block, ⟨true, 1⟩⟩ 2 11 5 9),
      (32, 0xAC9171D3, .amin ⟨true, .lane, ⟨true, 1⟩⟩ 2 11 5 9),
      (32, 0xAC917257, .amax ⟨true, .crew, ⟨true, 1⟩⟩ 2 11 5 9),
      (32, 0xAC9172DB, .aminu ⟨true, .set, ⟨true, 1⟩⟩ 2 11 5 9),
      (32, 0xAC91735F, .amaxu ⟨true, .block, ⟨true, 1⟩⟩ 2 11 5 9),
      (32, 0xAC9173D3, .aand ⟨true, .lane, ⟨true, 1⟩⟩ 2 11 5 9),
      (32, 0xAC917457, .aor ⟨true, .crew, ⟨true, 1⟩⟩ 2 11 5 9),
      (32, 0xAC9174DB, .axor ⟨true, .set, ⟨true, 1⟩⟩ 2 11 5 9),
      (32, 0xAC91755F, .afadd ⟨true, .block, ⟨true, 1⟩⟩ 2 11 5 9),
      (32, 0x2C9175D3, .ldacq ⟨true, .lane, ⟨true, 1⟩⟩ 11 5 9),
      (32, 0x2C917657, .strel ⟨true, .crew, ⟨true, 1⟩⟩ 11 5 9),
      (32, 0x002036DB, .fence ⟨true, .set, ⟨true, 1⟩⟩ 2),
      (32, 0x2C017757, .bcopyG2a ⟨true, .crew, ⟨true, 1⟩⟩ 11 5),
      (32, 0x6C017757, .bcopyG2w ⟨true, .crew, ⟨true, 1⟩⟩ 11 5),
      (32, 0xAC017757, .bcopyA2g ⟨true, .crew, ⟨true, 1⟩⟩ 11 5),
      (32, 0xC0017757, .bcopyA2w ⟨true, .crew, ⟨true, 1⟩⟩ 5),
      (32, 0x000177D7, .batchSeal ⟨true, .crew, ⟨true, 1⟩⟩ 5),
      (32, 0x049037D7, .batchWait ⟨true, .crew, ⟨true, 1⟩⟩ 9),
      (32, 0x089177D7, .batchPoll ⟨true, .crew, ⟨true, 1⟩⟩ 5 9),
      (32, 0x0090385B, .baroInit ⟨true, .set, ⟨true, 1⟩⟩ 9),
      (32, 0x0490385F, .baroArrive ⟨true, .block, ⟨true, 1⟩⟩ 9),
      (32, 0x08903853, .baroWait ⟨true, .lane, ⟨true, 1⟩⟩ 9)
    ].all decodesTo = true := by decide +kernel

/-- Words of the matrix queue system group, composed from the encoding tables (Tables 2-1 to 2-7): stop 1, guard !p1. -/
theorem test_words_matrix_queue_system :
    [
      (32, 0x349178DB, .mma ⟨true, .set, ⟨true, 1⟩⟩ 5 9 (.reg 13)),
      (32, 0x34917957, .mmas ⟨true, .crew, ⟨true, 1⟩⟩ 5 9 (.reg 13)),
      (32, 0x000179DB, .mclrFp32 ⟨true, .set, ⟨true, 1⟩⟩ 5),
      (32, 0x040179D7, .mclrI32 ⟨true, .crew, ⟨true, 1⟩⟩ 5),
      (32, 0x34917A5B, .mqnt ⟨true, .set, ⟨true, 1⟩⟩ 5 9 (.reg 13)),
      (32, 0x34903AD7, .mscl ⟨true, .crew, ⟨true, 1⟩⟩ 9 (.reg 13)),
      (32, 0x34003B57, .mhnd ⟨true, .crew, ⟨true, 1⟩⟩ (.reg 13)),
      (32, 0x2C903BD7, .qopPush ⟨true, .crew, ⟨true, 1⟩⟩ 11 9),
      (32, 0x6C217BD7, .qopPop ⟨true, .crew, ⟨true, 1⟩⟩ 11 2 5),
      (32, 0xAC903BDB, .qopDem ⟨true, .set, ⟨true, 1⟩⟩ 11 9),
      (32, 0xEC017BDF, .qopStat ⟨true, .block, ⟨true, 1⟩⟩ 11 5),
      (32, 0x000ABC53, .sysTrap ⟨true, .lane, ⟨true, 1⟩⟩ 0x2A),
      (32, 0x04003C57, .sysRtt ⟨true, .crew, ⟨true, 1⟩⟩),
      (32, 0x080ABC53, .sysSysc ⟨true, .lane, ⟨true, 1⟩⟩ 0x2A),
      (32, 0x0C903C57, .sysSusp ⟨true, .crew, ⟨true, 1⟩⟩ 9),
      (32, 0x10903C53, .sysResm ⟨true, .lane, ⟨true, 1⟩⟩ 9),
      (32, 0x14917C57, .sysRdcv ⟨true, .crew, ⟨true, 1⟩⟩ 5 9),
      (32, 0x18917C53, .sysWrcv ⟨true, .lane, ⟨true, 1⟩⟩ 5 9),
      (32, 0x1C917C57, .sysIcinv ⟨true, .crew, ⟨true, 1⟩⟩ 5 9),
      (32, 0x20917C53, .sysTlbinv ⟨true, .lane, ⟨true, 1⟩⟩ 5 9),
      (32, 0x24003C57, .sysHalt ⟨true, .crew, ⟨true, 1⟩⟩),
      (32, 0x28917C53, .sysIswap ⟨true, .lane, ⟨true, 1⟩⟩ 5 9),
      (32, 0x00003CD7, .dbgBrk ⟨true, .crew, ⟨true, 1⟩⟩),
      (32, 0x049ABCD3, .dbgTrace ⟨true, .lane, ⟨true, 1⟩⟩ 0x2A 9),
      (32, 0x080ABCD7, .dbgMark ⟨true, .crew, ⟨true, 1⟩⟩ 0x2A),
      (32, 0x00903D53, .ordBegin ⟨true, .lane, ⟨true, 1⟩⟩ 9),
      (32, 0x04003D53, .ordEnd ⟨true, .lane, ⟨true, 1⟩⟩)
    ].all decodesTo = true := by decide +kernel

/-- Words of the sixteen bit group, composed from the encoding tables (Tables 2-1 to 2-7): stop 1, guard !p1. -/
theorem test_words_sixteen_bit :
    [
      (16, 0xB660, .mov16 19 45),
      (16, 0xB662, .iadd16 19 45),
      (16, 0xB664, .isub16 19 45),
      (16, 0xB666, .imul16 19 45),
      (16, 0xB668, .and16 19 45),
      (16, 0xB66A, .or16 19 45),
      (16, 0xB66C, .xor16 19 45),
      (16, 0xB66E, .shl16 19 45),
      (16, 0xB670, .shr16 19 45),
      (16, 0xB672, .sar16 19 45),
      (16, 0xB674, .imin16 19 45),
      (16, 0xB676, .imax16 19 45),
      (16, 0xB678, .fadd16 19 45),
      (16, 0xB67A, .fmul16 19 45),
      (16, 0xB67C, .fsub16 19 45),
      (16, 0x001E, .nop),
      (16, 0x041E, .brk),
      (16, 0x081E, .exit16),
      (16, 0x0C1E, .ret16),
      (16, 0x101E, .yield16)
    ].all decodesTo = true := by decide +kernel


/-- Words that R26 to R28 reject: an unassigned major, EXIT at crew scope, a function code that is reserved, REORD with n = 0, ESC 5. -/
theorem test_words_refused : [(32, 0x3D81), (32, 0x2285), (32, 0x28000E81), (32, 0x2581), (16, 0x141E), (32, 0x04002281)].all
    (fun p => decodeTableWord p.1 p.2 == none) = true := by decide +kernel

/-- Two-source literal: vb code 63 announces the next word (R21, R22). -/
theorem test_word_literal : decodeTableWord 64 0x12345678FC40C0B1 = some (.iadd ⟨false, .lane, ⟨false, 3⟩⟩ 3 4 (.lit 0x12345678)) := by decide +kernel

/-! ### A small machine -/

/-- No stop bit, scope `sc`, guard pT. -/
def px (sc : Scope) : Pfx := ⟨false, sc, ⟨false, 3⟩⟩

/-- A register that holds `v l` in lane `l`. -/
def per (f : Fmt) (v : Nat → Word) : Reg := laneReg .g f 0 v

/-- A register that holds one value. -/
def uni (f : Fmt) (w : Word) : Reg := laneReg .u f 0 fun _ => w

/-- v0 7, v1 the lane number plus 1, v2 1.0, v3 2.0, v4 0x40, v5 RAW32, v6 and v7 I8x4, v8 -3, v9 a page address, v10 to v13 for
records and copies, v14 zero, v15 one. -/
def tRegs : List Reg :=
  [uni .i32 7, per .i32 fun l => BitVec.ofNat 32 (l + 1), uni .fp32 0x3F800000, uni .fp32 0x40000000, uni .i32 0x40, uni .raw32 9,
   uni .i8x4 0x01020304, uni .i8x4 0x02020202, uni .i32 0xFFFFFFFD, uni .raw32 0x3000, uni .raw32 0x3000, uni .raw32 0, uni .raw32 0x40,
   uni .raw32 0xFFFFFFFF, uni .i32 0, uni .i32 1]

/-- A crew of 32 live lanes at code address 0, with the registers above, valid latches and v59 = 0x40. -/
def tCrew : Crew :=
  { fetchCrew with
    regs := tRegs ++ List.replicate 43 Reg.zero ++ [uni .i32 0x40]
    lvalid := [true, true, true] }

/-- Pages of 2 MiB at VA 0 for text, data and frames, readable, writable, executable and privileged alike. -/
def tTlb : List TlbEntry := [⟨1, 0, 21, 0x200000, true, true, true, false, false, true, false, 0, none⟩,
  ⟨1, 0x200000, 21, 0x400000, true, true, false, true, false, true, false, 0, none⟩]

/-- A machine with one core, no islands, and the given crews on one block of one task. -/
def tState (cs : List Crew) (b : Block) : State :=
  { State.reset with
    mem := [(0, 3), (16, 1), (17, 0x50)]
    dies := [{ Die.reset 0 with pasidBase := 3 }, Die.reset 1]
    cores := [{ CoreSt.reset 0 with tlb := tTlb }]
    isles := []
    tasks := [fetchTask]
    blocks := [b]
    crews := cs
    cur := some ⟨2, 0, 4, 0, 0⟩ }

/-- The block of the small machine: 256 B of asynchronous local store, 512 B of the matrix engine's. -/
def tBlock : Block := { fetchBlock with asBytes := 256, wsBytes := 512 }

/-- The small machine with one crew. -/
def t0 : State := tState [tCrew] tBlock

/-- The small machine with its crew privileged. -/
def tp : State := tState [{ tCrew with priv := true }] tBlock

/-- The instruction issues, and what it issues over satisfies `ok`. -/
def issues (sp : Spec) (s : State) (ok : Ctx → State → Bool) : Bool :=
  match issuePoint sp s with
  | some (u, t) => ok u t
  | none => false

/-- The instruction issues over one crew. -/
def alone (sp : Spec) (s : State) (ok : Ctx → Part → Crew → State → Bool) : Bool :=
  issues sp s fun u t =>
    match u.parts with
    | [p] => match crewAt t p.crew with
      | some c => ok u p c t
      | none => false
    | _ => false

/-- The instruction answers a next state that satisfies `ok`. -/
def runs (i : Instr) (s : State) (ok : State → Bool) : Bool :=
  match exec i s with
  | .next t => ok t
  | _ => false

/-- The value of register `n` of crew 2 in lane `l`. -/
def laneOf (s : State) (n l : Nat) : Option Word := (crewAt s 2).map fun c => (vreg c n).at l

/-- Two crews of one block: crew 2 issues, crew 3 already waits at the same instruction at scope `sc`; v1 differs, and crew 3's carries taint. -/
def two (sc : Scope) : State :=
  let other : Crew := { tCrew with
    id := 3, slot := 1, index := 1
    regs := tCrew.regs.set 1 { vreg tCrew 1 with taint := 4 }
    entries := [⟨0, 0, BitVec.allOnes 32, some .rendezvous, false, 0, 0⟩]
    rdv := [(0, sc)] }
  tState [tCrew, other] { tBlock with crews := 2, sets := (some ⟨2, true, [2, 3]⟩) :: List.replicate 7 none }

/-- The participants with their crews. -/
def partCrews (u : Ctx) (t : State) : List (Part × Crew) := u.parts.filterMap fun p => (crewAt t p.crew).map fun c => (p, c)

/-- Every participant meets `ok`, and has lanes that act. -/
def allParts (sp : Spec) (s : State) (ok : Crew → Bool) : Bool :=
  issues sp s fun u t => !u.parts.isEmpty && u.parts.all fun p => p.act != 0 && match crewAt t p.crew with | some c => ok c | none => false

/-- The place of an instruction is known: `cur`, its crew and its entry (the premises of every trap statement). -/
def placed (s : State) (ok : Crew → Bool) : Bool :=
  match s.cur with
  | some u => match crewAt s u.crew with
    | some c => (entryAt c u.pc).isSome && ok c
    | none => false
  | none => false

/-- The test crew with some registers set. -/
def withRegs (l : List (Nat × Reg)) : Crew := { tCrew with regs := l.foldl (fun r p => r.set p.1 p.2) tCrew.regs }

/-! ### Witnesses of the register instructions: each issues in a machine in which its operands are as its statement asks -/

/-- Both sources are there and their formats pass the rule. -/
def twoOk (fm : Fmt → Fmt → Option Fmt) (a : RCode) (b : Src) (c : Crew) : Bool :=
  match srcReg c a.toNat with
  | some ra => match srcVal c b ra.fmt with
    | some rb => (fm ra.fmt rb.fmt).isSome
    | none => false
  | none => false

/-- Both sources and vd pass the rule. -/
def threeOk (fm : Fmt → Fmt → Fmt → Option Fmt) (d a : RCode) (b : Src) (c : Crew) : Bool :=
  match srcReg c a.toNat with
  | some ra => match srcVal c b ra.fmt with
    | some rb => (fm ra.fmt rb.fmt (vreg c d.toNat).fmt).isSome
    | none => false
  | none => false

/-- The source is there and its format passes the rule. -/
def oneOk (fm : Fmt → Option Fmt) (a : RCode) (c : Crew) : Bool :=
  match srcReg c a.toNat with
  | some ra => (fm ra.fmt).isSome
  | none => false

/-- What the check says, as the statement's own terms: some `r` gives every participant its crew. -/
theorem meets {sp : Spec} {s : State} {ok : Crew → Bool} {R : Part → Crew → Crew → Prop}
    (hR : ∀ p c, ok c = true → ∃ c', R p c c') (h : allParts sp s ok = true) :
    ∃ x t r, issuePoint sp s = some (x, t) ∧ x.parts ≠ [] ∧ Each x t r (orSame R) := by
  unfold allParts issues at h
  cases hp : issuePoint sp s with
  | none => simp [hp] at h
  | some v =>
    obtain ⟨x, t⟩ := v
    simp only [hp, Bool.and_eq_true, List.all_eq_true] at h
    have hc : ∀ p ∈ x.parts, ∃ c c', crewAt t p.crew = some c ∧ orSame R p c c' := by
      intro p hm
      have := h.2 p hm
      cases hc : crewAt t p.crew with
      | none => simp [hc] at this
      | some c =>
        simp only [hc] at this
        obtain ⟨c', hr⟩ := hR p c this.2
        exact ⟨c, c', rfl, fun h0 => by simp [h0] at this, fun _ => hr⟩
    classical
    refine ⟨x, t, fun p => if hm : p ∈ x.parts then (hc p hm).choose_spec.choose else tCrew, rfl, fun e => by simp [e] at h, fun p hm => ?_⟩
    refine ⟨(hc p hm).choose, (hc p hm).choose_spec.choose_spec.1, ?_⟩
    simp only [hm, dif_pos]
    exact (hc p hm).choose_spec.choose_spec.2

theorem meets_two {sp : Spec} {s : State} {fm : Fmt → Fmt → Option Fmt} (sh : Fmt → Reg → Reg → Shape) (w : Fmt → Word → Word → Word)
    {d a : RCode} {b : Src} (h : allParts sp s (twoOk fm a b) = true) :
    ∃ x t r, issuePoint sp s = some (x, t) ∧ x.parts ≠ [] ∧ Each x t r (orSame (twoResult fm sh w d a b)) := by
  refine meets (fun p c hc => ?_) h
  unfold twoOk at hc
  cases h1 : srcReg c a.toNat with
  | none => simp [h1] at hc
  | some ra =>
    simp only [h1] at hc
    cases h2 : srcVal c b ra.fmt with
    | none => simp [h2] at hc
    | some rb =>
      simp only [h2] at hc
      obtain ⟨f, hf⟩ := Option.isSome_iff_exists.1 hc
      exact ⟨_, ra, rb, f, h1, h2, hf, rfl⟩

theorem meets_one {sp : Spec} {s : State} {fm : Fmt → Option Fmt} (w : Fmt → Word → Word)
    {d a : RCode} (h : allParts sp s (oneOk fm a) = true) :
    ∃ x t r, issuePoint sp s = some (x, t) ∧ x.parts ≠ [] ∧ Each x t r (orSame (oneResult fm w d a)) := by
  refine meets (fun p c hc => ?_) h
  unfold oneOk at hc
  cases h1 : srcReg c a.toNat with
  | none => simp [h1] at hc
  | some ra =>
    simp only [h1] at hc
    obtain ⟨f, hf⟩ := Option.isSome_iff_exists.1 hc
    exact ⟨_, ra, f, h1, hf, rfl⟩

theorem wit_IntegerTwoSource :
    ([(.iadd (px .lane) 20 1 (.reg 0), IOp.add.fmt), (.isub (px .lane) 20 1 (.reg 0), IOp.sub.fmt), (.imul (px .lane) 20 1 (.reg 0), IOp.mul.fmt),
      (.imulh (px .lane) 20 1 (.reg 0), IOp.mulh.fmt), (.imulhu (px .lane) 20 1 (.reg 0), IOp.mulhu.fmt), (.idiv (px .lane) 20 1 (.reg 0), IOp.div.fmt),
      (.idivu (px .lane) 20 1 (.reg 0), IOp.divu.fmt), (.irem (px .lane) 20 1 (.reg 0), IOp.rem.fmt), (.iremu (px .lane) 20 1 (.reg 0), IOp.remu.fmt),
      (.imin (px .lane) 20 1 (.reg 0), IOp.min.fmt), (.imax (px .lane) 20 1 (.reg 0), IOp.max.fmt), (.iminu (px .lane) 20 1 (.reg 0), IOp.minu.fmt),
      (.imaxu (px .lane) 20 1 (.reg 0), IOp.maxu.fmt), (.iadds (px .lane) 20 1 (.reg 0), IOp.adds.fmt), (.isubs (px .lane) 20 1 (.reg 0), IOp.subs.fmt),
      (.and (px .lane) 20 1 (.reg 0), IOp.and.fmt), (.or (px .lane) 20 1 (.reg 0), IOp.or.fmt), (.xor (px .lane) 20 1 (.reg 0), IOp.xor.fmt),
      (.andn (px .lane) 20 1 (.reg 0), IOp.andn.fmt), (.shl (px .lane) 20 1 (.reg 0), IOp.shl.fmt), (.shr (px .lane) 20 1 (.reg 0), IOp.shr.fmt),
      (.sar (px .lane) 20 1 (.reg 0), IOp.sar.fmt), (.rol (px .lane) 20 1 (.reg 0), IOp.rol.fmt),
      (.bfe (px .lane) 20 1 (.reg 0), fun f g => if f.isIndex && g.isIndex then some f else none), (.lea (px .lane) 20 1 (.reg 0), leaFmt)]
      : List (Instr × (Fmt → Fmt → Option Fmt))).all (fun w => allParts { i := w.1, ops := binOps 20 1 (.reg 0) } t0 (twoOk w.2 1 (.reg 0))) = true := by decide +kernel

/-- The same for one of them in the statement's own terms, with a literal, a latch as source and vd absent. -/
theorem wit_IntegerTwoSource_terms : ∃ x t r, issuePoint { i := .iadd (px .crew) 63 60 (.lit 5), ops := binOps 63 60 (.lit 5) }
      (tState [{ tCrew with latch := [uni .i32 1, Reg.zero, Reg.zero] }] tBlock) = some (x, t) ∧ x.parts ≠ [] ∧
    Each x t r (orSame (twoResult IOp.add.fmt affineShape IOp.add.word 63 60 (.lit 5))) :=
  meets_two _ _ (by decide)

theorem wit_SixteenBitArithmetic :
    ([(.iadd16 0 1, IOp.add.fmt), (.isub16 0 1, IOp.sub.fmt), (.imul16 0 1, IOp.mul.fmt), (.and16 0 1, IOp.and.fmt), (.or16 0 1, IOp.or.fmt),
      (.xor16 0 1, IOp.xor.fmt), (.shl16 0 1, IOp.shl.fmt), (.shr16 0 1, IOp.shr.fmt), (.sar16 0 1, IOp.sar.fmt), (.imin16 0 1, IOp.min.fmt),
      (.imax16 0 1, IOp.max.fmt)] : List (Instr × (Fmt → Fmt → Option Fmt))).all (fun w =>
        allParts { i := w.1, ops := binOps (v5 0) (v5 0) (.reg 1) } t0 (twoOk w.2 (v5 0) (.reg 1))) = true ∧
    ([.fadd16 2 3, .fmul16 2 3, .fsub16 2 3] : List Instr).all (fun i =>
        allParts { i := i, ops := binOps (v5 2) (v5 2) (.reg 3) } t0 (twoOk floatOpFmt (v5 2) (.reg 3))) = true := by decide +kernel

theorem wit_SixteenBitArithmetic_trap : placed t0 (fun _ => true) = true := by decide +kernel

theorem wit_IntegerOneAndThreeSource :
    allParts { i := .imad (px .lane) 4 1 (.reg 0), ops := triOps 4 1 (.reg 0) } t0
      (threeOk (fun f g h => if f.isInt && f == g && g == h then some f else none) 4 1 (.reg 0)) = true ∧
    allParts { i := .bfi (px .lane) 4 1 (.reg 0), ops := triOps 4 1 (.reg 0) } t0
      (threeOk (fun f g h => if f.isIndex && g.isIndex && h.isIndex then some h else none) 4 1 (.reg 0)) = true ∧
    allParts { i := .idot4 (px .lane) 4 6 (.reg 7), ops := triOps 4 6 (.reg 7) } t0
      (threeOk (fun f g h => if f == .i8x4 && g == .i8x4 && h == .i32 then some .i32 else none) 4 6 (.reg 7)) = true ∧
    ([(.iunNot (px .lane) 20 1, UOp.not.fmt), (.iunIneg (px .lane) 20 1, UOp.neg.fmt), (.iunIabs (px .lane) 20 1, UOp.abs.fmt),
      (.iunPopc (px .lane) 20 1, UOp.popc.fmt), (.iunClz (px .lane) 20 1, UOp.clz.fmt), (.iunBrev (px .lane) 20 1, UOp.brev.fmt),
      (.iunSx8 (px .lane) 20 1, UOp.sx8.fmt), (.iunSx16 (px .lane) 20 1, UOp.sx16.fmt), (.iunZx8 (px .lane) 20 1, UOp.zx8.fmt),
      (.iunZx16 (px .lane) 20 1, UOp.zx16.fmt)] : List (Instr × (Fmt → Option Fmt))).all (fun w =>
        allParts { i := w.1, ops := [.dst 20, .src 1] } t0 (oneOk w.2 1)) = true := by decide +kernel

theorem wit_Compares :
    ([.iceq (px .lane) 0 1 2 1 (.reg 0), .icne (px .lane) 0 1 2 1 (.reg 0), .iclt (px .lane) 0 1 2 1 (.reg 0), .icle (px .lane) 0 1 2 1 (.reg 0),
      .icltu (px .lane) 0 1 2 1 (.reg 0), .icleu (px .lane) 0 1 2 1 (.reg 0)] : List Instr).all (fun i =>
        allParts { i := i, ops := [.src 1, .srcB (.reg 0)], ok := fun _ => cmpOk 0 1 } t0
          (twoOk (fun f g => if f.isIndex && f == g then some f else none) 1 (.reg 0))) = true ∧
    ([.fceq (px .lane) 2 3 0 2 (.reg 3), .fclt (px .lane) 2 3 0 2 (.reg 3), .fcle (px .lane) 2 3 0 2 (.reg 3), .fcun (px .lane) 2 3 0 2 (.reg 3)]
      : List Instr).all (fun i => allParts { i := i, ops := [.src 2, .srcB (.reg 3)], ok := fun _ => cmpOk 2 3 } t0 (twoOk fcmpFmt 2 (.reg 3))) = true := by decide +kernel

theorem wit_FloatArithmetic :
    ([.fadd (px .lane) 20 2 (.reg 3), .fsub (px .lane) 20 2 (.reg 3), .fmul (px .lane) 20 2 (.reg 3), .fmin (px .lane) 20 2 (.reg 3),
      .fmax (px .lane) 20 2 (.reg 3), .fdiv (px .lane) 20 2 (.reg 3)] : List Instr).all (fun i =>
        allParts { i := i, ops := binOps 20 2 (.reg 3) } t0 (twoOk floatOpFmt 2 (.reg 3))) = true ∧
    allParts { i := .ffma (px .lane) 3 2 (.reg 3), ops := triOps 3 2 (.reg 3) } t0
      (threeOk (fun f g h => if f.isFloat && f == g && g == h then some f else none) 3 2 (.reg 3)) = true := by decide +kernel

theorem wit_FloatOneSource :
    ([(.funFneg (px .lane) 20 2, FunOp.neg.fmt), (.funFabs (px .lane) 20 2, FunOp.abs.fmt), (.funFrcp (px .lane) 20 2, FunOp.rcp.fmt),
      (.funFrsq (px .lane) 20 2, FunOp.rsq.fmt), (.funFsqrt (px .lane) 20 2, FunOp.sqrt.fmt), (.funFexp2 (px .lane) 20 2, FunOp.exp2.fmt),
      (.funFlog2 (px .lane) 20 2, FunOp.log2.fmt), (.funFsin (px .lane) 20 2, FunOp.sin.fmt), (.funFcos (px .lane) 20 2, FunOp.cos.fmt),
      (.funFflr (px .lane) 20 2, FunOp.flr.fmt), (.funFceil (px .lane) 20 2, FunOp.ceil.fmt), (.funFtrnc (px .lane) 20 2, FunOp.trnc.fmt),
      (.funFrint (px .lane) 20 2, FunOp.rint.fmt), (.funFcls (px .lane) 20 2, FunOp.cls.fmt),
      (.cvt (px .lane) .fp16x1 .rup true 20 2, fun _ => some .fp16x1)] : List (Instr × (Fmt → Option Fmt))).all (fun w =>
        allParts { i := w.1, ops := [.dst 20, .src 2] } t0 (oneOk w.2 2)) = true := by decide +kernel

/-- ActiveSet: guard p0 holding in lanes 0 and 31 only. -/
theorem wit_ActiveSet : issues { i := .mov ⟨false, .lane, ⟨false, 0⟩⟩ 20 (.reg 1), ops := [.dst 20, .srcB (.reg 1)] }
    (tState [{ tCrew with pred := [0x80000001, 0, 0] }] tBlock) (fun u t => u.parts == [⟨2, 0x80000001, false⟩] && (crewAt t 2).isSome) = true := by decide +kernel

/-- ResultWrite: lanes 0 and 31 of v59, the last register, and code 63. -/
theorem wit_ResultWrite : (59 < tCrew.regs.length) ∧ (0x80000001 : Mask) ≠ 0 ∧ laneIn 0x80000001 31 = true ∧ laneIn 0x80000001 30 = false ∧
    (60 ≤ 63) := by decide +kernel

/-- ElementArithmetic and ShiftsAndBitFields: the last element of I4x8 and the one of I32; a zero divisor and another; counts 0 and 3. -/
theorem wit_ElementArithmetic : Fmt.i4x8.isInt = true ∧ 7 < fmtCount .i4x8 ∧ Fmt.i32.isInt = true ∧ 0 < fmtCount .i32 ∧
    Fmt.raw32.isIndex = true ∧ (0 : Word) = 0 ∧ (7 : Word) ≠ 0 := by decide +kernel
theorem wit_ShiftsAndBitFields : elem (fmtWidth .i4x8) 0x30000000 7 % fmtWidth .i4x8 = 3 ∧ elem (fmtWidth .i32) 32 0 % fmtWidth .i32 = 0 ∧
    (0x12000013 : Nat) / 256 % 64 = 0 ∧ (0x2001 : Word) &&& 0x13F1F = 0xFFFC20E1 &&& 0x13F1F ∧
    allParts { i := .bfe (px .lane) 20 1 (.reg 0), ops := binOps 20 1 (.reg 0) } t0 (twoOk (fun f g => if f.isIndex && g.isIndex then some f else none) 1 (.reg 0)) = true := by decide +kernel

theorem wit_FloatMinMax : decodeF fp16F 0x7E00 = .nan ∧ 0x7E00 < 2 ^ fp16F.width ∧ decodeF fp16F 0xFC00 ≠ .nan ∧ decodeF fp16F 0x3C00 ≠ .nan ∧
    decodeF fp32F 0x7FC00000 = .nan ∧ decodeF bf16F 0x7FC0 = .nan ∧ decodeF bf16F 0xFFFF = .nan ∧ decodeF fp32F 0xFF800000 ≠ .nan := by decide +kernel

theorem wit_Moves :
    allParts { i := .mov (px .lane) 20 (.lit 5), ops := [.dst 20, .srcB (.lit 5)] } t0 (fun c => (srcVal c (.lit 5) .raw32).isSome) = true ∧
    allParts { i := .mov16 19 1, ops := [.dst (v5 19), .src 1] } t0 (fun c => (srcReg c 1).isSome) = true ∧
    allParts { i := .tagf (px .lane) .e4m3x4 63 62, ops := [.dst 63, .src 62] } t0 (fun c => (srcReg c 62).isSome) = true ∧
    allParts { i := .tagq (px .block) 20 1, ops := [.dst 20, .src 1] } t0 (fun c => (srcReg c 1).isSome) = true ∧
    allParts { i := .tclr (px .crew) 59, ops := [.vec 59] } t0 (fun _ => true) = true ∧
    alone { i := .sel ⟨false, .lane, ⟨false, 0⟩⟩ 20 1 (.reg 0), ops := binOps 20 1 (.reg 0) } t0 (fun u p c _ =>
      (entryAt c u.pc).isSome && p.act == 0 && (selFmt .i32 .i32).isSome && (srcReg c 1).isSome) = true := by decide +kernel

/-- VectorMoves: each over one crew, the first acting lane being lane 4. -/
theorem wit_VectorMoves :
    let s := tState [{ tCrew with pred := [0xF0, 0, 0] }] tBlock
    let x : Pfx := ⟨false, .lane, ⟨false, 0⟩⟩
    alone { i := .movu x 20 1, ops := [.dst 20, .src 1] } s (fun _ p c _ => p.act == 0xF0 && (srcReg c 1).isSome) = true ∧
    alone { i := .mova x 20 0 (.reg 4), ops := binOps 20 0 (.reg 4) } s (fun _ p c _ => p.act != 0 && (vreg c 0).shape == .u && (vreg c 4).shape == .u &&
      (vreg c 0).fmt.isIndex && (vreg c 4).fmt.isIndex) = true ∧
    ([.shfli x 20 1 (.reg 0), .shflu x 20 1 (.reg 0), .shfld x 20 1 (.reg 0), .shflx x 20 1 (.reg 0)] : List Instr).all (fun i =>
      alone { i := i, ops := binOps 20 1 (.reg 0) } s (fun _ p c _ => p.act != 0 && (vreg c 0).shape == .u && (vreg c 0).fmt.isIndex)) = true ∧
    ([.voteAny x 20 1, .voteAll x 20 1, .voteBallot x 20 1] : List Instr).all (fun i =>
      alone { i := i, ops := [.dst 20, .src 1] } s (fun _ p c _ => p.act != 0 && (srcReg c 1).isSome)) = true := by decide +kernel

/-! ### Witnesses: sets, blocks, system registers, traps -/

theorem wit_WideVectorMoves_set :
    let x := px .set
    issues { i := .movu x 20 1, ops := [.dst 20, .src 1] } (two .set) (fun u t => u.scope == .set && (movuBody 20 1 (partCrews u t)).toBool) = true ∧
    issues { i := .mova x 20 0 (.reg 4), ops := binOps 20 0 (.reg 4) } (two .set) (fun u t => u.scope == .set && u.parts.length == 2 &&
      (eachMember (movaBody 20 0 (.reg 4)) (partCrews u t)).toBool) = true ∧
    ([(.shfli x 20 1 (.reg 0), .idx), (.shflu x 20 1 (.reg 0), .up), (.shfld x 20 1 (.reg 0), .down), (.shflx x 20 1 (.reg 0), .xor)]
      : List (Instr × Shfl)).all (fun o => issues { i := o.1, ops := binOps 20 1 (.reg 0) } (two .set) fun u t =>
        let ps := partCrews u t
        (shflBody o.2 20 1 (.reg 0) ps).toBool && ps.length == 2 && ps.all (fun q => q.1.act != 0 && (srcVal q.2 (.reg 0) .raw32).isSome && decide (20 < q.2.regs.length)) &&
        ps.any fun q => match srcReg q.2 1 with | some r => r.taint != 0 | none => false) = true ∧
    ([.voteAny x 20 1, .voteAll x 20 1] : List Instr).all (fun i => issues { i := i, ops := [.dst 20, .src 1] } (two .set) fun u t =>
        (commonFmt (partCrews u t) 1).isSome && (partCrews u t).length == 2 && (partCrews u t).all fun q => (srcReg q.2 1).isSome) = true := by decide +kernel

theorem wit_WideVectorMoves_block :
    ([.voteAny (px .block) 20 1, .voteAll (px .block) 20 1, .voteBallot (px .block) 20 1] : List Instr).all (fun i =>
      issues { i := i, ops := [.dst 20, .src 1] } (two .block) fun u t =>
        u.scope == .block && u.parts.length == 2 && (partCrews u t).all fun q => q.1.act != 0 && (srcReg q.2 1).isSome) = true := by decide +kernel

theorem wit_SystemAndPredicateMoves :
    allParts { i := .movs (px .block) .ptphi 20, ops := [.dst 20] } t0 (fun _ => true) = true ∧
    allParts { i := .movcRd (px .lane) .trapFrameBase 20, ops := [.dst 20] } tp (fun _ => true) = true ∧
    alone { i := .movcWr (px .lane) .trapVector 0, ops := [.src 0] } tp (fun u p c _ => u.crew == p.crew && p.act != 0 && (vreg c 0).shape == .u) = true ∧
    allParts { i := .pmovGet (px .lane) 20, ops := [.dst 20] } t0 (fun _ => true) = true ∧
    allParts { i := .pmovSet (px .lane) 1, ops := [.src 1] } t0 (fun c => match srcReg c 1 with | some r => r.fmt.isIndex | none => false) = true := by decide +kernel

theorem wit_PrivilegedTraps : placed t0 (fun c => !c.priv) = true ∧
    (Instr.sysHalt (px .crew)) ∈ [Instr.sysRtt (px .lane), .sysHalt (px .crew)] ∧ CtlReg.frontQuantum ≠ .trapCause := by decide +kernel

theorem wit_SoftwareTraps :
    issues { i := .sysTrap (px .lane) 63 } t0 (fun u t => (actor u t).isSome && u.parts == [⟨2, BitVec.allOnes 32, true⟩] && (trapReady t [2]).1) = true ∧
    issues { i := .sysSysc (px .crew) 63 } t0 (fun u t => (actor u t).isSome) = true ∧
    placed tp (fun c => c.priv && (blockOf tp c).isSome) = true := by decide +kernel

/-- The machine with a handler at 0x100 (DPA 0x200100: a 32-bit word with the stop bit). -/
def th : State := { tState [tCrew] { tBlock with trapVector := 0x100 } with mem := [(0, 3), (16, 1), (17, 0x50), (0x200100, 0xB3), (0x200101, 0x28)] }

/-- What a trap is taken with. -/
def tInfo : TrapInfo := ⟨0x41, 3, 0, 0x3C03, 0, 4, [], none⟩

theorem wit_TrapEntry :
    (match crewAt th 2 with
    | some c => (blockOf th c).isSome && !c.priv && (vectorCheck th c 0x100).1 == .valid &&
        (pokeVa (vectorCheck th c 0x100).2 c.core (pasidOf th c) true (shiftAddrs (frameVa th c) (frameBytes c 0 tInfo))).isSome &&
        c.regs.length == 60 && decide (15 < c.recs.length)
    | none => false) = true ∧
    (match crewAt th 2 with
    | some c => (vectorCheck th c 0x101).1 == .invalid &&
        (vectorCheck { th with dies := th.dies.map fun d => { d with pfqBase := 0x10000404 } } c 0x400000).1 == .fault
    | none => false) = true ∧
    (match crewAt tp 2 with | some c => c.priv && (blockOf tp c).isSome | none => false) = true ∧
    (match crewAt t0 2 with | some c => (blockOf t0 c).any (fun b => b.trapVector == 0xFFFFFFFF) | none => false) = true := by decide +kernel

/-! ### Witnesses: system functions, control transfer, sets, sections, tasks -/

/-- A privileged crew whose frame, at DPA 0x20A000, holds one entry at 0x40 for all lanes. -/
def tf : State := { tp with mem := tp.mem ++ [(0x20A000, 0x43), (0x20A004, 0x40), (0x20A018, 1), (0x20A180, 0x40), (0x20A184, 0xFF), (0x20A185, 0xFF),
  (0x20A186, 0xFF), (0x20A187, 0xFF)] }

/-- What RTT and HALT find in the frame. -/
def frameAt (s : State) (n : Nat) : Option (Frame × Crew × State) :=
  match crewAt s 2 with
  | some c => match peekVa (pagesReady s (.wait c.id) c.core (pasidOf s c) true [(frameVa s c, .read), (frameVa s c + 4095, .read)]).2 c.core (pasidOf s c) true (frameVa s c) n with
    | some (bs, t) => some (frameOf bs, c, t)
    | none => none
  | none => none

theorem wit_TrapReturn :
    issues { i := .sysRtt (px .crew) } tf (fun u t => match crewAt t u.crew with
      | some c => flightsOf t c.id == [] && c.log.isNone && (blockOf t c).isSome && sectMask c == 0 &&
          (pagesReady t (.wait c.id) c.core (pasidOf t c) true [(frameVa t c, .read), (frameVa t c + 4095, .read)]).1
      | none => false) = true ∧
    (match frameAt tf 4096 with
    | some (f, c, t) => frameOk t c f && rttFits t c f && c.nrec == 0 && c.live &&& ~~~f.entries.foldl (fun m e => m ||| e.mask) (stackedLanes t c) == 0 &&
        (refill (setCrew t (f.restore c)) c.id f.nent).toBool && (let h := { c with sect := (some 5) :: c.sect.drop 1 }; sectMask h != 0 && (releaseNow (setCrew t h) h 1).1) && f.regs.length == 12 && c.regs.length == 60 && c.recs.length == 16 && f.entries.length == 1 && f.slots.length == 8 && c.folded == 0
    | none => false) = true ∧
    (match frameAt tp 4096 with
    | some (f, c, t) => !frameOk t c f
    | none => false) = true := by decide +kernel

theorem wit_HaltEndsTask :
    issues { i := .sysHalt (px .crew) } tf (fun u t => match actor u t with
      | some (_, c) => (pagesReady t (.wait c.id) c.core (pasidOf t c) true [(frameVa t c, .read)]).1 && (blockOf t c).isSome
      | none => false) = true ∧
    (frameAt tf 1).isSome = true ∧
    (let s := { tp with tasks := [{ fetchTask with save := 0x800000 }] }
     match crewAt s 2 with | some c => (peekVa s c.core (pasidOf s c) true (frameVa s c) 1).isNone | none => false) = true ∧
    (let s := { t0 with boot := { t0.boot with linkUp := true } }
     hostUp s && (dieAt s 0).isSome && (s.tasks.find? fun t => t.tcb == 0x200 % 2 ^ 29 * 128 && (t.state == .ready || t.state == .running)).isSome) = true := by decide +kernel

theorem wit_SuspendAndContext :
    let s := { two .lane with crews := (two .lane).crews.map fun c => { setReg c 20 (uni .i32 1) with priv := true } }
    issues { i := .sysSusp (px .lane) 20, ops := [.src 20] } s (fun u t => match actor u t with
      | some (_, c) => (crewIndex c 20).toBool && (crewByIndex t c 1).any (fun q => q.id != c.id && flightsOf t q.id == []) &&
          (crewByIndex t c 31).isNone && (crewByIndex t c 0).any (fun q => q.id == c.id)
      | none => false) = true ∧
    issues { i := .sysResm (px .lane) 20, ops := [.src 20] } s (fun u t => (actor u t).any fun q => (crewIndex q.2 20).toBool) = true ∧
    issues { i := .sysRdcv (px .lane) 21 20, ops := [.dst 21, .src 20] } s (fun u t => match actor u t with
      | some (p, c) => (srcReg c 20).any (fun r => r.fmt.isIndex && (laneIds.filter (laneIn p.act)).all fun l => match ctxSel (r.at l) with
          | some k => !ctxPending t c k | none => false)
      | none => false) = true ∧
    issues { i := .sysWrcv (px .lane) 4 20, ops := [.src 4, .src 20] } s (fun u t => match actor u t with
      | some (p, c) => (srcReg c 20).any (fun r => (srcReg c 4).any fun d => r.fmt.isIndex && d.fmt.isIndex &&
          (laneIds.filter (laneIn p.act)).all fun l => match ctxSel (r.at l) with
          | some k => !ctxPending t c k && !wrcvBad k (d.at l) | none => false)
      | none => false) = true := by decide +kernel

theorem wit_Maintenance :
    let c := { withRegs [(20, uni .i32 0x100), (21, uni .i32 0), (22, uni .i32 2), (23, uni .i32 1), (24, uni .i32 0x1000), (25, uni .i32 0), (26, uni .i32 1), (27, uni .i32 1)] with priv := true }
    let s := tState [c] tBlock
    issues { i := .sysIcinv (px .lane) 30 20, ops := [.dst 30, .grp 20 3], waits := true } s (fun u t => match actor u t with
      | some (_, c) => (t.icinvs.find? fun v => v.crew == c.id && v.pc == u.pc).isNone && (icinvArgs c 20).toBool && (releaseNow t c 2).1
      | none => false) = true ∧
    issues { i := .sysIcinv (px .lane) 30 20, ops := [.dst 30, .grp 20 3], waits := true } { s with icinvs := [⟨1, 2, 0, 1, none, [0]⟩] } (fun u t => match actor u t with
      | some (_, c) => (t.icinvs.find? fun v => v.crew == c.id && v.pc == u.pc).any fun v => (icinvCores t).all v.acked.contains
      | none => false) = true ∧
    issues { i := .sysTlbinv (px .lane) 30 24, ops := [.dst 30, .grp 24 4] } s (fun u t => match actor u t with
      | some (_, c) => (t.shootdowns.find? fun v => v.crew == some c.id && v.pc == u.pc).isNone && (tlbinvArgs c 24).toBool && decide (sdFlying t < 8)
      | none => false) = true ∧
    issues { i := .sysTlbinv (px .lane) 30 24, ops := [.dst 30, .grp 24 4] } { s with shootdowns := [⟨1, 0, some 2, 0, 1, none, [0, 1], false⟩] } (fun u t => match actor u t with
      | some (_, c) => (t.shootdowns.find? fun v => v.crew == some c.id && v.pc == u.pc).any (sdDone t)
      | none => false) = true := by decide +kernel

theorem wit_DebugFunctions :
    issues { i := .dbgBrk (px .crew) } t0 (fun u t => (actor u t).isSome) = true ∧
    issues { i := .dbgBrk ⟨false, .lane, ⟨true, 3⟩⟩ } t0 (fun u t => (actor u t).isNone) = true ∧
    issues { i := .brk } t0 (fun u t => (actor u t).isSome) = true ∧
    issues { i := .dbgTrace (px .lane) 63 1, ops := [.src 1] } t0 (fun u t => (actor u t).any fun q => (srcReg q.2 1).isSome) = true ∧
    issues { i := .dbgTrace ⟨false, .lane, ⟨true, 3⟩⟩ 63 1, ops := [.src 1] } t0 (fun u t => (actor u t).isNone) = true ∧
    issues { i := .dbgMark (px .crew) 63 } t0 (fun u t => (actor u t).any fun q => !(inRegion t q.2 && !q.2.hashQ.isEmpty) &&
      !(checkpoint (emitLoc t q.2 .user 6 2 63 0 u.pc []) q.2.id 1).1) = true ∧
    issues { i := .dbgMark ⟨false, .lane, ⟨true, 3⟩⟩ 63 } t0 (fun u t => (actor u t).isNone) = true := by decide +kernel

/-- Branches: all lanes taken, none, and lanes 0 and 31 only. -/
theorem wit_Branches :
    let s := tState [{ tCrew with pred := [0x80000001, 0, 0] }] tBlock
    ([(.bra ⟨false, .lane, ⟨false, 0⟩⟩ 0x3FFF 15, 0x3FFF, []), (.call ⟨false, .lane, ⟨false, 0⟩⟩ 0x3FFF 15, 0x3FFF, [Opnd.vec 59])]
      : List (Instr × BitVec 14 × List Opnd)).all (fun w => issues { i := w.1, ops := w.2.2 } s fun u t =>
        (leaveAll u (fun p _ e => (true, branchPaths e p.act u.next (branchTarget u.pc w.2.1.toInt) 15)) u.parts t).toBool && u.parts.length == 1) = true ∧
    issues { i := .brl (px .block) 0x100 0 } s (fun u t =>
        (leaveAll u (fun p _ e => (true, branchPaths e p.act u.next (branchTarget u.pc 0x100) 0)) u.parts t).toBool) = true ∧
    alone { i := .bra (px .lane) 4 3 } t0 (fun u p c _ => c.nrec == 0 && c.regs.length == 60 && (entryAt c u.pc).any fun e => e.mask != 0 && p.act == e.mask) = true := by decide +kernel

/-- IndirectTransfers: v4 and v59 hold 0x40, where a word with the stop bit stands. -/
theorem wit_IndirectTransfers :
    let s := { t0 with mem := t0.mem ++ [(0x200040, 0xB3), (0x200041, 0x28)] }
    ([(.jmpi (px .crew) 15 4, [Opnd.src 4], 4), (.ret (px .lane) 0 59, [.src 59], 59), (.ret16, [.src 59], 59)] : List (Instr × List Opnd × RCode)).all (fun w =>
      issues { i := w.1, ops := w.2.1 } s fun u t =>
        (u.parts.all fun p => p.act != 0 && (crewAt t p.crew).any fun c => (srcReg c w.2.2.toNat).any fun r => r.fmt.isIndex) &&
        match checkJumps w.2.2 (u.parts.filter fun p => p.act != 0) t with
        | .go t1 => (leaveAll u (fun p c e => (false, jumpPaths ((srcReg c w.2.2.toNat).getD Reg.zero) e p.act u.next 0)) u.parts t1).toBool
        | _ => false) = true := by decide +kernel

/-- ExitsAndYield: nobody exits; lanes 0 and 31 exit; the same with sections held; a lone entry yields, and one of two. -/
theorem wit_ExitsAndYield :
    let c := { tCrew with pred := [0x80000001, 0, 0] }
    let some_ : Pfx := ⟨false, .lane, ⟨false, 0⟩⟩
    let held := { c with sect := (some 5) :: List.replicate 31 none }
    let split := { c with entries := [⟨0, 0, 0xFFFF, none, false, 0, 0⟩, ⟨8, 0, 0xFFFF0000, none, false, 0, 0⟩] }
    alone { i := .exit ⟨false, .lane, ⟨true, 3⟩⟩ } t0 (fun u p _ _ => u.crew == p.crew && p.act == 0) = true ∧
    ([c, held] : List Crew).all (fun c => alone { i := .exit some_ } (tState [c] tBlock) fun u p c t =>
      p.act != 0 && (c.live &&& ~~~p.act) != 0 && ((sectMask c &&& p.act) == 0 || (releaseNow t c 1).1) &&
      (leaveBy u (fun p _ e => (false, [{ e.to u.next with mask := e.mask &&& ~~~p.act }])) p t).toBool) = true ∧
    alone { i := .exit16 } t0 (fun u p c t => p.act != 0 && c.hashQ.isEmpty && sectMask c == 0 &&
      (leaveBy u (fun p _ e => (false, [{ e.to u.next with mask := e.mask &&& ~~~p.act }])) p t).toBool) = true ∧
    ([.yield (px .lane), .yield16] : List Instr).all (fun i => alone { i := i } t0 fun _ _ c _ => decide (c.entries.length ≤ 1) && c.nrec == 0) = true ∧
    ([.yield (px .lane), .yield16] : List Instr).all (fun i => alone { i := i } (tState [split] tBlock) fun u p c t => p.act != 0 && decide (1 < c.entries.length) &&
      (leaveBy u (fun _ c e => (false, [{ e.to u.next with demoted := true, quantum := 0, left := quantumOf t c.core }])) p t).toBool) = true ∧
    issues { i := .nop } t0 (fun _ _ => true) = true := by decide +kernel

theorem wit_GoingOn : alone { i := .nop } t0 (fun u p c _ => c.nrec == 0 && u.crew == p.crew && (entryAt c u.pc).any fun e => e.mask != 0) = true := by decide +kernel

/-- BarriersAndSets: JOIN of a set that nobody has joined, of one that waits for its last member, and of one that is complete. -/
theorem wit_BarriersAndSets :
    issues { i := .bar (px .block), waits := true } (two .block) (fun u t => (releaseEach u.parts t).1 && u.parts.length == 2 &&
      (barCopies (releaseEach u.parts t).2 u).isEmpty &&
      (barCopies { t with copies := [⟨7, 9, 1, 0, 3, 0, 0, 16, 0xFFFFFFFF, 0, Clock.zero, none, 0, [], false, .none, false, [], []⟩] } u).length == 1) = true ∧
    ([List.replicate 8 none, (List.replicate 7 none ++ [some ⟨8, false, [3, 4, 5, 6, 7, 8, 9]⟩])] : List (List (Option CrewSet))).all (fun ss =>
      alone { i := .join (px .crew) 7 7, localOnly := true } (tState [tCrew] { tBlock with sets := ss }) fun u p c t =>
        u.crew == p.crew && p.act != 0 && (setOf t c).isNone && (blockOf t c).any fun b => (joinSet c 7 8 b).isSome) = true ∧
    (joinSet tCrew 0 2 { tBlock with sets := [some ⟨2, true, [3, 4]⟩] } = none ∧ joinSet tCrew 0 3 { tBlock with sets := [some ⟨2, false, [3]⟩] } = none) ∧
    alone { i := .leave (px .crew) 0, localOnly := true } (tState [tCrew] { tBlock with sets := [some ⟨2, true, [2, 3]⟩] }) (fun u p c t =>
      u.crew == p.crew && p.act != 0 && (setOf t c).any fun q => q.1 == 0) = true := by decide +kernel

/-- OrderedSections: slots 1 to 32, all at counter 0, so every lane is ready; slot 5 twice, so one of two is. -/
theorem wit_OrderedSections :
    alone { i := .ordBegin (px .lane) 1, ops := [.src 1], waits := true } t0 (fun u p c t => u.crew == p.crew && p.act != 0 &&
      (srcReg c 1).any (fun r => r.fmt.isIndex && sectMask c == 0 && readyLanes t c r p.act == BitVec.allOnes 32 &&
        (leaveAll u (fun _ _ e => (true, [{ e.to u.next with mask := e.mask &&& ~~~(p.act &&& ~~~readyLanes t c r p.act) },
          Entry.fresh u.pc e.prio (p.act &&& ~~~readyLanes t c r p.act)])) [p] t).toBool) && (dieAt t (dieOfCore c.core)).isSome) = true ∧
    readyLanes t0 tCrew (uni .i32 5) 0x80000001 = 1 ∧ tCrew.sect.length = 32 ∧
    alone { i := .ordEnd (px .lane), waits := true } (tState [{ tCrew with sect := (some 5) :: List.replicate 31 none }] tBlock) (fun u p c t =>
      u.crew == p.crew && p.act != 0 && (releaseNow t c 1).1) = true ∧
    alone { i := .ordEnd ⟨false, .lane, ⟨true, 3⟩⟩, waits := true } t0 (fun _ p _ _ => p.act == 0) = true := by decide +kernel

/-- SpawnAndReord: a task control block at VA 0x3000, free and in use; REORD of lane 0. -/
theorem wit_SpawnAndReord :
    let c := withRegs [(20, uni .i32 0x3000), (21, uni .i32 0)]
    let sp (s : State) (ok : Submitted → Bool) : Bool :=
      issues { i := .spawn (px .lane) 22 20, ops := [.dst 22, .grp 20 2], waits := true } s fun u t => match actor u t, spawnArgs c 20 with
        | some (_, c), .ok va =>
          let t1 := (releaseNow t c 2).2
          (releaseNow t c 2).1 && match xlateFor t1 (.wait c.id) c.core (pasidOf t1 c) va .read c.priv with
            | (.hit pk _, t2) => decide (pk < hostBase) && !pinnedElsewhere t2 c.core (pk / 256) && !linkBars t2 c.core (pk / 256) &&
                ok (submit (writeBack t2 c.core (pk / 256)) pk (dieOfCore c.core) (crewClock ((crewAt t2 c.id).getD c)))
            | _ => false
        | _, _ => false
    sp (tState [c] tBlock) (fun r => match r with | .accepted _ => true | _ => false) = true ∧
    sp { tState [c] tBlock with mem := [(0, 3), (16, 1), (17, 0x50), (0x203032, 1)] } (fun r => match r with | .busy _ => true | _ => false) = true ∧
    (let s0 := tState [{ tCrew with pred := [1, 0, 0] }] tBlock
     let s := { s0 with
       mem := [(0, 3), (16, 1), (17, 0x50), (0x200004, 0xB3), (0x200005, 0x28)]
       tasks := [{ fetchTask with fslots := 2 }]
       dies := [{ Die.reset 0 with pasidBase := 3, enckeArea := 0x1000400001 }, Die.reset 1] }
     alone { i := .reord ⟨false, .lane, ⟨false, 0⟩⟩ 15 1 30, ops := [.src 1, .grp 30 16], waits := true } s fun u p c t =>
       u.crew == p.crew && p.act == 1 && (srcReg c 1).any (fun k => k.fmt.isIndex && sectMask c == 0 && enckeOn t (dieOfCore c.core) &&
         (taskOf t c).any fun tk => tk.fslots != 0 && match checkTarget t (some (.wait c.id)) c u.next with
           | (.valid, t1) => (c.live &&& ~~~p.act) != 0 && match releaseNow t1 c 1 with
             | (true, t2) => (crewAt t2 p.crew).any fun c2 => (entryAt c2 u.pc).any fun e =>
                 match binLanes c2 e k 30 16 u.next tk (dieOfCore c2.core) (laneIds.filter (laneIn p.act)) t2 with
                 | (m, t3) => m == p.act && (leaveBy u (fun p _ e => (false, [{ e.to u.next with mask := e.mask &&& ~~~p.act }])) p t3).toBool
             | _ => false
           | _ => false)) = true := by decide +kernel

/-! ### Witnesses: memory, local stores, the matrix engine, queues -/

/-- A buffer record: base VA 0x3000, extent 0x2000, readable and writable, scope `sc`, format `f`, stride `st`, and bits `more`. -/
def rec0 (sc f st more : Nat) : Rec := ⟨BitVec.ofNat 128 (0x3000 + sc * 2 ^ 57 + 3 * 2 ^ 59 + more + 0x2000 * 2 ^ 64 + st * 2 ^ 104 + f * 2 ^ 124), 0⟩

/-- Records m0 RAW32, m1 I32, m2 FP32, m3 RAW32 at device scope, m4 flat, m5 out-of-bounds lanes masked, m6 I32 with stride 132 for LDM. -/
def tRecs : List Rec := [rec0 0 0 16 0, rec0 0 1 16 0, rec0 0 5 16 0, rec0 2 1 16 0,
  ⟨BitVec.ofNat 128 (3 * 2 ^ 59 + (2 ^ 40 - 1) * 2 ^ 64 + 2 ^ 104), 0⟩, rec0 0 0 0x200 (2 ^ 63), rec0 0 0 256 0] ++ List.replicate 9 ⟨0, 0⟩

/-- The small machine with records, p0 in lanes 0 and 31; v20 and v21 hold an even pair of data. -/
def tm : State := tState [{ withRegs [(20, uni .i32 5), (21, uni .i32 6), (22, uni .i32 5), (23, uni .i32 6), (24, uni .fp32 0x3F800000)] with recs := tRecs, pred := [0x80000001, 0, 0] }] tBlock

/-- The hypotheses of MemoryAccesses hold and some part is ready. -/
def accessGoes (i : Instr) (ops : List Opnd) (a : Acc) (ok : Crew → Bool) (last : Ctx → State → Bool) (s : State) : Bool :=
  issues { i := i, ops := ops, ok := ok, waits := true } s fun u t =>
    let ps := u.parts.filterMap fun p => (prepPart a u t p).prep?
    let (ks, t0) := lookAll a t ps
    !ldmUnderWay t u && !pairWaits t u a.m a.idx && !ps.isEmpty && (u.parts.all fun p => match prepPart a u t p with | .skip => true | .ready _ => true | _ => false) &&
    (ks.all fun k => k.waits || (k.bad t0 a).isEmpty) && decide ((ks.filter (·.waits)).length ≤ 16) &&
    let r := match ks.head?.bind fun k => crewAt t0 k.prep.part.crew with | some c => countSample t0 c.core | none => (false, t0)
    match goParts a (ps.map (·.part.crew)) r.1 r.2 ks with
    | .ok t1 => last u t1
    | _ => false

theorem wit_MemoryAccesses :
    let x : Pfx := ⟨false, .lane, ⟨false, 0⟩⟩
    ([(.ldb x 3 0 30 1, [.vec 30, .src 1], ⟨.load 1 1 false, 30, 1, 0, 3⟩), (.ldbs x 0 0 30 1, [.vec 30, .src 1], ⟨.load 1 1 true, 30, 1, 0, 0⟩),
      (.ldh x 0 0 30 1, [.vec 30, .src 1], ⟨.load 2 1 false, 30, 1, 0, 0⟩), (.ldhs x 0 0 30 1, [.vec 30, .src 1], ⟨.load 2 1 true, 30, 1, 0, 0⟩),
      (.ldw x 0 0 30 1, [.vec 30, .src 1], ⟨.load 4 1 false, 30, 1, 0, 0⟩), (.ldd x 0 0 30 1, [.grp 30 2, .src 1], ⟨.load 8 2 false, 30, 1, 0, 0⟩),
      (.ldq x 0 0 30 1, [.grp 30 4, .src 1], ⟨.load 16 4 false, 30, 1, 0, 0⟩),
      (.stb x 0 0 20 1, [.src 20, .src 1], ⟨.store 1 1, 20, 1, 0, 0⟩), (.sth x 0 0 20 1, [.src 20, .src 1], ⟨.store 2 1, 20, 1, 0, 0⟩),
      (.stw x 0 1 20 1, [.src 20, .src 1], ⟨.store 4 1, 20, 1, 1, 0⟩), (.std x 0 1 20 1, [.grp 20 2, .src 1], ⟨.store 8 2, 20, 1, 1, 0⟩),
      (.stq x 0 1 20 1, [.grp 20 4, .src 1], ⟨.store 16 4, 20, 1, 1, 0⟩),
      (.axchg x 0 1 20 1, [.vec 20, .src 1], ⟨.atomic .xchg 0, 20, 1, 1, 0⟩), (.acas x 0 1 20 1, [.grp 20 2, .src 1], ⟨.atomic .cas 0, 20, 1, 1, 0⟩),
      (.aadd x 0 1 20 1, [.vec 20, .src 1], ⟨.atomic .add 0, 20, 1, 1, 0⟩), (.amin x 0 1 20 1, [.vec 20, .src 1], ⟨.atomic .min 0, 20, 1, 1, 0⟩),
      (.amax x 0 1 20 1, [.vec 20, .src 1], ⟨.atomic .max 0, 20, 1, 1, 0⟩), (.aminu x 0 1 20 1, [.vec 20, .src 1], ⟨.atomic .minu 0, 20, 1, 1, 0⟩),
      (.amaxu x 0 1 20 1, [.vec 20, .src 1], ⟨.atomic .maxu 0, 20, 1, 1, 0⟩), (.aand x 0 1 20 1, [.vec 20, .src 1], ⟨.atomic .and 0, 20, 1, 1, 0⟩),
      (.aor x 0 1 20 1, [.vec 20, .src 1], ⟨.atomic .or 0, 20, 1, 1, 0⟩), (.axor x 0 1 20 1, [.vec 20, .src 1], ⟨.atomic .xor 0, 20, 1, 1, 0⟩),
      (.afadd x 0 2 24 1, [.vec 24, .src 1], ⟨.atomic .fadd 0, 24, 1, 2, 0⟩), (.ldacq x 3 30 1, [.vec 30, .src 1], ⟨.ldacq, 30, 1, 3, 0⟩),
      (.strel x 3 20 1, [.src 20, .src 1], ⟨.strel, 20, 1, 3, 0⟩), (.stm x 0 6 1 20 14, [.grp 20 2, .src 14], ⟨.stm 2, 20, 14, 6, 0⟩)]
      : List (Instr × List Opnd × Acc)).all (fun w => accessGoes w.1 w.2.1 w.2.2 (fun _ => true) (fun _ _ => true) tm) = true := by decide +kernel

theorem wit_MemoryAccesses_ldm :
    accessGoes (.ldm (px .lane) 0 6 1 30 14) [.grp 30 2, .src 14] ⟨.ldm 2, 30, 14, 6, 0⟩ (fun _ => ldmIndexOk 30 14 2) (fun u t => !ldmUnderWay t u || u.parts.length == 1) tm = true := by decide +kernel

/-- The state after an instruction. -/
def after (i : Instr) (s : State) : State := match exec i s with | .next t => t | _ => s

/-- TranslatedAccess: every line of LDW through m0 is held; with an empty TLB a line misses; a page without the right is refused. -/
theorem wit_TranslatedAccess :
    let a : Acc := ⟨.load 4 1 false, 30, 1, 0, 0⟩
    let look (s : State) (ok : List Look → State → Look → Crew → MemReq → Crew → Bool) : Bool :=
      issues { i := .ldw (px .lane) 0 0 30 1, ops := [.vec 30, .src 1], waits := true } s fun u t => u.parts.any fun p => match prepPart a u t p with
        | .ready q => match lookAll a t [q] with
          | ([k], t1) => match crewAt t1 p.crew with
            | some c => match withSlot a c k.prep.req with
              | some (c', r) => ok [k] t1 k c r c'
              | none => false
            | none => false
          | _ => false
        | _ => false
    look tm (fun _ s k c r c' => !k.waits && match startAccess (setCrew s { c' with ldmDone := none }) [2] c.id a r k.prep.part.full false false false k.prep.clock
      (keyUnits k.lines k.prep.units) with | .ok _ => true | _ => false) = true ∧
    look { tm with cores := [CoreSt.reset 0] } (fun _ s k c _ _ => k.waits && decide (logsUsed s c.core < 16)) = true ∧
    look { tm with cores := [{ CoreSt.reset 0 with tlb := [⟨1, 0, 21, 0x200000, false, true, true, false, false, true, false, 0, none⟩] }] }
      (fun _ s k _ _ _ => a.op.group.isNone && !k.waits && !(k.bad s a).isEmpty) = true := by decide +kernel

/-- A request through a record, lanes 0 and 31. -/
def req (r : Rec) (idx : List Reg) : MemReq := ⟨0, 0, 0, 0x80000001, 0, r.bits, idx, none⟩

/-- Addresses: the last access inside the extent, one past it, a misaligned one, a flat record, and every swizzle code. -/
theorem wit_AccessAddresses :
    (let q := req (rec0 0 0 16 0) [uni .i32 0x1FF]
     q.index 31 * rStride q.record + 16 ≤ rExtent q.record ∧ ((rBase q.record + swz (rSwizzle q.record) (q.index 31 * rStride q.record)) % 2 ^ 57) % 16 = 0 ∧
     rExtent q.record < q.index 31 * rStride q.record + 17) ∧
    (let q := req (rec0 0 0 2 0) [uni .i32 1]
     q.index 0 * rStride q.record + 4 ≤ rExtent q.record ∧ ((rBase q.record + swz (rSwizzle q.record) (q.index 0 * rStride q.record)) % 2 ^ 57) % 4 ≠ 0) ∧
    rFlat (tRecs.getD 4 ⟨0, 0⟩).bits = true ∧ rFlat (tRecs.getD 0 ⟨0, 0⟩).bits = false ∧ 15 < 16 ∧ (15 : Nat) ≠ 0 := by decide +kernel

theorem wit_OutOfBoundsLanes :
    (let q := req (rec0 0 0 16 0) [uni .i32 0x200]
     rExtent q.record < q.index 31 * rStride q.record + 1 ∧ rOobz q.record = false) ∧
    (let q := req (tRecs.getD 5 ⟨0, 0⟩) [per .i32 fun l => BitVec.ofNat 32 l]
     rExtent q.record < q.index 31 * rStride q.record + 4 ∧ rOobz q.record = true ∧ (MemOp.load 4 1 false).group = none ∧
     reqCheck (.load 4 1 false) q false = .pass [(0, 0x3000)] ∧ laneIn q.act 31 = true ∧ laneIn tCrew.live 31 = true ∧ (∀ w ∈ [(⟨0, 0x3000, 0x203000, false⟩ : KeyUnit)], w.no ≠ 31)) ∧
    30 + 4 ≤ 60 ∧ 30 + 4 ≤ tCrew.regs.length := by decide +kernel

/-- StoreFormats: an I32 record with FP32 data, and with I32 data. -/
theorem wit_StoreFormats :
    let q := req (rec0 0 1 16 0) [uni .i32 0, uni .fp32 0]
    let q' := req (rec0 0 1 16 0) [uni .i32 0, uni .i32 0]
    recordOk q.record false true = true ∧ (∀ r ∈ q.images.take (idxImages q.record), r.fmt.isIndex = true) ∧
    (∃ r ∈ q.images.drop (idxImages q.record), r.fmt ≠ recordFmt q.record ∧ r.fmt ≠ .raw32 ∧ recordFmt q.record ≠ .raw32) ∧
    recordOk q'.record false true = true ∧ (∀ r ∈ q'.images.take (idxImages q'.record), r.fmt.isIndex = true) ∧
    (∀ r ∈ q'.images.drop (idxImages q'.record), r.fmt = recordFmt q'.record ∨ r.fmt = .raw32 ∨ recordFmt q'.record = .raw32) := by decide +kernel

/-- LoadReturns: a load of line 0x2030, an atomic, and a store, each with its line ready. -/
theorem wit_LoadReturns :
    ([(.ldw (px .lane) 0 0 30 1, fun o => o.reads && !o.writes), (.aadd (px .lane) 0 1 20 1, fun o => match o with | .atomic _ _ => true | _ => false),
      (.stw (px .lane) 0 3 20 1, fun o => !o.reads && o.writes)] : List (Instr × (MemOp → Bool))).all (fun w =>
        let s := after w.1 tm
        s.flights.any fun f => flightAt s f.id == some f && w.2 f.op && !f.sampled && (lineGo s f (f.todo.headD 0)).1.isSome &&
          (crewAt s f.crew).any fun c => !c.ended && decide (f.vd + 1 ≤ c.regs.length) && writeMask f c != 0 &&
            (f.op.dests f.vd).all (· < 48)) = true := by decide +kernel

theorem wit_AtomicValues : (after (.aadd (px .lane) 0 1 20 1) tm).flights.any (fun f => decide (f.vd < tCrew.regs.length) && decide (f.vd < 60) && laneIn f.req.act 31 && laneIn tCrew.live 31 && writeMask f tCrew != 0 &&
    f.lanes.any fun w => w.1 == 31) = true ∧ laneIn 0x7FFFFFFF 31 = false := by decide +kernel

/-- HomeMemory: two bytes written at a good address, and the bytes of a store on its way. -/
theorem wit_HomeMemory :
    tm.homeWf = true ∧ badDpa tm 0x203000 = false ∧
    (let s := after (.stw (px .lane) 0 3 20 1) tm
     s.homeWf && s.flights.any fun f => (match f.op with | .store _ _ => true | _ => false) && !f.sampled && !(storeBytes f (f.todo.headD 0)).isEmpty &&
       (storeBytes f (f.todo.headD 0)).all fun w => !badDpa s w.1 && (storeBytes f (f.todo.headD 0)).all fun v => v.1 != w.1 || v.2 == w.2) = true := by decide +kernel

theorem wit_RecordsFencesAndHints :
    allParts { i := .mrec (px .lane) 15 10, ops := [.grp 10 4] } t0 (fun c => (List.range 4).all fun i => (vreg c (10 + i)).shape == .u) = true ∧
    allParts { i := .mrst (px .lane) 15 56, ops := [.grp 56 4] } t0 (fun _ => true) = true ∧
    issues { i := .fence (px .lane) 3, waits := true } t0 (fun u t => (releaseParts 3 u.parts t).1) = true ∧
    issues { i := .pref (px .lane) 3 0 1, ops := [.src 1], waits := true } tm (fun u _ => !u.parts.isEmpty) = true ∧
    alone { i := .linv ⟨false, .lane, ⟨true, 3⟩⟩ 0 1, ops := [.src 1], waits := true } tm (fun _ p _ _ => p.act == 0) = true ∧
    alone { i := .linv (px .lane) 0 1, ops := [.src 1], waits := true } tm (fun u p c t => p.act != 0 && match linvCheck t c (byteReq c 0 0 1 u p.act) 1 with
      | .pass us =>
        let xs := xlateLines t (.wait c.id) c.core (pasidOf t c) .read c.priv (unitLines us)
        (xs.1.all fun o => o.2 != .miss && o.2 != .fault && o.2 != .access) && (wbWaits xs.2 c.core ((keyUnits xs.1 us).map fun u => u.pk / 256).eraseDups).isEmpty
      | _ => false) = true := by decide +kernel

/-- LocalStores: words 0 to 31 of the local store, and its last word, 252. -/
theorem wit_LocalStores :
    let s (r : Reg) := tState [withRegs [(20, r)]] tBlock
    ([per .i32 fun l => BitVec.ofNat 32 (4 * l), uni .i32 252] : List Reg).all (fun r =>
      ([(.lda (px .lane) 30 20, [.vec 30, .src 20]), (.sta (px .lane) 1 20, [.src 1, .src 20])] : List (Instr × List Opnd)).all fun w =>
        issues { i := w.1, ops := w.2, waits := true, localOnly := true } (s r) fun u t => !(asSides u t 20).isEmpty && (asSides u t 20).all fun q =>
          q.2.2.fmt.isIndex && (blockOf t q.2.1).any (fun b => swf (0 : Byte) b.aStore && (laneIds.filter (laneIn q.1.act)).all fun l =>
            (q.2.2.at l).toNat % 4 == 0 && decide ((q.2.2.at l).toNat + 4 ≤ b.asBytes)) &&
          t.copies.all fun k => !rangeHits k ((laneIds.filter (laneIn q.1.act)).map fun l => (q.2.2.at l).toNat)) = true ∧
    tCrew.regs.length = 60 ∧ (30 < 60) ∧
    (let p : AsPart := { crew := 2, quarter := 3, wr := false, dest := 30, addr := uni .i32 252, data := Reg.zero, act := 1, full := false }
     let t := tState [tCrew] tBlock
     let u := { t with cores := t.cores.map fun k => { k with asParts := [p] } }
     p.quarter < 4 ∧ (∃ k ∈ t.cores, k.id = 0) ∧ (∀ k ∈ t.cores, k.id = 0 → k.asParts = []) ∧ (crewAt u p.crew).any (fun c => (blockOf u c).isSome) = true ∧
     (coreAt u 0).any (fun k => k.asParts != [] && k.asParts.all fun q => decide (q.quarter < 4) && u.crews.any fun c => c.core == 0 && c.id == q.crew) = true) := by decide +kernel

theorem wit_FormedCrewRefused : placed (tState [tCrew] { tBlock with formed := some 0 }) (fun c => isFormed (tState [tCrew] { tBlock with formed := some 0 }) c) = true := by decide +kernel

/-- CopiesAndBatches: 64 bytes between memory and the local stores; batches and a barrier object at 0xF8, the last of the local store. -/
theorem wit_CopiesAndBatches :
    let quad : List Reg := [uni .i32 0, uni .i32 0xC0, uni .i32 0x40, uni .raw32 0xFFFFFFFF]
    let c := { withRegs ((quad.zipIdx).map fun q => (q.2 + 20, q.1)) with recs := tRecs, sealed := List.replicate 8 true, nextBatch := 3 }
    let s := tState [c] tBlock
    ([(0, .bcopyG2a (px .crew) 0 20, 0), (1, .bcopyG2w (px .crew) 0 20, 0), (2, .bcopyA2g (px .crew) 0 20, 0), (3, .bcopyA2w (px .crew) 20, 0)]
      : List (Nat × Instr × BitVec 4)).all (fun w =>
      issues { i := w.2.1, ops := [.grp 20 4], waits := true, localOnly := true } s fun u t => match u.parts.head?, crewAt t u.crew with
        | some _, some c => (blockOf t c).any fun b => (coreAt t c.core).any (fun k => k.copyWait.isEmpty && copyRoom t k c.id u.pc) && (blockAt t c.block).isSome &&
            bcopyCheck w.1 (recAt c w.2.2.toNat).bits ((List.range 4).map fun i => vreg c (20 + i)) b.asBytes b.wsBytes == none
        | _, _ => false) = true ∧
    alone { i := .batchSeal (px .crew) 30, ops := [.dst 30], waits := true, localOnly := true } s (fun u p c t => u.crew == p.crew && p.act != 0 &&
      (batchCopies t c.id [c.nextBatch]).isEmpty) = true ∧
    alone { i := .batchWait (px .crew) 0, ops := [.src 0], waits := true, localOnly := true } s (fun u p c t => u.crew == p.crew && p.act != 0 && match batchNo c 0 with
      | .ok n => (batchCopies t c.id (batchesTo c n)).isEmpty && (batchMark c (batchesTo c n)).isNone | _ => false) = true ∧
    alone { i := .batchPoll (px .crew) 30 0, ops := [.dst 30, .src 0], waits := true, localOnly := true } s (fun u p c _ => u.crew == p.crew && p.act != 0 && (batchNo c 0).toBool) = true ∧
    alone { i := .batchWait ⟨false, .crew, ⟨true, 3⟩⟩ 0, ops := [.src 0], waits := true, localOnly := true } s (fun _ p _ _ => p.act == 0) = true ∧
    (let b := tState [withRegs [(20, uni .i32 0xF8), (21, uni .i32 64), (22, uni .i32 0xFFFF)]] tBlock
     let at_ (u : Ctx) (t : State) (ok : Crew → Block → Bool) : Bool := match baroPart u t with
       | some (_, c, k) => (baroAddr c k 20).toBool && ok c k | none => false
     issues { i := .baroInit (px .lane) 20, ops := [.grp 20 3], waits := true, localOnly := true } b (fun u t => at_ u t fun c _ => (vreg c 21).shape == .u && (vreg c 22).shape == .u &&
       decide (((vreg c 22).at 0).toNat ≤ 0xFFFF)) = true ∧
     issues { i := .baroArrive (px .block) 20, ops := [.src 20], waits := true, localOnly := true } b (fun u t => at_ u t fun _ _ =>
       !u.parts.any fun p => (flightsOf t p.crew).any fun f => f.op.writes && f.scope == 0) = true ∧
     issues { i := .baroWait (px .lane) 20, ops := [.src 20], waits := true, localOnly := true } b (fun u t => at_ u t fun _ k => barAt k 0xF8 == ⟨0, 0, 0⟩) = true) ∧
    (tCrew.nextBatch < 8 ∧ tCrew.batchClk.length = 10 ∧ (crewAt t0 tCrew.id).isSome = true ∧ (blockAt t0 tCrew.block).any (fun b => swf (0 : Byte) b.aStore) = true) ∧
    (64 ≤ (⟨64, 1, 0⟩ : Barrier).bytes ∧ 1 ≤ (⟨64, 1, 0⟩ : Barrier).arrivals ∧ (⟨0, 0, 0⟩ : Barrier).arrivals < 1) ∧
    (let s3 := after (.bcopyA2w (px .crew) 20) (tState [withRegs [(20, uni .i32 0), (21, uni .i32 (2 ^ 18)), (22, uni .i32 16), (23, uni .i32 0xFFFFFFFF)]] tBlock)
     s3.copies.any (fun k => (s3.copies.find? fun x => x.id == k.id && x.awaits 0) == some k && k.dir == 3 && !k.held && inUnit s3 k && !macroBusy s3 k 0 && !copyTraceHeld s3 k &&
       (blockAt s3 k.block).any fun b => swf (0 : Byte) b.wStore)) = true := by decide +kernel

/-! ### Witnesses: the matrix engine, queues, islands -/

/-- The bytes of a shape record: V, GEN 5, formats, accumulate, A pitch, scale offset, 1 macro at WSBASE 0, 1 tile. -/
def shapeBytes (afmt bfmt acc pitch soff : Nat) : List Byte :=
  leSplit 4 (2 ^ 26 + 5 + afmt * 2 ^ 12 + bfmt * 2 ^ 16 + acc * 2 ^ 20) ++ leSplit 4 (pitch + soff * 2 ^ 16) ++ leSplit 4 16 ++ leSplit 4 1 ++ List.replicate 16 0

/-- A machine whose shape cache holds an I8 x I8 record in slot 0 and an E2M1 x E2M1 record in slot 1; accumulators at v16 (I32) and v32 (FP32). -/
def tx : State :=
  let c := { tCrew with regs := (tCrew.regs.take 16) ++ List.replicate 16 (uni .i32 0) ++ List.replicate 16 (uni .fp32 0) ++ tCrew.regs.drop 48 }
  let s := tState [c] { tBlock with asBytes := 4096, wsBytes := 16384, nshape := 2 }
  { s with
    tasks := [{ fetchTask with nshape := 2 }]
    cores := [{ CoreSt.reset 0 with tlb := tTlb, shapes := [⟨1, 0, shapeBytes 3 3 1 64 0⟩, ⟨1, 1, shapeBytes 9 9 0 32 2048⟩] }] }

/-- The first hypotheses of MatrixInstructions: an actor, its block, uniform operands, and the record of the handle. -/
def shapeGoes (i : Instr) (ops : List Opnd) (a : RCode) (b : Src) (ok : Ctx → Crew → Block → Word → ShapeRec → State → Bool) : Bool :=
  issues { i := i, ops := ops, waits := true, localOnly := true } tx fun u t => match u.parts.head? with
    | some p => match crewAt t p.crew with
      | some c => match blockOf t c, uniformOps t u.parts a b with
        | some k, .ok (va, h) => match getShape t c p.act ((taintClock c (opTaint c a b)).sup c.acq) h false with
          | .ok r t1 => ok u c k va r t1
          | _ => false
        | _, _ => false
      | none => false
    | none => false

theorem wit_MatrixInstructions_mma :
    ([(false, .mma (px .crew) 16 14 (.lit 5), 16, Src.lit 5), (true, .mmas (px .crew) 32 14 (.lit 0x1005), 32, .lit 0x1005)]
      : List (Bool × Instr × RCode × Src)).all (fun w => shapeGoes w.2.1 [.grp w.2.2.1 16, .src 14, .srcB w.2.2.2] 14 w.2.2.2 fun u c k va r t1 =>
        mmaCheck t1 u.parts w.1 (u.scope == .set) k r w.2.2.1 va.toNat == none && (matrixWait c u.pc k r (mmaRegs w.2.2.1 14 w.2.2.2)).ready t1 c.core && !engineTraceHeld t1 c.core &&
        (coreAt t1 c.core).any fun q => q.matrix.isNone && (engineLine t1 q).isEmpty) = true ∧
    shapeGoes (.mqnt (px .crew) 32 14 (.lit 0x1005)) [.grp 32 16, .src 14, .srcB (.lit 0x1005)] 14 (.lit 0x1005) (fun u _ k va r t1 =>
      va.toNat / 2 ^ 19 == 0 && r.afmt == 9 && !r.asrc && accFmtOk t1 u.parts 32 .fp32 && va.toNat % 16 == 0 &&
      decide (15 * r.pitch + 32 ≤ k.asBytes) && decide (r.soff + 8 * 15 + 8 ≤ k.asBytes)) = true := by decide +kernel

theorem wit_MatrixInstructions_rest :
    ([.mclrFp32 (px .crew) 44, .mclrI32 (px .set) 44] : List Instr).all (fun i => issues { i := i, ops := [.grp 44 16], localOnly := true }
      (if i == .mclrI32 (px .set) 44 then two .set else t0) fun u _ => !u.parts.isEmpty) = true ∧
    issues { i := .mscl (px .crew) 0 (.reg 5), ops := [.src 0, .srcB (.reg 5)], localOnly := true } t0 (fun u t => (actor u t).any fun q =>
      (vreg q.2 0).shape == .u && decide (((vreg q.2 0).at 0).toNat ≤ 63) && [Fmt.bf16x2, .raw32, .i32].contains (vreg q.2 5).fmt) = true ∧
    issues { i := .mhnd (px .crew) (.lit 5), ops := [.srcB (.lit 5)], waits := true, localOnly := true }
      { tx with mem := tx.mem ++ addrs 0x200200 (shapeBytes 3 3 1 64 0) |>.filter (fun w => w.2 != 0) } (fun u t => match actor u t with
      | some (p, c) => match getShape t c p.act (Clock.zero.sup c.acq) 5 true with | .ok _ _ => true | _ => false
      | none => false) = true ∧
    (List.replicate 64 (0 : BitVec 16)).length = 64 ∧ (48 ≤ 63 ∧ 63 - 48 < 32 ∧ laneIn 0x8000 15 = true) ∧
    (let s := { tx with cores := tx.cores.map fun k => { k with matrix := some ⟨[2], 1⟩ } }
     (coreAt s s.unit).any fun k => k.matrix.isSome) = true ∧
    (16 + 16 ≤ tCrew.regs.length ∧ 44 + 16 ≤ tCrew.regs.length) := by decide +kernel

/-- ElementAccumulation: the ends of the I8 range; zero times infinity, infinities of both signs and of one; numbers whose products are -0, and whose sum is. -/
theorem wit_ElementAccumulation : (∀ p ∈ [((-128 : Int), (127 : Int)), (127, -128)], -128 ≤ p.1 ∧ p.1 ≤ 127 ∧ -128 ≤ p.2 ∧ p.2 ≤ 127) ∧
    List.Perm [((127 : Int), (-128 : Int)), (-128, 127)] [(-128, 127), (127, -128)] ∧ (List.replicate 64 (FVal.fin true 3 (-1))).length = 64 ∧
    (List.replicate 7 (FVal.fin false 1 0) ++ [FVal.inf true]).length = 8 ∧ ((true != false) = true ∧ (FVal.inf true).neg = true) := by decide +kernel

/-- ElementAccumulation and QuantisedGroup: a zero and a number of magnitude 3. -/
theorem wit_ElementAccumulation_values : ((FVal.fin true 0 0).isFinite ∧ (FVal.fin true 0 0).num = 0) ∧
    (FVal.fin true 3 0).isFinite ∧ |(FVal.fin true 3 0).num| = 3 ∧ (0 : ℚ) < 3 := by simp [FVal.isFinite, FVal.num]

/-- MatrixTile: the machine of `tx`; a row of A and a byte of B; a queue source with 4 vectors, the last byte of the image among them. -/
theorem wit_MatrixTile :
    issues { i := .mma (px .crew) 16 14 (.lit 5), ops := [.grp 16 16, .src 14, .srcB (.lit 5)], waits := true, localOnly := true } tx (fun u t =>
      decide (u.parts.map (·.crew)).Nodup && t.blocks.all (fun b => (coreAt t b.core).isSome && b.asOld.isEmpty) && u.parts[0]?.any fun p => (crewAt t p.crew).isSome) = true ∧
    (shapeOf (shapeBytes 9 9 0 32 2048)).any (fun r => !r.asrc) = true ∧ (31 < 32 ∧ 127 < 128 ∧ 1295 < 1296 ∧ 63 < 64) ∧
    (shapeOf (shapeBytes 9 9 0 32 2048)).any (fun r0 =>
     let r := { r0 with asrc := true, q := 4 }
     let s := { tx with cores := tx.cores.map fun k => { k with queues := k.queues.set 4 { Queue.unbound with entries := List.replicate 4 ⟨List.replicate 32 3, 0xFFFF, 0, Clock.zero⟩ } } }
     decide (r.q < 16) && (queueAt s 0 r.q).entries[(15 * 32 + 31) / 128]?.isSome && decide ((15 * 32 + 31) / 128 < 4)) = true := by decide +kernel

/-- QuantisedGroup: one part, rows of 32 bytes and scales at 512, second half; the magnitude 3 of a group, and a group of zeros. -/
theorem wit_QuantisedGroup :
    issues { i := .mqnt (px .crew) 32 14 (.lit 0x1005), ops := [.grp 32 16, .src 14, .srcB (.lit 0x1005)], waits := true, localOnly := true } tx (fun u t =>
      u.parts.length == 1 && u.parts.all (fun p => (crewAt t p.crew).isSome) && t.blocks.all fun b => swf (0 : Byte) b.aStore) = true ∧
    (16 ≤ 32 ∧ 1 < 2 ∧ ∀ m < 16, ∀ k < 16, m * 32 + 16 * 1 + 16 ≤ 512 + 8 * k + 4 * 1 ∨ 512 + 8 * k + 4 * 1 + 4 ≤ m * 32 + 16 * 1) := by decide +kernel

/-- One queue entry. -/
def tEntry : QEntry := ⟨List.replicate 32 3, 0xFFFF, 0, Clock.zero⟩

/-- Core 0's queue registers: 3 bound into port 1 of island 4 and holding an entry, 4 bound out of port 9 with one entry; the island runs the
standard image. -/
def tq : State :=
  { t0 with
    isles := [Isle.reset 0 4]
    cores := [{ CoreSt.reset 0 with tlb := tTlb, queues := List.replicate 3 Queue.unbound ++
      [⟨true, 1, 1, 4, 1, false, .i32, [tEntry], 0, false, false⟩, ⟨true, 1, 1, 4, 9, true, .i32, [tEntry], 2, false, false⟩] ++ List.replicate 11 Queue.unbound }] }

theorem wit_QueueOperations :
    issues { i := .qopPush (px .crew) 3 0, ops := [.src 0], waits := true } tq (fun u t => (actor u t).any fun q => (srcReg q.2 0).any fun r =>
      let k := crewQueue t q.2 3
      k.bound && !k.out && r.fmt == k.fmt && decide (k.entries.length < 8)) = true ∧
    issues { i := .qopPop (px .crew) 4 2 20, ops := [.dst 20], waits := true } tq (fun u t => (actor u t).any fun q =>
      let k := crewQueue t q.2 4
      k.bound && k.out && k.entries == [tEntry] && q.2.regs.length == 60 && q.2.pred.length == 3) = true ∧
    ([0, 1] : List RCode).all (fun a => issues { i := .qopDem (px .block) 4 a, ops := [.src a], waits := true } tq fun u t => (actor u t).any fun q => (srcReg q.2 a.toNat).any fun r =>
      let k := crewQueue t q.2 4
      k.bound && k.out && (if a = 0 then r.shape == .u && r.fmt == .i32 else r.shape != .u)) = true ∧
    issues { i := .qopDem (px .lane) 4 2, ops := [.src 2], waits := true } tq (fun u t => (actor u t).any fun q => (srcReg q.2 2).any fun r => r.shape == .u && !r.fmt.isIndex) = true ∧
    issues { i := .qopStat (px .lane) 4 20, ops := [.dst 20], waits := true } tq (fun u t => (actor u t).any fun q => (crewQueue t q.2 4).bound) = true ∧
    (let r := queueAt tq 0 3
     (r.entries == [tEntry] && (isleAt tq 0 r.island).any (fun i => (i.inp.find? fun p => p.no == r.port).any fun p => decide (p.fifo.length < 32)) && r.bound && !r.out) = true) ∧
    (let v : PortVec := ⟨List.replicate 32 5, 1, 0, Clock.zero, Clock.zero, 0, 4⟩
     let s := { tq with isles := tq.isles.map fun i => i.modOut 9 fun p => { p with done := [(0, v)] } }
     (isleAt s 0 4).any (fun i => ((i.outp.find? fun p => p.no == 9).bind fun p => p.done.head?) == some (0, v) && decide (0 ≤ i.cycle)) && takerOf s 4 9 v.core == some 4) = true ∧
    (coreAt tq 0).any (fun k => decide (4 < k.queues.length) && decide ((queueAt tq 0 4).demand + (queueAt tq 0 4).entries.length ≤ 8)) = true := by decide +kernel

/-- A cell record: operation `op`, SRC_A queue 0, SRC_B queue 1, one rule that needs and pops queue 0 and feeds nothing. -/
def cellWords (op : Nat) : List Word := [BitVec.ofNat 32 (op * 2 ^ 12 + 2 ^ 21), 0, 0x80110000] ++ List.replicate 5 0 ++ List.replicate 8 0

/-- A token on queue register 4 of core 0. -/
def tTok (v : Word) : Token := ⟨v, 0x40, 0, 4, Clock.zero, Clock.zero⟩

/-- An island 4 whose cell 5 runs `op`, with a token of value `v` in queue 0 and one in queue 1, and things under way. -/
def isle5 (op : Nat) (v : Word) (busy : Option CellBusy) (items : List Item) (node : Option NodeBuf) : Isle :=
  { Isle.reset 0 4 with
    image := some ⟨[(5, cellWords op)], [], [], 0, []⟩
    pasid := some 1
    cycle := 3
    cells := [⟨5, [[tTok v], [tTok 0x77], [], []], 0, Clock.zero, [1, 1], [1, 1, 1, 1], node, busy, none⟩]
    items := items }

/-- The machine with that island; task 1 binds record 0: VA 0x3000. -/
def ti (op : Nat) (v : Word) (busy : Option CellBusy) (items : List Item) (node : Option NodeBuf) : State :=
  { tq with isles := [isle5 op v busy items node], dies := tq.dies.map (fun d => { d with tlb := tTlb }), tasks := [{ fetchTask with binding := some ([], [(rec0 0 0 1 0).bits]) }] }

theorem wit_IslandEvents_fire :
    ([2, 38, 39] : List Nat).all (fun op => (isleAt (ti op 0x10 none [] none) 0 4).any fun i => !i.arriving && !isleTraceHeld (ti op 0x10 none [] none) 0 4 && i.image.any fun im =>
      (i.cells.find? fun c => c.idx == 5).any fun c => firingRule (cellRec im 5) c == some 0 && canFire im i c && wfield (cellRec im 5) 0 12 6 == op) = true := by decide +kernel

/-- Each kind of thing that travels, due now. -/
theorem wit_IslandEvents_items :
    ([.token 5 3 (tTok 1), .port 9 (tTok 1), .credit 5 1 8, .request 5 0, .portRequest 1] : List ItemKind).all (fun w =>
      (isleAt (ti 2 0 none [⟨1, 3, w⟩] none) 0 4).any fun i => dueItem i 1 sameTarget == some ⟨1, 3, w⟩ && dueItem i 1 (fun _ _ => false) == some ⟨1, 3, w⟩) = true := by decide +kernel

/-- FETCH outside its record fails, and hits its node buffer; STORE fails, and reaches its line. -/
theorem wit_IslandEvents_access :
    let node : NodeBuf := ⟨1, 0x3000 / 64, List.replicate 64 9, Clock.zero⟩
    let look (st : Bool) (v : Word) (ok : State → Isle → CellSt → CellBusy → CellAcc → Bool) : Bool :=
      let s := ti (if st then 39 else 38) v (some ⟨st, 0, 1, false, false⟩) [] (some node)
      match busyCell s 0 4 5 st with
      | some (i, im, c, b) =>
        let ws := cellRec im 5
        ok s i c b (cellAccess s i b (leadToken ws c b.rule) (wfield ws 8 0 2) (Machine.srcOf ws c ((sources ws).headD 6)))
      | none => false
    look false 0x2000 (fun _ _ _ _ a => match a with | .fail _ => true | _ => false) = true ∧
    look false 4 (fun _ _ c b a => match a with
      | .at_ pasid va _ _ => (c.node.any fun n => n.pasid == pasid && n.node == va / 64 && n.clock.covers (resultToken (cellWords 38) c b.rule 0 false Clock.zero).clock)
      | _ => false) = true ∧
    look true 0x2001 (fun _ _ _ _ a => match a with | .fail _ => true | _ => false) = true ∧
    look true 4 (fun _ i c b a => match a with
      | .at_ _ _ pk t =>
        let k := resultToken (cellWords 39) c b.rule 0 false Clock.zero
        let r := isleLine t i.die k.core k.q pk true
        r.1 && (appliedClock r.2 i.die).covers k.clock && (sliceAccess r.2 (pk / 256) none).homeWf && !badDpa (sliceAccess r.2 (pk / 256) none) pk
      | _ => false) = true := by decide +kernel

/-- That the loader accepts an image no witness shows: the root key is a value of `Config` without a body (log entry 40), so no signature under it can be written down. -/
theorem wit_IslandEvents_loader :
    (let s := { t0 with dies := t0.dies.map fun d => { d with loader := [⟨2, 0, 4, some [], none⟩] } }
     ((dieAt s s.unit).any fun d => (d.loader.find? fun j => j.answer.isNone && jobStands s j).any fun j => (crewAt s j.crew).any (fun c => !c.ended) &&
       j.image.any fun bs => decide (0 < (checkImage s s.unit j.code bs).1)) = true) ∧
    (let c := { withRegs [(20, uni .i32 0x3000), (21, uni .i32 0), (22, uni .i32 19)] with priv := true }
     let s := tState [c] tBlock
     issues { i := .sysIswap (px .lane) 30 20, ops := [.dst 30, .grp 20 3], waits := true } { s with dies := s.dies.map fun d => { d with loader := [⟨2, 0, 4, none, some 1⟩] } }
       (fun u t => match actor u t with
       | some (_, c) => (dieAt t (dieOfCore c.core)).any fun d => (d.loader.find? fun j => j.crew == c.id && j.pc == u.pc).any fun j => j.answer == some 1
       | none => false) = true ∧
     let image := [(0x203000, 0x49), (0x203001, 0x46), (0x203002, 0x56), (0x203003, 0x41), (0x203004, 1), (0x203008, 0xA0), (0x203009, 2), (0x20300C, 0x40)]
     ([([], false), (image, true)] : List (List Host.Cell × Bool)).all (fun w =>
       issues { i := .sysIswap (px .lane) 30 20, ops := [.dst 30, .grp 20 3], waits := true } { s with mem := s.mem ++ w.1 } fun u t => match actor u t with
       | some (p, c) => match iswapArgs c 20 with
         | .ok (va, code) =>
           let t0 := modLoader t (dieOfCore c.core) fun l => l.filter (fun j => j.crew != c.id) ++ [⟨c.id, u.pc, code, none, none⟩]
           match readImage c p.act ((taintClock c 0).sup c.acq) va t0 with
           | (.bytes _ _, ok) => ok == w.2
           | _ => false
         | _ => false
       | none => false) = true) := by decide +kernel

/-! ### Witnesses: the events of the device and of the host -/

/-- The small machine with the host link up. -/
def tu : State := { t0 with boot := { t0.boot with linkUp := true, pending := none }, hdm := [(0x10000000, 0x10000000, 0), (0, 0, 0)] }

/-- Task 1 queued with one more block to place: queue 2 of die 0 (class 0) is enabled. -/
def tsch : State :=
  { tu with
    tasks := [{ fetchTask with grid := (2, 1, 1), waited := 64, queue := 2 }]
    cores := [{ CoreSt.reset 0 with tlb := tTlb, scrub := [(0, 64)], groups := 0x4001 }]
    crews := [{ tCrew with ended := true }]
    dies := [{ Die.reset 0 with pasidBase := 3, sqCtl := (Die.reset 0).sqCtl.set 2 0x101, queues := (Die.reset 0).queues.set 2 [1] }, Die.reset 1] }

/-- A block in a state. -/
def blk (b : BlockState) (s : State) : State := { s with unit := 1, blocks := [{ tBlock with state := b }] }

/-- Some copy of block 1. -/
def tCopy : Copy := ⟨7, 2, 1, 0, 3, 0, 0, 16, 0xFFFFFFFF, 0, Clock.zero, none, 0, [], false, .none, false, [], []⟩

theorem wit_SchedulingEvents :
    (15 < 16 ∧ (dieAt tu 0).isSome = true ∧ hostUp tu = true) ∧
    (let s := { tu with unit := 1, blocks := [{ tBlock with state := .retired }], tasks := [{ fetchTask with err := 0 }] }
     (taskAt s s.unit).any (fun t => taskOver s t && (retireSectors s t).isEmpty && (settleCores s (taskCores s t.no)).1) = true) ∧
    (let r := (runPushes tsch); (dieAt r r.unit).isSome && !fenced r r.unit && !placeHeld r r.unit) = true ∧
    ((dieAt tsch 0).any (fun d => (headTasks tsch d (queueClass tsch 0 2)).any fun h => h.1 == 2 && decide (64 ≤ h.2.waited) && !h.2.bind &&
      let x := needNext tsch (queueClass tsch 0 2) h.2
      tsch.cores.all (fun k => k.reserve != some x.key) && (tsch.cores.find? fun k => dieOfCore k.id == 0 && fits tsch x k.id
        ((tsch.blocks.filter fun b => b.core == k.id && b.placed && decide (x.cls ≤ blockClass tsch b)).map (·.id))).isSome) = true) ∧
    ([.waking, .saving true, .saving false, .stopping] : List BlockState).all (fun b => (blockAt (blk b tu) 1).any fun k => k.state == b && (taskAt (blk b tu) k.task).isSome) = true ∧
    (let s := { blk .stopping tu with crews := [{ tCrew with entries := [⟨0, 0, BitVec.allOnes 32, none, false, 0, 0⟩] }], mem := tu.mem ++ [(0x200000, 0xB3), (0x200001, 0x28)] }
     (blockAt s 1).any (fun b => !allEnded s b && noSections s b && blockQuiet s b && s.crews.all fun c => crewHalted s c && c.log.isNone) = true) ∧
    ([.running, .stopping, .draining] : List BlockState).all (fun b =>
      let s := blk b { tsch with copies := if b == .running then [tCopy] else [] }
      (blockAt s 1).any fun k => allEnded s k && (if b == .running then s.copies.any (fun q => q.block == k.id) else (pinnedLines s k.id).all fun p => !wbBlocked s p.1 p.2)) = true ∧
    (coreAt tsch 0).any (fun k => !k.scrub.isEmpty && k.groups.getLsbD 14 && !groupOwned tsch 0 14) = true := by decide +kernel

/-- A lane record of task 1 with key 5. -/
def tLane : LaneRec := ⟨1, 5, 0, [], 1, false, 0, 0, 0, ⟨0, 0, 0, 0, 0, 0⟩, 0, [], Clock.zero, Clock.zero⟩

theorem wit_CrewEvents :
    (let s := { tsch with dies := tsch.dies.map fun (d : Die) => if d.id = 0 then { d with bins := [tLane] } else d, tasks := [fetchTask] }
     (dieAt s 0).any (fun d => (d.bins.find? fun r => r.key == 5 && !r.aged).isSome && (taskAt s 1).any fun t => noMoreLanes s 0 t && d.bins.any fun r => r.task == 1 && !r.aged) = true) ∧
    (let s := { tu with unit := 2, crews := [{ tCrew with entries := [⟨0, 3, 1, none, false, 0x40, 0⟩, ⟨8, 0, 2, none, false, 0, 0⟩] }] }
     (crewAt s s.unit).any (fun c => (c.entries.find? fun e => !e.demoted && decide (quantumOf s c.core ≤ e.quantum) && c.entries.any fun o => o.pc != e.pc && o.wait.isNone).isSome) = true) ∧
    (let s := { tu with
       unit := 2
       mem := tu.mem ++ [(0x200000, 0x05), (0x200001, 0x24)]
       crews := [{ tCrew with entries := [⟨0, 0, 1, some .rendezvous, false, 0, 0⟩, ⟨8, 0, 0xFFFFFFFE, some .rendezvous, false, 0, 0⟩], rdv := [(0, .crew), (8, .crew)] }] }
     (crewAt s s.unit).any (fun c => allHeld c && (rdvClosure s s.crews.length [c.id]).all (crewStuck s) &&
       (stuckEntry s (rdvClosure s s.crews.length [c.id])).any fun q => match fetchInstr s q.1 q.2.pc with | (.word _ _ _, _) => true | _ => false) = true) ∧
    placed t0 (fun _ => true) = true ∧ (Why.scope true ≠ .scope false) := by decide +kernel

/-- A walk for VA 0x3000 of PASID 1, a line that core 1 holds pinned, and rejected accesses. -/
theorem wit_MemoryEvents :
    (let s := { tu with unit := 9, walks := [⟨9, 0, 0, 1, 0x3000, .read, false, .log 2, false, .pending, false⟩] }
     (s.walks.find? fun w => w.id == s.unit).any (fun w => !w.ats && w.result == .pending && !walkBlocked s w) = true) ∧
    (let s := { tu with crews := [{ tCrew with log := some ⟨⟨0, 0, 0, 1, 0, 0, [], none⟩, [], Clock.zero, false, false, false⟩ }], cores := tu.cores.map fun k => { k with rejects := [⟨99, 0, false⟩, ⟨2, 0, false⟩] } }
     (coreAt s s.unit).any fun k => k.rejects.filter (Reject.stands s) == [⟨2, 0, false⟩] && (crewAt s 2).any fun c => c.log.any fun e => e.req.pc == 0) = true ∧
    (let s := { tu with cores := tu.cores.map fun k => { k with rejects := [⟨99, 0, false⟩, ⟨2, 0, false⟩] } }
     (coreAt s s.unit).any (fun k => k.rejects.filter (Reject.stands s) == [⟨2, 0, false⟩]) && !s.link.retraining && (crewAt s 2).any fun c => c.log.isNone && (entryAt c 0).isSome) = true ∧
    (let s := { tu with cores := tu.cores.map fun k => { k with rejects := [⟨99, 0, false⟩] } }
     (coreAt s s.unit).any fun k => (k.rejects.filter (Reject.stands s)).isEmpty) = true ∧
    (let s := after (.ldw ⟨false, .lane, ⟨false, 0⟩⟩ 0 0 30 1) tm
     let s := { s with cores := s.cores ++ [{ CoreSt.reset 1 with l1 := [⟨0x2030, 0, 0, [], [], 0, false, some 1, [], 0⟩] }] }
     s.flights.any (fun f => flightAt s f.id == some f && f.todo.contains 0x2030 && pinnedElsewhere s f.core 0x2030 && (crewAt s f.crew).any (fun c => filterPasses s f.core (taskOf s c)) &&
       (pinHolder s 0x2030).isSome) = true) ∧
    (let s := after (.ldw ⟨false, .lane, ⟨false, 0⟩⟩ 0 0 30 1) tm
     let h := homeDie s 0x203000
     let s := { s with region := some 1, dies := s.dies.map fun (d : Die) => if d.id = h then { d with rp := { d.rp with ctl := 2, active := true, gates := [(0, ⟨0x2030, [(77, false, 1)]⟩)] } } else d }
     (gatedNow s).any (fun g => g.2 == 0x2030) && (gatedNow { s with flights := [], crews := s.crews.map fun c => { c with gated := some 0x2030 } }).any fun g => g.2 == 0x2030) = true := by decide +kernel

theorem wit_HostMemoryEvents :
    hostUp tu = true ∧ hpaKey tu 0x100030C0 < hostBase ∧ hostReaches tu (hpaKey tu 0x100030C0) 64 = true ∧ badDpa tu (hpaKey tu 0x100030C0) = false ∧
    (let s := { tu with hdm := [(0x10000000, 0x10000000, 2 ^ 45), (0, 0, 0)] }
     badDpa s (hpaKey s 0x10000000) && hostReaches s (hpaKey s 0x10000000) 64 && decide (hpaKey s 0x10000000 < hostBase)) = true ∧ hostBase ≤ hpaKey tu 0x40 ∧
    7 ∈ ({ tu with biWait := [7] } : State).biWait ∧ tu.homeWf = true ∧ (dieAt tu (homeDie tu (0x2030 * 256))).any (fun d => !d.rp.active) = true ∧
    tu.cores.all (fun c => c.l1.all fun l => l.key != 0x2030 || l.pin.isNone) = true ∧ (syncHeld tu (hpaKey tu 0x100030C0 / 256)).isEmpty = true ∧
    (let key := hpaKey tu 0x100030C0 / 256
     let s := { tu with hostHeld := [(key * 4 + 3, .shared)], cores := tu.cores.map fun k => { k with l1 := [⟨key, 8, 2 ^ 200, [(200, 1)], [], 0, false, some 1, [], 0⟩] } }
     hostUp s && decide (hpaKey s 0x100030C0 < hostBase) && hostReaches s (hpaKey s 0x100030C0) 64 && !(syncHeld s (hpaKey s 0x100030C0 / 256)).isEmpty) = true := by decide +kernel

/-- A page request, sent, and an ATS walk. -/
theorem wit_PageAndPinEvents :
    hostUp tu = true ∧ sdFlying tu < 8 ∧ (dieAt tu 1).isSome = true ∧
    (let s := { tu with walks := [⟨9, 0, 0, 1, 0x3000, .read, false, .log 2, true, .pending, false⟩] }
     (s.walks.find? fun w => w.id == 9 && w.ats && w.result == .pending).isSome = true) ∧
    ((true || false || false) = true ∧ 12 ≤ 12) ∧
    (let s := { tu with pageReqs := [⟨4, 0, true, 1, 2, 3, 1, false, true, false, true, none⟩] }
     (s.pageReqs.find? fun r => r.tag == 4 && r.pri && r.sent).isSome = true) ∧
    (let s := { tu with pageReqs := [⟨2 ^ 32 + 5, 0, false, 1, 2, 3, 1, false, true, false, true, none⟩] }
     (s.pageReqs.find? fun r => r.sent && !r.pri && r.tag == 2 ^ 32 * (0 + 1) + (0x10005 : Word).toNat % 2 ^ 16).isSome = true ∧
     s.pageReqs.find? (fun r => r.sent && !r.pri && r.tag == 2 ^ 32 * (0 + 1) + (6 : Word).toNat % 2 ^ 16) = none) ∧
    (63 < 64 ∧ 15 < 16) ∧ (dieAt { tu with dies := [{ Die.reset 0 with pinStatus := (List.replicate 64 0).set 63 1 }] } 0).any (fun d => d.pinStatus.getD 63 0 == 1) = true := by decide +kernel

theorem wit_LinkAndFenceEvents :
    ((dieAt tu 0).isSome && !tu.link.retraining && !fenced tu 0 && !fenced tu 1 && decide (tu.link.crcFails.getD 0 0 < 4)) = true ∧
    4 ≤ ({ tu with link := ⟨false, false, false, [4, 0], 0⟩ } : State).link.crcFails.getD 0 0 ∧
    ([true, false] : List Bool).all (fun h => ({ tu with link := ⟨true, h, false, [0, 0], 0⟩ } : State).link.retraining) = true ∧
    (let s := { tu with shootdowns := [⟨1, 0, none, 0, 1, none, [0], false⟩] }
     (s.shootdowns.find? fun v => v.id == 1).any (fun v => (dieAt s 1).isSome && !fenced s 1 && !v.acked.contains 1 && !sdBusy s v 1 && !s.link.retraining && (settleCores s ((s.cores.filter fun c => dieOfCore c.id == 1).map (·.id))).1) = true) ∧
    (let s := { tu with icinvs := [⟨1, 2, 0, 1, some (0x30, 2), []⟩], cores := tu.cores.map fun k => { k with icache := [⟨1, 0x30, [], 0⟩, ⟨1, 0x32, [], 0⟩] } }
     (s.icinvs.find? fun v => v.id == 1).any (fun v => !v.acked.contains 0 && (icinvCores s).contains 0 && dieOfCore 0 == icinvDie s v.crew) = true ∧ (coreAt (after (.icinvAck 1 0) s) 0).any (fun k => k.icache == [⟨1, 0x32, [], 0⟩]) = true) ∧
    (let d := homeDie tu 0x203000
     fenced tu d = false ∧ badDpa tu 0x203000 = false ∧ (∀ f ∈ tu.flights, f.op.reads = true → f.todo.contains (0x203000 / 256) = false)) ∧
    (dieAt tu 1).any (fun d => !d.fenced && d.ctls.contains 7) = true := by decide +kernel

theorem wit_RegistersBootAndFirmware_trace :
    (let s := { tu with traceQ := [⟨0, 0, 0, 6, 2, [], none, none⟩], time := 1, dies := [{ Die.reset 0 with trace := { TraceBlk.reset with ctl := 1, base := 4 } }, { Die.reset 1 with fenced := true }] }
     (trace0 s).any (fun t => t.size.isSome && t.on && (nextRec s.traceQ).any (recReady s)) = true) ∧
    (match findLoc tu 0 { pasid := 0xFFFFF, rtab := 0, pc := 0 } with | .word _ _ => true | .wait _ => false) = true ∧
    hostUp tu = true ∧ (dieAt tu 0).isSome = true ∧ (dieAt tu 1).isSome = true ∧ tu.boot.linkUp = true ∧ ownRow 0x100000 = false ∧ ownRow 0x510008 = false ∧ 5 < tu.boot.steps.length := by decide +kernel

theorem wit_RegistersBootAndFirmware_boot :
    ({ tu with boot := { tu.boot with pending := some 0 } } : State).boot.pending = some 0 ∧ tu.boot.pending = none ∧ (0x8 : BitVec 4) ≠ 0 ∧
    (refreshStatus tu).fuses.policy = 0 ∧
    ([0, 1, 2, 3] : List (BitVec 2)).all (fun p => (refreshStatus { tu with fuses := { tu.fuses with policy := p } }).fuses.policy == p) = true ∧
    25 < tu.boot.mhz ∧ ({ tu with boot := { tu.boot with mhz := 2075 } } : State).boot.mhz + 25 ≤ (configFigures tu).1 ∧
    tu.mbox.busy = false ∧ ({ tu with mbox := { tu.mbox with busy := true } } : State).mbox.busy = true ∧ tu.boot.zeroised = false ∧
    ({ tu with boot := { tu.boot with zeroised := true } } : State).boot.zeroised = true := by decide +kernel

/-- FW_ARG inside the flash and past it: FW_SIZE is the board's, so one of the two ends is named without it. -/
theorem wit_RegistersBootAndFirmware_flash : (1 ≠ 2 → 0 < Config.flashSize.toNat ∨ Config.flashSize.toNat ≤ 0) ∧
    Config.flashSize.toNat ≤ ({ tu with mbox := { tu.mbox with arg := 0x10000 } } : State).mbox.arg :=
  ⟨fun _ => by omega, by have := Config.flashSize.isLt; show Config.flashSize.toNat ≤ 0x10000; omega⟩

/-! ### Witnesses: issue, steps, memory, encoding -/

theorem wit_IssueAtLaneScope :
    issues { i := .iadd (px .lane) 20 1 (.reg 0), ops := binOps 20 1 (.reg 0) } t0 (fun _ _ => true) = true ∧
    placed t0 (fun c => !isFormed t0 c && (binOps 20 1 (.reg 0)).all (opndOk { t0 with cur := none } c) && c.log.isNone && !c.acqWait && stackSound { t0 with cur := none } c &&
      ((binOps 20 1 (.reg 0)).flatMap opndRegs).all fun r => !(pendingRegs t0 c).contains r) = true ∧
    (crewAt t0 tCrew.id).isSome = true ∧ (3 : Nat) ≠ tCrew.id := by decide +kernel

/-- The first step after placing IADD: the slot's crew, its word, and the instruction; and a word that is none. -/
theorem wit_StepRunsDecoded :
    ([(0x280081 + 0x30, true), (0x3DB1, false)] : List (Nat × Bool)).all (fun w =>
      let s := State.reset.withFetchWord 32 w.1
      let k0 := { s with agenda := [], progress := true }
      s.agenda == [.issue 0 0] && (selectCrew k0 0 0).any fun q =>
        match fetchInstr (modCore k0 0 fun k => { k with rr := k.rr.set 0 q.1.slot }) q.1 q.2.pc with
        | (.word w' lit len, _) => w' == w.1 && len == 4 && lit == 0 && (match decodeWord w' lit with | .ok _ => w.2 | .error _ => !w.2)
        | _ => false) = true ∧
    (match xlateFor t0 (.fetch 2) 0 1 0x40 .fetch false with
    | (.hit pk _, t) => pk % 256 == 0x40 && !pinnedElsewhere t 0 (pk / 256) && !linkBars t 0 (pk / 256) &&
        hostBars t false ((List.range 4).map (pk / 256 * 4 + ·)) == [] && (coreAt t 0).any (fun k => (k.icache.find? fun l => l.pasid == 1 && l.line == 0).isNone) && homePoison t (pk / 256) == 0
    | _ => false) = true := by decide +kernel

theorem wit_StepGoesOn : (t0.crews.map (·.id)).Nodup ∧ ({ t0 with agenda := [.issue 0 0] } : State).agenda = [.issue 0 0] ∧
    ({ t0 with agenda := [.islandCycle 0 4] } : State).agenda = [.islandCycle 0 4] ∧ t0.agenda = [] ∧
    Instr.encoded .linkHeartbeat = false ∧ (∀ w l n y, Instr.linkHeartbeat ≠ .illegalInstruction w l n y) := by
  refine ⟨by decide, rfl, rfl, rfl, rfl, fun _ _ _ _ h => by cases h⟩

/-- A step of the small machine that stores: its memory is canonical before. -/
theorem wit_MemoryStaysCanonical : tm.homeWf = true ∧ State.reset.homeWf = true ∧
    (match step { tm with cur := none, agenda := [.event (.hostWrite 0x40 [1] none) 0] } with | .next _ => true | _ => false) = true := by decide +kernel

theorem wit_DecodeEncode : (Instr.ldm (px .block) 3 15 7 52 51).wellFormed = true ∧ (Instr.ldm (px .block) 3 15 7 52 51).encoded = true ∧
    (match decodeBytes ([0xB1, 0x00, 0x28, 0x08] : List Byte) with | .ok (_, n) => n == 4 | _ => false) = true := by decide +kernel

/-! ### Single steps; the expected values are worked out by hand from the rules named -/

/-- The state of the task after an instruction that ends it: its ERR and trap code. -/
def taskEnd (i : Instr) (s : State) : Option (Nat × Nat) :=
  match exec i s with
  | .next t => (taskAt t 1).map fun k => (k.err, k.trapCode)
  | _ => none

/-- R147: 0x01020304 + 0x02020202 element by element in I8x4; v1 + 0xFFFFFFFF wraps to the lane number. -/
theorem test_iadd : runs (.iadd (px .lane) 20 6 (.reg 7)) t0 (fun t => laneOf t 20 0 == some 0x03040506) = true ∧
    runs (.iadd (px .lane) 20 1 (.lit 0xFFFFFFFF)) t0 (fun t => laneOf t 20 31 == some 31 && laneOf t 20 0 == some 0) = true := by decide +kernel
/-- R147: 7 - 0x40; the minuend is va. -/
theorem test_isub : runs (.isub (px .lane) 20 0 (.reg 4)) t0 (fun t => laneOf t 20 5 == some 0xFFFFFFC7) = true := by decide +kernel
/-- R149: 7 + 0x7FFFFFFF clamps. -/
theorem test_iadds_clamps : runs (.iadds (px .lane) 20 0 (.lit 0x7FFFFFFF)) t0 (fun t => laneOf t 20 5 == some 0x7FFFFFFF) = true := by decide +kernel
/-- R148: -3 / 2 = -1 and -3 rem 2 = -1; division by zero. -/
theorem test_idiv : runs (.idiv (px .lane) 20 8 (.lit 2)) t0 (fun t => laneOf t 20 5 == some 0xFFFFFFFF) = true ∧
    runs (.irem (px .lane) 20 8 (.lit 2)) t0 (fun t => laneOf t 20 5 == some 0xFFFFFFFF) = true ∧
    runs (.iremu (px .lane) 20 8 (.lit 0)) t0 (fun t => laneOf t 20 5 == some 0xFFFFFFFD) = true := by decide +kernel
/-- R150: a count of 32 is 0; SAR keeps the sign. -/
theorem test_shifts : runs (.shl (px .lane) 20 0 (.lit 32)) t0 (fun t => laneOf t 20 0 == some 7) = true ∧
    runs (.sar (px .lane) 20 8 (.lit 1)) t0 (fun t => laneOf t 20 0 == some 0xFFFFFFFE) = true := by decide +kernel
/-- R151: BFE of 8 bits at 8 from 0x01020304, unsigned; R153: IMAD 3 * 7 + 0x40 in lane 2. -/
theorem test_bfe_imad : runs (.bfe (px .lane) 20 12 (.lit 0x0402)) t0 (fun t => laneOf t 20 0 == some 0) = true ∧
    runs (.imad (px .lane) 4 1 (.reg 0)) t0 (fun t => laneOf t 4 2 == some 0x55) = true := by decide +kernel
/-- R164: 1.0 + 2.0 = 3.0; R168: the lesser of +0 and -0 is -0. -/
theorem test_float : runs (.fadd (px .lane) 20 2 (.reg 3)) t0 (fun t => laneOf t 20 0 == some 0x40400000) = true ∧
    FOp.min.elem fp32F 0 0x80000000 = 0x80000000 := by decide +kernel
/-- R155: v1 < 7 holds in lanes 0 to 5. -/
theorem test_iclt : runs (.iclt (px .lane) 0 3 0 1 (.reg 0)) t0 (fun t => (crewAt t 2).map (·.pred) == some [0x3F, 0, 0]) = true := by decide +kernel
/-- R136: SHFLU by 7: lane 31 takes lane 24's value, lane 6 keeps its own. -/
theorem test_shflu : runs (.shflu (px .lane) 20 1 (.reg 0)) t0 (fun t => laneOf t 20 31 == some 25 && laneOf t 20 6 == some 7) = true := by decide +kernel
/-- R19: with guard p0 in lanes 0 and 31, the other lanes of vd keep what they held, and the shape is G. -/
theorem test_guard : runs (.mov ⟨false, .lane, ⟨false, 0⟩⟩ 4 (.lit 9)) (tState [{ tCrew with pred := [0x80000001, 0, 0] }] tBlock) (fun t =>
    laneOf t 4 31 == some 9 && laneOf t 4 30 == some 0x40 && (crewAt t 2).map (fun c => (vreg c 4).shape) == some .g) = true := by decide +kernel
/-- R281: a branch by -1 halfword from 0 with lanes 0 and 31 leaves two entries; R265: the others go on at 4. -/
theorem test_branch : runs (.bra ⟨false, .lane, ⟨false, 0⟩⟩ 8 3) (tState [{ tCrew with pred := [0x80000001, 0, 0] }] tBlock) (fun t =>
    (crewAt t 2).any fun c => (entryAt c 16).map (·.mask) == some 0x80000001 && (entryAt c 4).map (·.mask) == some 0x7FFFFFFE && c.entries.length == 2) = true := by decide +kernel
/-- R281: CALL links to the next instruction. -/
theorem test_call : runs (.call (px .lane) 0x3FFF 0) t0 (fun t => laneOf t 59 7 == some 4 && (crewAt t 2).any fun c => (entryAt c 0xFFFFFFFE).isSome) = true := by decide +kernel
/-- R283: the last EXIT ends the crew. -/
theorem test_exit : runs (.exit (px .lane)) t0 (fun t => (crewAt t 2).all (·.ended)) = true := by decide +kernel
/-- R328 and R322: with no handler, TRAP 5 ends the task with error TRAP (6) and code 0x45; R30: MOVC write outside a handler is PRIV (0x0D). -/
theorem test_traps_without_handler : taskEnd (.sysTrap (px .lane) 5) t0 = some (6, 0x45) ∧ taskEnd (.movcWr (px .lane) .frontQuantum 0) t0 = some (6, 0x0D) ∧
    taskEnd (.iadd (px .lane) 20 2 (.reg 0)) t0 = some (6, 0x03) ∧ taskEnd (.mov (px .lane) 60 (.reg 0)) t0 = some (6, 0x02) ∧
    taskEnd (.illegalInstruction 0x3DB1 0 4 .reservedMajor) t0 = some (6, 0x01) := by decide +kernel
/-- R321, R322: the handler starts at TRAP_VECTOR in a privileged context, with v48 the cause, v49 the PC and p0 the trap's lanes. -/
theorem test_trap_entry : (let c := handlerCrew th tCrew tInfo
    c.priv && c.entries.map (·.pc) == [0x100] && (vreg c 48).at 0 == 0x41 && (vreg c 49).at 31 == 0 && c.pred == [3, 0, 0]) = true := by decide +kernel
/-- R329: RTT goes back to the frame's PC, out of the privileged context. -/
theorem test_rtt : runs (.sysRtt (px .crew)) tf (fun t => (crewAt t 2).any fun c => !c.priv && c.entries.map (·.pc) == [0x40]) = true := by decide +kernel
/-- R83, R85: LDH reads two bytes, low byte first, zero-extended. -/
theorem test_ldh : runs (.loadDataReturn 1 0x2030) (after (.ldh (px .lane) 0 0 30 14) { tm with mem := tm.mem ++ [(0x203000, 0x34), (0x203001, 0x92), (0x203002, 0x77)] })
    (fun t => laneOf t 30 31 == some 0x9234 && t.flights.isEmpty) = true := by decide +kernel
/-- R238: AADD of 5 by lanes 0 and 31 at one device-scope address that holds 7: lane 0 returns 7, lane 31 returns 12, memory holds 17. -/
theorem test_aadd : runs (.atomicReturn 1 0x2030) (after (.aadd ⟨false, .lane, ⟨false, 0⟩⟩ 0 3 20 14) { tm with mem := tm.mem ++ [(0x203000, 7)] })
    (fun t => readByte t.mem 0x203000 == 17 && laneOf t 20 0 == some 7 && laneOf t 20 31 == some 12 && laneOf t 20 1 == some 5) = true := by decide +kernel
/-- R86: a device-scope STW is performed at its home: v20 is 5. -/
theorem test_stw : runs (.writePerformed 1 0x2030) (after (.stw ⟨false, .lane, ⟨false, 0⟩⟩ 0 3 20 14) tm) (fun t => readByte t.mem 0x203000 == 5) = true := by decide +kernel
/-- R93, R99: STA puts lane 1's word at byte 4 of the local store. -/
theorem test_sta : runs (.sta (px .lane) 1 20) (tState [withRegs [(20, per .i32 fun l => BitVec.ofNat 32 (4 * l))]] tBlock)
    (fun t => (blockAt t 1).any fun b => readNat b.aStore 4 4 == 2 && readNat b.aStore 124 4 == 32) = true := by decide +kernel
/-- R194: an I32 accumulator of 5 with rows 1, -2 and columns 3, 4: 5 + 3 - 8 = 0. -/
theorem test_accumulate : accumulate true 5 [ofInt 1, ofInt (-2)] [ofInt 3, ofInt 4] = 0 := by decide +kernel
/-- R229: DEM of 7 with demand 2 and one entry takes 5 and clamps. -/
theorem test_qop_dem : runs (.qopDem (px .lane) 4 0) tq (fun t => (queueAt t 0 4).demand == 7 && (queueAt t 0 4).clamp) = true := by decide +kernel
/-- R99 and Table 14-3: an LDA past the local store is AS_BOUNDS (5). -/
theorem test_lda_bounds : taskEnd (.lda (px .lane) 30 9) t0 = some (6, 5) := by decide +kernel
/-- A step from reset runs the placed instruction (MOV v3, 0x1234 at 64 bits): v3 is written, the PC goes to 8, the latch ring takes the result. -/
theorem test_step_mov : (match step (State.reset.withFetchWord 64 0x12340000FC00D431) with
    | .next t => (crewAt t 2).any fun c => (vreg c 3).at 31 == 0x12340000 && c.entries.map (·.pc) == [8] && (srcReg c 60).any fun r => r.at 0 == 0x12340000
    | _ => false) = true := by decide +kernel
/-- R28: a step over an unassigned major ends the task, which has no handler, with ILLEGAL. -/
theorem test_step_illegal : (match step (State.reset.withFetchWord 32 0x3DB1) with
    | .next t => (taskAt t 1).map (fun k => (k.err, k.trapCode)) == some (6, 1)
    | _ => false) = true := by decide +kernel
/-- Tables 12-1, 12-2, 14-12 and 16-5: reset values. -/
theorem test_reset : (coreAt State.reset 95).any (fun k => k.quantum == 0x40 && k.ageLimit == 0x1000 && k.traceFilter == 0xFFFF) = true ∧
    (dieAt State.reset 1).any (fun d => d.sqCtl.getD 15 0 == 0x100 && d.enckeCtl == 0x40) = true ∧ State.reset.memoryWf = true := by decide +kernel
/-- FIPS 180-4's example: SHA-384 of "abc". -/
theorem test_sha384_abc : beValue (sha384 [97, 98, 99]) =
    0xcb00753f45a35e8bb5a03d699ac65007272c32ab0eded1631a8b605a43ff5bed8086072ba1e7cc2358baeca134c825a7 := by decide +kernel
/-- Table 1-1, AV-64M: 64 cores, 32 a die; 4 controllers a die; 24 GiB; 1.6 GHz, 140 W and 175 W. -/
theorem test_av64m : (let s := State.resetOf Fuses.av64m
    (s.cores.filter fun k => k.enabled && decide (k.id < 48)).length == 32 && (s.cores.filter (·.enabled)).length == 64 && ctlCount s 0 == 4 && ctlCount s 1 == 4 &&
      memEnd s == 24 * 2 ^ 30 && configFigures s == (1600, 140, 175)) = true := by decide +kernel
/-- R125: with lanes 0 to 15 exited, a full write of a uniform value gives lane 0 the value too; R85, R147: a write that is not full leaves the result's taint. -/
theorem test_full_write : runs (.mov (px .lane) 20 (.lit 9)) (tState [{ tCrew with live := 0xFFFF0000, entries := [⟨0, 0, 0xFFFF0000, none, false, 0, 0⟩] }] tBlock)
      (fun t => laneOf t 20 0 == some 9 && laneOf t 20 31 == some 9) = true ∧
    runs (.mov ⟨false, .lane, ⟨false, 0⟩⟩ 4 (.lit 9)) (tState [{ withRegs [(4, { uni .i32 0x40 with taint := 4 })] with pred := [0x80000001, 0, 0] }] tBlock)
      (fun t => (crewAt t 2).any fun c => (vreg c 4).taint == 0) = true := by decide +kernel
/-- R22, R201: MSCL's literal takes va's format, so with an IDX va it is FORMAT (3). -/
theorem test_mscl_literal : taskEnd (.mscl (px .crew) 20 (.lit 5)) (tState [withRegs [(20, uni .idx 5)]] tBlock) = some (6, 3) := by decide +kernel

set_option maxRecDepth 20000 in
/-- RFC 6979, A.2.6: the P-384 signature over SHA-384 of "sample" verifies under its key. -/
theorem test_p384_sample : sigVerifies ([4,236,58,78,65,91,78,25,164,86,134,24,2,159,66,127,165,218,154,139,196,174,146,224,46,6,170,229,40,107,48,12,100,222,248,240,234,144,85,134,96,100,162,84,81,84,128,188,19,128,21,217,183,45,125,87,36,78,168,239,154,192,198,33,137,103,8,165,147,103,249,223,185,245,76,168,75,63,28,157,177,40,139,35,28,58,224,212,254,115,68,253,37,51,38,71,32])
    ([115,97,109,112,108,101])
    ([148,237,187,146,165,236,184,170,212,115,110,86,198,145,145,107,63,136,20,6,102,206,159,167,61,100,196,234,149,173,19,60,129,166,72,21,46,68,172,249,110,54,221,30,128,250,190,70,153,239,74,235,21,241,120,206,161,254,64,219,38,3,19,143,19,14,116,10,25,98,69,38,32,59,99,81,208,163,169,79,163,41,193,69,120,110,103,158,123,130,199,26,56,98,138,200]) = true := by decide +kernel

/-- IntegerElementValues and FloatElementValues: a format of each kind at its last element, and codes of a number, a zero, an infinity and a NaN in each element format. -/
theorem wit_ElementValues :
    (Fmt.i4x8.isInt = true ∧ 7 < fmtCount .i4x8) ∧ (elem 4 0x80000000 7 = 2 ^ (4 - 1) ∧ elem 4 0 7 = 0 ∧ Fmt.idx.isIndex = true) ∧
    (∀ F ∈ [fp32F, fp16F, bf16F], decodeF F 1 = .fin false 1 F.emin ∧ decodeF F 0 = .fin false 0 F.emin ∧ decodeF F F.inf = .inf false ∧
      decodeF F (F.inf + 2 ^ (F.width - 1)) = .inf true ∧ decodeF F F.nan = .nan) ∧
    (∀ f ∈ [(Fmt.fp16x1, fp16F), (.bf16x2, bf16F), (.fp32, fp32F)], f.1.isFloat = true ∧ floatFmt f.1 = some f.2) ∧
    (floatFmt .e3m5x4 = some e3m5F ∧ decodeF e3m5F 0xFF = .fin false 62 (-1) ∧ floatFmt .i8x4 = none) := by decide +kernel

/-- FP16: its largest number is 65,504 and the step there 32, so 65,520 overflows to nearest, 65,519 does not, and 65,505 does so upwards only. -/
theorem wit_Overflows : Overflows fp16F .rne 65520 ∧ ¬ Overflows fp16F .rne 65519 ∧ Overflows fp16F .rup 65505 ∧ ¬ Overflows fp16F .rdn 65505 := by
  have h : decodeF fp16F fp16F.maxCode = .fin false 2047 5 := by decide +kernel
  have top : fp16F.num fp16F.maxCode = 65504 := by unfold FloatFmt.num; rw [h]; norm_num [FVal.num]
  have step : fp16F.topStep = 32 := by norm_num [FloatFmt.topStep, fp16F]
  unfold Overflows
  rw [top, step]
  norm_num [fp16F, abs_of_pos]
end Sys2Proof.Tests
end

section
/-! PROOF of O53, RegistersBootAndFirmware: the dies that a register write reaches, then one rule for each event of the trace, the registers,
the boot, the update mailbox and SPDM. -/

namespace Sys2Proof.Machine

/-! ### Dies by their numbers -/

/-- A die found by a number has that number. -/
theorem dieAt_id {s : State} {n : Nat} {d : Die} (h : dieAt s n = some d) : d.id = n := by
  simpa using List.find?_some h

theorem dieAt_modDie_self {s : State} {n : Nat} {d : Die} {f : Die → Die} (hf : ∀ x, (f x).id = x.id) (h : dieAt s n = some d) :
    dieAt (modDie s n f) n = some (f d) := by
  have hfind : s.dies.find? (fun x => x.id == n) = some d := h
  unfold dieAt modDie
  rw [find_map_set fun x => if x.id == n then f x else x, hfind]
  · simp [dieAt_id h]
  · intro x; by_cases hx : x.id = n <;> simp [hx, hf]

theorem dieAt_setDie_self {s : State} {n : Nat} {d e : Die} (he : e.id = n) (h : dieAt s n = some d) : dieAt (setDie s e) n = some e := by
  subst he
  have hfind : s.dies.find? (fun x => x.id == e.id) = some d := h
  unfold dieAt setDie
  rw [find_map_set fun x => if x.id == e.id then e else x, hfind]
  · simp [dieAt_id h]
  · intro x; by_cases hx : x.id = e.id <;> simp [hx]

/-! ### Trace control -/

/-- A change of die 0's trace control keeps the control word it writes: only the counts of a new run and the merger's queue may go with it (log entry 22). -/
theorem setTrace_eq {s : State} {d : Die} (f : TraceBlk → TraceBlk) (h : dieAt s 0 = some d) :
    ∃ t q, t.ctl = (f d.trace).ctl ∧ setTrace s f = { setDie s { d with trace := t } with traceQ := q } := by
  unfold setTrace
  simp only [h]
  refine ⟨if (f d.trace).on && !d.trace.on then { f d.trace with drops := 0, lost := 0, started := false } else f d.trace,
    if d.trace.on && !(f d.trace).on then [] else s.traceQ, ?_, ?_⟩
  · split <;> rfl
  · by_cases hoff : (d.trace.on && !(f d.trace).on) = true
    · rw [if_pos hoff, if_pos hoff]
    · rw [if_neg hoff, if_neg hoff]; rfl

/-- TR_CTL of either die takes the bits that it has (R340, Table 15-4). -/
theorem dieAt_setTrCtl {s : State} {die : Nat} {d : Die} (v : Word) (h : dieAt s die = some d) :
    ∃ e, dieAt (setTrCtl die v s) die = some e ∧ e.trace.ctl = v &&& 0xFFFF03FF := by
  unfold setTrCtl
  by_cases h0 : die = 0
  · subst h0
    obtain ⟨t, q, hctl, heq⟩ := setTrace_eq (fun t => { t with ctl := v &&& 0xFFFF03FF }) h
    refine ⟨{ d with trace := t }, ?_, hctl⟩
    rw [if_pos rfl, heq]
    exact dieAt_setDie_self (show d.id = 0 from dieAt_id h) h
  · rw [if_neg h0]
    exact ⟨_, dieAt_modDie_self (fun _ => rfl) h, rfl⟩

/-- A write of the host takes place while the host reaches the device (R369, R372). -/
theorem hostDoes_of_up {s : State} (h : hostUp s = true) (f : State → State) : hostDoes s f = .next (f s) := if_pos h

theorem exec_trCtl {s : State} {die : Nat} {d : Die} (hup : hostUp s = true) (v : Word) (h : dieAt s die = some d) :
    ∃ t e, exec (.trCtl die v) s = .next t ∧ dieAt t die = some e ∧ e.trace.ctl = v &&& 0xFFFF03FF :=
  let ⟨e, he, hctl⟩ := dieAt_setTrCtl v h
  ⟨_, e, hostDoes_of_up hup (setTrCtl die v), he, hctl⟩

/-- TR_TIME: a write while EN acts as 1 changes nothing, any other steps both dies' time (R337, Table 15-4). -/
theorem exec_trTime {s : State} {d : Die} (hup : hostUp s = true) (v : BitVec 64) (h : dieAt s 0 = some d) :
    exec (.trTime v) s = .next (if d.trace.on then s else
      { s with time := v.toNat, time1 := v.toNat, slewed := 0, link := { s.link with beat := 0 } }) := by
  change execTrTime v s = _
  rw [execTrTime, hostDoes_of_up hup]
  simp only [h]

theorem exec_trAdj {s : State} (hup : hostUp s = true) (v : Word) : exec (.trAdj v) s = .next (modTrace s fun t => { t with adj := v }) :=
  hostDoes_of_up hup fun s => modTrace s fun t => { t with adj := v }

theorem exec_trTail {s : State} (hup : hostUp s = true) (v : Word) :
    exec (.trTail v) s = .next (modTrace s fun t => { t with tail := v.toNat % 2 ^ 30 }) :=
  hostDoes_of_up hup fun s => modTrace s fun t => { t with tail := v.toNat % 2 ^ 30 }

theorem exec_traceSample {s : State} (hup : hostUp s = true) (core : Nat) (v : Word) :
    exec (.traceSample core v) s = .next (modCore s core fun k => k.setCtl .traceSample v) :=
  hostDoes_of_up hup fun s => modCore s core fun k => k.setCtl .traceSample v

/-! ### The next trace record -/

/-- A record that names no code is written as it stands once it is ready (R338, R340). -/
theorem exec_traceRecordWrite_noLoc {s : State} {t : TraceBlk} {size : Nat} {r : TraceRec} (ht : trace0 s = some t) (hr : nextRec s.traceQ = some r)
    (hsize : t.size = some size) (hon : t.on = true) (hready : recReady s r = true) (hloc : r.loc = none) :
    exec .traceRecordWrite s = .next (writeRec s t size r) := by
  change execTraceRecordWrite s = _
  simp [execTraceRecordWrite, ht, hr, hsize, hon, hready, hloc]

/-- A record that names code is written with the location word that the read gives (R341). -/
theorem exec_traceRecordWrite_located {s s1 : State} {t : TraceBlk} {size : Nat} {r : TraceRec} {l : TraceLoc} {w : Word} (ht : trace0 s = some t)
    (hr : nextRec s.traceQ = some r) (hsize : t.size = some size) (hon : t.on = true) (hready : recReady s r = true) (hloc : r.loc = some l)
    (hfind : findLoc s r.die l = .word w s1) :
    exec .traceRecordWrite s = .next (writeRec { s1 with traceQ := replaceFirst r (r.located w) s1.traceQ } t size (r.located w)) := by
  change execTraceRecordWrite s = _
  simp [execTraceRecordWrite, ht, hr, hsize, hon, hready, hloc, hfind]

/-! ### BOOT_CLEAR and REGISTER_WRITE -/

/-- The boot record's words after a write of BOOT_CLEAR (R370). -/
def clearSteps (v : Word) (steps : List Word) : List Word := steps.zipIdx.map fun (w, n) => if v.getLsbD n then 0 else w

@[simp] theorem clearSteps_length (v : Word) (steps : List Word) : (clearSteps v steps).length = steps.length := by simp [clearSteps]

theorem clearSteps_getD (v : Word) (steps : List Word) {n : Nat} (h : n < steps.length) :
    (clearSteps v steps).getD n 0 = if v.getLsbD n then 0 else steps.getD n 0 := by
  simp [clearSteps, List.getD, h]

theorem exec_bootClear {s : State} (h : s.boot.linkUp = true) (v : Word) :
    exec (.bootClear v) s = .next { s with boot := { s.boot with steps := clearSteps v s.boot.steps } } := by
  change execBootClear v s = _
  simp [execBootClear, clearSteps, h]

theorem exec_registerWrite {s : State} (h : s.boot.linkUp = true) {off : Nat} (v : BitVec 64) (hrow : ownRow off = false) :
    exec (.registerWrite off v) s = .next (if s.boot.recovery then standbyWrite s off v else barWrite s off v) := by
  change execRegisterWrite off v s = _
  simp [execRegisterWrite, h, hrow]

/-! ### Resets and the security alarm -/

/-- The boot that follows a reset of the device's own (R369). -/
theorem exec_powerOnReset_pending {s : State} {c : BitVec 3} (env : BootEnv) (h : s.boot.pending = some c) :
    exec (.powerOnReset env) s = .next (bootAll s env) := by
  change execPowerOnReset env s = _
  simp only [execPowerOnReset, h]

/-- A power-on, cause 0, or a reset by the host, cause 1, resets first (R369). -/
theorem exec_powerOnReset_cause {s : State} {env : BootEnv} (h : s.boot.pending = none) (hc : env.cause = 0 ∨ env.cause = 1) :
    exec (.powerOnReset env) s = .next (bootAll (resetNow s env.cause) env) := by
  have hcause : (env.cause == 0 || env.cause == 1) = true := by simpa using hc
  change execPowerOnReset env s = _
  simp only [execPowerOnReset, h, hcause, if_true]

/-- The machine once the monitors of an alarm have latched, before the policy acts (R375, Table 16-10). -/
def latchAlarm (s : State) (m : BitVec 4) : State := refreshStatus { s with boot := { s.boot with secAlarm := s.boot.secAlarm ||| m, alarmed := true } }

theorem exec_securityAlarm {s : State} {m : BitVec 4} (hm : m ≠ 0) : exec (.securityAlarm m) s = .next (alarmNow s m).2 := if_neg hm

/-- What an alarm does under each fused policy (Table 16-9). -/
theorem alarmNow_report {s : State} {m : BitVec 4} (h : (latchAlarm s m).fuses.policy = 0) : (alarmNow s m).2 = tellVec (latchAlarm s m) 6 := by
  unfold latchAlarm at h ⊢; simp [alarmNow, h]

theorem alarmNow_reset {s : State} {m : BitVec 4} (h : (latchAlarm s m).fuses.policy = 1) : (alarmNow s m).2 = resetNow (latchAlarm s m) 2 := by
  unfold latchAlarm at h ⊢; simp [alarmNow, h]

theorem alarmNow_zeroise {s : State} {m : BitVec 4} (h : (latchAlarm s m).fuses.policy = 2 ∨ (latchAlarm s m).fuses.policy = 3) :
    (alarmNow s m).2 = resetNow { latchAlarm s m with boot := { (latchAlarm s m).boot with zeroised := true } } 2 := by
  unfold latchAlarm at h ⊢
  obtain h | h := h <;> simp [alarmNow, h]

/-! ### The arithmetic clock -/

theorem exec_clockThrottle_lower {s : State} (h : 25 < s.boot.mhz) :
    exec (.clockThrottle true) s = .next { s with boot := { s.boot with mhz := s.boot.mhz - 25 } } := if_pos h

theorem exec_clockThrottle_raise {s : State} (h : s.boot.mhz + 25 ≤ (configFigures s).1) :
    exec (.clockThrottle false) s = .next { s with boot := { s.boot with mhz := s.boot.mhz + 25 } } := if_pos h

/-! ### The update mailbox -/

/-- A vector of the device's own leaves the mailbox as it is. -/
@[simp] theorem tellVec_mbox (s : State) (v : Nat) : (tellVec s v).mbox = s.mbox := by
  unfold tellVec raiseVec
  split
  · split <;> rfl
  · rfl

theorem completeFw_mbox (s : State) (result : Nat) :
    (completeFw s result).mbox = { s.mbox with result := result, busy := false, isDone := true } := by simp [completeFw]

/-- However a command ends, it completes one state with one RESULT (Table 16-7). -/
theorem finishFw_completes (s : State) (ok : Bool) : ∃ t result, finishFw s ok = completeFw t result := by
  unfold finishFw
  dsimp only
  split
  · exact ⟨_, _, rfl⟩
  split
  · exact ⟨_, _, rfl⟩
  split
  · exact ⟨_, _, rfl⟩
  split
  · exact ⟨_, _, rfl⟩
  · exact ⟨_, _, rfl⟩

theorem finishFw_mbox (s : State) (ok : Bool) : (finishFw s ok).mbox.busy = false ∧ (finishFw s ok).mbox.isDone = true := by
  obtain ⟨t, result, h⟩ := finishFw_completes s ok
  simp [h, completeFw_mbox]

theorem exec_fwCommandComplete {s : State} (ok : Bool) (h : s.mbox.busy = true) : exec (.fwCommandComplete ok) s = .next (finishFw s ok) := if_pos h

section
variable {s : State} (hup : s.boot.linkUp = true) (hidle : s.mbox.busy = false)
include hup hidle

/-- An idle mailbox takes a command (R373). -/
theorem startFw_idle (cmd : Nat) :
    startFw s cmd = .next { s with mbox := { s.mbox with cmd := cmd, unit := s.mbox.arg, busy := true, touched := false } } := by
  simp [startFw, hup, hidle]

/-- An idle mailbox refuses a command or an argument that is invalid (R373). -/
theorem refuseFw_idle (cmd : Nat) : refuseFw s cmd = .next (completeFw { s with mbox := { s.mbox with cmd := cmd } } 3) := by
  simp [refuseFw, hup, hidle]

theorem exec_fwStart : ∀ w ∈ [(1, Instr.fwErase), (2, .fwProgram), (3, .fwVerify), (4, .fwCommit)], (w.1 = 2 → s.mbox.arg < Config.flashSize.toNat) →
    exec w.2 s = .next { s with mbox := { s.mbox with cmd := w.1, unit := s.mbox.arg, busy := true, touched := false } } := by
  rw [List.forall_mem_cons, List.forall_mem_cons, List.forall_mem_cons, List.forall_mem_singleton]
  refine ⟨fun _ => startFw_idle hup hidle 1, fun harg => ?_, fun _ => startFw_idle hup hidle 3, fun _ => startFw_idle hup hidle 4⟩
  calc exec .fwProgram s = startFw s 2 := if_neg (Nat.not_le.mpr (harg rfl))
    _ = _ := startFw_idle hup hidle 2

theorem exec_fwInvalidCommand {k : Nat} (hk : (k = 0 ∨ (5 ≤ k ∧ k < 16)) ∨ (k = 2 ∧ Config.flashSize.toNat ≤ s.mbox.arg)) :
    exec (.fwInvalidCommand k) s = .next (completeFw { s with mbox := { s.mbox with cmd := k } } 3) := by
  suffices hrefuse : execFwInvalidCommand k s = refuseFw s k from hrefuse.trans (refuseFw_idle hup hidle k)
  unfold execFwInvalidCommand
  obtain hcmd | ⟨rfl, harg⟩ := hk
  · exact if_pos hcmd
  · rw [if_neg (by omega), if_pos ⟨rfl, harg⟩]

end

/-! ### SPDM -/

/-- While the link is up the device's answer goes out (R374; log entry 39). -/
theorem respond_linkUp {s : State} (h : s.boot.linkUp = true) (r : SpdmResp) : respond s r = .next { s with out := s.out ++ [.spdm r] } := by
  simp [respond, tell, h]

section
variable {s : State} (hup : s.boot.linkUp = true)
include hup

theorem exec_getCertificate (slot off len : Nat) : ∃ r, exec (.getCertificate slot off len) s = .next { s with out := s.out ++ [.spdm r] } := by
  suffices h : ∃ r, execGetCertificate slot off len s = respond s r from h.imp fun r hr => hr.trans (respond_linkUp hup r)
  unfold execGetCertificate
  split
  · exact ⟨_, rfl⟩
  · exact ⟨_, rfl⟩

theorem exec_challenge_refused {slot : Nat} (nonce : List Byte) (h : slot ≠ 0 ∨ s.boot.zeroised = true) :
    exec (.challenge slot nonce) s = .next { s with out := s.out ++ [.spdm .error] } := by
  calc exec (.challenge slot nonce) s = respond s .error := if_pos h
    _ = _ := respond_linkUp hup _

theorem exec_challenge_signed (nonce : List Byte) (h : s.boot.zeroised = false) :
    ∃ d sig, exec (.challenge 0 nonce) s = .next { s with out := s.out ++ [.spdm (.challengeAuth d sig)] } := by
  refine ⟨sha384 Config.identityChain, Config.sign (sha384 Config.identityChain ++ nonce), ?_⟩
  calc exec (.challenge 0 nonce) s = respond s _ := if_neg (by simp [h])
    _ = _ := respond_linkUp hup _

theorem exec_getMeasurements (n : Nat) (signed : Bool) (nonce : List Byte) :
    ∃ r, exec (.getMeasurements n signed nonce) s = .next { s with out := s.out ++ [.spdm r] } := by
  suffices h : ∃ r, execGetMeasurements n signed nonce s = respond s r from h.imp fun r hr => hr.trans (respond_linkUp hup r)
  unfold execGetMeasurements
  split
  · exact ⟨_, rfl⟩
  split
  · exact ⟨_, rfl⟩
  split
  · exact ⟨_, rfl⟩
  · exact ⟨_, rfl⟩

theorem exec_getMeasurements_zeroised (n : Nat) (nonce : List Byte) (h : s.boot.zeroised = true) :
    exec (.getMeasurements n true nonce) s = .next { s with out := s.out ++ [.spdm .error] } := by
  calc exec (.getMeasurements n true nonce) s = respond s .error := if_pos (by simp [h])
    _ = _ := respond_linkUp hup _

end

/-! ### The obligation -/

/-- Settles O53: each clause is the rule of its event. -/
theorem registersBootAndFirmware : Obligations.RegistersBootAndFirmware := by
  unfold Obligations.RegistersBootAndFirmware
  refine ⟨⟨?trace, ?host, ?link⟩, ?reset, ?alarm, ?clock, ?mailbox, ?complete, ?spdm⟩
  case trace =>
    intro s t size r ht hr hsize hon hready
    exact ⟨exec_traceRecordWrite_noLoc ht hr hsize hon hready, fun _ _ _ => exec_traceRecordWrite_located ht hr hsize hon hready⟩
  case host =>
    intro s hup
    exact ⟨fun _ v _ => exec_trCtl hup v, fun v _ => exec_trTime hup v, exec_trAdj hup, exec_trTail hup, exec_traceSample hup⟩
  case link =>
    intro s hup
    refine ⟨fun v => ⟨_, exec_bootClear hup v, ?_, fun n => ?_, rfl⟩, fun _ v => exec_registerWrite hup v⟩
    · exact clearSteps_length v s.boot.steps
    · exact clearSteps_getD v s.boot.steps
  case reset =>
    intro s env
    exact ⟨fun _ => exec_powerOnReset_pending env, exec_powerOnReset_cause, rfl, rfl⟩
  case alarm =>
    intro s m hm
    rw [exec_securityAlarm hm]
    exact ⟨fun h => congrArg _ (alarmNow_report h), fun h => congrArg _ (alarmNow_reset h), fun h => congrArg _ (alarmNow_zeroise h)⟩
  case clock => exact fun _ => ⟨exec_clockThrottle_lower, exec_clockThrottle_raise⟩
  case mailbox => exact fun _ hup hidle => ⟨exec_fwStart hup hidle, fun _ => exec_fwInvalidCommand hup hidle⟩
  case complete => exact fun s ok hbusy => ⟨exec_fwCommandComplete ok hbusy, finishFw_mbox s ok⟩
  case spdm =>
    intro s slot off len n signed nonce hup
    exact ⟨respond_linkUp hup _, respond_linkUp hup _, respond_linkUp hup _, respond_linkUp hup _, exec_getCertificate hup slot off len,
      exec_challenge_refused hup nonce, exec_challenge_signed hup nonce, exec_getMeasurements hup n signed nonce,
      exec_getMeasurements_zeroised hup n nonce⟩

end Sys2Proof.Machine
end

section
/-! PROOF of O56, StepGoesOn: every event answers a next state, an encoded instruction does where its issue stands, an issue slot leaves it
standing, and the machine chooses by itself only acts that every state answers. -/

namespace Sys2Proof.Machine

/-! ### Outcomes that are a next state -/

theorem completes_next (s : State) : Completes (.next s) := ⟨s, rfl⟩

theorem completes_noEvent (s : State) : Completes (noEvent s) := completes_next _

theorem completes_ite {c : Prop} [Decidable c] {a b : Host.Outcome State Fault Refusal} (ha : Completes a) (hb : Completes b) :
    Completes (if c then a else b) := by
  split
  · exact ha
  · exact hb

theorem completes_hostDoes (s : State) (f : State → State) : Completes (hostDoes s f) := completes_ite (completes_next _) (completes_noEvent s)

theorem completes_startFw (s : State) (cmd : Nat) : Completes (startFw s cmd) :=
  completes_ite (completes_noEvent s) (completes_ite (completes_next _) (completes_next _))

theorem completes_refuseFw (s : State) (cmd : Nat) : Completes (refuseFw s cmd) :=
  completes_ite (completes_noEvent s) (completes_ite (completes_next _) (completes_next _))

theorem completes_respond (s : State) (r : SpdmResp) : Completes (respond s r) := completes_ite (completes_next _) (completes_noEvent s)

theorem completes_readNode (s : State) (i : Isle) (im : Image) (c : CellSt) (b : CellBusy) (lead t : Token) (pasid va pk : Nat) (word : List Byte → Word) :
    Completes (readNode s i im c b lead t pasid va pk word) := by
  unfold readNode
  split
  · exact completes_next _
  refine completes_ite (completes_noEvent _) ?_
  split
  · exact completes_next _
  · exact completes_next _

/-! ### Events -/

/-- Every event but ILLEGAL_INSTRUCTION, which is the issue of a word, answers a next state: where its condition does not hold, one in which
nothing has happened (log entry 6). -/
theorem exec_event_completes {i : Instr} (henc : i.encoded = false) (hill : ∀ w l n y, i ≠ .illegalInstruction w l n y) (s : State) :
    Completes (exec i s) := by
  cases i <;> cases henc
  case illegalInstruction w l n y => exact absurd rfl (hill w l n y)
  case standbyPowerLoss | thermalTrip => exact completes_next _
  -- Writes of the host: they take place while it reaches the device.
  case trCtl | trTime | trAdj | trTail | traceSample | priEnable => exact completes_ite (completes_next _) (completes_noEvent _)
  case sqPush | taskKill | mcPfqResp | mcPfqTail | hostSnoop | atsInvalidateRequest =>
    exact completes_ite (completes_noEvent _) (completes_hostDoes _ _)
  case birsp => exact completes_ite (completes_hostDoes _ _) (completes_noEvent _)
  case hostRead | hostWrite => exact completes_ite (completes_noEvent _) (completes_ite (completes_hostDoes _ _) (completes_hostDoes _ _))
  -- The update mailbox and SPDM.
  case fwErase | fwVerify | fwCommit => exact completes_startFw _ _
  case fwProgram => exact completes_ite (completes_refuseFw _ _) (completes_startFw _ _)
  case fwInvalidCommand => exact completes_ite (completes_refuseFw _ _) (completes_ite (completes_refuseFw _ _) (completes_noEvent _))
  case getVersion | getCapabilities | negotiateAlgorithms | getDigests => exact completes_respond _ _
  case getCertificate | challenge => exact completes_ite (completes_respond _ _) (completes_respond _ _)
  -- One or several conditions, with a next state on either side.
  case laneLockLoss | linkHeartbeat | registerWrite | bootClear | securityAlarm | placementDecision =>
    exact completes_ite (completes_noEvent _) (completes_next _)
  case dieFence | fwCommandComplete => exact completes_ite (completes_next _) (completes_noEvent _)
  case eccError =>
    exact completes_ite (completes_noEvent _) (completes_ite (completes_next _) (completes_ite (completes_noEvent _) (completes_next _)))
  case flitReceive | linkRetrainEnd =>
    exact completes_ite (completes_noEvent _) (completes_ite (completes_next _) (completes_ite (completes_next _) (completes_next _)))
  case clockThrottle =>
    exact completes_ite (completes_ite (completes_next _) (completes_noEvent _)) (completes_ite (completes_next _) (completes_noEvent _))
  -- The others look up what they are about; whatever they find, each branch ends in an outcome of the lemmas above.
  all_goals
    simp only [exec, execRendezvousDeadlock, execFrontQuantumExpire, execTaskRetire, execStarvationReservation, execBlockWakeDone,
      execBlockSaveComplete, execPreemptSlowStop, execBlockRetire, execAllocationScrub, execRegisterGroupGate, execEnckeAgeFlush,
      execEnckeFinalFlush, execLoadDataReturn, execAtomicReturn, execWritePerformed, execWalkComplete, execMissEntryFree,
      execMshrAgeLimitReached, execLineRetry, execBcopyUnitMove, execMatrixOccupancyEnd, execScPin, execPinInstallDone, execScPartWrite,
      execAtsTranslationCompletion, execPageGroupResponse, execShootdownAck, execIcinvAck, execCellFire, execTokenDeliver,
      execDemandCreditArrive, execTokenRequestArrive, execIslandFetchReturn, execIslandStoreDone, execOutputVectorDeliver,
      execPushEntryToPort, execIslandImageCheck, execTraceRecordWrite, execReplayGateTimeout, execGetMeasurements, execPowerOnReset,
      execBurstCrcFailure]
    repeat' split
    all_goals simp only [completes_next, completes_noEvent, completes_hostDoes, completes_respond, completes_readNode]

/-! ### Encoded instructions -/

/-- An instruction's issue stands in the state: its crew, and an entry of the crew at its place (R29, R264). -/
def Issuing (s : State) : Prop := ∃ u c e, s.cur = some u ∧ crewAt s u.crew = some c ∧ entryAt c u.pc = some e

theorem issue_completes {s : State} (h : Issuing s) (sp : Spec) (body : Ctx → State → Res) : Completes (issue sp body s) := by
  obtain ⟨u, c, e, hu, hc, he⟩ := h
  simp only [issue, hu, hc, he, completes_next]

theorem execIllegalInstruction_completes {s : State} (h : Issuing s) (w l : Word) (n : Nat) (y : Why) :
    Completes (execIllegalInstruction w l n y s) := by
  obtain ⟨u, c, e, hu, hc, he⟩ := h
  simp only [execIllegalInstruction, hu, hc, he, completes_next]

/-- What is missing where no instruction's issue stands: the instruction, its crew, or the crew's entry at its place. -/
theorem not_issuing {s : State} (h : ¬ Issuing s) :
    s.cur = none ∨ ∃ u, s.cur = some u ∧ (crewAt s u.crew = none ∨ ∃ c, crewAt s u.crew = some c ∧ entryAt c u.pc = none) := by
  cases hu : s.cur with
  | none => exact .inl rfl
  | some u =>
    refine .inr ⟨u, rfl, ?_⟩
    cases hc : crewAt s u.crew with
    | none => exact .inl rfl
    | some c => exact .inr ⟨c, rfl, Option.eq_none_iff_forall_ne_some.mpr fun e he => h ⟨u, c, e, hu, hc, he⟩⟩

theorem issue_refuses {s : State} (h : ¬ Issuing s) (sp : Spec) (body : Ctx → State → Res) : issue sp body s = .refused .noIssuingCrew := by
  obtain hu | ⟨u, hu, hc | ⟨c, hc, he⟩⟩ := not_issuing h
  · simp only [issue, hu]
  · simp only [issue, hu, hc]
  · simp only [issue, hu, hc, he]

theorem execIllegalInstruction_refuses {s : State} (h : ¬ Issuing s) (w l : Word) (n : Nat) (y : Why) :
    execIllegalInstruction w l n y s = .refused .noIssuingCrew := by
  obtain hu | ⟨u, hu, hc | ⟨c, hc, he⟩⟩ := not_issuing h
  · simp only [execIllegalInstruction, hu]
  · simp only [execIllegalInstruction, hu, hc]
  · simp only [execIllegalInstruction, hu, hc, he]

/-- The meaning of every encoded instruction is an issue. -/
theorem exec_encoded {i : Instr} (henc : i.encoded = true) : ∃ sp body, ∀ s, exec i s = issue sp body s := by
  cases i <;> cases henc <;> exact ⟨_, _, fun _ => rfl⟩

/-- What the meaning of an instruction or event rests on: an issue, the issue of a word that is none (R28), or nothing. -/
theorem exec_cases (i : Instr) :
    (∃ sp body, ∀ s, exec i s = issue sp body s) ∨ (∃ w l n y, i = .illegalInstruction w l n y) ∨ ∀ s, Completes (exec i s) := by
  cases henc : i.encoded with
  | true => exact .inl (exec_encoded henc)
  | false =>
    by_cases hill : ∃ w l n y, i = .illegalInstruction w l n y
    · exact .inr (.inl hill)
    · exact .inr (.inr (exec_event_completes henc fun w l n y hi => hill ⟨w, l, n, y, hi⟩))

theorem exec_completes {s : State} (h : Issuing s) (i : Instr) : Completes (exec i s) := by
  obtain ⟨sp, body, hi⟩ | ⟨w, l, n, y, rfl⟩ | hi := exec_cases i
  · exact hi s ▸ issue_completes h sp body
  · exact execIllegalInstruction_completes h w l n y
  · exact hi s

theorem exec_completes_or_refuses (i : Instr) (s : State) : Completes (exec i s) ∨ exec i s = .refused .noIssuingCrew := by
  by_cases h : Issuing s
  · exact .inl (exec_completes h i)
  obtain ⟨sp, body, hi⟩ | ⟨w, l, n, y, rfl⟩ | hi := exec_cases i
  · exact .inr ((hi s).trans (issue_refuses h sp body))
  · exact .inr (execIllegalInstruction_refuses h w l n y)
  · exact .inl (hi s)

/-! ### A fetch leaves the crews alone -/

theorem foldl_crews {α : Type} {f : State → α → State} (hf : ∀ s a, (f s a).crews = s.crews) (l : List α) (s : State) :
    (l.foldl f s).crews = s.crews :=
  List.foldlRecOn l f (motive := fun t => t.crews = s.crews) rfl fun t ht a _ => (hf t a).trans ht

@[simp] theorem askHost_crews (s : State) (secs : List Nat) : (askHost s secs).crews = s.crews :=
  foldl_crews (fun s x => by split <;> rfl) secs s

@[simp] theorem emitAt_crews (s : State) (die src typ cls : Nat) (crew : Option Nat) (loc : Option TraceLoc) (bs : List Byte) :
    (emitAt s die src typ cls crew loc bs).crews = s.crews := by
  unfold emitAt
  split
  · rfl
  split
  · rfl
  split
  · rfl
  · rfl

@[simp] theorem emitDie_crews (s : State) (die src : Nat) (k : EvClass) (typ cls : Nat) (bs : List Byte) :
    (emitDie s die src k typ cls bs).crews = s.crews := by
  unfold emitDie
  split
  · exact emitAt_crews ..
  · rfl

@[simp] theorem emitRetry_crews (s : State) (line core : Nat) (t : Option Task) (who slot : Nat) :
    (emitRetry s line core t who slot).crews = s.crews := by
  unfold emitRetry
  split
  · split
    · exact emitDie_crews ..
    · rfl
  · rfl

@[simp] theorem retryCrew_crews (s : State) (id line : Nat) : (retryCrew s id line).crews = s.crews := by
  unfold retryCrew
  split
  · split
    · exact emitRetry_crews ..
    · rfl
  · rfl

@[simp] theorem icLine_crews (s : State) (core pasid line pk : Nat) (unc : Bool) : (icLine s core pasid line pk unc).2.crews = s.crews := by
  unfold icLine
  split
  · rfl
  split
  · rfl
  · cases unc <;> rfl

@[simp] theorem xlateFor_crews (s : State) (who : WalkFor) (core pasid va : Nat) (acc : AccKind) (priv : Bool) :
    (xlateFor s who core pasid va acc priv).2.crews = s.crews := by
  unfold xlateFor
  split
  · exact askHost_crews ..
  split
  · rfl
  split
  · dsimp only
    split
    · split
      · rfl
      · rfl
      · rfl
    split
    · rfl
    split
    · rfl
    · rfl
  · rfl

theorem fetchFrom_crews (s : State) (who : WalkFor) (core pasid : Nat) (priv : Bool) (va n : Nat) :
    (fetchFrom s who false core pasid priv va n).2.crews = s.crews := by
  induction n generalizing s va with
  | zero => rfl
  | succ n ih =>
    unfold fetchFrom
    have hx := xlateFor_crews s who core pasid va .fetch priv
    simp only [Bool.false_eq_true, if_false]
    split
    next pk unc t ht =>
      rw [ht] at hx
      dsimp only at hx ⊢
      split
      · rw [askHost_crews]
        split
        · rw [retryCrew_crews, hx]
        · exact hx
      have hl := icLine_crews t core pasid (va / 256) pk unc
      split
      · exact hl.trans hx
      have hrest := (ih (icLine t core pasid (va / 256) pk unc).2 (va + 1)).trans (hl.trans hx)
      split
      next bs u hu => rwa [hu] at hrest
      · exact hrest
    all_goals
      next t ht =>
        rw [ht] at hx
        exact hx

theorem fetchInstr_crews (s : State) (c : Crew) (pc : Word) : (fetchInstr s c pc).2.crews = s.crews := by
  have hgo := fun n => fetchFrom_crews s (.fetch c.id) c.core (pasidOf s c) c.priv (textVa s c pc) n
  unfold fetchInstr
  dsimp only
  split
  next half t2 h =>
    have ht2 := congrArg (·.2.crews) h
    split
    · exact ht2.symm.trans (hgo 2)
    split
    next word t4 h =>
      have ht4 := congrArg (·.2.crews) h
      split
      · exact ht4.symm.trans (hgo 4)
      split
      next h => exact (congrArg (·.2.crews) h).symm.trans (hgo 8)
      next h => exact (congrArg (·.2.crews) h).symm.trans (hgo 8)
    next h => exact (congrArg (·.2.crews) h).symm.trans (hgo 4)
  next h => exact (congrArg (·.2.crews) h).symm.trans (hgo 2)

/-! ### What an issue slot selects -/

theorem mem_of_pickEntry : ∀ {es : List Entry} {e : Entry}, pickEntry es = some e → e ∈ es
  | a :: es, e, h => by
    unfold pickEntry at h
    split at h
    · cases h; exact List.mem_cons_self
    next b hb =>
      have hmem := mem_of_pickEntry hb
      split at h <;> cases h
      · exact List.mem_cons_of_mem a hmem
      · exact List.mem_cons_self

theorem mem_of_choose {s : State} {c : Crew} {e : Entry} (h : choose s c = some e) : e ∈ c.entries := by
  unfold choose at h
  split at h
  · cases h
  · dsimp only at h
    split at h
    · exact List.mem_of_mem_filter (List.mem_of_mem_filter (mem_of_pickEntry h))
    · exact List.mem_of_mem_filter (mem_of_pickEntry h)

/-- The crew that a quarter issues is one of the machine's, and its entry one of that crew's (R264, R268). -/
theorem mem_of_selectCrew {s : State} {core quarter : Nat} {c : Crew} {e : Entry} (h : selectCrew s core quarter = some (c, e)) :
    c ∈ s.crews ∧ e ∈ c.entries := by
  unfold selectCrew at h
  extract_lets last at h
  refine List.foldlRecOn _ _ (b := none) (motive := fun best => best = some (c, e) → c ∈ s.crews ∧ e ∈ c.entries) nofun ?_ h
  intro best hbest d hd hnext
  have hd' := List.mem_of_mem_filter hd
  split at hnext
  · exact hbest hnext
  next f hf =>
    have hmem := mem_of_choose hf
    split at hnext
    · cases hnext; exact ⟨hd', hmem⟩
    split at hnext
    · cases hnext; exact ⟨hd', hmem⟩
    · exact hbest hnext

/-- Where no two crews have one number, a crew is found by its own. -/
theorem crewAt_of_mem {s : State} {c : Crew} (hids : (s.crews.map (·.id)).Nodup) (hc : c ∈ s.crews) : crewAt s c.id = some c := by
  have hsome : (crewAt s c.id).isSome := List.find?_isSome.mpr ⟨c, hc, beq_self_eq_true c.id⟩
  obtain ⟨d, hd⟩ := Option.isSome_iff_exists.mp hsome
  rw [hd, List.inj_on_of_nodup_map hids (List.mem_of_find?_eq_some hd) hc (crewAt_id hd)]

theorem entryAt_of_mem {c : Crew} {e : Entry} (he : e ∈ c.entries) : ∃ f, entryAt c e.pc = some f :=
  Option.isSome_iff_exists.mp (List.find?_isSome.mpr ⟨e, he, beq_self_eq_true e.pc⟩)

/-- An issue slot that gives an instruction to run leaves its issue standing: the crew and the entry were selected, and the fetch has changed no
crew (R17, R264, R268). -/
theorem issueSlot_issuing {s t : State} {core quarter : Nat} {i : Instr} (hids : (s.crews.map (·.id)).Nodup)
    (h : issueSlot s core quarter = .run i t) : Issuing t := by
  unfold issueSlot at h
  split at h
  · cases h
  split at h
  · cases h
  next c e hsel =>
    obtain ⟨hc, he⟩ := mem_of_selectCrew hsel
    obtain ⟨f, hf⟩ := entryAt_of_mem he
    dsimp only at h
    split at h
    next u hu =>
      have hcrews : u.crews = s.crews := (congrArg (·.2.crews) hu).symm.trans (fetchInstr_crews _ c e.pc)
      cases h
      refine ⟨_, c, f, rfl, ?_, hf⟩
      exact (congrArg (List.find? _) hcrews).trans (crewAt_of_mem hids hc)
    all_goals cases h

/-! ### The end of a step -/

theorem finish_completes {o : Host.Outcome State Fault Refusal} (h : Completes o) : Completes (finish o) := by
  obtain ⟨t, rfl⟩ := h
  exact completes_next _

theorem finish_completes_or_refuses {o : Host.Outcome State Fault Refusal} (h : Completes o ∨ o = .refused .noIssuingCrew) :
    Completes (finish o) ∨ finish o = .refused .noIssuingCrew :=
  h.imp finish_completes fun hrefused => congrArg finish hrefused

theorem step_completes_or_refuses (s : State) : Completes (step s) ∨ step s = .refused .noIssuingCrew := by
  unfold step
  split
  · exact .inl (completes_next _)
  · exact finish_completes_or_refuses (exec_completes_or_refuses ..)
  · split
    · exact finish_completes_or_refuses (exec_completes_or_refuses ..)
    · exact .inl (completes_next _)
  · exact .inl (completes_next _)

/-! ### Acts that every state answers -/

/-- An event that happens without an issue: every event but ILLEGAL_INSTRUCTION (R28). -/
def deviceEvent : Instr → Bool
  | .illegalInstruction .. => false
  | i => !i.encoded

theorem exec_deviceEvent_completes {i : Instr} (h : deviceEvent i = true) (s : State) : Completes (exec i s) := by
  unfold deviceEvent at h
  split at h
  · cases h
  next hill => exact exec_event_completes ((Bool.not_eq_true' _).mp h) hill s

/-- An act that no state refuses: an issue slot, an island's cycle, or an event that is no issue. -/
def Act.Answered : Act → Prop
  | .event i _ => deviceEvent i = true
  | _ => True

theorem step_islandCycle_completes {s t : State} {die isl : Nat} (hnext : nextAct s = (some (.islandCycle die isl), t)) : Completes (step s) := by
  simp only [step, hnext, completes_next]

theorem step_issue_completes {s t : State} {core quarter : Nat} (hnext : nextAct s = (some (.issue core quarter), t))
    (hids : (t.crews.map (·.id)).Nodup) : Completes (step s) := by
  simp only [step, hnext]
  split
  next hslot => exact finish_completes (exec_completes (issueSlot_issuing (s := { t with progress := true }) hids hslot) _)
  · exact completes_next _

theorem step_completes {s t : State} {a : Act} (hnext : nextAct s = (some a, t)) (hids : (t.crews.map (·.id)).Nodup) (ha : a.Answered) :
    Completes (step s) := by
  cases a with
  | event i u =>
    simp only [step, hnext]
    exact finish_completes (exec_deviceEvent_completes ha _)
  | issue core quarter => exact step_issue_completes hnext hids
  | islandCycle die isl => exact step_islandCycle_completes hnext

theorem nextAct_cons {s : State} {a : Act} {rest : List Act} (h : s.agenda = a :: rest) : nextAct s = (some a, { s with agenda := rest }) := by
  simp only [nextAct, h]

/-! ### What the machine chooses when the agenda is empty -/

/-- Every act of a list of candidates is answered. -/
def AllAnswered (acts : List Act) : Prop := ∀ a ∈ acts, a.Answered

/-- A candidate, where there is one, is answered. -/
def Offers (o : Option Act) : Prop := ∀ a, o = some a → a.Answered

theorem offers_none : Offers none := fun _ h => nomatch h

theorem offers_some {a : Act} (h : a.Answered) : Offers (some a) := fun _ hb => Option.some.inj hb ▸ h

theorem offers_event {i : Instr} {u : Nat} (h : deviceEvent i = true) : Offers (some (.event i u)) := offers_some h

theorem offers_ite {c : Prop} [Decidable c] {x y : Option Act} (hx : Offers x) (hy : Offers y) : Offers (if c then x else y) := by
  split
  · exact hx
  · exact hy

namespace AllAnswered

theorem nil : AllAnswered [] := List.forall_mem_nil _

theorem cons {a : Act} {l : List Act} (ha : a.Answered) (hl : AllAnswered l) : AllAnswered (a :: l) := List.forall_mem_cons.mpr ⟨ha, hl⟩

theorem single {a : Act} (h : a.Answered) : AllAnswered [a] := cons h nil

theorem append {l m : List Act} (hl : AllAnswered l) (hm : AllAnswered m) : AllAnswered (l ++ m) := List.forall_mem_append.mpr ⟨hl, hm⟩

theorem ifThenElse {c : Prop} [Decidable c] {l m : List Act} (hl : AllAnswered l) (hm : AllAnswered m) : AllAnswered (if c then l else m) := by
  split
  · exact hl
  · exact hm

theorem take {l : List Act} {n : Nat} (h : AllAnswered l) : AllAnswered (l.take n) := fun a ha => h a (List.mem_of_mem_take ha)

variable {α : Type} {l : List α}

theorem filterMap {f : α → Option Act} (hf : ∀ x, Offers (f x)) : AllAnswered (l.filterMap f) :=
  List.forall_mem_filterMap.mpr fun x _ => hf x

theorem map {f : α → Act} (hf : ∀ x, (f x).Answered) : AllAnswered (l.map f) := List.forall_mem_map.mpr fun x _ => hf x

theorem flatMap {f : α → List Act} (hf : ∀ x, AllAnswered (f x)) : AllAnswered (l.flatMap f) :=
  List.forall_mem_flatMap.mpr fun x _ => hf x

end AllAnswered

open AllAnswered in
theorem memActs_answered (s : State) : AllAnswered (memActs s) := by
  unfold memActs
  refine append (append (append (append (append (append (append ?walks ?flights) ?copies) ?matrix) ?rejects) ?scrub) ?shootdowns) ?icinvs
  case walks => exact filterMap fun w => offers_ite (offers_event rfl) offers_none
  case flights =>
    refine filterMap fun f => ?_
    split
    · exact offers_none
    all_goals exact offers_event rfl
  case copies => exact filterMap fun c => offers_ite offers_none (offers_event rfl)
  case matrix => exact filterMap fun c => offers_ite (offers_event rfl) offers_none
  case rejects => exact filterMap fun c => offers_ite offers_none (offers_event rfl)
  case scrub => exact filterMap fun c => offers_ite offers_none (offers_event rfl)
  case shootdowns => exact flatMap fun x => map fun d => rfl
  case icinvs => exact flatMap fun x => take (map fun c => rfl)

open AllAnswered in
theorem fabricActs_answered (s : State) : AllAnswered (fabricActs s) := by
  unfold fabricActs
  refine append (append (append ?link ?trace) ?pins) ?mailbox
  case link => exact ifThenElse (single rfl) (filterMap fun d => offers_ite (offers_event rfl) offers_none)
  case trace => exact ifThenElse nil (cons rfl (single rfl))
  case pins => exact flatMap fun d => filterMap fun p => offers_ite (offers_event rfl) offers_none
  case mailbox => exact ifThenElse (single rfl) nil

open AllAnswered in
theorem schedActs_answered (s : State) : AllAnswered (schedActs s) := by
  unfold schedActs
  refine append (append (append (append (append ?blocks ?queues) ?bins) ?aged) ?loader) ?tasks
  case blocks =>
    refine filterMap fun b => ?_
    have hretire : Offers (if (s.crews.filter fun c => c.block == b.id).all (·.ended) then some (.event .blockRetire b.id) else none) :=
      offers_ite (offers_event rfl) offers_none
    split
    · exact offers_event rfl
    · exact offers_event rfl
    · exact hretire
    · exact hretire
    · refine offers_event ?_
      split
      · rfl
      · rfl
    · exact offers_none
  case queues => exact filterMap fun d => offers_ite offers_none (offers_event rfl)
  case bins =>
    refine filterMap fun d => ?_
    split
    · exact offers_event rfl
    · exact offers_none
  case aged => exact flatMap fun d => flatMap fun x => map fun r => rfl
  case loader => exact filterMap fun d => offers_ite (offers_event rfl) offers_none
  case tasks => exact filterMap fun t => offers_ite (offers_event rfl) offers_none

open AllAnswered in
theorem isleActs_answered (s : State) : AllAnswered (isleActs s) := by
  unfold isleActs
  refine append (flatMap fun i => ifThenElse (append (append (append ?items ?cells) ?ports) ?cycle) nil) ?queues
  case items =>
    refine filterMap fun x => offers_ite ?_ offers_none
    split
    · exact offers_event rfl
    · exact offers_event rfl
    · exact offers_event rfl
    · exact offers_event rfl
  case cells =>
    refine filterMap fun c => ?_
    split
    · refine offers_event ?_
      split
      · rfl
      · rfl
    · exact offers_ite offers_none (offers_event rfl)
  case ports => exact filterMap fun p => offers_ite offers_none (offers_event rfl)
  case cycle => exact single trivial
  case queues => exact flatMap fun c => filterMap fun q => offers_ite (offers_event rfl) offers_none

theorem issueActs_answered (s : State) : AllAnswered (issueActs s) :=
  AllAnswered.filterMap fun _ => offers_ite offers_none (offers_some trivial)

theorem stuckActs_answered (s : State) : AllAnswered (stuckActs s) :=
  AllAnswered.filterMap fun _ => offers_ite (offers_event rfl) offers_none

theorem gateActs_answered (s : State) : AllAnswered (gateActs s) :=
  AllAnswered.ifThenElse AllAnswered.nil (AllAnswered.map fun _ => rfl)

/-- The machine's own choice leaves the state as it is and is answered (log entry 1). -/
theorem nextAct_nil {s : State} (h : s.agenda = []) : (nextAct s).2 = s ∧ Offers (nextAct s).1 := by
  unfold nextAct
  rw [h]
  refine ⟨rfl, fun a ha => ?_⟩
  have hall := (((((memActs_answered s).append (fabricActs_answered s)).append (schedActs_answered s)).append (isleActs_answered s)).append
    (issueActs_answered s)).append (stuckActs_answered s) |>.append (gateActs_answered s)
  exact hall a (List.mem_of_getElem? ha)

theorem step_completes_of_agenda_nil {s : State} (hids : (s.crews.map (·.id)).Nodup) (h : s.agenda = []) : Completes (step s) := by
  obtain ⟨hstate, hoffers⟩ := nextAct_nil h
  cases hnext : nextAct s with
  | mk o t =>
    rw [hnext] at hstate hoffers
    subst hstate
    cases o with
    | none => exact ⟨settle t, by simp only [step, hnext]⟩
    | some a => exact step_completes hnext hids (hoffers a rfl)

/-- Settles O56: an encoded instruction and an illegal word need an issue that stands, which an issue slot leaves (the fetch changes no crew);
every event answers by itself, and the machine's own choice offers such events, issue slots and island cycles alone. -/
theorem stepGoesOn : Obligations.StepGoesOn := by
  unfold Obligations.StepGoesOn
  refine ⟨step_completes_or_refuses, ?slot, ?cycle, ?own, ?event⟩
  case slot => exact fun s rest core q hids h => step_issue_completes (nextAct_cons h) hids
  case cycle => exact fun s rest die isl h => step_islandCycle_completes (nextAct_cons h)
  case own => exact fun s hids h => step_completes_of_agenda_nil hids h
  case event => exact fun i s henc hill => exec_event_completes henc hill s

end Sys2Proof.Machine
end

section
/-!
PROOF of O57: home memory and its write clocks keep their canonical form. Only home writes and a reset change them
(R44, R71, R79), so the form is followed through every function that a step calls: `HomeWf.f` says that `f` keeps it,
in the order in which the model defines its functions. A result that carries a state is canonical when that state is.
-/

namespace Sys2Proof.Machine

/-- Home memory and its write clocks are in canonical form (R44, R71, R79). -/
def HomeWf (s : State) : Prop := s.homeWf = true

/-! ### Results that carry a state -/

/-- The state that a body leaves is canonical, whatever the body comes to. -/
def Res.HomeWf : Res → Prop
  | .done s | .moved s | .trap _ s | .lanes _ s | .stall s | .hold s => Machine.HomeWf s

/-- The state that the start of an access leaves is canonical. -/
def Start.HomeWf : Start → Prop
  | .ok s | .stall s => Machine.HomeWf s
  | .reject => True

/-- The state that a participant's access leaves is canonical. -/
def Went.HomeWf : Went → Prop
  | .ok s | .stall s => Machine.HomeWf s
  | .reject _ => True

/-- The state that a stage of the boot leaves is canonical. -/
def Booted.HomeWf : Booted → Prop
  | .goes s | .ends s => Machine.HomeWf s

/-- The state that a read of bytes for a crew leaves is canonical. -/
def ReadOut.HomeWf : ReadOut → Prop
  | .bytes _ s => Machine.HomeWf s
  | .stop r => r.HomeWf

/-- The state that the read of a shape record leaves is canonical. -/
def ShapeOut.HomeWf : ShapeOut → Prop
  | .ok _ s => Machine.HomeWf s
  | .stop r => r.HomeWf

/-- The state that an island cell's access leaves is canonical. -/
def CellAcc.HomeWf : CellAcc → Prop
  | .at_ _ _ _ s | .fail s | .wait s | .hold s => Machine.HomeWf s

/-- The state that the issue of an access leaves is canonical. -/
def Issued.HomeWf : Issued → Prop
  | .ok s | .part s | .stall s | .lanes _ s => Machine.HomeWf s

/-- The state that the search for a trace location leaves is canonical. -/
def LocOut.HomeWf : LocOut → Prop
  | .word _ s | .wait s => Machine.HomeWf s

/-- The state that the check of jump targets leaves is canonical. -/
def JumpCheck.HomeWf : JumpCheck → Prop
  | .go s | .fails _ s | .swap s | .wait s => Machine.HomeWf s

/-- The state that a submission to a queue leaves is canonical. -/
def Submitted.HomeWf : Submitted → Prop
  | .busy s | .accepted s | .wait s => Machine.HomeWf s

/-- The state that an issue slot leaves is canonical. -/
def Slot.HomeWf : Slot → Prop
  | .run _ s | .done s => Machine.HomeWf s

/-- The state that a read by the distributor leaves is canonical. -/
def DevRead.HomeWf : DevRead → Prop
  | .bytes _ s | .wait s | .bad _ s | .fault s => Machine.HomeWf s

/-- The state that the reading of a binding table leaves is canonical. -/
def Bound.HomeWf : Bound → Prop
  | .ready s | .wait s => Machine.HomeWf s

/-- The state, where there is one, is canonical. -/
def SomeWf : Option State → Prop
  | some s => HomeWf s
  | none => True

/-- The state, where the frontier allows one, is canonical. -/
def OkWf : Except FrontErr State → Prop
  | .ok s => HomeWf s
  | .error _ => True

/-- The next state, where there is one, is canonical. -/
def NextWf : Host.Outcome State Fault Refusal → Prop
  | .next s => HomeWf s
  | _ => True

/-! ### Choices, folds and components -/

protected theorem Res.HomeWf.ite {c : Prop} [Decidable c] {r r' : Res} (h : r.HomeWf) (h' : r'.HomeWf) : (if c then r else r').HomeWf := by
  split
  · exact h
  · exact h'

theorem foldl_keeps {α β : Type} {P : β → Prop} {f : β → α → β} {l : List α} {b : β} (hb : P b) (hf : ∀ b a, P b → P (f b a)) :
    P (l.foldl f b) := List.foldlRecOn l f hb fun b hb a _ => hf b a hb

protected theorem HomeWf.ite {c : Prop} [Decidable c] {s t : State} (hs : HomeWf s) (ht : HomeWf t) : HomeWf (if c then s else t) := by
  split
  · exact hs
  · exact ht

protected theorem HomeWf.foldl {α : Type} {f : State → α → State} {l : List α} {s : State} (h : HomeWf s)
    (hf : ∀ s a, HomeWf s → HomeWf (f s a)) : HomeWf (l.foldl f s) := homeWf_foldl hf l h

protected theorem HomeWf.snd_of_eq {α : Type} {p : α × State} {a : α} {t : State} (e : p = (a, t)) (h : HomeWf p.2) : HomeWf t := by
  subst e; exact h

protected theorem HomeWf.snd_snd_of_eq {α β : Type} {p : α × β × State} {a : α} {b : β} {t : State} (e : p = (a, b, t)) (h : HomeWf p.2.2) :
    HomeWf t := by
  subst e; exact h

theorem SomeWf.of_eq {o : Option State} {s : State} (e : o = some s) (h : SomeWf o) : HomeWf s := by
  subst e; exact h

theorem OkWf.of_eq {r : Except FrontErr State} {s : State} (e : r = .ok s) (h : OkWf r) : HomeWf s := by
  subst e; exact h

/-- Canonical form speaks of home memory and its write clocks alone. -/
protected theorem HomeWf.congr {s t : State} (h : HomeWf s) (hmem : t.mem = s.mem) (hwclk : t.wclk = s.wclk) : HomeWf t := by
  unfold HomeWf State.homeWf
  rw [hmem, hwclk]
  exact h

theorem SomeWf.findSome? {α : Type} {f : α → Option State} (hf : ∀ a, SomeWf (f a)) : ∀ {l : List α}, SomeWf (l.findSome? f)
  | [] => trivial
  | a :: l => by
    rw [List.findSome?_cons]
    split
    next e => exact e ▸ hf a
    · exact SomeWf.findSome? hf

theorem SomeWf.getD {o : Option State} {s : State} (ho : SomeWf o) (h : HomeWf s) : HomeWf (o.getD s) := by
  cases o with
  | none => exact h
  | some t => exact ho

/-! ### Home memory, posted writes and the replay block (Machine/Mem) -/

protected theorem HomeWf.setDie {s : State} {d : Die} (h : HomeWf s) : HomeWf (setDie s d) :=
  h

protected theorem HomeWf.modDie {s : State} {d : Nat} {f : Die → Die} (h : HomeWf s) : HomeWf (modDie s d f) :=
  h

protected theorem HomeWf.mesiSet {s : State} {m : Mesi} {secs : List Nat} (h : HomeWf s) : HomeWf (mesiSet s m secs) :=
  h

protected theorem HomeWf.mesiDrop {s : State} {secs : List Nat} (h : HomeWf s) : HomeWf (mesiDrop s secs) :=
  h.mesiSet

protected theorem HomeWf.mesiRead {s : State} {secs : List Nat} (h : HomeWf s) : HomeWf (mesiRead s secs) :=
  h.mesiSet

protected theorem HomeWf.mesiOwn {s : State} {secs : List Nat} (h : HomeWf s) : HomeWf (mesiOwn s secs) :=
  h.mesiSet

protected theorem HomeWf.homeWrite {s : State} {c : Clock} {ws : List (Nat × Byte)} (h : HomeWf s) : HomeWf (homeWrite s c ws) :=
  homeWf_homeWrite s c ws h

protected theorem HomeWf.modCore {s : State} {c : Nat} {f : CoreSt → CoreSt} (h : HomeWf s) : HomeWf (modCore s c f) :=
  h

protected theorem HomeWf.putLine {s : State} {core : Nat} {l : L1Line} (h : HomeWf s) : HomeWf (putLine s core l) :=
  h.modCore

protected theorem HomeWf.dropLine {s : State} {core key : Nat} (h : HomeWf s) : HomeWf (dropLine s core key) :=
  h.modCore

protected theorem HomeWf.nearDone {s : State} {core key : Nat} {k : Clock} (h : HomeWf s) : HomeWf (nearDone s core key k) :=
  h

protected theorem HomeWf.writeBack {s : State} {core key : Nat} (h : HomeWf s) : HomeWf (writeBack s core key) := by
  unfold writeBack
  split
  · exact h
  · exact .ite h h.homeWrite.nearDone.putLine

protected theorem HomeWf.makeRoom {s : State} {core key : Nat} (h : HomeWf s) : HomeWf (makeRoom s core key) := by
  unfold makeRoom
  dsimp only
  split
  · exact h
  split
  · exact h
  · exact h.writeBack.dropLine

protected theorem HomeWf.allocLine {s : State} {core key : Nat} {keep : Bool} (h : HomeWf s) : HomeWf (allocLine s core key keep) := by
  unfold allocLine
  split
  · exact .ite h.putLine h
  · exact .putLine h.makeRoom

protected theorem HomeWf.touchLine {s : State} {core key : Nat} (h : HomeWf s) : HomeWf (touchLine s core key) :=
  .modCore h

protected theorem HomeWf.lowLine {s : State} {core key : Nat} (h : HomeWf s) : HomeWf (lowLine s core key) :=
  h.modCore

protected theorem HomeWf.fillLine {s : State} {core key : Nat} {sectors : BitVec 4} {keep : Bool} (h : HomeWf s) :
    HomeWf (fillLine s core key sectors keep) := by
  unfold fillLine
  dsimp only
  split
  · exact h.allocLine.mesiRead
  · exact .putLine h.allocLine

protected theorem HomeWf.refreshLine {s : State} {core key : Nat} {sectors : BitVec 4} (h : HomeWf s) : HomeWf (refreshLine s core key sectors) := by
  unfold refreshLine
  split
  · exact h
  · exact .ite h h.fillLine

protected theorem HomeWf.l1Store {core : Nat} {keep : Bool} {k : Clock} :
    ∀ {ws : List (Nat × Byte)} {s : State}, HomeWf s → HomeWf (l1Store s core keep k ws)
  | [], _, h => h
  | (a, b) :: ws, s, h => by
    unfold l1Store
    refine HomeWf.l1Store ?_
    split
    · exact h.allocLine
    · exact h.allocLine.putLine

protected theorem HomeWf.placeLines {old new : State} {core : Nat} {low : Bool} {keys : List Nat} (h1 : HomeWf new) :
    HomeWf (placeLines old new core low keys) :=
  .foldl h1 fun _ _ hs => .ite (.ite hs.lowLine hs) hs.touchLine

protected theorem HomeWf.nearWrites {s : State} {crew : Nat} {ws : List (Nat × Byte)} (h : HomeWf s) : HomeWf (nearWrites s crew ws) :=
  h

protected theorem HomeWf.l1Through {s : State} {core : Nat} {ws : List (Nat × Byte)} {k : Clock} (h : HomeWf s) : HomeWf (l1Through s core ws k) :=
  h.modCore

protected theorem HomeWf.askHost {s : State} {secs : List Nat} (h : HomeWf s) : HomeWf (askHost s secs) :=
  .foldl h fun _ _ hs => .ite hs hs

protected theorem HomeWf.syncLine {s : State} {key : Nat} (h : HomeWf s) : HomeWf (syncLine s key) :=
  .foldl h fun _ _ hs => hs.writeBack

protected theorem HomeWf.post {s : State} {core : Nat} {va : Option (Nat × Nat)} {ws : List (Nat × Byte)} (h : HomeWf s) :
    HomeWf (post s core va ws) :=
  .ite h.askHost h.homeWrite

protected theorem HomeWf.drainPosted {s : State} (h : HomeWf s) : HomeWf (drainPosted s) :=
  .foldl h fun _ _ hs => hs.post

protected theorem HomeWf.poke {s : State} {die a : Nat} {bs : List Byte} (h : HomeWf s) : HomeWf (poke s die a bs) :=
  h.post

protected theorem HomeWf.endPinsAt {s : State} {core block : Nat} (h : HomeWf s) : HomeWf (endPinsAt s core block) := by
  unfold endPinsAt
  refine .foldl h fun s a hs => ?_
  dsimp only
  split
  · exact hs.writeBack
  · exact hs.writeBack.putLine

protected theorem HomeWf.endPins {s : State} {block : Nat} (h : HomeWf s) : HomeWf (endPins s block) :=
  .foldl h fun _ _ hs => hs.endPinsAt

protected theorem HomeWf.writeBackAll {s : State} {core : Nat} (h : HomeWf s) : HomeWf (writeBackAll s core) :=
  .foldl h fun _ _ hs => hs.writeBack

protected theorem HomeWf.pokeVia {s : State} {core : Nat} {va : Option (Nat × Nat)} {ws : List (Nat × Byte)} (h : HomeWf s) :
    HomeWf (pokeVia s core va ws) :=
  h.post.l1Through

/-! ### Translation: walks, pins and page requests (Machine/Translate) -/

protected theorem HomeWf.markLeaf {s : State} {leaf : Nat} {write : Bool} (h : HomeWf s) : HomeWf (markLeaf s leaf write) :=
  .ite h h.homeWrite

protected theorem HomeWf.installTlb {s : State} {core : Nat} {e : TlbEntry} (h : HomeWf s) : HomeWf (installTlb s core e) :=
  h

protected theorem HomeWf.walkNow {s : State} {core pasid va : Nat} {acc : AccKind} {priv : Bool} (h : HomeWf s) :
    HomeWf (walkNow s core pasid va acc priv).2 := by
  unfold walkNow
  split
  · exact h
  · exact h
  · exact h.markLeaf.installTlb

protected theorem HomeWf.xlateNow {s : State} {core pasid va : Nat} {acc : AccKind} {priv : Bool} (h : HomeWf s) :
    HomeWf (xlateNow s core pasid va acc priv).2 := by
  unfold xlateNow
  split
  · split
    · split
      next e => exact HomeWf.snd_of_eq e h.walkNow
      next e => exact HomeWf.snd_of_eq e h.walkNow
      next e => exact HomeWf.snd_of_eq e h.walkNow
    · exact h
  · exact h

protected theorem HomeWf.xlateSync {s : State} {core pasid va : Nat} {acc : AccKind} {priv : Bool} (h : HomeWf s) :
    HomeWf (xlateSync s core pasid va acc priv).2 := by
  unfold xlateSync
  split
  · exact h.askHost
  split
  · exact h.askHost
  · exact h.xlateNow

protected theorem HomeWf.pokeVa {s : State} {core pasid : Nat} {priv : Bool} {ws : List (Nat × Byte)} (h : HomeWf s) :
    SomeWf (pokeVa s core pasid priv ws) := by
  refine foldl_keeps (P := SomeWf) h fun o g ho => ?_
  split
  · exact trivial
  next t =>
    split
    next u e =>
      have hu := HomeWf.snd_of_eq e (HomeWf.xlateNow ho)
      exact HomeWf.ite hu.pokeVia.mesiDrop hu.pokeVia
    · exact trivial

/-- The same where the write has been made. -/
theorem HomeWf.of_pokeVa {s t : State} {core pasid : Nat} {priv : Bool} {ws : List (Nat × Byte)} (h : HomeWf s)
    (e : pokeVa s core pasid priv ws = some t) : HomeWf t :=
  SomeWf.of_eq e h.pokeVa

protected theorem HomeWf.peekVa {s t : State} {core pasid va n : Nat} {priv : Bool} {bs : List Byte} (h : HomeWf s)
    (e : peekVa s core pasid priv va n = some (bs, t)) : HomeWf t := by
  have hread : ∀ r, peekVa s core pasid priv va n = some r → HomeWf r.2 := by
    unfold peekVa
    refine foldl_keeps (P := fun o : Option (List Byte × State) => ∀ r, o = some r → HomeWf r.2) (fun r hr => ?_) fun o l ho r hr => ?_
    · cases hr
      exact h
    split at hr
    · cases hr
    next bs u =>
      have hu : HomeWf u := ho _ rfl
      dsimp only at hr
      split at hr
      next e =>
        have hv := HomeWf.snd_of_eq e hu.xlateNow
        cases hr
        exact .ite hv hv.mesiRead
      · cases hr
  exact hread _ e

/-! ### Operands and register writes (Machine/Operands) -/

protected theorem HomeWf.setCrew {s : State} {c : Crew} (h : HomeWf s) : HomeWf (setCrew s c) :=
  h

protected theorem HomeWf.modCrew {s : State} {id : Nat} {f : Crew → Crew} (h : HomeWf s) : HomeWf (modCrew s id f) :=
  h

protected theorem HomeWf.setBlock {s : State} {b : Block} (h : HomeWf s) : HomeWf (setBlock s b) :=
  h

protected theorem HomeWf.modBlock {s : State} {id : Nat} {f : Block → Block} (h : HomeWf s) : HomeWf (modBlock s id f) :=
  h

protected theorem HomeWf.modTask {s : State} {no : Nat} {f : Task → Task} (h : HomeWf s) : HomeWf (modTask s no f) :=
  h

/-! ### Trace records (Machine/Trace) -/

protected theorem HomeWf.setTrace {s : State} {f : TraceBlk → TraceBlk} (h : HomeWf s) : HomeWf (setTrace s f) := by
  unfold setTrace
  split
  · exact h
  · exact .ite h h.setDie

protected theorem HomeWf.queueRec {s : State} {r : TraceRec} (h : HomeWf s) : HomeWf (queueRec s r) :=
  h

protected theorem HomeWf.dropRec {s : State} (h : HomeWf s) : HomeWf (dropRec s) :=
  h

protected theorem HomeWf.emitAt {s : State} {die src typ cls : Nat} {crew : Option Nat} {loc : Option TraceLoc} {bs : List Byte} (h : HomeWf s) :
    HomeWf (emitAt s die src typ cls crew loc bs) := by
  unfold emitAt
  split
  · exact h
  · exact .ite h (.ite h.dropRec h.queueRec)

protected theorem HomeWf.emit {s : State} {die src typ cls : Nat} {crew : Option Nat} {bs : List Byte} (h : HomeWf s) :
    HomeWf (emit s die src typ cls crew bs) :=
  h.emitAt

protected theorem HomeWf.emitCrew {s : State} {c : Crew} {k : EvClass} {typ cls : Nat} {bs : List Byte} (h : HomeWf s) :
    HomeWf (emitCrew s c k typ cls bs) :=
  .ite h.emit h

protected theorem HomeWf.emitDie {s : State} {die src : Nat} {k : EvClass} {typ cls : Nat} {bs : List Byte} (h : HomeWf s) :
    HomeWf (emitDie s die src k typ cls bs) :=
  .ite h.emit h

protected theorem HomeWf.emitRetry {s : State} {line core : Nat} {t : Option Task} {who slot : Nat} (h : HomeWf s) :
    HomeWf (emitRetry s line core t who slot) := by
  unfold emitRetry
  split
  · exact .ite h.emitDie h
  · exact h

protected theorem HomeWf.retryOwn {s : State} {core : Nat} {lines : List Nat} (h : HomeWf s) : HomeWf (retryOwn s core lines) :=
  .foldl h fun _ _ hs => .ite hs.emitRetry hs

protected theorem HomeWf.keepRetries {s t : State} (h : HomeWf s) : HomeWf (keepRetries s t) :=
  h

protected theorem HomeWf.emitTask {s : State} {core : Nat} {t : Option Task} {typ cls : Nat} {bs : List Byte} (h : HomeWf s) :
    HomeWf (emitTask s core t typ cls bs) :=
  .ite h.emitDie h

protected theorem HomeWf.emitLoc {s : State} {c : Crew} {k : EvClass} {typ cls b2 b3 : Nat} {pc : Word} {rest : List Byte} (h : HomeWf s) :
    HomeWf (emitLoc s c k typ cls b2 b3 pc rest) := by
  unfold emitLoc
  split
  · exact .ite h.emitAt h
  · exact h

/-! ### Frontiers and their stacks (Machine/Frontier) -/

protected theorem HomeWf.putStack {s : State} {c : Crew} {es : List Entry} (h : HomeWf s) : HomeWf (putStack s c es) := by
  unfold putStack
  split
  · exact h
  · exact h.l1Store.modCrew

protected theorem HomeWf.restoreOldest {s : State} {id : Nat} (h : HomeWf s) : HomeWf (restoreOldest s id) := by
  unfold restoreOldest
  split
  · exact h
  split
  · exact h
  · exact h.putStack.modCrew

protected theorem HomeWf.exchangeRec {s : State} {c : Crew} (h : HomeWf s) : HomeWf (exchangeRec s c) := by
  unfold exchangeRec
  split
  · exact h.putStack.modCrew
  · exact h

protected theorem HomeWf.rotateHeldN {id : Nat} : ∀ {n : Nat} {s : State}, HomeWf s → OkWf (rotateHeldN s id n)
  | 0, _, h => h
  | n + 1, s, h => by
    unfold rotateHeldN
    split
    · exact h
    split
    · exact h
    split
    · exact trivial
    split
    · exact h
    split
    · exact trivial
    · exact HomeWf.rotateHeldN h.exchangeRec

protected theorem HomeWf.rotateHeld {s : State} {id : Nat} (h : HomeWf s) : OkWf (rotateHeld s id) := by
  unfold rotateHeld
  split
  · split
    · exact h
    · exact h.rotateHeldN
  · exact h

protected theorem HomeWf.refillN {id most : Nat} : ∀ {n : Nat} {s : State}, HomeWf s → OkWf (refillN s id most n)
  | 0, _, h => h
  | n + 1, s, h => by
    unfold refillN
    split
    · exact h
    split
    · exact h
    split
    · exact trivial
    · exact HomeWf.refillN h.restoreOldest

protected theorem HomeWf.refill {s : State} {id most : Nat} (h : HomeWf s) : OkWf (refill s id most) := by
  unfold refill
  split
  · exact h
  split
  · exact h
  split
  next t e =>
    have ht : HomeWf t := OkWf.of_eq e h.refillN
    exact ht.rotateHeld
  · exact trivial

protected theorem HomeWf.goOn {s : State} {id : Nat} {pc : Word} {swap : Bool} {paths : List Entry} (h : HomeWf s) :
    OkWf (goOn s id pc swap paths) := by
  unfold goOn
  split
  · exact h
  dsimp only
  split
  · exact h.setCrew.refill
  generalize (if swap then _ else _ : List Entry × List Entry) = placed
  split
  · exact h.setCrew.refill
  split
  · split
    · exact trivial
    · exact trivial
  split
  · exact trivial
  split
  · exact h.setCrew
  · exact h.setCrew.putStack

protected theorem HomeWf.rotateDemoted {s : State} {id : Nat} {pc : Word} (h : HomeWf s) : OkWf (rotateDemoted s id pc) := by
  unfold rotateDemoted
  split
  · exact h
  split
  · exact h
  split
  · split
    · exact trivial
    split
    · exact trivial
    · exact h.putStack.modCrew.restoreOldest.rotateHeld
  · exact h

protected theorem HomeWf.endSection {s : State} {core : Nat} {key : Word} (h : HomeWf s) : HomeWf (endSection s core key) :=
  h

protected theorem HomeWf.endSections {s : State} {id : Nat} {m : Mask} (h : HomeWf s) : HomeWf (endSections s id m) := by
  unfold endSections
  split
  · exact h
  · exact .modCrew (.foldl h fun _ _ hs => hs.endSection)

protected theorem HomeWf.leaveSet {s : State} {c : Crew} (h : HomeWf s) : HomeWf (leaveSet s c) :=
  h.modBlock

protected theorem HomeWf.diverge {s : State} {die src : Nat} {crew : Option Nat} {kind n req : Nat} (h : HomeWf s) :
    HomeWf (diverge s die src crew kind n req) :=
  .emit h

protected theorem HomeWf.checkpoint {s : State} {id kind : Nat} (h : HomeWf s) : HomeWf (checkpoint s id kind).2 := by
  unfold checkpoint
  split
  · exact h
  dsimp only
  split
  · exact h.modCrew
  split
  · exact h.modCrew
  split
  · exact h.modCrew.pokeVia
  · split
    · exact h.modCrew.diverge
    · exact h.modCrew
  · exact h.modCrew

protected theorem HomeWf.dropRejects {s : State} {id : Nat} (h : HomeWf s) : HomeWf (dropRejects s id) :=
  h

protected theorem HomeWf.endCrew {s : State} {id : Nat} (h : HomeWf s) : HomeWf (endCrew s id) := by
  unfold endCrew
  split
  · exact h
  · exact .ite h h.leaveSet.checkpoint.modCrew.dropRejects

protected theorem HomeWf.exitLanes {s : State} {id : Nat} {m : Mask} (h : HomeWf s) : HomeWf (exitLanes s id m) := by
  unfold exitLanes
  dsimp only
  split
  · exact .ite h.endSections.modCrew.endCrew h.endSections.modCrew
  · exact h.endSections.modCrew

protected theorem HomeWf.killCrew {s : State} {c : Crew} (h : HomeWf s) : HomeWf (killCrew s c) :=
  .modCrew (.dropRejects (.endSections (.foldl h fun _ _ hs => hs.emitCrew)))

protected theorem HomeWf.dropShapes {s : State} {core task : Nat} (h : HomeWf s) : HomeWf (dropShapes s core task) :=
  .ite h h.modCore

protected theorem HomeWf.killBlock {s : State} {id : Nat} (h : HomeWf s) : HomeWf (killBlock s id) := by
  unfold killBlock
  split
  · exact h
  next b _ =>
    split
    · exact h
    extract_lets placed mine killed unlogged unpinned told resumed scrubbed
    have hk : HomeWf killed := h.foldl fun _ _ hs => hs.killCrew
    have hu : HomeWf unlogged := .ite hk (hk.foldl fun _ _ hs => hs.modCrew.dropRejects)
    have hp : HomeWf unpinned := hu.endPins
    have ht : HomeWf told := .ite hp.emitTask hp
    have hs : HomeWf scrubbed := .ite (HomeWf.modCore (s := resumed) ht) ht
    exact hs.modBlock.dropShapes

protected theorem HomeWf.endTask {s : State} {no err code : Nat} (h : HomeWf s) : HomeWf (endTask s no err code) := by
  unfold endTask
  split
  · exact h
  · exact .ite h (.modTask (.foldl h fun _ _ hs => hs.killBlock))

/-! ### The ends of crews, blocks and tasks, and traps (Machine/Ops) -/

protected theorem HomeWf.xlateFor {s : State} {who : WalkFor} {core pasid va : Nat} {acc : AccKind} {priv : Bool} (h : HomeWf s) :
    HomeWf (xlateFor s who core pasid va acc priv).2 := by
  unfold xlateFor
  split
  · exact h.askHost
  split
  · exact h
  split
  · dsimp only
    split
    · split
      · exact h
      · exact h
      · exact h
    split
    · exact h
    · exact HomeWf.ite h h
  · exact h

protected theorem HomeWf.forget {s : State} {who : WalkFor} (h : HomeWf s) : HomeWf (forget s who) :=
  h

protected theorem HomeWf.icLine {s : State} {core pasid line pk : Nat} {unc : Bool} (h : HomeWf s) : HomeWf (icLine s core pasid line pk unc).2 := by
  unfold icLine
  split
  · exact h
  split
  · exact h
  · exact HomeWf.modCore (.ite h h.mesiRead)

protected theorem HomeWf.retryCrew {s : State} {id line : Nat} (h : HomeWf s) : HomeWf (retryCrew s id line) := by
  unfold retryCrew
  split
  · exact .ite h.emitRetry h
  · exact h

protected theorem HomeWf.fetchFrom {who : WalkFor} {sync : Bool} {core pasid : Nat} {priv : Bool} :
    ∀ {n va : Nat} {s : State}, HomeWf s → HomeWf (fetchFrom s who sync core pasid priv va n).2
  | 0, _, _, h => h
  | n + 1, va, s, h => by
    have hr : HomeWf (if sync then xlateSync s core pasid va .fetch priv else xlateFor s who core pasid va .fetch priv).2 := by
      split
      · exact h.xlateSync
      · exact h.xlateFor
    unfold fetchFrom
    dsimp only
    split
    next t e =>
      have ht := HomeWf.snd_of_eq e hr
      split
      · refine .askHost ?_
        split
        · exact ht.retryCrew
        · exact ht
      split
      · exact ht.icLine
      split
      next u e' => exact HomeWf.snd_of_eq e' (HomeWf.fetchFrom ht.icLine)
      · exact HomeWf.fetchFrom ht.icLine
    all_goals
      next t e => exact HomeWf.snd_of_eq e hr

protected theorem HomeWf.checkTarget {s : State} {who : Option WalkFor} {c : Crew} {pc : Word} (h : HomeWf s) :
    HomeWf (checkTarget s who c pc).2 := by
  unfold checkTarget
  split
  · exact h
  split
  next e => exact HomeWf.snd_of_eq e h.fetchFrom
  next e => exact HomeWf.snd_of_eq e h.fetchFrom
  next e => exact HomeWf.snd_of_eq e h.fetchFrom
  next e => exact HomeWf.snd_of_eq e h.fetchFrom

protected theorem HomeWf.walkPins {s : State} {core pasid va : Nat} (h : HomeWf s) : HomeWf (walkPins s core pasid va) :=
  .foldl h fun _ _ hs => hs.emitRetry

protected theorem HomeWf.pagesReady {who : WalkFor} {core pasid : Nat} {priv : Bool} :
    ∀ {ps : List (Nat × AccKind)} {s : State}, HomeWf s → HomeWf (pagesReady s who core pasid priv ps).2
  | [], _, h => h
  | (va, acc) :: ps, s, h => by
    have hr : HomeWf (if pasidLookup s pasid == .ats then xlateFor s who core pasid va acc priv else xlateSync s core pasid va acc priv).2 := by
      split
      · exact h.xlateFor
      · exact h.xlateSync
    unfold pagesReady
    dsimp only
    split
    next e =>
      have ht := HomeWf.snd_of_eq e hr
      exact HomeWf.pagesReady (.ite ht ht.walkPins)
    next e => exact HomeWf.pagesReady (HomeWf.snd_of_eq e hr).askHost.retryOwn
    next e => exact HomeWf.pagesReady (HomeWf.snd_of_eq e hr)

protected theorem HomeWf.powerRows {s : State} {core slot lo hi : Nat} (h : HomeWf s) : HomeWf (powerRows s core slot lo hi) :=
  h.modCore

protected theorem HomeWf.pageFault {s : State} {c : Crew} {both : Bool} {recs : List FaultRec} (h : HomeWf s) : HomeWf (pageFault s c both recs) :=
  .modBlock (.modCrew h)

protected theorem HomeWf.vectorCheck {s : State} {c : Crew} {vec : Word} (h : HomeWf s) : HomeWf (vectorCheck s c vec).2 := by
  unfold vectorCheck
  split
  next e =>
    have ht := HomeWf.snd_of_eq e h.checkTarget
    split <;> exact ht
  · exact h.checkTarget

protected theorem HomeWf.vectorFault {s : State} {c : Crew} {vec : Word} (h : HomeWf s) : HomeWf (vectorFault s c vec) :=
  h.forget.pageFault

protected theorem HomeWf.enterTrap {s : State} {id : Nat} {at_ : Word} {t : TrapInfo} (h : HomeWf s) : HomeWf (enterTrap s id at_ t) := by
  unfold enterTrap
  split
  · exact h
  split
  · exact h
  dsimp only
  split
  · exact h.emitLoc.endTask
  have hv {r : Target} {u : State} {c : Crew} {w : Word} (e : vectorCheck s c w = (r, u)) : HomeWf u := HomeWf.snd_of_eq e h.vectorCheck
  split
  next e => exact (hv e).emitLoc.endTask
  next e => exact (hv e).vectorFault
  next e => exact hv e
  next e =>
    split
    · exact (hv e).emitLoc.endTask
    next e' =>
      have hu := (hv e).of_pokeVa e'
      exact hu.emitLoc.setCrew.dropRejects.powerRows

protected theorem HomeWf.raiseVec {s : State} {v : Nat} (h : HomeWf s) : HomeWf (raiseVec s v) :=
  .ite h h

protected theorem HomeWf.sendRequests {s : State} (h : HomeWf s) : HomeWf (sendRequests s) := by
  unfold sendRequests
  refine .foldl h fun s a hs => ?_
  split
  · exact hs
  split
  · exact .ite hs hs
  split
  · exact hs
  split
  · exact hs
  · exact .ite hs (.ite hs.askHost hs.poke.modDie.raiseVec)

protected theorem HomeWf.block {s : State} {id : Nat} {pc : Word} {w : Wait} (h : HomeWf s) : HomeWf (block s id pc w) :=
  h.modCrew

protected theorem HomeWf.arrive {s : State} {id : Nat} {pc : Word} {sc : Scope} (h : HomeWf s) : HomeWf (arrive s id pc sc) :=
  h.block.modCrew

protected theorem HomeWf.gather {s : State} {id : Nat} {pc : Word} (h : HomeWf s) : HomeWf (gather s id pc) := by
  unfold gather
  split
  · exact h
  · exact .ite h h.putStack.modCrew

protected theorem HomeWf.advance {s : State} {id : Nat} {pc next : Word} (h : HomeWf s) : OkWf (advance s id pc next) := by
  unfold advance
  split
  · exact h
  split
  · exact h
  dsimp only
  split
  next t e =>
    have ht : HomeWf t := OkWf.of_eq e h.goOn
    exact ht.rotateDemoted
  · exact trivial

protected theorem HomeWf.trapOne {x : Ctx} {s : State} {id code : Nat} {lanes : Mask} {recs : List FaultRec} (h : HomeWf s) :
    HomeWf (trapOne x s id code lanes recs) :=
  h.enterTrap

protected theorem HomeWf.holdCrew {s : State} {id : Nat} (h : HomeWf s) : HomeWf (holdCrew s id) :=
  h

protected theorem HomeWf.crewReady {s : State} {id : Nat} (h : HomeWf s) : HomeWf (crewReady s id).2 := by
  unfold crewReady
  split
  · exact h
  split
  next e => exact HomeWf.snd_of_eq e h.pagesReady
  next e =>
    have ht := HomeWf.snd_of_eq e h.pagesReady
    split
    · exact ht
    split
    · exact ht
    split
    next e' => exact HomeWf.snd_of_eq e' ht.vectorCheck
    next e' =>
      have hu := HomeWf.snd_of_eq e' ht.vectorCheck
      exact hu.vectorFault
    next e' => exact HomeWf.snd_of_eq e' ht.vectorCheck

protected theorem HomeWf.trapReady {s : State} {ids : List Nat} (h : HomeWf s) : HomeWf (trapReady s ids).2 := by
  unfold trapReady
  split
  · exact foldl_keeps (P := fun r : Bool × State => HomeWf r.2) h fun r id hr => hr.crewReady
  · exact h

protected theorem HomeWf.trapAll {x : Ctx} {s : State} {code : Nat} {lanesOf : Part → Mask} {recsOf : Nat → List FaultRec} (h : HomeWf s) :
    HomeWf (trapAll x s code lanesOf recsOf) := by
  unfold trapAll
  split
  next e =>
    have ht := HomeWf.snd_of_eq e h.trapReady
    exact .foldl ht fun _ _ hs => hs.trapOne
  next e =>
    have ht := HomeWf.snd_of_eq e h.trapReady
    exact ht.holdCrew

protected theorem HomeWf.frontTrap {x : Ctx} {s : State} {id : Nat} {x3 : FrontErr} (h : HomeWf s) : HomeWf (frontTrap x s id x3) := by
  unfold frontTrap
  split
  · exact h.trapAll
  · exact h.trapAll
  · exact h

protected theorem HomeWf.retire {x : Ctx} {s : State} (h : HomeWf s) : HomeWf (retire x s) := by
  unfold retire
  refine .foldl h fun s a hs => ?_
  split
  next e => exact OkWf.of_eq e hs.advance
  · exact hs.frontTrap

protected theorem HomeWf.conclude {x : Ctx} {pre : State} {r : Res} (h : HomeWf pre) (hr : r.HomeWf) : HomeWf (conclude x pre r) := by
  unfold conclude
  cases r with
  | done s =>
    have hs : HomeWf s := hr
    dsimp only
    split
    · exact hs.retire
    split
    · exact h.frontTrap
    · exact hs.retire
  | moved s => exact hr
  | trap code s => exact HomeWf.trapAll (s := s) hr
  | lanes recs s => exact HomeWf.trapAll (s := s) hr
  | stall s =>
    have hs : HomeWf s := hr
    exact .congr (hs.foldl (f := fun s p => block s p.crew x.pc .stall) (l := x.parts) fun _ _ hs => hs.block) rfl rfl
  | hold s => exact HomeWf.holdCrew (s := s) hr

protected theorem HomeWf.issueNow {sp : Spec} {body : Ctx → State → Res} {x : Ctx} {s : State} (h : HomeWf s)
    (hb : ∀ x s, HomeWf s → Res.HomeWf (body x s)) : HomeWf (issueNow sp body x s) := by
  unfold issueNow
  split
  · exact h.trapAll
  · exact h.conclude (hb x s h)

protected theorem HomeWf.issueAt {sp : Spec} {body : Ctx → State → Res} {u : Cur} {c : Crew} {e : Entry} {s : State} (h : HomeWf s)
    (hb : ∀ x s, HomeWf s → Res.HomeWf (body x s)) : HomeWf (issueAt sp body u c e s) := by
  unfold issueAt
  dsimp only
  split
  · exact h.trapAll
  split
  · split
    · exact h.holdCrew
    · exact h.issueNow hb
  split
  · split
    · exact h.arrive.holdCrew
    split
    · exact h.arrive.trapAll
    · exact .issueNow (.foldl h.arrive fun _ _ hs => hs.gather) hb
  split
  next e => exact OkWf.of_eq e h.arrive.rotateHeld
  · exact h.arrive.frontTrap

protected theorem HomeWf.issue {sp : Spec} {body : Ctx → State → Res} {s : State} (h : HomeWf s)
    (hb : ∀ x s, HomeWf s → Res.HomeWf (body x s)) : NextWf (issue sp body s) := by
  unfold issue
  split
  · exact trivial
  split
  · exact trivial
  split
  · exact trivial
  · exact HomeWf.issueAt h hb

protected theorem HomeWf.eachStep {f : Part → Crew → Option Nat × Crew} {acc : Option Nat × State} {p : Part} (h : HomeWf acc.2) :
    HomeWf (eachStep f acc p).2 := by
  unfold eachStep
  split
  · exact h
  split
  · exact h
  split
  · exact h
  · exact h.setCrew

protected theorem HomeWf.eachCrew {f : Part → Crew → Option Nat × Crew} {x : Ctx} {s : State} (h : HomeWf s) : Res.HomeWf (eachCrew f x s) := by
  have hs : HomeWf (x.parts.foldl (eachStep f) (none, s)).2 :=
    foldl_keeps (P := fun r : Option Nat × State => HomeWf r.2) h fun _ _ hr => hr.eachStep
  unfold eachCrew
  split
  · exact h
  next e => exact HomeWf.snd_of_eq e hs

/-! ### Rejected instructions and replay (Machine/Replay) -/

protected theorem HomeWf.modRp {s : State} {die : Nat} {f : ReplayBlk → ReplayBlk} (h : HomeWf s) : HomeWf (modRp s die f) :=
  h.modDie

protected theorem HomeWf.closeChunk {s : State} {die : Nat} {who : Option Nat} {c : Chunk} (h : HomeWf s) : HomeWf (closeChunk s die who c) := by
  unfold closeChunk
  split
  · exact h
  split
  · exact h
  · exact .ite h (.ite h.modRp.diverge h.poke.modRp)

protected theorem HomeWf.logAccess {s : State} {line : Nat} {who : Option Nat} (h : HomeWf s) : HomeWf (logAccess s line who) := by
  unfold logAccess
  dsimp only
  split
  · exact h
  split
  · exact h
  split
  · split
    · exact h.modRp
    · exact .ite h.modRp h.closeChunk.modRp
  split
  · exact .modRp (.ite h.closeChunk.modRp h)
  · exact h.modRp

protected theorem HomeWf.abandonLine {s : State} {line kind : Nat} {who : Option Nat} (h : HomeWf s) : HomeWf (abandonLine s line kind who) :=
  h.modRp.diverge

protected theorem HomeWf.sliceAccess {s : State} {line : Nat} {who : Option Nat} (h : HomeWf s) : HomeWf (sliceAccess s line who) := by
  unfold sliceAccess
  dsimp only
  split
  · exact h.logAccess.modRp
  · exact h.logAccess.abandonLine
  · exact h.logAccess

protected theorem HomeWf.startRegion {s : State} {t : Task} (h : HomeWf s) : HomeWf (startRegion s t) := by
  unfold startRegion
  split
  · exact .ite h (.ite h h)
  · exact h

protected theorem HomeWf.endRegion {s : State} {no : Nat} (h : HomeWf s) : HomeWf (endRegion s no) :=
  .ite (.foldl h fun _ _ hs => .foldl hs fun _ _ hs1 => hs1.closeChunk) h

protected theorem HomeWf.hashPush {s : State} {crew : Nat} {tag : Option Nat} {bs : List Byte} (h : HomeWf s) : HomeWf (hashPush s crew tag bs) := by
  unfold hashPush
  split
  · exact h
  · exact h.modCrew

protected theorem HomeWf.hashFill {s : State} {crew flight : Nat} {bs : List Byte} (h : HomeWf s) : HomeWf (hashFill s crew flight bs) :=
  h.modCrew

/-! ### Accesses, their lines and their logs (Machine/Access) -/

protected theorem HomeWf.xlateLines {who : WalkFor} {core pasid : Nat} {k : AccKind} {priv : Bool} :
    ∀ {ls : List Nat} {s : State}, HomeWf s → HomeWf (xlateLines s who core pasid k priv ls).2
  | [], _, h => h
  | _ :: ls, _, h => HomeWf.xlateLines (ls := ls) h.xlateFor

protected theorem HomeWf.wbAsk {s : State} {core key : Nat} (h : HomeWf s) : HomeWf (wbAsk s core key) := by
  unfold wbAsk
  split
  · exact h.askHost.retryOwn
  · exact h

protected theorem HomeWf.purge {s : State} {core : Nat} {keys : List Nat} (h : HomeWf s) : HomeWf (purge s core keys) := by
  unfold purge
  refine .foldl h fun s a hs => ?_
  dsimp only
  split
  · exact .ite hs.writeBack.dropLine hs.writeBack
  · exact hs.writeBack

protected theorem HomeWf.releaseNow {s : State} {c : Crew} {scope : Nat} (h : HomeWf s) : HomeWf (releaseNow s c scope).2 := by
  unfold releaseNow
  split
  · exact h
  split
  · exact h
  split
  · exact h.writeBackAll.endPins
  · exact HomeWf.foldl h fun _ _ hs => hs.wbAsk

protected theorem HomeWf.acquireClock {s : State} {id : Nat} {k : Clock} (h : HomeWf s) : HomeWf (acquireClock s id k) :=
  h.modCrew

protected theorem HomeWf.countSample {s : State} {core : Nat} (h : HomeWf s) : HomeWf (countSample s core).2 := by
  unfold countSample
  split
  · exact h
  dsimp only
  split
  · split
    · exact h.modCore
    · exact h.modCore
  · exact h

protected theorem HomeWf.emitSample {s : State} {f : Flight} {by_ : Nat} (h : HomeWf s) : HomeWf (emitSample s f by_) := by
  unfold emitSample
  split
  · exact .emitLoc h
  · exact h

protected theorem HomeWf.reject {s : State} {c : Crew} {pc : Word} (h : HomeWf s) : HomeWf (reject s c pc) :=
  h.modCore.emitLoc

protected theorem HomeWf.accept {s : State} {c : Crew} {pc : Word} (h : HomeWf s) : HomeWf (accept s c pc) :=
  h.modCore

protected theorem HomeWf.setFlight {s : State} {f : Flight} (h : HomeWf s) : HomeWf (setFlight s f) :=
  h

protected theorem HomeWf.endFlight {s : State} {id : Nat} (h : HomeWf s) : HomeWf (endFlight s id) :=
  h

protected theorem HomeWf.flightAccess {s : State} {f : Flight} {line : Nat} (h : HomeWf s) : HomeWf (flightAccess s f line) :=
  .ite h (.ite h.sliceAccess.modCrew h.sliceAccess)

protected theorem HomeWf.lineGo {s : State} {f : Flight} {line : Nat} (h : HomeWf s) : SomeWf (lineGo s f line).1 ∧ HomeWf (lineGo s f line).2 := by
  unfold lineGo
  split
  · exact ⟨trivial, h⟩
  dsimp only
  split
  · exact ⟨h.flightAccess, h⟩
  · exact ⟨trivial, h.askHost.foldl fun _ _ hs => hs.wbAsk⟩

/-- Where the line can be served, the flight's access goes on from a canonical memory. -/
theorem HomeWf.of_lineGo {s t u : State} {f : Flight} {line : Nat} (h : HomeWf s) (e : lineGo s f line = (some t, u)) : HomeWf t :=
  SomeWf.of_eq (congrArg Prod.fst e) h.lineGo.1

protected theorem HomeWf.trapAccessAt {s : State} {c : Crew} {q : MemReq} {code : Nat} {lanes : Mask} {recs : List FaultRec} {done : Option Nat}
    (h : HomeWf s) : HomeWf (trapAccessAt s c q code lanes recs done) :=
  h.enterTrap

protected theorem HomeWf.unpark {s : State} {f : Flight} (h : HomeWf s) : HomeWf (unpark s f) := by
  unfold unpark
  split
  · split
    next e => exact OkWf.of_eq e h.advance
    · exact h
  · exact h

protected theorem HomeWf.giveResult {s : State} {f : Flight} {c : Crew} {g : Crew → Crew} (h : HomeWf s) : HomeWf (giveResult s f c g) := by
  unfold giveResult
  dsimp only
  split
  · exact h.setCrew
  split
  · exact h.setCrew
  next t e =>
    have ht : HomeWf t := h.peekVa e
    refine HomeWf.setCrew ?_
    exact ht.pokeVa.getD ht

protected theorem HomeWf.finishLdmLdmTrap {s : State} {f : Flight} {c' : Crew} {code : Nat} {done : Option Nat} {c : Crew} (h : HomeWf s) :
    HomeWf (finishLdm.ldmTrap s f c' code done c) := by
  unfold finishLdm.ldmTrap
  split
  next e =>
    have ht := HomeWf.snd_of_eq e h.endFlight.trapReady
    exact ht.setCrew.trapAccessAt
  next e =>
    have ht := HomeWf.snd_of_eq e h.endFlight.trapReady
    exact ht

protected theorem HomeWf.finishLdm {s : State} {f : Flight} {n : Nat} (h : HomeWf s) : HomeWf (finishLdm s f n) := by
  unfold finishLdm
  split
  · exact h.endFlight
  split
  · exact h.endFlight
  split
  · split
    · exact h
    · exact h.finishLdmLdmTrap
    · exact .ite h.endFlight.giveResult h.endFlight.giveResult.unpark
  · exact h.finishLdmLdmTrap

protected theorem HomeWf.endAccess {s : State} {f : Flight} (h : HomeWf s) : HomeWf (endAccess s f) := by
  unfold endAccess
  split
  · exact h.finishLdm
  dsimp only
  split
  · exact h.endFlight
  split
  · exact .ite h.endFlight h.endFlight.giveResult
  · exact .ite h.endFlight h.endFlight.giveResult.acquireClock
  · exact .ite (.acquireClock (.hashFill (.ite h.endFlight h.endFlight.giveResult))) (.hashFill (.ite h.endFlight h.endFlight.giveResult))
  · exact h.endFlight

protected theorem HomeWf.frameReady {s : State} {f : Flight} {c : Crew} (h : HomeWf s) : HomeWf (frameReady s f c).2 := by
  unfold frameReady
  split
  · exact h.pagesReady
  · exact h

protected theorem HomeWf.keepFlight {s : State} {f : Flight} (h : HomeWf s) : HomeWf (keepFlight s f) :=
  .ite h.setFlight h

protected theorem HomeWf.finishFlight {s : State} {f : Flight} (h : HomeWf s) : HomeWf (finishFlight s f) := by
  unfold finishFlight
  split
  · exact h.endAccess
  next c _ =>
    have hr : HomeWf (if c.ended then (true, s) else frameReady s f c).2 := by
      split
      · exact h
      · exact h.frameReady
    split
    next e => exact (HomeWf.snd_of_eq e hr).endAccess
    next e => exact (HomeWf.snd_of_eq e hr).keepFlight

protected theorem HomeWf.lineDone {s : State} {f : Flight} {line by_ : Nat} (h : HomeWf s) : HomeWf (lineDone s f line by_) :=
  .ite (.finishFlight (.setFlight (.ite h.emitSample h))) (.setFlight (.ite h.emitSample h))

protected theorem HomeWf.fillFor {s : State} {f : Flight} {line : Nat} (h : HomeWf s) : HomeWf (fillFor s f line) := by
  unfold fillFor
  dsimp only
  split
  · split
    · exact h.fillLine.putLine
    · exact h.fillLine
  · exact h.fillLine

protected theorem HomeWf.seeStores {s : State} {f : Flight} {as : List Nat} (h : HomeWf s) : HomeWf (seeStores s f as) :=
  .ite h h.modCrew

protected theorem HomeWf.serveLoad {s : State} {f : Flight} {line : Nat} (h : HomeWf s) : HomeWf (serveLoad s f line) := by
  have hs : HomeWf (if f.direct line then
      refreshLine (if f.uncached.contains line then s else mesiRead s (((List.range 4).filter (flightSectors f line).getLsbD).map (line * 4 + ·)))
        f.core line (flightSectors f line)
      else if !lineMisses s f line then (if f.low then s else touchLine s f.core line) else fillFor s f line) :=
    .ite (.refreshLine (.ite h h.mesiRead)) (.ite (.ite h h.touchLine) h.fillFor)
  exact .lineDone (.ite hs hs.seeStores)

protected theorem HomeWf.l1Clocks {s : State} {core : Nat} {k : Clock} {as : List Nat} (h : HomeWf s) : HomeWf (l1Clocks s core k as) :=
  h.modCore

protected theorem HomeWf.homePerform {s : State} {f : Flight} {ws : List (Nat × Byte)} (h : HomeWf s) : HomeWf (homePerform s f ws) := by
  unfold homePerform
  split
  · exact h
  · exact .ite h (.ite (.ite h.homeWrite.mesiDrop h.homeWrite) (.modCrew (.l1Clocks (.ite h.homeWrite.mesiDrop h.homeWrite))))

protected theorem HomeWf.pinLinePinNew {s : State} {core block line : Nat} {secs : BitVec 4} {keep low : Bool} {k : CoreSt} (h : HomeWf s) :
    SomeWf (pinLine.pinNew s core block line secs keep low k) := by
  unfold pinLine.pinNew
  split
  · exact trivial
  dsimp only
  split
  · exact HomeWf.ite h.fillLine.putLine.lowLine h.fillLine.putLine
  · exact trivial

protected theorem HomeWf.pinLine {s : State} {core block line : Nat} {secs : BitVec 4} {keep low : Bool} (h : HomeWf s) :
    SomeWf (pinLine s core block line secs keep low) := by
  unfold pinLine
  split
  · exact trivial
  split
  · exact trivial
  split
  · split
    · exact HomeWf.ite (.ite h h.fillLine) (.touchLine (.ite h h.fillLine))
    · exact h.pinLinePinNew
  · exact h.pinLinePinNew

protected theorem HomeWf.performStore {s : State} {f : Flight} {line : Nat} (h : HomeWf s) : HomeWf (performStore s f line) := by
  unfold performStore
  dsimp only
  split
  · have hp : SomeWf (if f.pins line then pinLine s f.core f.block line (flightSectors f line) f.keep f.low else none) := by
      split
      · exact h.pinLine
      · exact trivial
    split
    next e => exact (SomeWf.of_eq e hp).l1Store.nearWrites.lineDone
    · exact h.l1Through.homePerform.lineDone
  · exact h.homePerform.lineDone

/-- One lane's atomic writes home memory or the L1, and takes down what it read. -/
protected theorem HomeWf.atomicLane {inL1 : Bool} {o : AOp} {f : Flight} {acc : State × Sparse Word × Clock} {u : Nat × Nat} (h : HomeWf acc.1) :
    HomeWf (atomicLane inL1 o f acc u).1 := by
  unfold atomicLane
  dsimp only
  split
  · exact h
  · exact .ite h.l1Store.nearWrites h.homePerform

protected theorem HomeWf.atomicLanes {inL1 : Bool} {o : AOp} {f : Flight} {us : List (Nat × Nat)} {acc : State × Sparse Word × Clock}
    (h : HomeWf acc.1) : HomeWf (us.foldl (atomicLane inL1 o f) acc).1 :=
  foldl_keeps (P := fun r : State × Sparse Word × Clock => HomeWf r.1) h fun _ _ hr => hr.atomicLane

protected theorem HomeWf.performAtomic {s : State} {f : Flight} {o : AOp} {line : Nat} (h : HomeWf s) : HomeWf (performAtomic s f o line) := by
  unfold performAtomic
  dsimp only
  generalize hpin : (if f.pins line then pinLine s f.core f.block line (flightSectors f line) f.keep f.low else none) = pinned
  have hp : SomeWf pinned := by
    rw [← hpin]
    split
    · exact h.pinLine
    · exact trivial
  cases pinned with
  | none => exact .lineDone (.refreshLine (.atomicLanes (.ite h.writeBack h.writeBack.mesiOwn)))
  | some t => exact .lineDone (.seeStores (.atomicLanes hp))

protected theorem HomeWf.hitLoad {s : State} {f : Flight} (h : HomeWf s) : HomeWf (hitLoad s f) :=
  .finishFlight (.ite (.seeStores (.ite h.emitSample h)) (.foldl (.seeStores (.ite h.emitSample h)) fun _ _ hs => hs.touchLine))

protected theorem HomeWf.startStore {s : State} {ids : List Nat} {f : Flight} {hash : List Byte} (h : HomeWf s) :
    Start.HomeWf (startStore s ids f hash) := by
  unfold startStore
  dsimp only
  split
  · exact h
  split
  · exact trivial
  split
  · exact HomeWf.foldl h fun _ _ hs => hs.wbAsk
  split <;> exact HomeWf.ite h.purge.l1Store.nearWrites.placeLines.l1Through.hashPush.emitSample
      h.purge.l1Store.nearWrites.placeLines.l1Through.hashPush

protected theorem HomeWf.startLoad {s : State} {ids : List Nat} {f : Flight} (h : HomeWf s) : Start.HomeWf (startLoad s ids f) := by
  unfold startLoad
  dsimp only
  split
  · exact h.hitLoad
  split
  · exact trivial
  split
  · exact h.purge
  · exact HomeWf.foldl h fun _ _ hs => hs.wbAsk

protected theorem HomeWf.startOrdered {s : State} {ids : List Nat} {f : Flight} {hash : List Byte} (h : HomeWf s) :
    Start.HomeWf (startOrdered s ids f hash) := by
  unfold startOrdered
  split
  · exact h
  split
  · exact trivial
  dsimp only
  split
  · exact HomeWf.ite h.purge.hashPush h.purge.hashPush
  · exact HomeWf.foldl h fun _ _ hs => hs.wbAsk

protected theorem HomeWf.beginAcquire {s : State} {o : MemOp} {id : Nat} (h : HomeWf s) : HomeWf (beginAcquire s o id) :=
  .ite h.modCrew h

theorem Start.HomeWf.accepted {c : Crew} {pc : Word} : ∀ {r : Start}, r.HomeWf → (r.accepted c pc).HomeWf
  | .ok _, h => Machine.HomeWf.accept h
  | .stall _, h => h
  | .reject, _ => trivial

protected theorem HomeWf.startAccessGo {s : State} {ids : List Nat} {id : Nat} {a : Acc} {q : MemReq} {full parked part smp : Bool} {k : Clock} {us
    : List KeyUnit} {c : Crew} (h : HomeWf s) : Start.HomeWf (startAccess.go s ids id a q full parked part smp k us c) := by
  unfold startAccess.go
  dsimp only
  split
  · split
    · split
      · exact h.modCrew.releaseNow
      split
      · exact h.modCrew.releaseNow.startStore
      · exact h.modCrew.releaseNow.startStore
      · split
        · exact h.modCrew.releaseNow
        · exact h.modCrew.releaseNow.startOrdered
      · split
        · exact h.modCrew.releaseNow.finishFlight
        · exact h.modCrew.releaseNow.startLoad
      · split
        · exact h.modCrew.releaseNow.finishFlight
        · exact h.modCrew.releaseNow.startLoad
      · split
        · exact h.modCrew.releaseNow.beginAcquire.finishFlight
        · exact h.modCrew.releaseNow.beginAcquire.startLoad
      split
      · exact h.modCrew.releaseNow.beginAcquire.finishFlight
      · exact h.modCrew.releaseNow.beginAcquire.startOrdered
    split
    · exact h.releaseNow
    split
    · exact h.releaseNow.startStore
    · exact h.releaseNow.startStore
    · split
      · exact h.releaseNow
      · exact h.releaseNow.startOrdered
    · split
      · exact h.releaseNow.finishFlight
      · exact h.releaseNow.startLoad
    · split
      · exact h.releaseNow.finishFlight
      · exact h.releaseNow.startLoad
    · split
      · exact h.releaseNow.beginAcquire.finishFlight
      · exact h.releaseNow.beginAcquire.startLoad
    split
    · exact h.releaseNow.beginAcquire.finishFlight
    · exact h.releaseNow.beginAcquire.startOrdered
  split
  · split
    · exact h.modCrew
    split
    · exact HomeWf.startStore h.modCrew
    · exact HomeWf.startStore h.modCrew
    · split
      · exact h.modCrew
      · exact HomeWf.startOrdered h.modCrew
    · split
      · exact HomeWf.finishFlight h.modCrew
      · exact HomeWf.startLoad h.modCrew
    · split
      · exact HomeWf.finishFlight h.modCrew
      · exact HomeWf.startLoad h.modCrew
    · split
      · exact HomeWf.finishFlight (.beginAcquire h.modCrew)
      · exact HomeWf.startLoad (.beginAcquire h.modCrew)
    split
    · exact HomeWf.finishFlight (.beginAcquire h.modCrew)
    · exact HomeWf.startOrdered (.beginAcquire h.modCrew)
  split
  · exact h
  split
  · exact HomeWf.startStore h
  · exact HomeWf.startStore h
  · split
    · exact h
    · exact HomeWf.startOrdered h
  · split
    · exact HomeWf.finishFlight h
    · exact HomeWf.startLoad h
  · split
    · exact HomeWf.finishFlight h
    · exact HomeWf.startLoad h
  · split
    · exact HomeWf.finishFlight (.beginAcquire h)
    · exact HomeWf.startLoad (.beginAcquire h)
  split
  · exact HomeWf.finishFlight (.beginAcquire h)
  · exact HomeWf.startOrdered (.beginAcquire h)

protected theorem HomeWf.startAccess {s : State} {ids : List Nat} {id : Nat} {a : Acc} {q : MemReq} {full parked part smp : Bool} {k : Clock}
    {us : List KeyUnit} (h : HomeWf s) : Start.HomeWf (startAccess s ids id a q full parked part smp k us) := by
  unfold startAccess
  split
  · exact h
  · exact h.startAccessGo.accepted

protected theorem HomeWf.lookAll {a : Acc} : ∀ {ps : List Prep} {s : State}, HomeWf s → HomeWf (lookAll a s ps).2
  | [], _, h => h
  | p :: ps, s, h => by
    unfold lookAll
    split
    · exact HomeWf.lookAll h
    · exact HomeWf.lookAll (ps := ps) h.xlateLines

protected theorem HomeWf.goPart {a : Acc} {ids : List Nat} {smp : Bool} {s : State} {k : Look} (h : HomeWf s) :
    Went.HomeWf (goPart a ids smp s k) := by
  unfold goPart
  dsimp only
  split
  · exact h
  split
  · split
    · exact h
    split
    · exact h
    · exact h.setCrew
  split
  · exact h
  split
  next e => exact e.subst (motive := Start.HomeWf) h.setCrew.startAccess
  next e => exact e.subst (motive := Start.HomeWf) h.setCrew.startAccess
  · exact trivial

protected theorem HomeWf.goParts {a : Acc} {ids : List Nat} : ∀ {ks : List Look} {smp : Bool} {s : State}, HomeWf s → Went.HomeWf (goParts a ids
    smp s ks)
  | [], _, _, h => h
  | k :: ks, smp, s, h => by
    unfold goParts
    dsimp only
    have hp : Went.HomeWf (goPart a ids (smp && !k.prep.units.isEmpty) s k) := h.goPart
    split
    next e =>
      rw [e] at hp
      exact HomeWf.goParts hp
    · exact hp

protected theorem HomeWf.partPart {a : Acc} {ids : List Nat} {s : State} {k : Look} {n : Nat} (h : HomeWf s) :
    Went.HomeWf (partPart a ids s k n) := by
  unfold partPart
  dsimp only
  split
  · exact h
  split
  · exact h
  split
  next e => exact e.subst (motive := Start.HomeWf) h.setCrew.startAccess
  next e => exact e.subst (motive := Start.HomeWf) h.setCrew.startAccess
  · exact trivial

protected theorem HomeWf.partGo {a : Acc} {ids : List Nat} : ∀ {ks : List (Look × Nat)} {s : State}, HomeWf s → Went.HomeWf (partGo a ids s ks)
  | [], _, h => h
  | (k, i) :: ks, s, h => by
    unfold partGo
    have hp : Went.HomeWf (partPart a ids s k i) := h.partPart
    split
    next e =>
      rw [e] at hp
      exact HomeWf.partGo hp
    · exact hp

protected theorem HomeWf.goBack {s t : State} (h : HomeWf s) : HomeWf (goBack s t) :=
  h.keepRetries.askHost

protected theorem HomeWf.faultLooks {a : Acc} {s : State} {ks : List Look} (h : HomeWf s) : HomeWf (faultLooks a s ks) := by
  unfold faultLooks
  split
  · exact h
  refine .foldl h fun s a hs => ?_
  dsimp only
  split
  · exact .ite hs hs.forget.pageFault
  · exact hs

protected theorem HomeWf.wentIssued {s : State} {pc : Word} (h : HomeWf s) : ∀ {w : Went}, w.HomeWf → Issued.HomeWf (w.issued s pc)
  | .ok _, hw => hw
  | .stall _, _ => h.goBack
  | .reject id, _ => by
    show HomeWf (match crewAt s id with | some c => reject s c pc | none => s)
    split
    · exact h.reject
    · exact h

protected theorem HomeWf.issueAccess {a : Acc} {pc : Word} {s : State} {ps : List Prep} (h : HomeWf s) : Issued.HomeWf (issueAccess a pc s ps) := by
  have hk : HomeWf (lookAll a s ps).2 := h.lookAll
  unfold issueAccess
  generalize lookAll a s ps = looks at hk ⊢
  obtain ⟨ks, t⟩ := looks
  dsimp only
  split
  · have hgo : ∀ parts, Issued.HomeWf ((partGo a (ps.map (·.part.crew)) t parts).issued t pc) :=
      fun _ => HomeWf.wentIssued hk (HomeWf.partGo hk)
    split
    · exact hk
    split
    next e => exact e.subst (motive := Issued.HomeWf) (hgo _)
    · exact hgo _
  split
  · exact HomeWf.faultLooks hk
  split
  · exact HomeWf.wentIssued hk (HomeWf.goParts (HomeWf.countSample hk))
  · exact HomeWf.wentIssued hk (HomeWf.goParts hk)

protected theorem HomeWf.accessBody {a : Acc} {x : Ctx} {s : State} (h : HomeWf s) : Res.HomeWf (accessBody a x s) := by
  unfold accessBody
  split
  · exact h
  split
  · exact h
  dsimp only
  split
  · exact h
  split
  · exact h
  split
  next t e =>
    have ht : HomeWf t := e.subst (motive := Issued.HomeWf) h.issueAccess
    split
    · refine .foldl ht fun s a hs => ?_
      split
      · exact hs.block
      split
      next e' => exact OkWf.of_eq e' hs.advance
      · exact hs.frontTrap
    · exact ht
  next t e =>
    have ht : HomeWf t := e.subst (motive := Issued.HomeWf) h.issueAccess
    exact HomeWf.foldl ht fun _ _ hs => hs.block
  next e => exact e.subst (motive := Issued.HomeWf) h.issueAccess
  next e => exact e.subst (motive := Issued.HomeWf) h.issueAccess

protected theorem HomeWf.dropLog {s : State} {id : Nat} (h : HomeWf s) : HomeWf (dropLog s id) :=
  h.forget.modCrew

protected theorem HomeWf.loseSlot {s : State} {id : Nat} {q : MemReq} (h : HomeWf s) : HomeWf (loseSlot s id q) := by
  unfold loseSlot
  split
  · exact h.modCrew
  · exact h

protected theorem HomeWf.logTrap {s : State} {c : Crew} {e : LogEntry} {code : Nat} {lanes : Mask} {recs : List FaultRec} (h : HomeWf s) :
    HomeWf (logTrap s c e code lanes recs) := by
  unfold logTrap
  split
  · exact h.dropLog.loseSlot
  split
  next e' =>
    have ht := HomeWf.snd_of_eq e' h.trapReady
    dsimp only
    split
    · exact ht.dropLog.loseSlot.trapAccessAt
    · exact ht.dropLog.loseSlot
  next e' => exact HomeWf.snd_of_eq e' h.trapReady

protected theorem HomeWf.partLog {s : State} {c : Crew} {a : Acc} {e : LogEntry} {us : List KeyUnit} {n : Nat} (h : HomeWf s) :
    HomeWf (partLog s c a e us n) := by
  unfold partLog
  split
  next t e' =>
    have ht : HomeWf t := e'.subst (motive := Start.HomeWf) h.startAccess
    exact ht.modCrew
  · exact h.goBack
  · exact h.reject

protected theorem HomeWf.replayLog {s : State} {c : Crew} {a : Acc} {e : LogEntry} {keys : List KeyUnit} (h : HomeWf s) :
    HomeWf (replayLog s c a e keys) := by
  unfold replayLog
  split
  next e' => exact e'.subst (motive := Start.HomeWf) h.dropLog.startAccess
  · exact h.goBack
  · exact h.reject

protected theorem HomeWf.logFault {s : State} {c : Crew} {a : Acc} {e : LogEntry} {us : List (Nat × Nat)} {xs : List (Nat × Xl)} (h : HomeWf s) :
    HomeWf (logFault s c a e us xs) :=
  h.forget.pageFault

protected theorem HomeWf.settleLogStop {s : State} {c : Crew} {a : Acc} {e : LogEntry} {us : List (Nat × Nat)} {xs : List (Nat × Xl)} {fs : List
    (Nat × Nat × Nat)} {bad : Xl → Bool} (h : HomeWf s) : HomeWf (settleLog.stop s c a e us xs fs bad) :=
  .ite h.logFault h.modCrew.logTrap

protected theorem HomeWf.settleLog {s : State} {c : Crew} {a : Acc} {e : LogEntry} {us : List (Nat × Nat)} {xs : List (Nat × Xl)} (h : HomeWf s) :
    HomeWf (settleLog s c a e us xs) := by
  unfold settleLog
  dsimp only
  split
  · exact .ite h.partLog h.settleLogStop
  · exact .ite h.replayLog h.settleLogStop

protected theorem HomeWf.logLook {s : State} {c : Crew} {a : Acc} {e : LogEntry} {us : List (Nat × Nat)} (h : HomeWf s) :
    HomeWf (logLook s c a e us).2.2 := by
  unfold logLook
  split
  next e' =>
    have ht := HomeWf.snd_of_eq e' h.xlateLines
    exact ht.modCrew

protected theorem HomeWf.advanceHere {s : State} {c : Crew} {a : Acc} {e : LogEntry} (h : HomeWf s) : HomeWf (advanceHere s c a e) := by
  unfold advanceHere
  dsimp only
  split
  · exact h.logTrap
  split
  · exact h.logTrap
  · exact h.logTrap
  · exact .ite h.logLook h.logLook.settleLog

protected theorem HomeWf.advanceSaving {s : State} {c : Crew} {a : Acc} {e : LogEntry} (h : HomeWf s) : HomeWf (advanceSaving s c a e) := by
  unfold advanceSaving
  split
  · exact h
  split
  · split
    next t e' =>
      have ht : HomeWf t := HomeWf.snd_snd_of_eq e' h.logLook
      exact .ite ht ht.logFault
  · exact h

protected theorem HomeWf.advanceEnded {s : State} {c : Crew} {a : Acc} {e : LogEntry} (h : HomeWf s) : HomeWf (advanceEnded s c a e) := by
  unfold advanceEnded
  dsimp only
  split
  · exact h.dropLog.loseSlot
  split
  · exact .ite h.logLook (.ite h.logLook.replayLog h.logLook.dropLog.loseSlot)
  · exact h.dropLog.loseSlot

protected theorem HomeWf.advanceLog {s : State} {id : Nat} (h : HomeWf s) : HomeWf (advanceLog s id) := by
  unfold advanceLog
  split
  · exact h
  split
  · exact h
  split
  · exact h
  split
  · exact h.dropLog.loseSlot
  · exact h
  split
  · exact h.advanceHere
  · exact h.advanceHere
  · exact h.advanceSaving
  · exact h.advanceEnded
  · exact h

protected theorem HomeWf.retryLogs {s : State} (h : HomeWf s) : HomeWf (retryLogs s) :=
  .foldl (.foldl h fun _ _ hs => .ite hs.advanceLog hs) fun _ _ hs => .ite hs.finishFlight hs

protected theorem HomeWf.execReplayGateTimeout {die line : Nat} {s : State} (h : HomeWf s) : NextWf (execReplayGateTimeout die line s) := by
  unfold execReplayGateTimeout
  split
  · exact HomeWf.ite h.abandonLine h
  · exact h

/-! ### Issue and what an instruction comes to (Machine/Issue) -/

protected theorem HomeWf.fetchInstr {s : State} {c : Crew} {pc : Word} (h : HomeWf s) : HomeWf (fetchInstr s c pc).2 := by
  unfold fetchInstr
  dsimp only
  split
  next e =>
    have ht := HomeWf.snd_of_eq e h.fetchFrom
    split
    · exact ht
    split
    next e' =>
      have hu := HomeWf.snd_of_eq e' h.fetchFrom
      split
      · exact hu
      split
      next e'' => exact HomeWf.snd_of_eq e'' h.fetchFrom
      next e'' => exact HomeWf.snd_of_eq e'' h.fetchFrom
    next e' => exact HomeWf.snd_of_eq e' h.fetchFrom
  next e => exact HomeWf.snd_of_eq e h.fetchFrom

protected theorem HomeWf.fetchTrap {s : State} {c : Crew} {e : Entry} {code va : Nat} (h : HomeWf s) : HomeWf (fetchTrap s c e code va) :=
  h.trapAll

protected theorem HomeWf.fetchFault {s : State} {c : Crew} {e : Entry} {va : Nat} (h : HomeWf s) : HomeWf (fetchFault s c e va) :=
  .ite h.fetchTrap h.pageFault

protected theorem HomeWf.rotateTrap {s : State} {c : Crew} {e : Entry} {why : FrontErr} (h : HomeWf s) : HomeWf (rotateTrap s c e why) :=
  h.trapAll

protected theorem HomeWf.asPartPerform {s : State} {p : AsPart} (h : HomeWf s) : HomeWf (AsPart.perform s p) := by
  unfold AsPart.perform
  split
  · exact h
  split
  · exact h.modBlock
  split
  · exact h.modCrew
  · exact h

protected theorem HomeWf.grantPort {s : State} {core : Nat} (h : HomeWf s) : HomeWf (grantPort s core) := by
  unfold grantPort
  split
  · exact h
  · exact h.asPartPerform.modCore

protected theorem HomeWf.portSlot {s : State} {core quarter : Nat} (h : HomeWf s) : SomeWf (portSlot s core quarter) := by
  unfold portSlot
  split
  · exact trivial
  split
  · exact trivial
  split
  · exact h.grantPort
  · exact h

protected theorem HomeWf.issueSlot {s : State} {core quarter : Nat} (h : HomeWf s) : Slot.HomeWf (issueSlot s core quarter) := by
  unfold issueSlot
  split
  next t e =>
    have ht : HomeWf t := SomeWf.of_eq e h.portSlot
    exact ht
  split
  · exact h
  dsimp only
  split
  next e' =>
    have ht := HomeWf.snd_of_eq e' h.modCore.fetchInstr
    exact ht
  next e' =>
    have ht := HomeWf.snd_of_eq e' h.modCore.fetchInstr
    exact ht.holdCrew
  next e' =>
    have ht := HomeWf.snd_of_eq e' h.modCore.fetchInstr
    exact ht.forget.fetchTrap
  next e' =>
    have ht := HomeWf.snd_of_eq e' h.modCore.fetchInstr
    exact ht.fetchTrap
  next e' =>
    have ht := HomeWf.snd_of_eq e' h.modCore.fetchInstr
    exact ht.forget.fetchFault

protected theorem HomeWf.tick {s : State} (h : HomeWf s) : HomeWf (tick s) := by
  unfold tick
  dsimp only
  exact h

/-! ### Atomics and stores at the home slice (Machine/Atomics) -/

protected theorem HomeWf.releaseParts {scope : Nat} : ∀ {ps : List Part} {s : State}, HomeWf s → HomeWf (releaseParts scope ps s).2
  | [], _, h => h
  | p :: ps, s, h => by
    unfold releaseParts
    split
    · exact HomeWf.releaseParts h
    split
    · exact HomeWf.releaseParts h
    split
    next e => exact HomeWf.releaseParts (HomeWf.snd_of_eq e h.releaseNow)
    next e => exact HomeWf.snd_of_eq e h.releaseNow

protected theorem HomeWf.execFence {x : Pfx} {sc : BitVec 2} {s : State} (h : HomeWf s) : NextWf (execFence x sc s) := by
  unfold execFence
  refine HomeWf.issue h fun c s hs => ?_
  split
  next e => exact HomeWf.snd_of_eq e hs.releaseParts
  next e =>
    have ht := HomeWf.snd_of_eq e hs.releaseParts
    exact HomeWf.foldl ht fun _ _ hs => .ite hs hs.modCrew

/-- Part of a list in canonical form is in canonical form. -/
theorem swfFrom_filter {α : Type} [DecidableEq α] {d : α} (p : Nat × α → Bool) :
    ∀ {m : Sparse α} {lo : Option Nat}, swfFrom d lo m = true → swfFrom d lo (m.filter p) = true
  | [], _, _ => rfl
  | (k, v) :: r, lo, h => by
    simp only [swfFrom, Bool.and_eq_true] at h
    obtain ⟨⟨hlo, hv⟩, hr⟩ := h
    rw [List.filter_cons]
    split
    · simp only [swfFrom, Bool.and_eq_true]
      exact ⟨⟨hlo, hv⟩, swfFrom_filter p hr⟩
    · have hr' := swfFrom_filter p hr
      cases lo with
      | none => exact swfFrom_weaken hr'
      | some l => exact swfFrom_mono hr' (Nat.le_of_lt (of_decide_eq_true hlo))

protected theorem HomeWf.noEvent {s : State} (h : HomeWf s) : NextWf (noEvent s) := h

protected theorem HomeWf.hostDoes {s : State} {f : State → State} (h : HomeWf s) (hf : ∀ s, HomeWf s → HomeWf (f s)) : NextWf (hostDoes s f) := by
  unfold hostDoes
  split
  · exact hf s h
  · exact h.noEvent

protected theorem HomeWf.execLoadDataReturn {flight line : Nat} {s : State} (h : HomeWf s) : NextWf (execLoadDataReturn flight line s) := by
  unfold execLoadDataReturn
  split
  · exact h.noEvent
  split
  · exact h.noEvent
  split
  next e => exact (h.of_lineGo e).serveLoad
  next e => exact HomeWf.snd_of_eq e h.lineGo.2

protected theorem HomeWf.execAtomicReturn {flight line : Nat} {s : State} (h : HomeWf s) : NextWf (execAtomicReturn flight line s) := by
  unfold execAtomicReturn
  split
  · exact h.noEvent
  split
  · split
    next e => exact (h.of_lineGo e).performAtomic
    next e => exact HomeWf.snd_of_eq e h.lineGo.2
  · exact h.noEvent

protected theorem HomeWf.execWritePerformed {flight line : Nat} {s : State} (h : HomeWf s) : NextWf (execWritePerformed flight line s) := by
  unfold execWritePerformed
  split
  · exact h.noEvent
  split
  · exact h.noEvent
  split
  next e => exact (h.of_lineGo e).performStore
  next e => exact HomeWf.snd_of_eq e h.lineGo.2

protected theorem HomeWf.walkRetry {s : State} {w : Walk} (h : HomeWf s) : HomeWf (walkRetry s w) := by
  unfold walkRetry
  dsimp only
  split
  · exact h.emitRetry.askHost
  · exact h.askHost

protected theorem HomeWf.walkEnd {s : State} {w : Walk} {o : LineOut} (h : HomeWf s) : HomeWf (walkEnd s w o) := by
  unfold walkEnd
  dsimp only
  split
  · split
    · exact .advanceLog h
    · exact .advanceLog h
    · exact .advanceLog h
  split <;> exact h

protected theorem HomeWf.execWalkComplete {s : State} (h : HomeWf s) : NextWf (execWalkComplete s) := by
  unfold execWalkComplete
  split
  · exact h.noEvent
  split
  · exact h.noEvent
  split
  · exact h.walkRetry.noEvent
  split
  next e =>
    have ht := HomeWf.snd_of_eq e h.walkNow
    exact ht.walkEnd

protected theorem HomeWf.execMissEntryFree {s : State} (h : HomeWf s) : NextWf (execMissEntryFree s) := by
  unfold execMissEntryFree
  split
  · exact h.noEvent
  dsimp only
  split
  · exact h.modCore.noEvent
  · exact HomeWf.ite h.modCore.advanceLog h.modCore.modCrew

protected theorem HomeWf.execMshrAgeLimitReached {s : State} (h : HomeWf s) : NextWf (execMshrAgeLimitReached s) := by
  unfold execMshrAgeLimitReached
  split
  · exact h.noEvent
  split
  · exact h.noEvent
  split
  · exact h.noEvent
  · exact h.modCore

/-! ### Block-local memory, copies and batches (Machine/Local) -/

protected theorem HomeWf.swapBlock {s : State} {id : Nat} (h : HomeWf s) : HomeWf (swapBlock s id) :=
  h.modBlock

protected theorem HomeWf.waitOn {s : State} {block : Nat} {ks : List Copy} (h : HomeWf s) : HomeWf (waitOn s block ks) :=
  .ite h.swapBlock h

protected theorem HomeWf.present {s : State} {core : Nat} {ps : List AsPart} (h : HomeWf s) : HomeWf (present s core ps) :=
  h.modCore.grantPort

protected theorem HomeWf.asBody {wr : Bool} {d a : RCode} {x : Ctx} {s : State} (h : HomeWf s) : Res.HomeWf (asBody wr d a x s) := by
  unfold asBody
  dsimp only
  split
  · exact h
  split
  · exact h
  split
  · exact h.present
  · exact h.waitOn

protected theorem HomeWf.bcopyBody {dir : Nat} {m : BitVec 4} {d : RCode} {x : Ctx} {s : State} (h : HomeWf s) :
    Res.HomeWf (bcopyBody dir m d x s) := by
  unfold bcopyBody
  split
  · split
    · exact h
    dsimp only
    split
    · split
      · exact h
      · exact h
    split
    · exact h.modCore
    · exact h
  · exact h

protected theorem HomeWf.modBar {s : State} {block a : Nat} {k : Clock} {f : Barrier → Barrier} (h : HomeWf s) : HomeWf (modBar s block a k f) :=
  h.modBlock

protected theorem HomeWf.lowerBar {s : State} {k : Copy} {w : Clock} {n : Nat} (h : HomeWf s) : HomeWf (lowerBar s k w n) :=
  .ite h h.modBar.modBlock

protected theorem HomeWf.emitCopy {s : State} {k : Copy} (h : HomeWf s) : HomeWf (emitCopy s k) := by
  unfold emitCopy
  split
  · exact h
  · exact .ite h.emit h

protected theorem HomeWf.retireCopy {s : State} {k : Copy} (h : HomeWf s) : HomeWf (retireCopy s k) :=
  .ite h.emitCopy (.modCrew h.emitCopy)

protected theorem HomeWf.failCopy {s : State} {k : Copy} {e : ErrMark} (h : HomeWf s) : HomeWf (failCopy s k e) :=
  .retireCopy (.forget (.ite h h.modBar))

protected theorem HomeWf.unitMoved {s : State} {k : Copy} {u : Nat} {w : Clock} (h : HomeWf s) : HomeWf (unitMoved s k u w) :=
  .ite h.lowerBar.modCrew.retireCopy h.lowerBar

protected theorem HomeWf.copyKeys {k : Copy} {pasid : Nat} {acc : AccKind} :
    ∀ {vs : List Nat} {s : State}, HomeWf s → HomeWf (copyKeys s k pasid acc vs).2
  | [], _, h => h
  | va :: vs, s, h => by
    unfold copyKeys
    split
    next e =>
      have ht := HomeWf.snd_of_eq e h.xlateFor
      split
      next e' => exact HomeWf.snd_of_eq e' (HomeWf.copyKeys ht)
      · exact HomeWf.copyKeys ht
    all_goals
      next e => exact HomeWf.snd_of_eq e h.xlateFor

protected theorem HomeWf.holdCopy {s : State} {k : Copy} {pasid va : Nat} (h : HomeWf s) : HomeWf (holdCopy s k pasid va) :=
  h

protected theorem HomeWf.copyAccess {s : State} {k : Copy} {x : List Nat} (h : HomeWf s) : HomeWf (copyAccess s k x).1 := by
  unfold copyAccess
  split
  · split
    · exact h
    · exact h.sliceAccess
  · exact h

protected theorem HomeWf.moveIn {s : State} {k : Copy} {u : Nat} {unc : Bool} {as : List Nat} (h : HomeWf s) : HomeWf (moveIn s k u unc as) := by
  unfold moveIn
  dsimp only
  exact .unitMoved (.ite (.modBlock (.ite h.copyAccess h.copyAccess.mesiRead)) (.modBlock (.ite h.copyAccess h.copyAccess.mesiRead)))

protected theorem HomeWf.moveOut {s : State} {k : Copy} {u : Nat} {unc : Bool} {as : List Nat} (h : HomeWf s) : HomeWf (moveOut s k u unc as) := by
  unfold moveOut
  split
  · exact h
  dsimp only
  split
  · exact h.copyAccess.unitMoved
  · exact .unitMoved (.l1Clocks (.l1Through (.ite h.copyAccess.homeWrite.mesiDrop h.copyAccess.homeWrite)))

protected theorem HomeWf.moveLocal {s : State} {k : Copy} {u : Nat} (h : HomeWf s) : HomeWf (moveLocal s k u) :=
  h.modBlock.unitMoved

protected theorem HomeWf.copyRetry {s : State} {k : Copy} {as : List Nat} (h : HomeWf s) : HomeWf (copyRetry s k as) := by
  unfold copyRetry
  split
  · exact h.emitRetry
  · exact h

protected theorem HomeWf.moveUnit {s : State} {k : Copy} {u : Nat} (h : HomeWf s) : HomeWf (moveUnit s k u) := by
  unfold moveUnit
  dsimp only
  split
  · exact h
  split
  · exact h.moveLocal
  split
  · exact h.failCopy
  split
  next e => exact HomeWf.snd_of_eq e h.copyKeys
  next e =>
    have ht := HomeWf.snd_of_eq e h.copyKeys
    exact ht.failCopy
  next e =>
    have ht := HomeWf.snd_of_eq e h.copyKeys
    exact .ite ht.failCopy ht.holdCopy
  next e =>
    have ht := HomeWf.snd_of_eq e h.copyKeys
    exact .ite ht.copyRetry (.ite ht.failCopy (.ite ht.askHost (.ite ht.moveOut ht.moveIn)))

protected theorem HomeWf.execBcopyUnitMove {copy unit : Nat} {s : State} (h : HomeWf s) : NextWf (execBcopyUnitMove copy unit s) := by
  unfold execBcopyUnitMove
  split
  · exact h.moveUnit
  · exact h

protected theorem HomeWf.execBatchSeal {x : Pfx} {d : RCode} {s : State} (h : HomeWf s) : NextWf (execBatchSeal x d s) := by
  unfold execBatchSeal
  refine HomeWf.issue h fun c s hs => ?_
  split
  · split
    · exact hs
    dsimp only
    split
    · split
      · exact hs
      · exact HomeWf.setCrew (.modBlock hs)
    split
    · exact hs
    · exact HomeWf.setCrew (.modBlock hs)
  · exact hs

protected theorem HomeWf.batchSeen {s : State} {c : Crew} {ns : List Nat} (h : HomeWf s) : HomeWf (batchSeen s c ns) :=
  h.setCrew.modBlock

protected theorem HomeWf.batchWaitBody {a : RCode} {x : Ctx} {s : State} (h : HomeWf s) : Res.HomeWf (batchWaitBody a x s) := by
  unfold batchWaitBody
  split
  · split
    · exact h
    split
    · exact h
    dsimp only
    split
    · exact h.waitOn
    split
    · exact h.batchSeen
    split
    next e => exact HomeWf.snd_of_eq e h.trapReady
    next e =>
      have ht := HomeWf.snd_of_eq e h.trapReady
      exact ht.setCrew
  · exact h

protected theorem HomeWf.execBatchPoll {x : Pfx} {d a : RCode} {s : State} (h : HomeWf s) : NextWf (execBatchPoll x d a s) :=
  HomeWf.issue h fun _ _ hs => hs.eachCrew

protected theorem HomeWf.baroBody {a : RCode} {f : Part → Crew → Block → Nat → State → Res} {x : Ctx} {s : State} (h : HomeWf s)
    (hf : ∀ p c b n s, HomeWf s → Res.HomeWf (f p c b n s)) : Res.HomeWf (baroBody a f x s) := by
  unfold baroBody
  split
  · exact h
  split
  · exact h
  · exact hf _ _ _ _ _ h

protected theorem HomeWf.execBaroInit {x : Pfx} {a : RCode} {s : State} (h : HomeWf s) : NextWf (execBaroInit x a s) := by
  unfold execBaroInit
  refine HomeWf.issue h fun c s hs => ?_
  refine HomeWf.baroBody hs fun p c b n s hs => ?_
  dsimp only
  split
  · exact hs
  · exact HomeWf.modBar hs

protected theorem HomeWf.execBaroArrive {x : Pfx} {a : RCode} {s : State} (h : HomeWf s) : NextWf (execBaroArrive x a s) := by
  unfold execBaroArrive
  refine HomeWf.issue h fun c s hs => ?_
  refine HomeWf.baroBody hs fun p c b n s hs => ?_
  split
  · exact hs
  · exact hs.modBar.modBlock

protected theorem HomeWf.execBaroWait {x : Pfx} {a : RCode} {s : State} (h : HomeWf s) : NextWf (execBaroWait x a s) := by
  unfold execBaroWait
  refine HomeWf.issue h fun c s hs => ?_
  refine HomeWf.baroBody hs fun p c b n s hs => ?_
  dsimp only
  split
  · exact hs.waitOn
  split
  · exact hs
  · exact HomeWf.foldl hs fun _ _ hs => hs.modCrew

/-! ### Control flow (Machine/Control) -/

protected theorem HomeWf.leaveBy {x : Ctx} {f : Part → Crew → Entry → Bool × List Entry} {p : Part} {s : State} (h : HomeWf s) :
    OkWf (leaveBy x f p s) := by
  unfold leaveBy
  split
  · exact h
  split
  · exact h
  split
  · split
    · exact trivial
    next t e =>
      have ht : HomeWf t := OkWf.of_eq e h.goOn
      split
      · exact ht.rotateDemoted
      · exact ht

protected theorem HomeWf.leaveAll {x : Ctx} {f : Part → Crew → Entry → Bool × List Entry} :
    ∀ {ps : List Part} {s : State}, HomeWf s → OkWf (leaveAll x f ps s)
  | [], _, h => h
  | p :: ps, s, h => by
    unfold leaveAll
    split
    next e => exact HomeWf.leaveAll (OkWf.of_eq e h.leaveBy)
    · exact trivial

protected theorem HomeWf.transfer {x : Ctx} {s : State} {f : Part → Crew → Entry → Bool × List Entry} {after : State → State} (h : HomeWf s)
    (ha : ∀ s, HomeWf s → HomeWf (after s)) : Res.HomeWf (transfer x s f after) := by
  unfold transfer
  split
  next e => exact ha _ (OkWf.of_eq e h.leaveAll)
  all_goals exact h

protected theorem HomeWf.branchBody {target : Word → Word} {t : BitVec 4} {x : Ctx} {s : State} (h : HomeWf s) :
    Res.HomeWf (branchBody target t x s) :=
  h.transfer fun _ hs => hs

protected theorem HomeWf.writeLinks {x : Ctx} {s : State} (h : HomeWf s) : HomeWf (writeLinks x s) :=
  .foldl h fun _ _ hs => .ite hs hs.modCrew

protected theorem HomeWf.execCall {x : Pfx} {off : BitVec 14} {t : BitVec 4} {s : State} (h : HomeWf s) : NextWf (execCall x off t s) :=
  HomeWf.issue h fun _ _ hs => HomeWf.transfer hs fun _ hs1 => hs1.writeLinks

protected theorem HomeWf.checkTargets {c : Crew} : ∀ {vs : List Nat} {s : State}, HomeWf s → HomeWf (checkTargets c vs s).2
  | [], _, h => h
  | v :: vs, s, h => by
    have hs : HomeWf (checkTargets c vs (checkTarget s (some (.wait c.id)) c (BitVec.ofNat 32 v)).2).2 := HomeWf.checkTargets h.checkTarget
    unfold checkTargets
    dsimp only
    split <;> exact hs

protected theorem HomeWf.checkJumps {a : RCode} : ∀ {ps : List Part} {s : State}, HomeWf s → JumpCheck.HomeWf (checkJumps a ps s)
  | [], _, h => h
  | p :: ps, s, h => by
    unfold checkJumps
    split
    · exact HomeWf.checkJumps h
    next c _ =>
    split
    · exact HomeWf.checkJumps h
    next r _ =>
    have hk : HomeWf (checkTargets c (laneValues r p.act) s).2 := h.checkTargets
    generalize checkTargets c (laneValues r p.act) s = checks at hk ⊢
    dsimp only
    split
    · exact hk
    generalize (if faultRefused s c.core (pasidOf s c) then checks.1.bad ++ checks.1.faults else checks.1.bad) = bad
    split
    · have hj := HomeWf.checkJumps (a := a) (ps := ps) (hk.forget (who := .wait c.id))
      split
      all_goals
        next e => exact e.subst (motive := JumpCheck.HomeWf) hj
    split
    · exact hk.forget.pageFault
    · exact HomeWf.checkJumps hk

protected theorem HomeWf.jumpBody {a : RCode} {t : Nat} {x : Ctx} {s : State} (h : HomeWf s) : Res.HomeWf (jumpBody a t x s) := by
  unfold jumpBody
  dsimp only
  split
  · exact h
  have hj : JumpCheck.HomeWf (checkJumps a (x.parts.filter fun p => p.act != 0) s) := h.checkJumps
  split
  next e => exact e.subst (motive := JumpCheck.HomeWf) hj
  next e => exact e.subst (motive := JumpCheck.HomeWf) hj
  next e => exact e.subst (motive := JumpCheck.HomeWf) hj
  next t e =>
    have ht : HomeWf t := e.subst (motive := JumpCheck.HomeWf) hj
    exact ht.transfer fun _ hs => hs

protected theorem HomeWf.closeSections {s : State} {c : Crew} {m : Mask} (h : HomeWf s) : HomeWf (closeSections s c m) :=
  h.modDie.endSections

protected theorem HomeWf.exitBody {x : Ctx} {s : State} (h : HomeWf s) : Res.HomeWf (exitBody x s) := by
  unfold exitBody
  split
  · split
    · exact h
    dsimp only
    split
    · split
      · exact h
      split
      · exact h
      · exact h
      · exact h
      next t e' =>
        have ht : HomeWf t := OkWf.of_eq e' (HomeWf.leaveBy h)
        exact HomeWf.exitLanes (.ite ht ht.closeSections)
    split
    · split
      · exact h
      split
      · exact h
      · exact h
      · exact h
      next t e' =>
        have ht : HomeWf t := OkWf.of_eq e' (HomeWf.leaveBy h)
        exact ht.exitLanes
    split
    · exact h.releaseNow
    split
    · exact h.releaseNow
    · exact h.releaseNow
    · exact h.releaseNow
    next t e =>
      have ht : HomeWf t := OkWf.of_eq e h.releaseNow.leaveBy
      exact ht.closeSections.exitLanes
  · exact h

protected theorem HomeWf.ordBeginBody {a : RCode} {x : Ctx} {s : State} (h : HomeWf s) : Res.HomeWf (ordBeginBody a x s) := by
  unfold ordBeginBody
  split
  · split
    · exact h
    split
    · exact h
    split
    · exact h
    split
    · exact h
    extract_lets ready
    generalize ready = lanes
    refine Res.HomeWf.ite ?_ ?_
    · exact HomeWf.congr (s := s) h rfl rfl
    · exact h.transfer fun _ hs => hs.modCrew
  · exact h

protected theorem HomeWf.execOrdEnd {x : Pfx} {s : State} (h : HomeWf s) : NextWf (execOrdEnd x s) := by
  unfold execOrdEnd
  refine HomeWf.issue h fun c s hs => ?_
  split
  · split
    · exact hs
    split
    next e => exact HomeWf.snd_of_eq e hs.releaseNow
    next e =>
      have ht := HomeWf.snd_of_eq e hs.releaseNow
      exact ht.closeSections
  · exact hs

protected theorem HomeWf.yieldBody {x : Ctx} {s : State} (h : HomeWf s) : Res.HomeWf (yieldBody x s) := by
  unfold yieldBody
  split
  · split
    · exact h
    · exact h.transfer fun _ hs => hs
  · exact h

protected theorem HomeWf.execNop {s : State} (h : HomeWf s) : NextWf (execNop s) :=
  HomeWf.issue h fun _ _ hs => hs

protected theorem HomeWf.releaseEach : ∀ {ps : List Part} {s : State}, HomeWf s → HomeWf (releaseEach ps s).2
  | [], _, h => h
  | p :: ps, s, h => by
    unfold releaseEach
    split
    · exact HomeWf.releaseEach h
    split
    next e => exact HomeWf.releaseEach (HomeWf.snd_of_eq e h.releaseNow)
    next e => exact HomeWf.snd_of_eq e h.releaseNow

protected theorem HomeWf.barSeen {s : State} {x : Ctx} {block : Nat} (h : HomeWf s) : HomeWf (barSeen s x block).2 :=
  h.modBlock

protected theorem HomeWf.barBody {x : Ctx} {s : State} (h : HomeWf s) : Res.HomeWf (barBody x s) := by
  unfold barBody
  split
  next e => exact HomeWf.snd_of_eq e h.releaseEach
  next e =>
    have ht := HomeWf.snd_of_eq e h.releaseEach
    split
    · exact ht.waitOn
    dsimp only
    exact HomeWf.foldl ht.barSeen fun _ _ hs => hs.modCrew

protected theorem HomeWf.execJoin {x : Pfx} {n k : BitVec 3} {s : State} (h : HomeWf s) : NextWf (execJoin x n k s) := by
  unfold execJoin
  refine HomeWf.issue h fun c s hs => ?_
  split
  · split
    · exact hs
    split
    · exact hs
    split
    · exact hs
    split
    · exact hs
    · exact hs.setBlock
  · exact hs

protected theorem HomeWf.execLeave {x : Pfx} {k : BitVec 3} {s : State} (h : HomeWf s) : NextWf (execLeave x k s) := by
  unfold execLeave
  refine HomeWf.issue h fun c s hs => ?_
  split
  · split
    · exact hs
    split
    · split
      · exact hs.leaveSet
      · exact hs
    · exact hs
  · exact hs

protected theorem HomeWf.execFrontQuantumExpire {s : State} (h : HomeWf s) : NextWf (execFrontQuantumExpire s) := by
  unfold execFrontQuantumExpire
  split
  · exact h.noEvent
  split
  · exact h.noEvent
  dsimp only
  split
  next e => exact OkWf.of_eq e h.setCrew.rotateDemoted
  · exact h.rotateTrap

protected theorem HomeWf.execRendezvousDeadlock {s : State} (h : HomeWf s) : NextWf (execRendezvousDeadlock s) := by
  unfold execRendezvousDeadlock
  split
  · exact h.noEvent
  dsimp only
  split
  · exact h.noEvent
  split
  · exact h.noEvent
  split
  next e =>
    have ht := HomeWf.snd_of_eq e h.fetchInstr
    exact ht.trapAll
  next e => exact HomeWf.snd_of_eq e h.fetchInstr

protected theorem HomeWf.execIllegalInstruction {word lit : Word} {len : Nat} {why : Why} {s : State} (h : HomeWf s) :
    NextWf (execIllegalInstruction word lit len why s) := by
  unfold execIllegalInstruction
  split
  · exact trivial
  split
  · exact trivial
  split
  · exact trivial
  · exact HomeWf.trapAll h

/-! ### Control registers (Machine/CtlRegs) -/

protected theorem HomeWf.writeCtl {s : State} {c : Crew} {r : CtlReg} {v : Word} (h : HomeWf s) : HomeWf (writeCtl s c r v) := by
  unfold writeCtl
  split
  · exact h.modBlock
  · exact h
  · exact h
  · exact h
  · exact h
  · exact h.modCore

/-! ### System instructions (Machine/System) -/

protected theorem HomeWf.execSysTrap {x : Pfx} {n : BitVec 6} {s : State} (h : HomeWf s) : NextWf (execSysTrap x n s) := by
  unfold execSysTrap
  refine HomeWf.issue h fun c s hs => ?_
  split <;> exact hs

protected theorem HomeWf.trapNext {x : Ctx} {p : Part} {code : Nat} {s : State} (h : HomeWf s) : HomeWf (trapNext x p code s) := by
  unfold trapNext
  split
  next e =>
    have ht := HomeWf.snd_of_eq e h.trapReady
    exact ht.enterTrap
  next e =>
    have ht := HomeWf.snd_of_eq e h.trapReady
    exact ht.holdCrew

protected theorem HomeWf.execSysSysc {x : Pfx} {n : BitVec 6} {s : State} (h : HomeWf s) : NextWf (execSysSysc x n s) := by
  unfold execSysSysc
  refine HomeWf.issue h fun c s hs => ?_
  split
  · exact hs
  · exact hs.trapNext

protected theorem HomeWf.rttGo {s : State} {c : Crew} {f : Frame} (h : HomeWf s) : HomeWf (rttGo s c f) := by
  unfold rttGo
  dsimp only
  split
  next e => exact OkWf.of_eq e (HomeWf.refill (.ite (.ite h.setCrew h.setCrew.closeSections) (.exitLanes (.ite h.setCrew h.setCrew.closeSections))))
  split
  · exact .rotateTrap (.ite (.ite h.setCrew h.setCrew.closeSections) (.exitLanes (.ite h.setCrew h.setCrew.closeSections)))
  · exact .ite (.ite h.setCrew h.setCrew.closeSections) (.exitLanes (.ite h.setCrew h.setCrew.closeSections))

protected theorem HomeWf.rttBody {x : Ctx} {s : State} (h : HomeWf s) : Res.HomeWf (rttBody x s) := by
  unfold rttBody
  split
  · exact h
  next c _ =>
  generalize (!(flightsOf s c.id).isEmpty || _) = waits
  refine Res.HomeWf.ite h ?_
  have hp := h.pagesReady (who := .wait c.id) (core := c.core) (pasid := pasidOf s c) (priv := true)
    (ps := [(frameVa s c, .read), (frameVa s c + 4095, .read)])
  dsimp only
  split
  next e => exact HomeWf.snd_of_eq e hp
  next e =>
  have ht := HomeWf.snd_of_eq e hp
  split
  · exact ht.endTask
  · exact ht
  next e' =>
  have hu := ht.peekVa e'
  generalize frameOf _ = f
  refine Res.HomeWf.ite hu.emitLoc.endTask (Res.HomeWf.ite hu ?_)
  generalize sectMask c = lanes
  split
  next e'' =>
    split
    · exact hu.rttGo
    · exact HomeWf.snd_of_eq e'' hu.releaseNow
  next e'' => exact .rttGo (.ite hu (HomeWf.snd_of_eq e'' hu.releaseNow))

protected theorem HomeWf.execSysSusp {x : Pfx} {a : RCode} {s : State} (h : HomeWf s) : NextWf (execSysSusp x a s) := by
  unfold execSysSusp
  refine HomeWf.issue h fun c s hs => ?_
  split
  · exact hs
  split
  · exact hs
  split
  · exact hs
  split
  · exact hs
  dsimp only
  split <;> exact hs.modCrew

protected theorem HomeWf.execSysResm {x : Pfx} {a : RCode} {s : State} (h : HomeWf s) : NextWf (execSysResm x a s) := by
  unfold execSysResm
  refine HomeWf.issue h fun c s hs => ?_
  split
  · exact hs
  split
  · exact hs
  split
  · exact hs
  · exact HomeWf.ite hs hs.modCrew

protected theorem HomeWf.execSysRdcv {x : Pfx} {d a : RCode} {s : State} (h : HomeWf s) : NextWf (execSysRdcv x d a s) := by
  unfold execSysRdcv
  refine HomeWf.issue h fun c s hs => ?_
  split
  · exact hs
  split
  · exact hs
  dsimp only
  split
  · exact hs
  split
  · exact hs
  split
  · exact hs
  · exact hs.modCrew

protected theorem HomeWf.wrcvLanes {c : Crew} {ra rd : Reg} : ∀ {ls : List Nat} {s : State}, HomeWf s → HomeWf (wrcvLanes c ra rd s ls)
  | [], _, h => h
  | l :: ls, s, h => by
    unfold wrcvLanes
    refine HomeWf.wrcvLanes ?_
    split
    · exact h
    split
    · exact .ite h.setCrew h
    · exact h

protected theorem HomeWf.execSysWrcv {x : Pfx} {d a : RCode} {s : State} (h : HomeWf s) : NextWf (execSysWrcv x d a s) := by
  unfold execSysWrcv
  refine HomeWf.issue h fun c s hs => ?_
  split
  · exact hs
  split
  · dsimp only
    split
    · exact hs
    split
    · exact hs
    split
    · exact hs
    · exact hs.wrcvLanes
  · exact hs

protected theorem HomeWf.execSysIcinv {x : Pfx} {d a : RCode} {s : State} (h : HomeWf s) : NextWf (execSysIcinv x d a s) := by
  unfold execSysIcinv
  refine HomeWf.issue h fun c s hs => ?_
  split
  · exact hs
  split
  · split
    · exact HomeWf.modCrew hs
    · exact hs
  split
  · exact hs
  split
  next e =>
    have ht := HomeWf.snd_of_eq e hs.releaseNow
    exact ht
  next e =>
    have ht := HomeWf.snd_of_eq e hs.releaseNow
    exact ht

protected theorem HomeWf.execSysTlbinv {x : Pfx} {d a : RCode} {s : State} (h : HomeWf s) : NextWf (execSysTlbinv x d a s) := by
  unfold execSysTlbinv
  refine HomeWf.issue h fun c s hs => ?_
  split
  · exact hs
  split
  · split
    · exact HomeWf.modCrew hs
    · exact hs
  split
  · exact hs
  split <;> exact hs

protected theorem HomeWf.execSysHalt {x : Pfx} {s : State} (h : HomeWf s) : NextWf (execSysHalt x s) := by
  refine HomeWf.issue h fun u s hs => ?_
  split
  · exact hs
  dsimp only
  split
  next e => exact HomeWf.snd_of_eq e hs.pagesReady
  next e =>
  have ht := HomeWf.snd_of_eq e hs.pagesReady
  split
  next e' => exact (ht.peekVa e').endTask
  · exact ht.endTask
  · exact ht

protected theorem HomeWf.execIcinvAck {ic core : Nat} {s : State} (h : HomeWf s) : NextWf (execIcinvAck ic core s) := by
  unfold execIcinvAck
  split
  · exact h.noEvent
  split
  · exact h.noEvent
  · exact h

/-! ### Matrix instructions (Machine/Matrix) -/

protected theorem HomeWf.putShape {s : State} {core task slot : Nat} {bs : List Byte} (h : HomeWf s) : HomeWf (putShape s core task slot bs) :=
  h.modCore

protected theorem HomeWf.dropShape {s : State} {core task slot : Nat} (h : HomeWf s) : HomeWf (dropShape s core task slot) :=
  h.modCore

protected theorem HomeWf.readLine {s : State} {c : Crew} {act : Mask} {k : Clock} {va n : Nat} {logged : Bool} (h : HomeWf s) :
    ReadOut.HomeWf (readLine s c act k va n logged) := by
  unfold readLine
  dsimp only
  split
  next e => exact HomeWf.snd_of_eq e h.xlateFor
  next e =>
    have ht := HomeWf.snd_of_eq e h.xlateFor
    exact ht.forget
  next e =>
    have ht := HomeWf.snd_of_eq e h.xlateFor
    split
    · exact ht.forget
    · exact ht.forget.pageFault
  next e =>
    have ht := HomeWf.snd_of_eq e h.xlateFor
    split
    · split
      · split
        · exact ht
        · exact ht
      split
      · exact ht
      split
      · exact ht.emitRetry
      split
      · exact ht.modCrew
      split
      · exact ht.askHost
      · exact HomeWf.mesiRead (.ite ht.sliceAccess.modCrew ht)
    split
    · split
      · exact ht
      · exact ht
    split
    · exact ht
    split
    · exact ht.emitRetry
    split
    · exact ht.modCrew
    split
    · exact ht.askHost
    · exact HomeWf.mesiRead (.ite ht.sliceAccess.modCrew ht)

protected theorem HomeWf.getShape {s : State} {c : Crew} {act : Mask} {k : Clock} {hx : Word} {fresh : Bool} (h : HomeWf s) :
    ShapeOut.HomeWf (getShape s c act k hx fresh) := by
  unfold getShape
  split
  · exact h
  dsimp only
  split
  · exact h
  split
  · split
    · exact h
    split
    · exact h.putShape
    · exact h
  split
  next r e =>
    have hr : Res.HomeWf r := e.subst (motive := ReadOut.HomeWf) h.readLine
    exact hr
  next u e =>
    have hu : HomeWf u := e.subst (motive := ReadOut.HomeWf) h.readLine
    split
    · exact h
    split
    · exact hu.putShape
    · exact h

protected theorem HomeWf.modQueue {s : State} {core q : Nat} {f : Queue → Queue} (h : HomeWf s) : HomeWf (modQueue s core q f) :=
  h.modCore

protected theorem HomeWf.emitMatrix {s : State} {c : Crew} {major n : Nat} {pc : Word} (h : HomeWf s) : HomeWf (emitMatrix s c major n pc) := by
  unfold emitMatrix
  split
  · exact .ite h.emitAt h
  · exact h

protected theorem HomeWf.asView {s : State} {b : Block} {crews : List Nat} (h : HomeWf s) : HomeWf (asView s b crews).2 :=
  h

protected theorem HomeWf.mmaRun {s : State} {x : Ctx} {mmas : Bool} {blk : Block} {r : ShapeRec} {d a : RCode} {b : Src} {va : Nat} (h : HomeWf s) :
    HomeWf (mmaRun s x mmas blk r d a b va) := by
  unfold mmaRun
  split
  next e =>
    have ht := HomeWf.snd_of_eq e h.asView
    dsimp only
    exact .modCore (.ite (.modQueue (.foldl ht fun _ _ hs => hs.modCrew)) (.foldl ht fun _ _ hs => hs.modCrew))

protected theorem HomeWf.mmaBody {mmas : Bool} {d a : RCode} {b : Src} {x : Ctx} {s : State} (h : HomeWf s) :
    Res.HomeWf (mmaBody mmas d a b x s) := by
  unfold mmaBody
  split
  · exact h
  split
  · exact h
  split
  · exact h
  · exact h
  split
  next r e =>
    have hr : Res.HomeWf r := e.subst (motive := ShapeOut.HomeWf) h.getShape
    exact hr
  next r t e =>
    have ht : HomeWf t := e.subst (motive := ShapeOut.HomeWf) h.getShape
    split
    · exact h
    split
    · exact h
    dsimp only
    split
    · split
      · exact ht.modCore
      · exact ht.modCore.mmaRun.emitMatrix
    split
    · exact ht.modCore
    · exact ht.modCore.mmaRun.emitMatrix

protected theorem HomeWf.mclrBody {d : RCode} {f : Fmt} {x : Ctx} {s : State} (h : HomeWf s) : Res.HomeWf (mclrBody d f x s) :=
  HomeWf.foldl h fun _ _ hs => hs.modCrew

protected theorem HomeWf.mqntBody {d a : RCode} {b : Src} {x : Ctx} {s : State} (h : HomeWf s) : Res.HomeWf (mqntBody d a b x s) := by
  unfold mqntBody
  split
  · exact h
  split
  · exact h
  split
  · exact h
  · exact h
  split
  next r e =>
    have hr : Res.HomeWf r := e.subst (motive := ShapeOut.HomeWf) h.getShape
    exact hr
  next r t e =>
    have ht : HomeWf t := e.subst (motive := ShapeOut.HomeWf) h.getShape
    dsimp only
    split
    · exact h
    split
    · exact h
    split
    · exact h
    split
    · exact h
    · exact ht.setBlock

protected theorem HomeWf.msclBody {a : RCode} {b : Src} {x : Ctx} {s : State} (h : HomeWf s) : Res.HomeWf (msclBody a b x s) := by
  unfold msclBody
  split
  · exact h
  split
  · split
    · exact h
    split
    · exact h
    split
    · exact h
    split
    · exact h
    · exact h.modBlock
  · exact h

protected theorem HomeWf.mhndBody {b : Src} {x : Ctx} {s : State} (h : HomeWf s) : Res.HomeWf (mhndBody b x s) := by
  unfold mhndBody
  split
  · exact h
  split
  · exact h
  next r _ =>
    split
    · exact h
    split
    · exact h
    dsimp only
    split
    next e => exact e.subst (motive := ShapeOut.HomeWf) h.getShape
    next u e =>
      have hu : HomeWf u := e.subst (motive := ShapeOut.HomeWf) h.getShape
      exact hu.dropShape
    next t e =>
      have ht : HomeWf t := e.subst (motive := ShapeOut.HomeWf) h.getShape
      exact ht.dropShape
    next q _ _ e =>
      have hq : Res.HomeWf q := e.subst (motive := ShapeOut.HomeWf) h.getShape
      exact hq

protected theorem HomeWf.execMatrixOccupancyEnd {s : State} (h : HomeWf s) : NextWf (execMatrixOccupancyEnd s) := by
  unfold execMatrixOccupancyEnd
  split
  · exact h.noEvent
  split
  · exact h.noEvent
  dsimp only
  split
  · exact h.modCore.modCrew
  · exact h.modCore

/-! ### Islands (Machine/Islands) -/

protected theorem HomeWf.modIsle {s : State} {die code : Nat} {f : Isle → Isle} (h : HomeWf s) : HomeWf (modIsle s die code f) :=
  h

protected theorem HomeWf.send {s : State} {die code due : Nat} {k : ItemKind} (h : HomeWf s) : HomeWf (send s die code due k) :=
  .modIsle h

protected theorem HomeWf.isleRec {s : State} {die code ev refusal : Nat} {title : BitVec 64} (h : HomeWf s) :
    HomeWf (isleRec s die code ev refusal title) :=
  h.emitDie

protected theorem HomeWf.switchIsle {s : State} {die code : Nat} (h : HomeWf s) : HomeWf (switchIsle s die code) := by
  unfold switchIsle
  split
  · exact h
  · exact .isleRec (.modIsle (.ite h.modDie h))

protected theorem HomeWf.fireEffect {s : State} {i : Isle} {im : Image} {c : CellSt} {k lat : Nat} {res : Word} {err : Bool} {acq : Clock}
    (h : HomeWf s) : HomeWf (fireEffect s i im c k lat res err acq) := by
  unfold fireEffect
  dsimp only
  refine .foldl h.modIsle fun s a hs => ?_
  split
  · exact hs.send
  · exact hs

protected theorem HomeWf.execCellFire {die isl cell : Nat} {s : State} (h : HomeWf s) : NextWf (execCellFire die isl cell s) := by
  unfold execCellFire
  split
  · exact h.noEvent
  split
  · dsimp only
    split
    · exact h.noEvent
    split
    · exact h.noEvent
    split
    · exact HomeWf.modIsle h
    · exact h.fireEffect
  · exact h.noEvent

protected theorem HomeWf.streamAccess {s : State} {i : Isle} {core qn : Nat} {b : CellBusy} {ridx : Nat} {a : Word} (h : HomeWf s) :
    CellAcc.HomeWf (streamAccess s i core qn b ridx a) := by
  unfold streamAccess
  dsimp only
  split
  · exact h
  split
  · exact h
  split
  next e => exact HomeWf.snd_of_eq e h.xlateFor
  next e => exact HomeWf.snd_of_eq e h.xlateFor
  next e =>
    have ht := HomeWf.snd_of_eq e h.xlateFor
    exact ht.forget
  next e =>
    have ht := HomeWf.snd_of_eq e h.xlateFor
    split
    · exact ht.forget
    · exact ht

protected theorem HomeWf.cellAccess {s : State} {i : Isle} {b : CellBusy} {t : Option Token} {ridx : Nat} {a : Word} (h : HomeWf s) :
    CellAcc.HomeWf (cellAccess s i b t ridx a) := by
  unfold cellAccess
  split
  · exact h
  · exact h.streamAccess

protected theorem HomeWf.isleLine {s : State} {die core qn pk : Nat} {write : Bool} (h : HomeWf s) : HomeWf (isleLine s die core qn pk write).2 := by
  unfold isleLine
  split
  · exact h.emitRetry
  split
  · exact h
  split
  · exact h
  · exact h.askHost

protected theorem HomeWf.nodeAt {s : State} {pk : Nat} (h : HomeWf s) : HomeWf (nodeAt s pk).2 := by
  unfold nodeAt
  dsimp only
  split
  · exact h
  · exact h.sliceAccess.mesiRead

protected theorem HomeWf.readNode {s : State} {i : Isle} {im : Image} {c : CellSt} {b : CellBusy} {lead t : Token} {pasid va pk : Nat} {word : List
    Byte → Word} (h : HomeWf s) : NextWf (readNode s i im c b lead t pasid va pk word) := by
  unfold readNode
  split
  next e =>
    have hu := HomeWf.snd_of_eq e h.isleLine
    exact hu
  next e =>
    have hu := HomeWf.snd_of_eq e h.isleLine
    split
    · exact hu.noEvent
    split
    next e' =>
      have hv := HomeWf.snd_of_eq e' hu.nodeAt
      exact hv.fireEffect
    next e' =>
      have hv := HomeWf.snd_of_eq e' hu.nodeAt
      exact hv.fireEffect

protected theorem HomeWf.execIslandFetchReturn {die isl n : Nat} {s : State} (h : HomeWf s) : NextWf (execIslandFetchReturn die isl n s) := by
  unfold execIslandFetchReturn
  split
  · exact h.noEvent
  dsimp only
  split
  next e => exact e.subst (motive := CellAcc.HomeWf) h.cellAccess
  next e => exact e.subst (motive := CellAcc.HomeWf) h.cellAccess
  next t e =>
    have ht : HomeWf t := e.subst (motive := CellAcc.HomeWf) h.cellAccess
    exact ht.fireEffect
  next t e =>
    have ht : HomeWf t := e.subst (motive := CellAcc.HomeWf) h.cellAccess
    split
    · split
      · exact ht.fireEffect
      · exact ht.readNode
    · exact ht.readNode

protected theorem HomeWf.isleStore {s : State} {pk : Nat} {k : Clock} {v : Word} (h : HomeWf s) : HomeWf (isleStore s pk k v) :=
  h.sliceAccess.homeWrite

protected theorem HomeWf.execIslandStoreDone {die isl n : Nat} {s : State} (h : HomeWf s) : NextWf (execIslandStoreDone die isl n s) := by
  unfold execIslandStoreDone
  split
  · exact h.noEvent
  dsimp only
  split
  next t e =>
    have ht : HomeWf t := e.subst (motive := CellAcc.HomeWf) h.cellAccess
    exact ht
  next t e =>
    have ht : HomeWf t := e.subst (motive := CellAcc.HomeWf) h.cellAccess
    exact ht
  next t e =>
    have ht : HomeWf t := e.subst (motive := CellAcc.HomeWf) h.cellAccess
    exact ht.fireEffect
  next t e =>
    have ht : HomeWf t := e.subst (motive := CellAcc.HomeWf) h.cellAccess
    split
    next e' =>
      have hu := HomeWf.snd_of_eq e' ht.isleLine
      exact hu
    next e' =>
      have hu := HomeWf.snd_of_eq e' ht.isleLine
      split
      · exact hu.noEvent
      · exact hu.isleStore.fireEffect

protected theorem HomeWf.execTokenDeliver {die isl n : Nat} {s : State} (h : HomeWf s) : NextWf (execTokenDeliver die isl n s) := by
  unfold execTokenDeliver
  split
  · exact h.noEvent
  split
  · exact h.noEvent
  dsimp only
  split
  · exact h.modIsle
  · exact h.modIsle
  · exact h.noEvent

protected theorem HomeWf.execDemandCreditArrive {die isl n : Nat} {s : State} (h : HomeWf s) : NextWf (execDemandCreditArrive die isl n s) := by
  unfold execDemandCreditArrive
  split
  · exact h.noEvent
  split
  · exact h.noEvent
  split
  · exact h.modIsle
  · exact h.noEvent

protected theorem HomeWf.execTokenRequestArrive {die isl n : Nat} {s : State} (h : HomeWf s) : NextWf (execTokenRequestArrive die isl n s) := by
  unfold execTokenRequestArrive
  split
  · exact h.noEvent
  split
  · exact h.noEvent
  dsimp only
  split
  · exact h.modIsle
  · exact h.modIsle
  · exact h.noEvent

protected theorem HomeWf.portSend {im : Image} {s : State} {i : Isle} {p : InPort} (h : HomeWf s) : HomeWf (portSend im s i p) := by
  unfold portSend
  split
  · exact .ite h h.send.modIsle
  · exact h

protected theorem HomeWf.requestQueue {im : Image} {s : State} {i : Isle} {c : CellSt} {q : Nat} (h : HomeWf s) :
    HomeWf (requestQueue im s i c q) := by
  unfold requestQueue
  split
  · exact h
  dsimp only
  refine .foldl h.modIsle fun s a hs => ?_
  split <;> exact hs.send

protected theorem HomeWf.freeWords {s : State} {n : Nat} (h : HomeWf s) : HomeWf (freeWords s n).2 :=
  h

protected theorem HomeWf.drawAccesses {s : State} {kind : Nat} (h : HomeWf s) : HomeWf (drawAccesses s kind).2 := by
  unfold drawAccesses
  split
  · split
    next e =>
      have ht := HomeWf.snd_of_eq e h.freeWords
      split
      · exact ht
      dsimp only
      exact ht.freeWords

protected theorem HomeWf.standardStart {s : State} {i : Isle} (h : HomeWf s) : HomeWf (standardStart s i) := by
  unfold standardStart
  dsimp only
  split
  · exact h
  · exact .ite h (.modIsle h.drawAccesses)

protected theorem HomeWf.standardDone {s : State} {i : Isle} {r : StdRound} {acq : Clock} (h : HomeWf s) : HomeWf (standardDone s i r acq) :=
  .modIsle h

protected theorem HomeWf.standardAccess {s : State} {i : Isle} {r : StdRound} {store : Bool} {ridx : Nat} {a v : Word} (h : HomeWf s) :
    HomeWf (standardAccess s i r store ridx a v) := by
  unfold standardAccess
  split
  · exact h
  split
  next t e =>
    have ht : HomeWf t := e.subst (motive := CellAcc.HomeWf) h.streamAccess
    exact ht
  next t e =>
    have ht : HomeWf t := e.subst (motive := CellAcc.HomeWf) h.streamAccess
    exact .modIsle ht
  next t e =>
    have ht : HomeWf t := e.subst (motive := CellAcc.HomeWf) h.streamAccess
    exact ht.standardDone
  next t e =>
    have ht : HomeWf t := e.subst (motive := CellAcc.HomeWf) h.streamAccess
    split
    next e' =>
      have hu := HomeWf.snd_of_eq e' ht.isleLine
      exact hu
    next e' =>
      have hu := HomeWf.snd_of_eq e' ht.isleLine
      exact .ite hu (.ite hu.isleStore.standardDone hu.nodeAt.standardDone)

protected theorem HomeWf.standardOut {s : State} {i : Isle} {r : StdRound} {port : Nat} (h : HomeWf s) : SomeWf (standardOut s i r port) := by
  unfold standardOut
  split
  next e =>
    have ht := HomeWf.snd_of_eq e h.freeWords
    dsimp only
    split
    · split
      · exact ht.setDie.modIsle
      · exact trivial
    · exact ht.modIsle

protected theorem HomeWf.standardEnd {s : State} {i : Isle} {r : StdRound} (h : HomeWf s) : HomeWf (standardEnd s i r) := by
  unfold standardEnd
  dsimp only
  split
  next t e =>
    have ht : SomeWf (some t) := by
      rw [← e]
      refine foldl_keeps h fun o p ho => ?_
      cases o with
      | none => exact trivial
      | some u => exact HomeWf.standardOut ho
    exact HomeWf.modIsle ht
  · exact h

protected theorem HomeWf.standardCycle {s : State} {i : Isle} (h : HomeWf s) : HomeWf (standardCycle s i) := by
  unfold standardCycle
  split
  · exact h
  split
  · exact h.standardStart
  split
  · exact h.standardEnd
  · exact h.standardAccess

protected theorem HomeWf.islandNext {s : State} {die isl : Nat} (h : HomeWf s) : HomeWf (islandNext s die isl) := by
  unfold islandNext
  split
  · exact h
  split
  · exact h.standardCycle.modIsle
  · exact .ite h (.modIsle (.foldl (.foldl h fun _ _ hs => hs.portSend) fun _ _ hs => .ite (.foldl hs fun _ _ hs1 => hs1.requestQueue) hs))

/-! ### Queues (Machine/Queues) -/

protected theorem HomeWf.addDemand {s : State} {core n k : Nat} (h : HomeWf s) : HomeWf (addDemand s core n k) := by
  unfold addDemand
  dsimp only
  split
  · exact h.modQueue
  split
  · exact h.modQueue
  split
  · exact h.modQueue.modIsle
  split
  · exact h.modQueue.send
  · exact h.modQueue

protected theorem HomeWf.pushBody {n : Nat} {a : RCode} {x : Ctx} {s : State} (h : HomeWf s) : Res.HomeWf (pushBody n a x s) := by
  unfold pushBody
  split
  · exact h
  dsimp only
  split
  · exact h
  split
  · exact h
  split
  · exact h
  · exact h.modQueue

protected theorem HomeWf.popBody {n k : Nat} {d : RCode} {x : Ctx} {s : State} (h : HomeWf s) : Res.HomeWf (popBody n k d x s) := by
  unfold popBody
  split
  · exact h
  dsimp only
  split
  · exact h
  split
  · exact HomeWf.ite h.addDemand h
  · exact h.modQueue.modCrew

protected theorem HomeWf.demBody {n : Nat} {a : RCode} {x : Ctx} {s : State} (h : HomeWf s) : Res.HomeWf (demBody n a x s) := by
  unfold demBody
  split
  · exact h
  dsimp only
  split
  · exact h
  split
  · exact h
  split
  · exact h
  · exact h.addDemand

protected theorem HomeWf.statBody {n : Nat} {d : RCode} {x : Ctx} {s : State} (h : HomeWf s) : Res.HomeWf (statBody n d x s) := by
  unfold statBody
  split
  · exact h
  dsimp only
  split
  · exact h
  · exact HomeWf.foldl h.modQueue fun _ _ hs => .ite hs hs.modCrew

protected theorem HomeWf.execPushEntryToPort {core q : Nat} {s : State} (h : HomeWf s) : NextWf (execPushEntryToPort core q s) := by
  unfold execPushEntryToPort
  dsimp only
  split
  · split
    · split
      · exact h.noEvent
      · exact h.modQueue.modIsle
    · exact h.noEvent
  · exact h.noEvent

protected theorem HomeWf.execOutputVectorDeliver {die isl port : Nat} {s : State} (h : HomeWf s) :
    NextWf (execOutputVectorDeliver die isl port s) := by
  unfold execOutputVectorDeliver
  split
  · exact h.noEvent
  split
  · split
    · exact h.modQueue.modIsle
    · exact h.noEvent
  · exact h.noEvent

protected theorem HomeWf.modLoader {s : State} {die : Nat} {f : List LoadJob → List LoadJob} (h : HomeWf s) : HomeWf (modLoader s die f) :=
  h.modDie

protected theorem HomeWf.execIslandImageCheck {s : State} (h : HomeWf s) : NextWf (execIslandImageCheck s) := by
  unfold execIslandImageCheck
  dsimp only
  split
  · exact h.noEvent
  split
  · exact h.modLoader.isleRec
  split
  · exact HomeWf.ite h.modLoader.isleRec.modIsle.switchIsle h.modLoader.isleRec.modIsle
  · exact h.modLoader.isleRec.modIsle

protected theorem HomeWf.keepAsks {s t : State} (h : HomeWf s) : HomeWf (keepAsks s t) :=
  h

protected theorem HomeWf.readLines {c : Crew} {act : Mask} {k : Clock} :
    ∀ {ls : List (Nat × Nat)} {s : State}, HomeWf s → ReadOut.HomeWf (readLines c act k s ls)
  | [], _, h => h
  | (va, n) :: ls, s, h => by
    unfold readLines
    have hr : ReadOut.HomeWf (readLine s c act k va n true) := h.readLine
    split
    next e =>
      rw [e] at hr
      exact hr
    next t e =>
      rw [e] at hr
      have ht : HomeWf t := hr
      have hls := HomeWf.readLines (c := c) (act := act) (k := k) (ls := ls) ht
      split
      next e' =>
        rw [e'] at hls
        exact hls
      · exact HomeWf.keepAsks h
      next e' =>
        rw [e'] at hls
        exact hls

protected theorem HomeWf.dropJob {die crew : Nat} {s : State} (h : HomeWf s) : HomeWf (dropJob die crew s) :=
  h.modLoader

protected theorem HomeWf.readImage {c : Crew} {act : Mask} {k : Clock} {va : Nat} {s : State} (h : HomeWf s) :
    ReadOut.HomeWf (readImage c act k va s).1 := by
  have hhead : ReadOut.HomeWf (readLines c act k s (linePieces va 64)) := h.readLines
  unfold readImage
  split
  next e =>
    rw [e] at hhead
    exact hhead
  next t e =>
  rw [e] at hhead
  have ht : HomeWf t := hhead
  split
  · exact ht
  have htail {n : Nat} : ReadOut.HomeWf (readLines c act k t (linePieces (va + 64) n)) := ht.readLines
  split
  · exact h.keepAsks
  next e' => exact e'.subst (motive := ReadOut.HomeWf) htail
  next e' => exact e'.subst (motive := ReadOut.HomeWf) htail

protected theorem Res.HomeWf.stopJob {die crew : Nat} : ∀ {r : Res}, r.HomeWf → (stopJob die crew r).HomeWf
  | .trap _ s, h | .lanes _ s, h | .moved s, h => Machine.HomeWf.dropJob (s := s) h
  | .done _, h | .stall _, h | .hold _, h => h

protected theorem HomeWf.iswapBody {d a : RCode} {x : Ctx} {s : State} (h : HomeWf s) : Res.HomeWf (iswapBody d a x s) := by
  unfold iswapBody
  split
  · exact h
  next p c _ =>
  dsimp only
  split
  · exact h.dropJob.modCrew
  · exact h
  next va code _ _ =>
  split
  · exact h
  have hl {o : Bool} {g : List LoadJob → List LoadJob} : HomeWf (if o then s else modLoader s (dieOfCore c.core) g) := .ite h h.modLoader
  split
  next e => exact Res.HomeWf.stopJob ((congrArg Prod.fst e).subst (motive := ReadOut.HomeWf) hl.readImage)
  next t e =>
    have ht : HomeWf t := (congrArg Prod.fst e).subst (motive := ReadOut.HomeWf) hl.readImage
    exact ht.dropJob.modCrew
  next t e =>
    have ht : HomeWf t := (congrArg Prod.fst e).subst (motive := ReadOut.HomeWf) hl.readImage
    exact ht.modLoader

/-! ### Saving and restoring a block (Machine/Save) -/

protected theorem HomeWf.tableReady {s : State} {who : WalkFor} {core : Nat} {t : Task} (h : HomeWf s) : HomeWf (tableReady s who core t).2 := by
  unfold tableReady
  split
  next e => exact HomeWf.snd_of_eq e h.pagesReady
  next e =>
    have ht := HomeWf.snd_of_eq e h.pagesReady
    split
    · exact ht
    next e' => exact (ht.peekVa e').pagesReady

protected theorem HomeWf.releaseQueues {s : State} {core task : Nat} (h : HomeWf s) : HomeWf (releaseQueues s core task) :=
  .foldl h.modCore fun _ _ hs => .ite hs.switchIsle hs

protected theorem HomeWf.leaveCore {s : State} {core task : Nat} (h : HomeWf s) : HomeWf (leaveCore s core task) :=
  .dropShapes (.ite h h.releaseQueues)

protected theorem HomeWf.restoreCrew {s : State} {b : Block} {core slot : Nat} {c : Crew} {bs : List Byte} (h : HomeWf s) :
    HomeWf (restoreCrew s b core slot c bs) := by
  unfold restoreCrew
  dsimp only
  split
  · exact h.setCrew
  · exact h.setCrew.putStack

protected theorem HomeWf.loadQueue {s : State} {core n : Nat} {hx : List Byte} (h : HomeWf s) : HomeWf (loadQueue s core n hx) :=
  h.modQueue

protected theorem HomeWf.loadCopy {s : State} {b : Block} {core n : Nat} {bs : List Byte} (h : HomeWf s) : HomeWf (loadCopy s b core n bs) := by
  unfold loadCopy
  dsimp only
  split
  · exact h
  · exact .ite h h

protected theorem HomeWf.loadBlock {s : State} {b : Block} {slots : List Nat} {bs : List Byte} (h : HomeWf s) : HomeWf (loadBlock s b slots bs) := by
  unfold loadBlock
  dsimp only
  exact .foldl (.foldl (.modBlock (.foldl h fun _ _ hs => .ite hs hs.restoreCrew)) fun _ _ hs => .ite hs.loadQueue hs) fun _ _ hs => hs.loadCopy

/-! ### Scheduling (Machine/Sched) -/

protected theorem HomeWf.linkTasks {s : State} {die : Nat} {nos : List Nat} (h : HomeWf s) : HomeWf (linkTasks s die nos) := by
  unfold linkTasks
  refine .foldl h fun s a hs => ?_
  split
  · split
    next e =>
      have hu := HomeWf.snd_of_eq e hs.freeWords
      exact hu.poke
  · exact hs

protected theorem HomeWf.enqueue {s : State} {die no : Nat} (h : HomeWf s) : HomeWf (enqueue s die no) := by
  unfold enqueue
  split
  · exact h
  · exact .ite h.endTask (.ite h.endTask h.linkTasks)

protected theorem HomeWf.unqueue {s : State} {die : Nat} {t : Task} (h : HomeWf s) : HomeWf (unqueue s die t) :=
  .poke h

protected theorem HomeWf.putPreds {s : State} {die tcb pred st : Nat} (h : HomeWf s) : HomeWf (putPreds s die tcb pred st) :=
  h.poke

protected theorem HomeWf.accept_ {s : State} {bs : List Byte} {tcb core : Nat} {acq : Clock} (h : HomeWf s) : HomeWf (accept_ s bs tcb core acq) :=
  .ite (.endTask h.pokeVia.pokeVia) (.ite (.endTask h.pokeVia.pokeVia) (.ite (.enqueue (.startRegion h.pokeVia.pokeVia)) (.startRegion
      h.pokeVia.pokeVia)))

protected theorem HomeWf.submit {s : State} {tcb core : Nat} {acq : Clock} (h : HomeWf s) : Submitted.HomeWf (submit s tcb core acq) := by
  unfold submit
  dsimp only
  split
  · exact h.askHost.retryOwn
  split
  · exact h
  · exact h.accept_

protected theorem HomeWf.setBusy {s : State} {die n : Nat} (h : HomeWf s) : HomeWf (setBusy s die n) :=
  h.modDie

protected theorem HomeWf.runPush {s : State} {die : Nat} {p : Nat × Nat} (h : HomeWf s) : HomeWf (runPush s die p) := by
  unfold runPush
  split
  · exact h.setBusy
  split
  next t e =>
    have ht : HomeWf t := e.subst (motive := Submitted.HomeWf) h.submit
    exact ht.setBusy
  next e => exact e.subst (motive := Submitted.HomeWf) h.submit
  next t e =>
    have ht : HomeWf t := e.subst (motive := Submitted.HomeWf) h.submit
    exact ht.modDie

protected theorem HomeWf.runPushes {s : State} (h : HomeWf s) : HomeWf (runPushes s) :=
  .foldl h fun _ _ hs => .foldl hs.modDie fun _ _ hs1 => hs1.runPush

protected theorem HomeWf.execSqPush {die n : Nat} {v : BitVec 64} {s : State} (h : HomeWf s) : NextWf (execSqPush die n v s) := by
  unfold execSqPush
  split
  · exact h.noEvent
  · exact HomeWf.hostDoes h fun _ hs => hs.runPush

protected theorem HomeWf.execTaskKill {die : Nat} {v : BitVec 64} {s : State} (h : HomeWf s) : NextWf (execTaskKill die v s) := by
  unfold execTaskKill
  split
  · exact h.noEvent
  refine HomeWf.hostDoes h fun s hs => ?_
  split
  · exact hs.endTask
  · exact hs

protected theorem HomeWf.spawnResult {x : Ctx} {d : RCode} {v : Word} {s : State} (h : HomeWf s) : HomeWf (spawnResult x d v s) :=
  .foldl h fun _ _ hs => .ite hs hs.modCrew

protected theorem HomeWf.spawnAt {x : Ctx} {d : RCode} {p : Part} {c : Crew} {va : Nat} {s : State} (h : HomeWf s) :
    Res.HomeWf (spawnAt x d p c va s) := by
  unfold spawnAt
  split
  next e => exact HomeWf.snd_of_eq e h.releaseNow
  next e =>
    have ht := HomeWf.snd_of_eq e h.releaseNow
    split
    next e' => exact HomeWf.snd_of_eq e' ht.xlateFor
    next e' =>
      have hu := HomeWf.snd_of_eq e' ht.xlateFor
      exact hu.forget
    next e' =>
      have hu := HomeWf.snd_of_eq e' ht.xlateFor
      split
      · exact hu.forget
      · exact hu.forget.pageFault
    next e' =>
      have hu := HomeWf.snd_of_eq e' ht.xlateFor
      split
      · exact hu
      split
      · exact hu.retryCrew
      split
      · exact hu
      dsimp only
      split
      next e'' => exact e''.subst (motive := Submitted.HomeWf) hu.writeBack.submit
      next v e'' =>
        have hv : HomeWf v := e''.subst (motive := Submitted.HomeWf) hu.writeBack.submit
        exact hv.spawnResult
      next v e'' =>
        have hv : HomeWf v := e''.subst (motive := Submitted.HomeWf) hu.writeBack.submit
        exact hv.spawnResult

protected theorem HomeWf.execSpawn {x : Pfx} {d a : RCode} {s : State} (h : HomeWf s) : NextWf (execSpawn x d a s) := by
  unfold execSpawn
  refine HomeWf.issue h fun c s hs => ?_
  split
  · exact hs
  split
  · exact hs
  · exact hs.spawnAt

protected theorem HomeWf.decrement {s : State} {die tcb : Nat} (h : HomeWf s) : HomeWf (decrement s die tcb) := by
  unfold decrement
  split
  · exact h
  dsimp only
  split
  · exact .emitDie h
  split
  · split
    · exact .enqueue (.modTask (.putPreds h))
    · exact .putPreds h
  · exact .poke h

protected theorem HomeWf.settleCores {s : State} {cores : List Nat} (h : HomeWf s) : HomeWf (settleCores s cores).2 := by
  refine foldl_keeps (P := fun r : Bool × State => HomeWf r.2) h fun r c hr => ?_
  dsimp only
  split
  · exact HomeWf.writeBackAll hr
  · exact HomeWf.foldl hr fun _ _ hs => hs.wbAsk

protected theorem HomeWf.dropTask {s : State} {t : Task} (h : HomeWf s) : HomeWf (dropTask s t) :=
  .foldl h fun _ _ hs => hs.leaveCore

protected theorem HomeWf.retireTask {s : State} {t : Task} (h : HomeWf s) : HomeWf (retireTask s t) :=
  .foldl (.endRegion (.dropTask (.ite (.raiseVec h.poke.putPreds) h.poke.putPreds))) fun _ _ hs => hs.decrement

protected theorem HomeWf.execTaskRetire {s : State} (h : HomeWf s) : NextWf (execTaskRetire s) := by
  unfold execTaskRetire
  split
  · exact h.noEvent
  split
  · exact h.noEvent
  split
  · split
    next e =>
      have hu := HomeWf.snd_of_eq e h.settleCores
      exact hu.retireTask
    next e =>
      have hu := HomeWf.snd_of_eq e h.settleCores
      exact hu.noEvent
  · exact h.askHost.retryOwn.noEvent

/-! ### Placement (Machine/Place) -/

protected theorem HomeWf.bindQueues {s : State} {core : Nat} {t : Task} (h : HomeWf s) : HomeWf (bindQueues s core t) := by
  unfold bindQueues
  refine .foldl h fun s a hs => ?_
  split
  · exact .ite hs hs.modQueue.modIsle

protected theorem HomeWf.unreserve {s : State} {key : Nat} (h : HomeWf s) : HomeWf (unreserve s key) :=
  h

protected theorem HomeWf.emitPlace {s : State} {core : Nat} {t : Task} {slots : List Nat} {crews kind index : Nat} (h : HomeWf s) :
    HomeWf (emitPlace s core t slots crews kind index) :=
  h.emitTask

protected theorem HomeWf.emitFrame {s : State} {die : Nat} {t : Task} (h : HomeWf s) : HomeWf (emitFrame s die t) :=
  .ite (.ite h.modDie h.modDie.emitDie) h

protected theorem HomeWf.countTurn {s : State} {die c n : Nat} (h : HomeWf s) : HomeWf (countTurn s die c n) :=
  h.modDie

protected theorem HomeWf.powerBlock {s : State} {core : Nat} {slots : List Nat} {regsN : Nat} (h : HomeWf s) :
    HomeWf (powerBlock s core slots regsN) :=
  .foldl h fun _ _ hs => hs.powerRows

protected theorem HomeWf.placeNext {s : State} {core n : Nat} {t : Task} (h : HomeWf s) : HomeWf (placeNext s core n t) := by
  unfold placeNext
  dsimp only
  exact .emitPlace (.countTurn (.unreserve (.ite (.modTask (.powerBlock (.bindQueues (.ite h.emitFrame.putPreds h.emitFrame)))) (.unqueue (.modTask
      (.powerBlock (.bindQueues (.ite h.emitFrame.putPreds h.emitFrame))))))))

protected theorem HomeWf.spreadEntries {s : State} {c : Crew} (h : HomeWf s) : HomeWf (spreadEntries s c) := by
  unfold spreadEntries
  dsimp only
  split
  · exact h.modCrew
  split
  · split
    · exact h.modCrew.endTask
    · exact h.modCrew
  split
  · exact h.modCrew.putStack
  · exact h.modCrew

protected theorem HomeWf.placeBlock {s : State} {core : Nat} {t : Task} {b : Block} (h : HomeWf s) : HomeWf (placeBlock s core t b) :=
  .emitPlace (.ite (.foldl (.modTask (.unreserve (.powerBlock (.ite (.modBlock h) (.bindQueues (.modBlock h)))))) fun _ _ hs => hs.spreadEntries)
      (.modTask (.unreserve (.powerBlock (.ite (.modBlock h) (.bindQueues (.modBlock h)))))))

protected theorem HomeWf.askPage {s : State} {die block pasid va : Nat} {copy : Option Nat} (h : HomeWf s) :
    HomeWf (askPage s die block pasid va copy) :=
  h

protected theorem HomeWf.devRetry {s : State} {who : WalkFor} {core line : Nat} (h : HomeWf s) : HomeWf (devRetry s who core line) :=
  h.emitRetry

protected theorem HomeWf.devRead {s : State} {who : WalkFor} {core pasid va n : Nat} (h : HomeWf s) :
    DevRead.HomeWf (devRead s who core pasid va n) := by
  unfold devRead
  split
  next e => exact HomeWf.snd_of_eq e h.xlateFor
  next e =>
    have ht := HomeWf.snd_of_eq e h.xlateFor
    exact ht.forget
  next e =>
    have ht := HomeWf.snd_of_eq e h.xlateFor
    split <;> exact ht.forget
  next e =>
    have ht := HomeWf.snd_of_eq e h.xlateFor
    dsimp only
    split
    · exact ht
    split
    · exact ht.devRetry
    split
    · exact ht
    split
    · exact ht.askHost
    · exact ht.mesiRead

protected theorem HomeWf.readBinding {s : State} {die : Nat} {t : Task} (h : HomeWf s) : Bound.HomeWf (readBinding s die t) := by
  unfold readBinding
  split
  · exact h
  split
  · exact h.endTask
  split
  · exact h
  split
  next e => exact e.subst (motive := DevRead.HomeWf) h.devRead
  next u e =>
    have hu : HomeWf u := e.subst (motive := DevRead.HomeWf) h.devRead
    exact hu.endTask
  next u e =>
    have hu : HomeWf u := e.subst (motive := DevRead.HomeWf) h.devRead
    exact hu.askPage.modTask
  next u e =>
    have hu : HomeWf u := e.subst (motive := DevRead.HomeWf) h.devRead
    exact hu.modTask

protected theorem HomeWf.reserveCore {s : State} {core key : Nat} (h : HomeWf s) : HomeWf (reserveCore s core key) :=
  h.modCore

protected theorem HomeWf.preempt {s : State} {die : Nat} {x : Need} (h : HomeWf s) : SomeWf (preempt s die x) := by
  unfold preempt
  dsimp only
  split
  · exact trivial
  split
  · exact h
  cases bestVictims s die x with
  | none => exact trivial
  | some v => exact h.reserveCore.foldl fun _ _ hs => hs.modBlock

protected theorem HomeWf.tryHeads {die : Nat} : ∀ {hs : List (Nat × Task)} {s : State}, HomeWf s → HomeWf (tryHeads die hs s).2.2
  | [], _, h => h
  | (n, t) :: hs, s, h => by
    unfold tryHeads
    split
    · exact HomeWf.tryHeads h.askHost.retryOwn
    have hb : Bound.HomeWf (readBinding s die t) := h.readBinding
    split
    next e =>
      rw [e] at hb
      exact HomeWf.tryHeads hb
    next u e =>
      rw [e] at hb
      split
      · exact hb
      · exact HomeWf.tryHeads (s := u) hb

protected theorem HomeWf.countWaits {s : State} {d : Die} {c : Nat} (h : HomeWf s) : HomeWf (countWaits s d c) :=
  .foldl h fun _ _ hs => hs.modTask

protected theorem HomeWf.decideClass {s : State} {die c : Nat} (h : HomeWf s) : HomeWf (decideClass s die c).2 := by
  unfold decideClass
  split
  · exact h
  dsimp only
  split
  · exact h.countWaits.placeBlock
  split
  · split
    · exact h.countWaits.tryHeads.placeNext
    · exact h.countWaits.tryHeads
  · refine SomeWf.getD ?_ h.countWaits.tryHeads
    exact SomeWf.findSome? fun _ => h.countWaits.tryHeads.preempt

protected theorem HomeWf.decide_ {die : Nat} : ∀ {cs : List Nat} {s : State}, HomeWf s → HomeWf (decide_ die cs s).2
  | [], _, h => h
  | c :: cs, s, h => by
    unfold decide_
    split
    next e => exact HomeWf.snd_of_eq e h.decideClass
    next e => exact HomeWf.decide_ (HomeWf.snd_of_eq e h.decideClass)

protected theorem HomeWf.execPlacementDecision {s : State} (h : HomeWf s) : NextWf (execPlacementDecision s) := by
  unfold execPlacementDecision
  dsimp only
  split
  · exact h.runPushes.noEvent
  · exact h.runPushes.decide_

protected theorem HomeWf.execStarvationReservation {die queue : Nat} {s : State} (h : HomeWf s) : NextWf (execStarvationReservation die queue s) := by
  unfold execStarvationReservation
  split
  · exact h.noEvent
  split
  · exact h.noEvent
  dsimp only
  split
  · exact h.noEvent
  split
  · exact h.reserveCore
  · exact h.noEvent

protected theorem HomeWf.runBlock {s : State} {id : Nat} (h : HomeWf s) : HomeWf (runBlock s id) :=
  .foldl h.modBlock fun _ _ hs => hs.endCrew

protected theorem HomeWf.loadRecs {s : State} {id n : Nat} {bs : List Byte} (h : HomeWf s) : HomeWf (loadRecs s id n bs) :=
  h

protected theorem HomeWf.startFresh {s : State} {t : Task} {b : Block} (h : HomeWf s) : HomeWf (startFresh s t b) := by
  unfold startFresh
  split
  · exact h.runBlock
  split
  next e => exact e.subst (motive := DevRead.HomeWf) h.devRead
  next u e =>
    have hu : HomeWf u := e.subst (motive := DevRead.HomeWf) h.devRead
    exact hu.endTask
  next u e =>
    have hu : HomeWf u := e.subst (motive := DevRead.HomeWf) h.devRead
    exact .ite hu.endTask hu.askPage.modBlock
  next u e =>
    have hu : HomeWf u := e.subst (motive := DevRead.HomeWf) h.devRead
    exact hu.loadRecs.runBlock

protected theorem HomeWf.wakeBlock {s : State} {t : Task} {b : Block} (h : HomeWf s) : HomeWf (wakeBlock s t b) := by
  unfold wakeBlock
  split
  · split
    next e => exact (HomeWf.snd_of_eq e h.pagesReady).congr rfl rfl
    next u e =>
    have hu := HomeWf.snd_of_eq e h.pagesReady
    split
    · exact hu.endTask
    next bs v e' =>
    have hv := hu.peekVa e'
    dsimp only
    split
    · exact hv.endTask
    split
    · exact hv.endTask
    split
    · exact hv
    have hw {l : List Crew} {slots : List Nat} {g : Block → Block} {f : State → Crew → State} (hf : ∀ s c, HomeWf s → HomeWf (f s c)) :
        HomeWf (l.foldl f (modBlock (loadBlock v b slots bs) b.id g)) := hv.loadBlock.modBlock.foldl hf
    split
    · exact .ite (.startFresh (hw fun _ _ hs => hs.powerRows)) (.runBlock (hw fun _ _ hs => hs.powerRows))
    · exact hw fun _ _ hs => hs.powerRows
  · exact .ite h (.ite h.startFresh h.runBlock)

protected theorem HomeWf.execBlockWakeDone {s : State} (h : HomeWf s) : NextWf (execBlockWakeDone s) := by
  unfold execBlockWakeDone
  split
  · exact h.noEvent
  split
  · exact h.wakeBlock
  · exact h.noEvent

protected theorem HomeWf.rotateStop {s : State} {c : Crew} (h : HomeWf s) : HomeWf (rotateStop s c) := by
  unfold rotateStop
  split
  · exact h
  split
  · exact h
  · exact .ite (.rotateTrap h) h.exchangeRec

protected theorem HomeWf.requeue {s : State} {id : Nat} (h : HomeWf s) : HomeWf (requeue s id) := by
  unfold requeue
  split
  · exact h
  split <;> exact h

protected theorem HomeWf.emitLeave {s : State} {b : Block} {kind : Nat} (h : HomeWf s) : HomeWf (emitLeave s b kind) :=
  h.emitTask

protected theorem HomeWf.leaveSaved {s : State} {b : Block} {swap quiet : Bool} {qs : List (Nat × Nat)} (h : HomeWf s) :
    HomeWf (leaveSaved s b swap quiet qs) :=
  .ite (.leaveCore (.emitLeave (.modBlock (.foldl h fun _ _ hs => hs.dropRejects)))) (.requeue (.leaveCore (.emitLeave (.modBlock (.foldl h fun _ _
      hs => hs.dropRejects)))))

protected theorem HomeWf.saveBlock {s : State} {b : Block} {swap : Bool} (h : HomeWf s) : HomeWf (saveBlock s b swap) := by
  unfold saveBlock
  split
  · exact h
  have hp : HomeWf (if swap then endPins s b.id else s) := .ite h.endPins h
  dsimp only
  split
  · exact hp.endTask
  next e => exact (hp.of_pokeVa e).leaveSaved

protected theorem HomeWf.finishSave {s : State} {b : Block} {swap : Bool} (h : HomeWf s) : HomeWf (finishSave s b swap) := by
  unfold finishSave
  split
  · exact h
  split
  · exact h
  next t _ =>
  split
  next e => exact (HomeWf.snd_of_eq e h.pagesReady).congr rfl rfl
  next u e =>
  have hu := HomeWf.snd_of_eq e h.pagesReady
  have hr : HomeWf (if swap then (true, u) else tableReady u (.block b.id) b.core t).2 := by
    split
    · exact hu
    · exact hu.tableReady
  split
  next e' => exact (HomeWf.snd_of_eq e' hr).congr rfl rfl
  next e' =>
  have hv := HomeWf.snd_of_eq e' hr
  split
  next e'' => exact (HomeWf.snd_of_eq e'' hv.settleCores).congr rfl rfl
  next e'' => exact (HomeWf.snd_of_eq e'' hv.settleCores).saveBlock

protected theorem HomeWf.execBlockSaveComplete {s : State} (h : HomeWf s) : NextWf (execBlockSaveComplete s) := by
  unfold execBlockSaveComplete
  split
  · exact h.noEvent
  dsimp only
  split
  · exact h.finishSave
  · split
    · exact h.noEvent
    split
    · exact h.noEvent
    split
    · exact h.finishSave
    · exact HomeWf.foldl h fun _ _ hs => hs.rotateStop
  · exact h.noEvent

protected theorem HomeWf.execPreemptSlowStop {s : State} (h : HomeWf s) : NextWf (execPreemptSlowStop s) := by
  unfold execPreemptSlowStop
  split
  · split
    · exact h.emitTask
    · exact h.noEvent
  · exact h.noEvent

protected theorem HomeWf.retireBlock {s : State} {b : Block} (h : HomeWf s) : HomeWf (retireBlock s b) :=
  .leaveCore (.emitLeave (.ite h.endPins.modBlock h.endPins.modBlock.modCore))

protected theorem HomeWf.execAllocationScrub {s : State} (h : HomeWf s) : NextWf (execAllocationScrub s) := by
  unfold execAllocationScrub
  split
  · split
    · exact h.noEvent
    · exact h.modCore
  · exact h.noEvent

protected theorem HomeWf.execRegisterGroupGate {core group : Nat} {s : State} (h : HomeWf s) : NextWf (execRegisterGroupGate core group s) := by
  unfold execRegisterGroupGate
  split
  · split
    · exact h.modCore
    · exact h.noEvent
  · exact h.noEvent

/-! ### Reordering (Machine/Reorder) -/

protected theorem HomeWf.openRec {s : State} {r : LaneRec} (h : HomeWf s) : HomeWf (openRec s r).2 := by
  unfold openRec
  split
  next e => exact HomeWf.snd_of_eq e h.freeWords

protected theorem HomeWf.fetchRec {s : State} {d : Die} {r : LaneRec} (h : HomeWf s) : HomeWf (fetchRec s d r).2 := by
  unfold fetchRec
  dsimp only
  split
  · exact h
  · exact h.openRec

protected theorem HomeWf.fetchRecs {d : Die} : ∀ {rs : List LaneRec} {s : State}, HomeWf s → HomeWf (fetchRecs d rs s).2
  | [], _, h => h
  | _ :: rs, _, h => HomeWf.fetchRecs (rs := rs) h.fetchRec

protected theorem HomeWf.formCrew {s : State} {d : Die} {t : Task} {k : Nat} {rs : List LaneRec} (h : HomeWf s) : HomeWf (formCrew s d t k rs) := by
  unfold formCrew
  dsimp only
  exact h.fetchRecs

protected theorem HomeWf.formOne {s : State} {die : Nat} (h : HomeWf s) : HomeWf (formOne s die).2 := by
  unfold formOne
  split
  · exact h
  split
  · exact h.formCrew
  · exact h.askHost.retryOwn

protected theorem HomeWf.formAll {die : Nat} : ∀ {n : Nat} {s : State}, HomeWf s → HomeWf (formAll die n s)
  | 0, _, h => h
  | n + 1, s, h => by
    unfold formAll
    split
    next e => exact HomeWf.formAll (HomeWf.snd_of_eq e h.formOne)
    next e => exact HomeWf.snd_of_eq e h.formOne

protected theorem HomeWf.formDue {s : State} {die : Nat} (h : HomeWf s) : HomeWf (formDue s die) := by
  unfold formDue
  split
  · exact h.formAll
  · exact h

protected theorem HomeWf.writeLaneRec {s : State} {d : Die} {place : Nat} (h : HomeWf s) : HomeWf (writeLaneRec s d place).2 := by
  unfold writeLaneRec
  split
  next e =>
    have ht := HomeWf.snd_of_eq e h.freeWords
    exact ht.poke

protected theorem HomeWf.binLanes {c : Crew} {e : Entry} {kr : Reg} {first n : Nat} {next : Word} {t : Task} {die : Nat} :
    ∀ {ls : List Nat} {s : State}, HomeWf s → HomeWf (binLanes c e kr first n next t die ls s).2
  | [], _, h => h
  | l :: ls, s, h => by
    unfold binLanes
    split
    · exact h
    split
    · exact h
    · exact HomeWf.binLanes (ls := ls) (.formDue (h.writeLaneRec.congr rfl rfl))

protected theorem HomeWf.reordGo {x : Ctx} {p : Part} {t : Task} {kr : Reg} {first n : Nat} {s : State} (h : HomeWf s) :
    Res.HomeWf (reordGo x p t kr first n s) := by
  unfold reordGo
  split
  · exact h
  split
  · exact h
  split
  next e =>
    have hu := HomeWf.snd_of_eq e h.binLanes
    split
    · exact h
    split
    · split
      · exact h
      · exact h
      · exact h
      next v e' =>
        have hv : HomeWf v := OkWf.of_eq e' hu.leaveBy
        exact hv.exitLanes
    · exact hu.modCrew.exitLanes

protected theorem HomeWf.reordBody {n : Nat} {k d : RCode} {x : Ctx} {s : State} (h : HomeWf s) : Res.HomeWf (reordBody n k d x s) := by
  unfold reordBody
  split
  · split
    · split
      · exact h
      split
      · exact h
      split
      · exact h
      split
      · exact h
      split
      next e => exact HomeWf.snd_of_eq e h.checkTarget
      next e =>
        have hu := HomeWf.snd_of_eq e h.checkTarget
        exact hu.forget
      next e =>
        have hu := HomeWf.snd_of_eq e h.checkTarget
        split
        · exact hu.forget
        · exact hu.forget.pageFault
      next e =>
        have hu := HomeWf.snd_of_eq e h.checkTarget
        split
        · exact hu
        split
        next e' => exact HomeWf.snd_of_eq e' hu.releaseNow
        next e' =>
          have hv := HomeWf.snd_of_eq e' hu.releaseNow
          exact hv.reordGo
    · exact h
  · exact h

protected theorem HomeWf.markAged {s : State} {die : Nat} {p : LaneRec → Bool} (h : HomeWf s) : HomeWf (markAged s die p) :=
  h.modDie

protected theorem HomeWf.execEnckeAgeFlush {die key : Nat} {s : State} (h : HomeWf s) : NextWf (execEnckeAgeFlush die key s) := by
  unfold execEnckeAgeFlush
  split
  · exact h.noEvent
  split
  · split
    · exact h.formDue
    · exact h.noEvent
  · exact h.markAged.formDue

protected theorem HomeWf.execEnckeFinalFlush {die task : Nat} {s : State} (h : HomeWf s) : NextWf (execEnckeFinalFlush die task s) := by
  unfold execEnckeFinalFlush
  split
  · split
    · exact h.markAged.formDue
    · exact h.noEvent
  · exact h.noEvent

protected theorem HomeWf.execBlockRetire {s : State} (h : HomeWf s) : NextWf (execBlockRetire s) := by
  unfold execBlockRetire
  split
  · exact h.noEvent
  dsimp only
  split
  · exact h.noEvent
  split
  · split
    · exact h.noEvent
    · exact h.modBlock
  split
  · exact h.retireBlock.formDue.formDue
  · exact HomeWf.noEvent (.foldl h fun _ _ hs => hs.wbAsk)

/-! ### The tables of the loader (Machine/Table) -/

protected theorem HomeWf.rewriteTable {s : State} {vector : Bool} (h : HomeWf s) : HomeWf (rewriteTable s vector) :=
  h

protected theorem HomeWf.tell {s : State} {m : HostMsg} (h : HomeWf s) : HomeWf (tell s m) :=
  .ite h h

protected theorem HomeWf.tellVec {s : State} {v : Nat} (h : HomeWf s) : HomeWf (tellVec s v) :=
  .ite h.raiseVec h

protected theorem HomeWf.announce {s : State} (h : HomeWf s) : HomeWf (announce s) :=
  .ite h.rewriteTable h

protected theorem HomeWf.stepRewrite {s : State} (h : HomeWf s) : HomeWf (stepRewrite s) := by
  unfold stepRewrite
  dsimp only
  split
  · exact h
  · exact h
  · exact h
  · exact .ite (.tellVec h) h

protected theorem HomeWf.degrade {s : State} {kind index cause : Nat} (h : HomeWf s) : HomeWf (degrade s kind index cause) :=
  .announce h

protected theorem HomeWf.refreshStatus {s : State} (h : HomeWf s) : HomeWf (refreshStatus s) :=
  .ite h h

/-! ### The link between the dies (Machine/Link) -/

protected theorem HomeWf.restartWalk {v : Shootdown} {s : State} {w : Walk} (h : HomeWf s) : HomeWf (restartWalk v s w) :=
  .ite h (.ite h h)

protected theorem HomeWf.dropRange {s : State} {v : Shootdown} {die : Nat} (h : HomeWf s) : HomeWf (dropRange s v die) :=
  .foldl h fun _ _ hs => hs.restartWalk

protected theorem HomeWf.endShootdowns {s : State} (h : HomeWf s) : HomeWf (endShootdowns s) :=
  .foldl h fun _ _ hs => hs.tell

protected theorem HomeWf.execShootdownAck {sd die : Nat} {s : State} (h : HomeWf s) : NextWf (execShootdownAck sd die s) := by
  unfold execShootdownAck
  split
  · exact h.noEvent
  split
  · exact h.noEvent
  split
  next e =>
    have ht := HomeWf.snd_of_eq e h.settleCores
    exact ht.noEvent
  next e =>
    have ht := HomeWf.snd_of_eq e h.settleCores
    exact HomeWf.endShootdowns ht.dropRange

protected theorem HomeWf.dropDie {s : State} {die : Nat} (h : HomeWf s) : HomeWf (dropDie s die) :=
  h

protected theorem HomeWf.fenceDie {s : State} {die cause : Nat} (h : HomeWf s) : HomeWf (fenceDie s die cause) :=
  .degrade (.endShootdowns (.foldl (.dropDie (.foldl h.modDie fun _ _ hs => hs.endTask)) fun _ _ hs => hs.endTask))

protected theorem HomeWf.execDieFence {die : Nat} {s : State} (h : HomeWf s) : NextWf (execDieFence die s) := by
  unfold execDieFence
  split
  · exact h.fenceDie
  · exact h.noEvent

protected theorem HomeWf.emitLink {s : State} {ev : Nat} (h : HomeWf s) : HomeWf (emitLink s ev) :=
  h.emitDie

protected theorem HomeWf.retrain {s : State} (h : HomeWf s) : HomeWf (retrain s) :=
  .emitLink h

protected theorem HomeWf.applyRemote {s : State} {die : Nat} (h : HomeWf s) : HomeWf (applyRemote s die) := by
  unfold applyRemote
  split
  · exact h
  · exact h.modDie

protected theorem HomeWf.execFlitReceive {die : Nat} {crcOk : Bool} {s : State} (h : HomeWf s) : NextWf (execFlitReceive die crcOk s) := by
  unfold execFlitReceive
  split
  · exact h.noEvent
  split
  · exact HomeWf.applyRemote h
  dsimp only
  split
  · exact h.retrain
  · exact h

protected theorem HomeWf.execLaneLockLoss {s : State} (h : HomeWf s) : NextWf (execLaneLockLoss s) := by
  unfold execLaneLockLoss
  split
  · exact h.noEvent
  · exact h.retrain

protected theorem HomeWf.execLinkRetrainEnd {passed : Bool} {s : State} (h : HomeWf s) : NextWf (execLinkRetrainEnd passed s) := by
  unfold execLinkRetrainEnd
  split
  · exact h.noEvent
  split
  · exact HomeWf.sendRequests (.runPushes (.emitLink h))
  split
  · exact HomeWf.ite (.announce (.emitLink h)) (.fenceDie (.emitLink h))
  · exact HomeWf.degrade h

protected theorem HomeWf.emitEcc {s : State} {die src k unit ctl : Nat} (h : HomeWf s) : HomeWf (emitEcc s die src k unit ctl) := by
  unfold emitEcc
  split
  · exact h
  · exact h.emitDie.modDie

protected theorem HomeWf.execEccError {die addr : Nat} {fixable : Bool} {s : State} (h : HomeWf s) : NextWf (execEccError die addr fixable s) := by
  unfold execEccError
  split
  · exact h.noEvent
  split
  · exact h.emitEcc
  split
  · exact h.noEvent
  · exact h

protected theorem HomeWf.execBurstCrcFailure {die ctl : Nat} {s : State} (h : HomeWf s) : NextWf (execBurstCrcFailure die ctl s) := by
  unfold execBurstCrcFailure
  split
  · exact h.noEvent
  split
  · exact h.noEvent
  · exact h.emitEcc

/-! ### Stack-cache pins (Machine/Pins) -/

protected theorem HomeWf.execScPin {die n : Nat} {v : BitVec 64} {s : State} (h : HomeWf s) : NextWf (execScPin die n v s) := by
  unfold execScPin
  split
  · exact h.noEvent
  split
  · exact h.noEvent
  · exact HomeWf.hostDoes h fun _ hs => .ite hs.setDie.setDie hs.setDie

protected theorem HomeWf.execPinInstallDone {die n : Nat} {s : State} (h : HomeWf s) : NextWf (execPinInstallDone die n s) := by
  unfold execPinInstallDone
  split
  · exact h.noEvent
  split
  · exact h.setDie
  · exact h.noEvent

protected theorem HomeWf.execScPartWrite {die off : Nat} {v : BitVec 64} {s : State} (h : HomeWf s) : NextWf (execScPartWrite die off v s) := by
  unfold execScPartWrite
  split
  · exact h.noEvent
  split
  · exact HomeWf.hostDoes h fun _ hs => hs.setDie
  split
  · exact HomeWf.hostDoes h fun _ hs => hs.setDie
  split
  · exact HomeWf.hostDoes h fun _ hs => hs.setDie
  · exact h.noEvent

protected theorem HomeWf.rewriteFaults {s : State} {b : Block} {c : Crew} (h : HomeWf s) : HomeWf (rewriteFaults s b c) := by
  unfold rewriteFaults
  split
  · exact h
  dsimp only
  split
  next e => exact SomeWf.of_eq e h.pokeVa
  · exact h.endTask

protected theorem HomeWf.payOwed {s : State} {id : Nat} (h : HomeWf s) : HomeWf (payOwed s id) := by
  unfold payOwed
  split
  · exact h
  refine .foldl h fun s a hs => ?_
  split
  · dsimp only
    split
    next e => exact HomeWf.snd_of_eq e hs.pagesReady
    next e =>
      have hu := HomeWf.snd_of_eq e hs.pagesReady
      exact hu.rewriteFaults.modBlock
  · exact hs

protected theorem HomeWf.deliver {s : State} {r : PageReq} {fail : Bool} (h : HomeWf s) : HomeWf (deliver s r fail) := by
  unfold deliver
  dsimp only
  split
  · exact .ite h h
  split
  · exact .ite h.modBlock h
  split
  · exact .ite h.modCrew.modBlock h.modCrew
  · exact h.modCrew

protected theorem HomeWf.reenter {s : State} {id : Nat} (h : HomeWf s) : HomeWf (reenter s id) := by
  unfold reenter
  split
  · exact .ite h.requeue h
  · exact h

protected theorem HomeWf.payAll {s : State} (h : HomeWf s) : HomeWf (payAll s) :=
  .foldl h fun _ _ hs => .ite hs hs.payOwed.reenter

protected theorem HomeWf.answer {s : State} {r : PageReq} {fail : Bool} (h : HomeWf s) : HomeWf (answer s r fail) :=
  .reenter (.payOwed (.deliver h))

protected theorem HomeWf.execLineRetry {flight line : Nat} {s : State} (h : HomeWf s) : NextWf (execLineRetry flight line s) := by
  unfold execLineRetry
  split
  · split
    · exact h.retryLogs.payAll.noEvent
    · exact HomeWf.foldl h fun _ _ hs => hs.retryOwn
  split
  · exact h.noEvent
  split
  · exact h.emitRetry
  · exact h.noEvent

protected theorem HomeWf.execMcPfqResp {die : Nat} {v : Word} {s : State} (h : HomeWf s) : NextWf (execMcPfqResp die v s) := by
  unfold execMcPfqResp
  split
  · exact h.noEvent
  refine HomeWf.hostDoes h fun s hs => ?_
  dsimp only
  split
  · exact hs.modDie.answer
  · exact hs.modDie

protected theorem HomeWf.execMcPfqTail {die : Nat} {v : Word} {s : State} (h : HomeWf s) : NextWf (execMcPfqTail die v s) := by
  unfold execMcPfqTail
  split
  · exact h.noEvent
  · exact HomeWf.hostDoes h fun _ hs => hs.modDie

protected theorem HomeWf.execAtsTranslationCompletion {req : Nat} {ans : AtsAnswer} {s : State} (h : HomeWf s) :
    NextWf (execAtsTranslationCompletion req ans s) := by
  unfold execAtsTranslationCompletion
  split
  · exact h.noEvent
  · exact HomeWf.hostDoes h fun _ hs => .ite hs hs

protected theorem HomeWf.execPageGroupResponse {req : Nat} {code : PriCode} {s : State} (h : HomeWf s) :
    NextWf (execPageGroupResponse req code s) := by
  unfold execPageGroupResponse
  split
  · exact h.noEvent
  refine HomeWf.hostDoes h fun s hs => ?_
  split
  · exact .answer hs
  · exact hs.answer
  · exact .foldl hs fun _ _ hs => hs.answer

protected theorem HomeWf.execPriEnable {s : State} (h : HomeWf s) : NextWf (execPriEnable s) :=
  HomeWf.hostDoes h fun _ hs => hs

protected theorem HomeWf.execAtsInvalidateRequest {pasid va pages : Nat} {s : State} (h : HomeWf s) :
    NextWf (execAtsInvalidateRequest pasid va pages s) := by
  unfold execAtsInvalidateRequest
  split
  · exact h.noEvent
  · exact HomeWf.hostDoes h fun _ hs => .endShootdowns hs

/-! ### The host's accesses (Machine/HostAcc) -/

protected theorem HomeWf.holdSectors {s : State} {secs : List Nat} {keep : Option HostHold} (h : HomeWf s) : HomeWf (holdSectors s secs keep) := by
  unfold holdSectors
  split <;> exact h

protected theorem HomeWf.execHostRead {addr len : Nat} {keep : Option HostHold} {s : State} (h : HomeWf s) :
    NextWf (execHostRead addr len keep s) := by
  unfold execHostRead
  dsimp only
  split
  · exact h.noEvent
  split
  · exact HomeWf.hostDoes h fun _ hs => hs.askHost
  · exact HomeWf.hostDoes h fun _ hs => .ite hs hs.syncLine.sliceAccess.holdSectors

protected theorem HomeWf.execHostWrite {addr : Nat} {data : List Byte} {keep : Option HostHold} {s : State} (h : HomeWf s) :
    NextWf (execHostWrite addr data keep s) := by
  unfold execHostWrite
  dsimp only
  split
  · exact h.noEvent
  split
  · exact HomeWf.hostDoes h fun _ hs => hs.askHost
  · exact HomeWf.hostDoes h fun _ hs => .ite hs (.ite (.mesiDrop hs.syncLine.sliceAccess.homeWrite) (.holdSectors hs.syncLine.sliceAccess.homeWrite))

protected theorem HomeWf.execHostSnoop {addr : Nat} {inv : Bool} {s : State} (h : HomeWf s) : NextWf (execHostSnoop addr inv s) := by
  unfold execHostSnoop
  dsimp only
  split
  · exact h.noEvent
  · exact HomeWf.hostDoes h fun _ hs => .ite hs.syncLine hs.syncLine.sliceAccess

protected theorem HomeWf.execBirsp {sector : Nat} {s : State} (h : HomeWf s) : NextWf (execBirsp sector s) := by
  unfold execBirsp
  split
  · exact HomeWf.hostDoes h fun _ hs => .runPushes hs
  · exact h.noEvent

protected theorem HomeWf.cfgWrite {s : State} {off v : Nat} (h : HomeWf s) : HomeWf (cfgWrite s off v) :=
  .ite h (.ite h h)

protected theorem HomeWf.standbyWrite {s : State} {off : Nat} {v : BitVec 64} (h : HomeWf s) : HomeWf (standbyWrite s off v) := by
  unfold standbyWrite
  split
  · exact h
  split
  · exact h
  split
  · exact h
  split
  · exact h.congr rfl rfl
  · exact h.cfgWrite

protected theorem HomeWf.hdmWrite {s : State} {off v : Nat} (h : HomeWf s) : HomeWf (hdmWrite s off v) := by
  unfold hdmWrite
  dsimp only
  exact h

protected theorem HomeWf.barWrite {s : State} {off : Nat} {v : BitVec 64} (h : HomeWf s) : HomeWf (barWrite s off v) := by
  unfold barWrite
  dsimp only
  split
  · exact h.modDie
  split
  · exact h.modDie
  split
  · exact h.setTrace
  split
  · exact h.modDie
  split
  · split
    · exact .ite h.modCore h
    · exact h
  · exact .ite h.hdmWrite h.standbyWrite

protected theorem HomeWf.execRegisterWrite {off : Nat} {v : BitVec 64} {s : State} (h : HomeWf s) : NextWf (execRegisterWrite off v s) := by
  unfold execRegisterWrite
  split
  · exact h.noEvent
  · exact HomeWf.ite h.standbyWrite h.barWrite

protected theorem HomeWf.execBootClear {v : Word} {s : State} (h : HomeWf s) : NextWf (execBootClear v s) := by
  unfold execBootClear
  split
  · exact h.noEvent
  · exact h

/-! ### Boot and reset (Machine/Boot) -/

/-- What a reset keeps of host memory is canonical, and so is what it leaves of the rest (R370). -/
theorem swf_memAfter {s : State} (h : HomeWf s) : swf (0 : Byte) (memAfter s) = true := by
  obtain ⟨hmem, _⟩ := (Bool.and_eq_true _ _).mp h
  exact swf_sputAll (swfFrom_filter _ hmem)

protected theorem HomeWf.resetNow {s : State} {cause : BitVec 3} (h : HomeWf s) : HomeWf (resetNow s cause) :=
  (Bool.and_eq_true _ _).mpr ⟨swf_memAfter h, rfl⟩

protected theorem HomeWf.putStep {s : State} {n : Nat} {w : Word} (h : HomeWf s) : HomeWf (putStep s n w) :=
  h

protected theorem HomeWf.runStep {s : State} {n last : Nat} {ok : Nat → Bool} {detail : Nat → Nat} (h : HomeWf s) :
    HomeWf (runStep s n last ok detail).2.2 := by
  unfold runStep
  split
  · exact h.putStep

protected theorem HomeWf.recover {s : State} {env : BootEnv} (h : HomeWf s) : HomeWf (recover s env) :=
  h

theorem Booted.HomeWf.state : ∀ {b : Booted}, b.HomeWf → Machine.HomeWf b.state
  | .goes _, h | .ends _, h => h

protected theorem HomeWf.bootRom {env : BootEnv} {s : State} (h : HomeWf s) : Booted.HomeWf (bootRom env s) := by
  unfold bootRom
  split
  next t e =>
    have ht : HomeWf t := HomeWf.snd_snd_of_eq e h.runStep
    split <;> exact ht

protected theorem HomeWf.bootFirmware {env : BootEnv} {s : State} (h : HomeWf s) : Booted.HomeWf (bootFirmware env s) := by
  unfold bootFirmware
  split
  next t e =>
    have ht : HomeWf t := HomeWf.snd_snd_of_eq e h.runStep
    split
    · exact ht
    · exact ht.recover

protected theorem HomeWf.bootMemory {s : State} {env : BootEnv} (h : HomeWf s) : HomeWf (bootMemory s env) := by
  unfold bootMemory
  split
  next t e =>
    have ht : HomeWf t := HomeWf.snd_snd_of_eq e h.runStep
    exact ht

protected theorem HomeWf.bootLink {s : State} {env : BootEnv} (h : HomeWf s) : HomeWf (bootLink s env) := by
  unfold bootLink
  split
  next t e =>
    have ht : HomeWf t := HomeWf.snd_snd_of_eq e h.runStep
    exact .ite ht (.ite ht ht)

protected theorem HomeWf.bootHost {s : State} {env : BootEnv} (h : HomeWf s) : HomeWf (bootHost s env) :=
  h

protected theorem HomeWf.bootPublish {s : State} {env : BootEnv} (h : HomeWf s) : HomeWf (bootPublish s env) := by
  unfold bootPublish
  split
  next t e =>
    have ht : HomeWf t := HomeWf.snd_snd_of_eq e h.runStep
    exact .ite ht.recover (.rewriteTable ht)

protected theorem HomeWf.alarmNow {s : State} {monitors : BitVec 4} (h : HomeWf s) : HomeWf (alarmNow s monitors).2 := by
  unfold alarmNow
  dsimp only
  split
  · exact HomeWf.tellVec (.refreshStatus h)
  · exact HomeWf.resetNow (.refreshStatus h)
  · exact HomeWf.resetNow (.refreshStatus h)

theorem Booted.HomeWf.bootStep {env : BootEnv} {b : Booted} {n : Nat} {f : State → Booted} (h : b.HomeWf)
    (hf : ∀ s, Machine.HomeWf s → (f s).HomeWf) : (bootStep env b n f).HomeWf := by
  unfold Machine.bootStep
  split
  · exact h
  dsimp only
  split
  · exact hf _ h
  split
  next e => exact hf _ (Machine.HomeWf.snd_of_eq e (Machine.HomeWf.alarmNow h))
  next e => exact Machine.HomeWf.snd_of_eq e (Machine.HomeWf.alarmNow h)

protected theorem HomeWf.bootAll {s : State} {env : BootEnv} (h : HomeWf s) : HomeWf (bootAll s env) := by
  refine Booted.HomeWf.state ?_
  refine Booted.HomeWf.bootStep ?_ fun _ hs => hs.bootPublish
  refine Booted.HomeWf.bootStep ?_ fun _ hs => hs.bootHost
  refine Booted.HomeWf.bootStep ?_ fun _ hs => hs.bootLink
  refine Booted.HomeWf.bootStep ?_ fun s hs => ?memory
  · refine Booted.HomeWf.bootStep ?_ fun _ hs => hs.bootFirmware
    exact Booted.HomeWf.bootStep (b := .goes s) h fun _ hs => hs.bootRom
  case memory =>
    dsimp only
    split
    · exact hs.bootMemory.recover
    · exact hs.bootMemory

protected theorem HomeWf.execPowerOnReset {env : BootEnv} {s : State} (h : HomeWf s) : NextWf (execPowerOnReset env s) := by
  unfold execPowerOnReset
  split
  · exact h.bootAll
  split
  · exact h.resetNow.bootAll
  · exact h.noEvent

protected theorem HomeWf.execStandbyPowerLoss {s : State} (h : HomeWf s) : NextWf (execStandbyPowerLoss s) :=
  h

protected theorem HomeWf.completeFw {s : State} {result : Nat} (h : HomeWf s) : HomeWf (completeFw s result) :=
  .tellVec h

protected theorem HomeWf.startFw {s : State} {cmd : Nat} (h : HomeWf s) : NextWf (startFw s cmd) := by
  unfold startFw
  split
  · exact h.noEvent
  split <;> exact h

protected theorem HomeWf.refuseFw {s : State} {cmd : Nat} (h : HomeWf s) : NextWf (refuseFw s cmd) := by
  unfold refuseFw
  split
  · exact h.noEvent
  split
  · exact h
  · exact HomeWf.completeFw h

protected theorem HomeWf.execFwErase {s : State} (h : HomeWf s) : NextWf (execFwErase s) :=
  h.startFw

protected theorem HomeWf.execFwProgram {s : State} (h : HomeWf s) : NextWf (execFwProgram s) := by
  unfold execFwProgram
  split
  · exact h.refuseFw
  · exact h.startFw

protected theorem HomeWf.execFwVerify {s : State} (h : HomeWf s) : NextWf (execFwVerify s) :=
  h.startFw

protected theorem HomeWf.execFwCommit {s : State} (h : HomeWf s) : NextWf (execFwCommit s) :=
  h.startFw

protected theorem HomeWf.execFwInvalidCommand {code : Nat} {s : State} (h : HomeWf s) : NextWf (execFwInvalidCommand code s) := by
  unfold execFwInvalidCommand
  split
  · exact h.refuseFw
  split
  · exact h.refuseFw
  · exact h.noEvent

protected theorem HomeWf.finishFw {s : State} {flashOk : Bool} (h : HomeWf s) : HomeWf (finishFw s flashOk) := by
  unfold finishFw
  dsimp only
  split
  · exact .completeFw h
  split
  · exact .completeFw h
  split
  · exact .completeFw h
  split
  · exact .completeFw h
  · exact h.completeFw

protected theorem HomeWf.execFwCommandComplete {flashOk : Bool} {s : State} (h : HomeWf s) : NextWf (execFwCommandComplete flashOk s) := by
  unfold execFwCommandComplete
  split
  · exact h.finishFw
  · exact h.noEvent

protected theorem HomeWf.respond {s : State} {r : SpdmResp} (h : HomeWf s) : NextWf (respond s r) := by
  unfold respond
  split
  · exact h.tell
  · exact h.noEvent

protected theorem HomeWf.execGetVersion {s : State} (h : HomeWf s) : NextWf (execGetVersion s) :=
  h.respond

protected theorem HomeWf.execGetCapabilities {s : State} (h : HomeWf s) : NextWf (execGetCapabilities s) :=
  h.respond

protected theorem HomeWf.execNegotiateAlgorithms {s : State} (h : HomeWf s) : NextWf (execNegotiateAlgorithms s) :=
  h.respond

protected theorem HomeWf.execGetDigests {s : State} (h : HomeWf s) : NextWf (execGetDigests s) :=
  h.respond

protected theorem HomeWf.execGetCertificate {slot off len : Nat} {s : State} (h : HomeWf s) : NextWf (execGetCertificate slot off len s) := by
  unfold execGetCertificate
  split <;> exact h.respond

protected theorem HomeWf.execChallenge {slot : Nat} {nonce : List Byte} {s : State} (h : HomeWf s) : NextWf (execChallenge slot nonce s) := by
  unfold execChallenge
  split <;> exact h.respond

protected theorem HomeWf.execGetMeasurements {index : Nat} {signed : Bool} {nonce : List Byte} {s : State} (h : HomeWf s) :
    NextWf (execGetMeasurements index signed nonce s) := by
  unfold execGetMeasurements
  split
  · exact h.respond
  split
  · exact h.respond
  split <;> exact h.respond

protected theorem HomeWf.execSecurityAlarm {monitors : BitVec 4} {s : State} (h : HomeWf s) : NextWf (execSecurityAlarm monitors s) := by
  unfold execSecurityAlarm
  split
  · exact h.noEvent
  · exact h.alarmNow

protected theorem HomeWf.execClockThrottle {lower : Bool} {s : State} (h : HomeWf s) : NextWf (execClockThrottle lower s) := by
  unfold execClockThrottle
  dsimp only
  split
  · split
    · exact h
    · exact h.noEvent
  split
  · exact h
  · exact h.noEvent

protected theorem HomeWf.execThermalTrip {s : State} (h : HomeWf s) : NextWf (execThermalTrip s) :=
  h.resetNow

/-! ### Debug and memory errors (Machine/Debug) -/

protected theorem HomeWf.brkBody {x : Ctx} {s : State} (h : HomeWf s) : Res.HomeWf (brkBody x s) := by
  unfold brkBody
  split <;> exact h

protected theorem HomeWf.execDbgTrace {x : Pfx} {n : BitVec 6} {a : RCode} {s : State} (h : HomeWf s) : NextWf (execDbgTrace x n a s) := by
  unfold execDbgTrace
  refine HomeWf.issue h fun c s hs => ?_
  split
  · exact hs
  split
  · exact hs
  · exact hs.emitLoc

protected theorem HomeWf.markBody {n : BitVec 6} {x : Ctx} {s : State} (h : HomeWf s) : Res.HomeWf (markBody n x s) := by
  unfold markBody
  split
  · exact h
  split
  · exact h
  split
  next e =>
    have ht := HomeWf.snd_of_eq e h.emitLoc.checkpoint
    split
    · split
      next e' => exact HomeWf.snd_of_eq e' h.trapReady
      · exact ht.trapNext
    · exact ht

protected theorem HomeWf.readTable {die pasid : Nat} : ∀ {ps : List (Nat × Nat)} {s : State}, HomeWf s → HomeWf (readTable die pasid ps s).2.2
  | [], _, h => h
  | (va, n) :: ps, s, h => by
    unfold readTable
    have hd : DevRead.HomeWf (devRead s .trace (isleUnit die) pasid va n) := h.devRead
    split
    next e => rw [e] at hd; exact hd
    next e => rw [e] at hd; exact hd
    next e => rw [e] at hd; exact hd
    next t e =>
      rw [e] at hd
      have hr := HomeWf.readTable (die := die) (pasid := pasid) (ps := ps) (s := t) hd
      split
      next e' => rw [e'] at hr; exact hr
      · exact hr

protected theorem HomeWf.findLoc {s : State} {die : Nat} {l : TraceLoc} (h : HomeWf s) : LocOut.HomeWf (findLoc s die l) := by
  unfold findLoc
  split
  next e => exact HomeWf.snd_snd_of_eq e h.readTable
  next t e =>
    have ht : HomeWf t := HomeWf.snd_snd_of_eq e h.readTable
    exact ht.forget
  next t e =>
    have ht : HomeWf t := HomeWf.snd_snd_of_eq e h.readTable
    split
    next e' => exact HomeWf.snd_snd_of_eq e' ht.readTable
    next u e' =>
      have hu : HomeWf u := HomeWf.snd_snd_of_eq e' ht.readTable
      exact hu.forget
    next u e' =>
      have hu : HomeWf u := HomeWf.snd_snd_of_eq e' ht.readTable
      exact hu.forget

protected theorem HomeWf.modTrace {s : State} {f : TraceBlk → TraceBlk} (h : HomeWf s) : HomeWf (modTrace s f) :=
  h.modDie

protected theorem HomeWf.writeRec {s : State} {t : TraceBlk} {size : Nat} {r : TraceRec} (h : HomeWf s) : HomeWf (writeRec s t size r) := by
  unfold writeRec
  split
  · exact .ite (.ite h (.dropRec h)) (.ite h.askHost (.ite (.raiseVec (.modTrace (.post h))) (.modTrace (.post h))))

protected theorem HomeWf.execTraceRecordWrite {s : State} (h : HomeWf s) : NextWf (execTraceRecordWrite s) := by
  unfold execTraceRecordWrite
  split
  next r _ _ =>
    split
    · split
      · exact h.noEvent
      split
      · exact h.writeRec
      split
      next u e =>
        have hu : HomeWf u := e.subst (motive := LocOut.HomeWf) h.findLoc
        exact hu.noEvent
      next u e =>
        have hu : HomeWf u := e.subst (motive := LocOut.HomeWf) h.findLoc
        exact HomeWf.writeRec hu
    · exact h.noEvent
  · exact h.noEvent

protected theorem HomeWf.execLinkHeartbeat {s : State} (h : HomeWf s) : NextWf (execLinkHeartbeat s) := by
  unfold execLinkHeartbeat
  split
  · exact h.noEvent
  · exact h

protected theorem HomeWf.setTrCtl {die : Nat} {v : Word} {s : State} (h : HomeWf s) : HomeWf (setTrCtl die v s) :=
  .ite h.setTrace h.modDie

protected theorem HomeWf.execTrCtl {die : Nat} {v : Word} {s : State} (h : HomeWf s) : NextWf (execTrCtl die v s) :=
  HomeWf.hostDoes h fun _ hs => hs.setTrCtl

protected theorem HomeWf.execTrTime {v : BitVec 64} {s : State} (h : HomeWf s) : NextWf (execTrTime v s) := by
  unfold execTrTime
  refine HomeWf.hostDoes h fun s hs => ?_
  split
  · exact hs
  · exact .ite hs hs

protected theorem HomeWf.execTrAdj {v : Word} {s : State} (h : HomeWf s) : NextWf (execTrAdj v s) :=
  HomeWf.hostDoes h fun _ hs => hs.modTrace

protected theorem HomeWf.execTrTail {v : Word} {s : State} (h : HomeWf s) : NextWf (execTrTail v s) :=
  HomeWf.hostDoes h fun _ hs => hs.modTrace

protected theorem HomeWf.execTraceSample {core : Nat} {v : Word} {s : State} (h : HomeWf s) : NextWf (execTraceSample core v s) :=
  HomeWf.hostDoes h fun _ hs => hs.modCore

/-! ### Loads and stores (Machine/LoadStore) -/

protected theorem HomeWf.prefHeld {f : Flight} {s : State} {line : Nat} (h : HomeWf s) : HomeWf (prefHeld f s line) := by
  unfold prefHeld
  split
  · exact h
  · exact .ite (.ite h.putLine h) (.touchLine (.ite h.putLine h))

protected theorem HomeWf.prefCrew {m : BitVec 4} {hx : BitVec 2} {a : RCode} {x : Ctx} {s : State} {p : Part} (h : HomeWf s) :
    HomeWf (prefCrew m hx a x s p) := by
  unfold prefCrew
  split
  · exact h
  · exact .ite h (.ite (.foldl h fun _ _ hs => hs.prefHeld) (.foldl h fun _ _ hs => hs.prefHeld))

protected theorem HomeWf.execPref {x : Pfx} {hx : BitVec 2} {m : BitVec 4} {a : RCode} {s : State} (h : HomeWf s) : NextWf (execPref x hx m a s) := by
  unfold execPref
  refine HomeWf.issue h fun c s hs => ?_
  split
  · exact hs
  · exact HomeWf.foldl hs fun _ _ hs => hs.prefCrew

protected theorem HomeWf.linvLook {m : BitVec 4} {a : RCode} {x : Ctx} : ∀ {ps : List Part} {s : State}, HomeWf s → HomeWf (linvLook m a x s ps).2
  | [], _, h => h
  | p :: ps, s, h => by
    unfold linvLook
    split
    · exact HomeWf.linvLook h
    split
    · exact HomeWf.linvLook h
    · exact HomeWf.linvLook (ps := ps) h.xlateLines

protected theorem HomeWf.linvBody {m : BitVec 4} {a : RCode} {x : Ctx} {s : State} (h : HomeWf s) : Res.HomeWf (linvBody m a x s) := by
  unfold linvBody
  split
  · exact h
  split
  next e =>
    have ht := HomeWf.snd_of_eq e h.linvLook
    dsimp only
    split
    · exact h
    split
    · exact h
    split
    · exact ht
    split
    · exact HomeWf.foldl ht fun _ _ hs => hs.forget
    split
    · exact HomeWf.foldl (.foldl ht fun _ _ hs => hs.forget) fun _ _ hs => .ite hs hs.pageFault
    split
    · exact HomeWf.foldl (.foldl ht fun _ _ hs => hs.purge) fun _ _ hs => hs.forget
    · exact HomeWf.foldl ht fun _ _ hs => hs.wbAsk

/-! ### Moves (Machine/Moves) -/

protected theorem HomeWf.onVectors {f : List (Part × Crew) → Except Nat (List Crew)} {x : Ctx} {s : State} (h : HomeWf s) :
    Res.HomeWf (onVectors f x s) := by
  unfold onVectors
  dsimp only
  split
  · exact h
  next t e =>
    have ht : ∀ u, Except.ok t = (Except.ok u : Except Nat State) → HomeWf u := by
      rw [← e]
      refine foldl_keeps (P := fun r : Except Nat State => ∀ u, r = .ok u → HomeWf u) (fun u hu => ?_) fun r g hr u hu => ?_
      · cases hu
        exact h
      split at hu
      · cases hu
      next v =>
        split at hu
        · cases hu
        · cases hu
          exact HomeWf.foldl (hr v rfl) fun _ _ hs => hs.setCrew
    exact ht t rfl

protected theorem HomeWf.voteBody {o : Vote} {d a : RCode} {x : Ctx} {s : State} (h : HomeWf s) : Res.HomeWf (voteBody o d a x s) := by
  unfold voteBody
  dsimp only
  split
  · exact h
  · exact h.eachCrew

protected theorem HomeWf.execMovs {x : Pfx} {r : SysReg} {d : RCode} {s : State} (h : HomeWf s) : NextWf (execMovs x r d s) :=
  HomeWf.issue h fun _ _ hs => hs.eachCrew

protected theorem HomeWf.execMovcRd {x : Pfx} {r : CtlReg} {d : RCode} {s : State} (h : HomeWf s) : NextWf (execMovcRd x r d s) :=
  HomeWf.issue h fun _ _ hs => hs.eachCrew

protected theorem HomeWf.movcWrBody {r : CtlReg} {a : RCode} {u : Ctx} {s : State} (h : HomeWf s) : Res.HomeWf (movcWrBody r a u s) := by
  unfold movcWrBody
  split
  · split
    · exact h
    split
    · exact h
    split
    · exact h
    · exact h.writeCtl
  · exact h

/-! ### All instructions and events (Machine/Dispatch) -/

protected theorem HomeWf.exec {i : Instr} {s : State} (h : HomeWf s) : NextWf (exec i s) := by
  cases i
  case iadd | isub | imul | imulh | imulhu | imad | idiv | idivu | irem | iremu | imin | imax | iminu | imaxu | iadds | isubs | and | or | xor | andn
      | shl | shr | sar | rol | bfe | bfi | lea | idot4 | iunNot | iunIneg | iunIabs | iunPopc | iunClz | iunBrev | iunSx8 | iunSx16 | iunZx8 |
      iunZx16 | iceq | icne | iclt | icle | icltu | icleu | fceq | fclt | fcle | fcun | mov | tagf | tagq | tclr | pmovGet | pmovSet | fadd | fsub |
      fmul | ffma | fmin | fmax | fdiv | funFneg | funFabs | funFrcp | funFrsq | funFsqrt | funFexp2 | funFlog2 | funFsin | funFcos | funFflr |
      funFceil | funFtrnc | funFrint | funFcls | cvt | mrec | mrst | mov16 | iadd16 | isub16 | imul16 | and16 | or16 | xor16 | shl16 | shr16 | sar16 |
      imin16 | imax16 | fadd16 | fmul16 | fsub16 | sel =>
    exact HomeWf.issue h fun _ _ hs => hs.eachCrew
  case movu | mova | shfli | shflu | shfld | shflx =>
    exact HomeWf.issue h fun _ _ hs => hs.onVectors
  case voteAny | voteAll | voteBallot =>
    exact HomeWf.issue h fun _ _ hs => hs.voteBody
  case movcWr => exact HomeWf.issue h fun _ _ hs => hs.movcWrBody
  case bra | brl =>
    exact HomeWf.issue h fun _ _ hs => hs.branchBody
  case jmpi | ret | ret16 =>
    exact HomeWf.issue h fun _ _ hs => hs.jumpBody
  case exit | exit16 =>
    exact HomeWf.issue h fun _ _ hs => hs.exitBody
  case bar => exact HomeWf.issue h fun _ _ hs => hs.barBody
  case yield | yield16 =>
    exact HomeWf.issue h fun _ _ hs => hs.yieldBody
  case reord => exact HomeWf.issue h fun _ _ hs => hs.reordBody
  case ldb | ldbs | ldh | ldhs | ldw | ldd | ldq | stb | sth | stw | std | stq | ldm | stm | axchg | acas | aadd | amin | amax | aminu | amaxu | aand
      | aor | axor | afadd | ldacq | strel =>
    exact HomeWf.issue h fun _ _ hs => hs.accessBody
  case lda | sta =>
    exact HomeWf.issue h fun _ _ hs => hs.asBody
  case linv => exact HomeWf.issue h fun _ _ hs => hs.linvBody
  case bcopyG2a | bcopyG2w | bcopyA2g | bcopyA2w =>
    exact HomeWf.issue h fun _ _ hs => hs.bcopyBody
  case batchWait => exact HomeWf.issue h fun _ _ hs => hs.batchWaitBody
  case mma | mmas =>
    exact HomeWf.issue h fun _ _ hs => hs.mmaBody
  case mclrFp32 | mclrI32 =>
    exact HomeWf.issue h fun _ _ hs => hs.mclrBody
  case mqnt => exact HomeWf.issue h fun _ _ hs => hs.mqntBody
  case mscl => exact HomeWf.issue h fun _ _ hs => hs.msclBody
  case mhnd => exact HomeWf.issue h fun _ _ hs => hs.mhndBody
  case qopPush => exact HomeWf.issue h fun _ _ hs => hs.pushBody
  case qopPop => exact HomeWf.issue h fun _ _ hs => hs.popBody
  case qopDem => exact HomeWf.issue h fun _ _ hs => hs.demBody
  case qopStat => exact HomeWf.issue h fun _ _ hs => hs.statBody
  case sysRtt => exact HomeWf.issue h fun _ _ hs => hs.rttBody
  case sysIswap => exact HomeWf.issue h fun _ _ hs => hs.iswapBody
  case dbgBrk | brk =>
    exact HomeWf.issue h fun _ _ hs => hs.brkBody
  case dbgMark => exact HomeWf.issue h fun _ _ hs => hs.markBody
  case ordBegin => exact HomeWf.issue h fun _ _ hs => hs.ordBeginBody
  case movs => exact h.execMovs
  case movcRd => exact h.execMovcRd
  case call => exact h.execCall
  case join => exact h.execJoin
  case leave => exact h.execLeave
  case spawn => exact h.execSpawn
  case pref => exact h.execPref
  case fence => exact h.execFence
  case batchSeal => exact h.execBatchSeal
  case batchPoll => exact h.execBatchPoll
  case baroInit => exact h.execBaroInit
  case baroArrive => exact h.execBaroArrive
  case baroWait => exact h.execBaroWait
  case sysTrap => exact h.execSysTrap
  case sysSysc => exact h.execSysSysc
  case sysSusp => exact h.execSysSusp
  case sysResm => exact h.execSysResm
  case sysRdcv => exact h.execSysRdcv
  case sysWrcv => exact h.execSysWrcv
  case sysIcinv => exact h.execSysIcinv
  case sysTlbinv => exact h.execSysTlbinv
  case sysHalt => exact h.execSysHalt
  case dbgTrace => exact h.execDbgTrace
  case ordEnd => exact h.execOrdEnd
  case nop => exact h.execNop
  case rendezvousDeadlock => exact h.execRendezvousDeadlock
  case frontQuantumExpire => exact h.execFrontQuantumExpire
  case sqPush => exact h.execSqPush
  case taskKill => exact h.execTaskKill
  case taskRetire => exact h.execTaskRetire
  case placementDecision => exact h.execPlacementDecision
  case starvationReservation => exact h.execStarvationReservation
  case blockWakeDone => exact h.execBlockWakeDone
  case blockSaveComplete => exact h.execBlockSaveComplete
  case preemptSlowStop => exact h.execPreemptSlowStop
  case blockRetire => exact h.execBlockRetire
  case allocationScrub => exact h.execAllocationScrub
  case registerGroupGate => exact h.execRegisterGroupGate
  case enckeAgeFlush => exact h.execEnckeAgeFlush
  case enckeFinalFlush => exact h.execEnckeFinalFlush
  case loadDataReturn => exact h.execLoadDataReturn
  case atomicReturn => exact h.execAtomicReturn
  case writePerformed => exact h.execWritePerformed
  case walkComplete => exact h.execWalkComplete
  case missEntryFree => exact h.execMissEntryFree
  case mshrAgeLimitReached => exact h.execMshrAgeLimitReached
  case lineRetry => exact h.execLineRetry
  case bcopyUnitMove => exact h.execBcopyUnitMove
  case matrixOccupancyEnd => exact h.execMatrixOccupancyEnd
  case scPin => exact h.execScPin
  case pinInstallDone => exact h.execPinInstallDone
  case scPartWrite => exact h.execScPartWrite
  case mcPfqResp => exact h.execMcPfqResp
  case mcPfqTail => exact h.execMcPfqTail
  case hostRead => exact h.execHostRead
  case hostWrite => exact h.execHostWrite
  case hostSnoop => exact h.execHostSnoop
  case birsp => exact h.execBirsp
  case atsTranslationCompletion => exact h.execAtsTranslationCompletion
  case pageGroupResponse => exact h.execPageGroupResponse
  case priEnable => exact h.execPriEnable
  case atsInvalidateRequest => exact h.execAtsInvalidateRequest
  case shootdownAck => exact h.execShootdownAck
  case dieFence => exact h.execDieFence
  case icinvAck => exact h.execIcinvAck
  case flitReceive => exact h.execFlitReceive
  case laneLockLoss => exact h.execLaneLockLoss
  case linkRetrainEnd => exact h.execLinkRetrainEnd
  case linkHeartbeat => exact h.execLinkHeartbeat
  case cellFire => exact h.execCellFire
  case tokenDeliver => exact h.execTokenDeliver
  case demandCreditArrive => exact h.execDemandCreditArrive
  case tokenRequestArrive => exact h.execTokenRequestArrive
  case islandFetchReturn => exact h.execIslandFetchReturn
  case islandStoreDone => exact h.execIslandStoreDone
  case outputVectorDeliver => exact h.execOutputVectorDeliver
  case pushEntryToPort => exact h.execPushEntryToPort
  case islandImageCheck => exact h.execIslandImageCheck
  case traceRecordWrite => exact h.execTraceRecordWrite
  case replayGateTimeout => exact h.execReplayGateTimeout
  case trCtl => exact h.execTrCtl
  case trTime => exact h.execTrTime
  case trAdj => exact h.execTrAdj
  case traceSample => exact h.execTraceSample
  case registerWrite => exact h.execRegisterWrite
  case bootClear => exact h.execBootClear
  case fwErase => exact h.execFwErase
  case fwProgram => exact h.execFwProgram
  case fwVerify => exact h.execFwVerify
  case fwCommit => exact h.execFwCommit
  case fwInvalidCommand => exact h.execFwInvalidCommand
  case fwCommandComplete => exact h.execFwCommandComplete
  case getVersion => exact h.execGetVersion
  case getCapabilities => exact h.execGetCapabilities
  case negotiateAlgorithms => exact h.execNegotiateAlgorithms
  case getDigests => exact h.execGetDigests
  case getCertificate => exact h.execGetCertificate
  case challenge => exact h.execChallenge
  case getMeasurements => exact h.execGetMeasurements
  case powerOnReset => exact h.execPowerOnReset
  case standbyPowerLoss => exact h.execStandbyPowerLoss
  case securityAlarm => exact h.execSecurityAlarm
  case clockThrottle => exact h.execClockThrottle
  case thermalTrip => exact h.execThermalTrip
  case illegalInstruction => exact h.execIllegalInstruction
  case trTail => exact h.execTrTail
  case eccError => exact h.execEccError
  case burstCrcFailure => exact h.execBurstCrcFailure

/-! ### The next act and the settling of a step (Machine/Policy) -/

protected theorem HomeWf.retryOwed {s : State} (h : HomeWf s) : HomeWf (retryOwed s) :=
  h.drainPosted.retryLogs.payAll

protected theorem HomeWf.settle {s : State} (h : HomeWf s) : HomeWf (settle s) :=
  .tick (.ite h.retryOwed.sendRequests.stepRewrite h.retryOwed.sendRequests.stepRewrite)

protected theorem HomeWf.nextAct {s : State} (h : HomeWf s) : HomeWf (nextAct s).2 := by
  unfold nextAct
  split <;> exact h

/-! ### The step (Machine/Step) -/

theorem NextWf.finish : ∀ {o : Host.Outcome State Fault Refusal}, NextWf o → NextWf (finish o)
  | .next s, h => HomeWf.settle (s := { s with cur := none }) h
  | .fault _, _ => trivial
  | .refused _, _ => trivial

theorem Slot.HomeWf.of_run {r : Slot} {i : Instr} {s : State} (e : r = .run i s) (h : r.HomeWf) : Machine.HomeWf s := by
  subst e; exact h

theorem Slot.HomeWf.of_done {r : Slot} {s : State} (e : r = .done s) (h : r.HomeWf) : Machine.HomeWf s := by
  subst e; exact h

protected theorem HomeWf.step {s : State} (h : HomeWf s) : NextWf (step s) := by
  have hn := h.nextAct
  unfold step
  generalize nextAct s = a at hn ⊢
  obtain ⟨_ | ⟨i, u⟩ | ⟨core, quarter⟩ | ⟨die, isl⟩, t⟩ := a
  · exact HomeWf.settle (s := t) hn
  · exact NextWf.finish (HomeWf.exec (s := { t with unit := u, cur := none, progress := true }) hn)
  · have hs := HomeWf.issueSlot (s := { t with progress := true }) (core := core) (quarter := quarter) hn
    dsimp only
    split
    next e => exact NextWf.finish (hs.of_run e).exec
    next e => exact (hs.of_done e).settle
  · exact HomeWf.settle (HomeWf.islandNext (s := { t with progress := true }) hn)

/-- Settles O57: home memory and its write clocks change only by home writes, which keep the canonical form, and by a reset,
which keeps a part of memory and clears the clocks (R44, R71, R79). -/
theorem memoryStaysCanonical : Obligations.MemoryStaysCanonical := by
  intro s t hs ht
  have hn := HomeWf.step (s := s) hs
  rw [ht] at hn
  exact hn

end Sys2Proof.Machine
end

section
/-!
PROOF of O49, HostMemoryEvents: what writes at the home slice and the logging of an access leave of the memory map, what a home write puts in
memory, and then one rule for each event of the host.
-/

namespace Sys2Proof.Machine

/-! ### The memory map -/

/-- What the memory map takes from a die: its number, whether it is fenced, and its memory controllers (R43, R66). -/
def Die.place (d : Die) : Nat × Bool × List Nat := (d.id, d.fenced, d.ctls)

/-- The dies of two states place every address alike. -/
def SamePlaces (s t : State) : Prop := t.dies.map Die.place = s.dies.map Die.place

protected theorem SamePlaces.trans {s t u : State} (h : SamePlaces s t) (h' : SamePlaces t u) : SamePlaces s u := Eq.trans h' h

protected theorem SamePlaces.of_map {s t : State} {f : Die → Die} (hd : t.dies = s.dies.map f) (hf : ∀ d, (f d).place = d.place) : SamePlaces s t := by
  unfold SamePlaces
  rw [hd, List.map_map]
  exact List.map_congr_left fun d _ => hf d

protected theorem SamePlaces.foldl {α : Type} {f : State → α → State} (hf : ∀ s a, SamePlaces s (f s a)) :
    ∀ (l : List α) (s : State), SamePlaces s (l.foldl f s)
  | [], _ => rfl
  | a :: l, s => (hf s a).trans (SamePlaces.foldl hf l (f s a))

protected theorem SamePlaces.dieAt {s t : State} (h : SamePlaces s t) (n : Nat) : (dieAt t n).map Die.place = (dieAt s n).map Die.place := by
  have hfind := congrArg (List.find? fun p => p.1 == n) h
  rw [List.find?_map, List.find?_map] at hfind
  exact hfind

protected theorem SamePlaces.fenced {s t : State} (h : SamePlaces s t) (n : Nat) : fenced t n = fenced s n := by
  have hd := h.dieAt n
  unfold fenced
  cases ht : dieAt t n <;> cases hs : dieAt s n <;> simp_all [Die.place]

protected theorem SamePlaces.ctlCount {s t : State} (h : SamePlaces s t) (n : Nat) : ctlCount t n = ctlCount s n := by
  have hd := h.dieAt n
  unfold ctlCount
  cases ht : dieAt t n <;> cases hs : dieAt s n <;> simp_all [Die.place]

protected theorem SamePlaces.homeDie {s t : State} (h : SamePlaces s t) (a : Nat) : homeDie t a = homeDie s a := by
  unfold Machine.homeDie dieSplit
  rw [h.ctlCount]

protected theorem SamePlaces.badDpa {s t : State} (h : SamePlaces s t) (a : Nat) : badDpa t a = badDpa s a := by
  unfold Machine.badDpa memEnd
  rw [h.ctlCount, h.ctlCount, h.fenced, h.homeDie]

theorem samePlaces_ite {c : Prop} [Decidable c] {s t u : State} (ht : SamePlaces s t) (hu : SamePlaces s u) : SamePlaces s (if c then t else u) := by
  split
  · exact ht
  · exact hu

theorem samePlaces_modRp (s : State) (die : Nat) (f : ReplayBlk → ReplayBlk) : SamePlaces s (modRp s die f) :=
  .of_map rfl fun d => by dsimp only; split <;> rfl

theorem samePlaces_emit (s : State) (die src typ cls : Nat) (crew : Option Nat) (bs : List Byte) : SamePlaces s (emit s die src typ cls crew bs) := by
  unfold emit emitAt
  split
  · rfl
  refine samePlaces_ite rfl (samePlaces_ite (.of_map rfl fun d => ?_) rfl)
  split <;> rfl

theorem samePlaces_diverge (s : State) (die src : Nat) (crew : Option Nat) (kind n req : Nat) : SamePlaces s (diverge s die src crew kind n req) :=
  .trans (.of_map (f := fun d => if d.id == die then { d with rp := { d.rp with diverge := true } } else d) rfl fun d => by dsimp only; split <;> rfl)
    (samePlaces_emit _ _ _ _ _ _ _)

theorem samePlaces_abandonLine (s : State) (line kind : Nat) (who : Option Nat) : SamePlaces s (abandonLine s line kind who) :=
  (samePlaces_modRp s _ _).trans (samePlaces_diverge _ _ _ _ _ _ _)

theorem samePlaces_bumpHome (s : State) (a : Nat) : SamePlaces s (bumpHome s a) := by
  unfold bumpHome
  split
  · exact .of_map rfl fun d => by dsimp only; split <;> rfl
  · exact .of_map rfl fun d => by dsimp only; split <;> rfl

theorem samePlaces_homeWrite (s : State) (c : Clock) (ws : List (Nat × Byte)) : SamePlaces s (homeWrite s c ws) := by
  cases ws with
  | nil => rfl
  | cons w ws => exact samePlaces_ite rfl (samePlaces_bumpHome s w.1)

theorem samePlaces_askHost (s : State) (secs : List Nat) : SamePlaces s (askHost s secs) := by
  unfold askHost
  refine .foldl (fun s x => ?_) secs s
  exact samePlaces_ite rfl rfl

theorem samePlaces_poke (s : State) (die a : Nat) (bs : List Byte) : SamePlaces s (poke s die a bs) :=
  samePlaces_ite (samePlaces_askHost s _) (samePlaces_homeWrite s _ _)

theorem samePlaces_closeChunk (s : State) (die : Nat) (who : Option Nat) (c : Chunk) : SamePlaces s (closeChunk s die who c) := by
  unfold closeChunk
  split
  · rfl
  split
  · rfl
  · exact samePlaces_ite rfl (samePlaces_ite ((samePlaces_modRp s _ _).trans (samePlaces_diverge _ _ _ _ _ _ _))
      ((samePlaces_poke s _ _ _).trans (samePlaces_modRp _ _ _)))

theorem samePlaces_logAccess (s : State) (line : Nat) (who : Option Nat) : SamePlaces s (logAccess s line who) := by
  unfold logAccess
  dsimp only
  split
  · rfl
  split
  · rfl
  split
  · split
    · exact samePlaces_modRp s _ _
    · exact samePlaces_ite (samePlaces_modRp s _ _) ((samePlaces_closeChunk s _ _ _).trans (samePlaces_modRp _ _ _))
  · split
    · exact .trans (samePlaces_ite ((samePlaces_closeChunk s _ _ _).trans (samePlaces_modRp _ _ _)) rfl) (samePlaces_modRp _ _ _)
    · exact samePlaces_modRp s _ _

theorem samePlaces_sliceAccess (s : State) (line : Nat) (who : Option Nat) : SamePlaces s (sliceAccess s line who) := by
  refine (samePlaces_logAccess s line who).trans ?_
  unfold sliceAccess
  dsimp only
  split
  · exact samePlaces_modRp _ _ _
  · exact samePlaces_abandonLine _ _ _ _
  · rfl

theorem samePlaces_writeBack (s : State) (core key : Nat) : SamePlaces s (writeBack s core key) := by
  unfold writeBack
  split
  · rfl
  · exact samePlaces_ite rfl (samePlaces_homeWrite s _ _)

theorem samePlaces_syncLine (s : State) (key : Nat) : SamePlaces s (syncLine s key) := by
  unfold syncLine
  refine .foldl (fun s c => ?_) _ s
  exact samePlaces_writeBack s c.id key

/-! ### What a home write puts in memory -/

/-- Several writes of one value: an address that they name reads as that value. -/
theorem sget_sputAll_const {α : Type} [DecidableEq α] {d v : α} {b : Nat} : ∀ {ws : List (Nat × α)} {m : Sparse α}, swf d m = true →
    (∀ w ∈ ws, w.2 = v) → (∃ w ∈ ws, w.1 = b) → sget d (sputAll d m ws) b = v
  | [], _, _, _, hb => by simp at hb
  | w :: ws, m, h, hv, hb => by
    have h' : swf d (sput d m w.1 w.2) = true := swf_sput w.1 w.2 h
    change sget d (sputAll d (sput d m w.1 w.2) ws) b = v
    by_cases hr : ∃ x ∈ ws, x.1 = b
    · exact sget_sputAll_const h' (fun x hx => hv x (List.mem_cons_of_mem _ hx)) hr
    · have hw : b = w.1 := by
        obtain ⟨x, hx, rfl⟩ := hb
        rcases List.mem_cons.mp hx with rfl | hx
        · rfl
        · exact absurd ⟨x, hx, rfl⟩ hr
      rw [sget_sputAll_other h' fun x hx e => hr ⟨x, hx, e⟩, sget_sput h, if_pos hw]
      exact hv w List.mem_cons_self

/-- Every place of a run of bytes is listed. -/
theorem exists_mem_addrs : ∀ {bs : List Byte} {a i : Nat}, i < bs.length → ∃ w ∈ addrs a bs, w.1 = a + i
  | [], _, _, hi => by simp at hi
  | b :: bs, a, 0, _ => ⟨(a, b), List.mem_cons_self, rfl⟩
  | b :: bs, a, i + 1, hi => by
    obtain ⟨w, hw, e⟩ := exists_mem_addrs (a := a + 1) (Nat.lt_of_succ_lt_succ hi)
    exact ⟨w, List.mem_cons_of_mem _ hw, by omega⟩

/-- A write at the home slice to memory that is there merges the bytes, and gives each the clock of the write (R45, R79). -/
theorem homeWrite_addrs {s : State} {a : Nat} (c : Clock) {bs : List Byte} (hn : bs ≠ []) (hb : badDpa s a = false) :
    (homeWrite s c (addrs a bs)).mem = writeBytes s.mem a bs ∧
    (homeWrite s c (addrs a bs)).wclk = sputAll Clock.zero s.wclk ((addrs a bs).map fun w => (w.1, writeClock s a c)) ∧
    (homeWrite s c (addrs a bs)).hostClock = s.hostClock := by
  cases bs with
  | nil => exact absurd rfl hn
  | cons b bs =>
    have hclk : (bumpHome s a).hostClock = s.hostClock := by unfold bumpHome; split <;> rfl
    simp only [addrs, homeWrite, hb, Bool.false_eq_true, if_false]
    refine ⟨?_, ?_, hclk⟩
    · rw [mesiSet_mem, bumpHome_mem]; rfl
    · rw [mesiSet_wclk, bumpHome_wclk]

/-- The bytes and clocks of a run after its write at the home slice, and every other byte (R45, R79). -/
theorem homeWrite_addrs_reads {s : State} {a : Nat} {c : Clock} {bs : List Byte} (h : s.homeWf = true) (hn : bs ≠ []) (hb : badDpa s a = false) :
    (∀ i < bs.length, readByte (homeWrite s c (addrs a bs)).mem (a + i) = bs.getD i 0 ∧
      sget Clock.zero (homeWrite s c (addrs a bs)).wclk (a + i) = writeClock s a c) ∧
    (∀ b, b < a ∨ a + bs.length ≤ b → readByte (homeWrite s c (addrs a bs)).mem b = readByte s.mem b) := by
  obtain ⟨hmem, hwclk, -⟩ := homeWrite_addrs (s := s) c hn hb
  obtain ⟨hm, hw⟩ := Bool.and_eq_true_iff.mp h
  rw [hmem, hwclk]
  refine ⟨fun i hi => ⟨sget_writeBytes hm bs a i hi, sget_sputAll_const hw ?_ ?_⟩, fun b hb => sget_writeBytes_other hm a bs hb⟩
  · intro w hw
    obtain ⟨x, -, rfl⟩ := List.mem_map.mp hw
    rfl
  · obtain ⟨w, hw, e⟩ := exists_mem_addrs (a := a) hi
    exact ⟨_, List.mem_map_of_mem hw, e⟩

/-! ### Pinned copies and regions being recorded -/

/-- The bytes that a line writes back are its own. -/
theorem mem_writtenBytes {l : L1Line} {w : Nat × Byte} (h : w ∈ writtenBytes l) : w.1 / 256 = l.key := by
  obtain ⟨i, hi, rfl⟩ := List.mem_map.mp h
  have hi' : i < 256 := List.mem_range.mp (List.mem_filter.mp hi).1
  show (l.key * 256 + i) / 256 = l.key
  omega

/-- A line written back leaves the bytes of every other line. -/
theorem readByte_writeBack_other {s : State} {core key a : Nat} (h : s.homeWf = true) (ha : a / 256 ≠ key) :
    readByte (writeBack s core key).mem a = readByte s.mem a := by
  unfold writeBack
  split
  · rfl
  next l hl =>
    have hkey : l.key = key := by simpa using List.find?_some hl
    split
    · rfl
    · exact readByte_homeWrite_other s _ _ h fun w hw e => ha (by rw [← e, mem_writtenBytes hw, hkey])

theorem readByte_syncLine_other {s : State} {key a : Nat} (h : s.homeWf = true) (ha : a / 256 ≠ key) :
    readByte (syncLine s key).mem a = readByte s.mem a := by
  unfold syncLine
  generalize s.cores.filter _ = cs
  induction cs generalizing s with
  | nil => rfl
  | cons c cs ih => exact (ih (homeWf_writeBack s c.id key h)).trans (readByte_writeBack_other h ha)

/-- A line that no core has pinned has nothing to give. -/
theorem syncLine_of_unpinned {s : State} {key : Nat} (h : ∀ c ∈ s.cores, ∀ l ∈ c.l1, l.key = key → l.pin = none) : syncLine s key = s := by
  have hnone : (s.cores.filter fun c => c.l1.any fun l => l.key == key && l.pin.isSome) = [] := by
    refine List.filter_eq_nil_iff.mpr fun c hc hany => ?_
    obtain ⟨l, hl, hp⟩ := List.any_eq_true.mp hany
    obtain ⟨hkey, hpin⟩ := Bool.and_eq_true_iff.mp hp
    rw [h c hc l hl (beq_iff_eq.mp hkey)] at hpin
    exact Bool.noConfusion hpin
  unfold syncLine
  rw [hnone]
  rfl

theorem emit_mem (s : State) (die src typ cls : Nat) (crew : Option Nat) (bs : List Byte) : (emit s die src typ cls crew bs).mem = s.mem := by
  unfold emit emitAt
  split
  · rfl
  split
  · rfl
  split <;> rfl

theorem abandonLine_mem (s : State) (line kind : Nat) (who : Option Nat) : (abandonLine s line kind who).mem = s.mem := emit_mem _ _ _ _ _ _ _

/-- A die that records no region logs nothing. -/
theorem logAccess_of_idle {s : State} {line : Nat} {d : Die} (who : Option Nat) (hd : dieAt s (homeDie s (line * 256)) = some d)
    (h : d.rp.active = false ∨ d.rp.mode ≠ 1) : logAccess s line who = s := by
  unfold logAccess
  simp only [hd]
  rw [if_pos]
  rcases h with h | h
  · simp [h]
  · simp [h]

theorem sliceAccess_mem_of_idle {s : State} {line : Nat} {d : Die} (who : Option Nat) (hd : dieAt s (homeDie s (line * 256)) = some d)
    (h : d.rp.active = false ∨ d.rp.mode ≠ 1) : (sliceAccess s line who).mem = s.mem := by
  unfold sliceAccess
  rw [logAccess_of_idle who hd h]
  dsimp only
  split
  · rfl
  · exact abandonLine_mem s _ _ _
  · rfl

/-! ### The host's accesses -/

/-- Before an access of the host, a core that has the line pinned gives its written bytes, and a die that records a region logs the access. -/
def gathered (s : State) (line : Nat) : State := sliceAccess (syncLine s line) line none

theorem samePlaces_gathered (s : State) (line : Nat) : SamePlaces s (gathered s line) := (samePlaces_syncLine s line).trans (samePlaces_sliceAccess _ _ _)

theorem homeWf_gathered {s : State} (line : Nat) (h : s.homeWf = true) : (gathered s line).homeWf = true :=
  HomeWf.sliceAccess (homeWf_syncLine s line h)

theorem holdSectors_mem (s : State) (secs : List Nat) (keep : Option HostHold) : (holdSectors s secs keep).mem = s.mem := by
  unfold holdSectors; split <;> rfl

theorem holdSectors_wclk (s : State) (secs : List Nat) (keep : Option HostHold) : (holdSectors s secs keep).wclk = s.wclk := by
  unfold holdSectors; split <;> rfl

theorem holdSectors_poison (s : State) (secs : List Nat) (keep : Option HostHold) : (holdSectors s secs keep).poison = s.poison := by
  unfold holdSectors; split <;> rfl

theorem holdSectors_hostClock (s : State) (secs : List Nat) (keep : Option HostHold) : (holdSectors s secs keep).hostClock = s.hostClock := by
  unfold holdSectors; split <;> rfl

/-- HOST_READ while it waits for nothing (R45, R247). -/
theorem exec_hostRead {s : State} {addr len : Nat} {keep : Option HostHold} (hup : hostUp s = true) (hbase : hpaKey s addr < hostBase)
    (hreach : hostReaches s (hpaKey s addr) len = true) (hheld : syncHeld s (hpaKey s addr / 256) = []) :
    ∃ t bs, exec (.hostRead addr len keep) s = .next t ∧ t.out.getLast? = some (.readData addr bs) ∧
      (badDpa s (hpaKey s addr) = true → bs = none ∧ t.mem = s.mem) ∧ (badDpa s (hpaKey s addr) = false →
        t.mem = (gathered s (hpaKey s addr / 256)).mem ∧
        bs = if (rangeSectors (hpaKey s addr) len).any (fun x => (gathered s (hpaKey s addr / 256)).poison.contains x) then none
          else some (readBytes (gathered s (hpaKey s addr / 256)).mem (hpaKey s addr) len)) := by
  change ∃ t bs, execHostRead addr len keep s = .next t ∧ _
  simp only [execHostRead, Nat.not_le.mpr hbase, decide_false, hreach, hheld, hostDoes_of_up hup, List.isEmpty_nil, Bool.not_true, Bool.or_false,
    Bool.false_eq_true, if_false]
  cases hbad : badDpa s (hpaKey s addr)
  · simp only [Bool.false_eq_true, if_false, holdSectors_mem, holdSectors_poison]
    exact ⟨_, _, rfl, List.getLast?_concat, False.elim, fun _ => ⟨rfl, rfl⟩⟩
  · exact ⟨_, none, rfl, List.getLast?_concat, fun _ => ⟨rfl, rfl⟩, fun h => Bool.noConfusion h⟩

/-- HOST_WRITE while it waits for nothing (R45, R247, R258). -/
theorem exec_hostWrite {s : State} {addr : Nat} {data : List Byte} {keep : Option HostHold} (hup : hostUp s = true)
    (hreach : hostReaches s (hpaKey s addr) data.length = true) (hheld : syncHeld s (hpaKey s addr / 256) = []) (hbad : badDpa s (hpaKey s addr) = false) :
    ∃ t, exec (.hostWrite addr data keep) s = .next t ∧
      t.mem = (homeWrite (gathered s (hpaKey s addr / 256)) (gathered s (hpaKey s addr / 256)).hostClock (addrs (hpaKey s addr) data)).mem ∧
      t.wclk = (homeWrite (gathered s (hpaKey s addr / 256)) (gathered s (hpaKey s addr / 256)).hostClock (addrs (hpaKey s addr) data)).wclk ∧
      t.hostClock = (homeWrite (gathered s (hpaKey s addr / 256)) (gathered s (hpaKey s addr / 256)).hostClock (addrs (hpaKey s addr) data)).hostClock.sup
        (writeClock (gathered s (hpaKey s addr / 256)) (hpaKey s addr) (gathered s (hpaKey s addr / 256)).hostClock) := by
  change ∃ t, execHostWrite addr data keep s = .next t ∧ _
  simp only [execHostWrite, hreach, hheld, hbad, hostDoes_of_up hup, List.isEmpty_nil, Bool.not_true, Bool.false_eq_true, if_false]
  refine ⟨_, rfl, ?_⟩
  split
  · exact ⟨rfl, rfl, rfl⟩
  · exact ⟨holdSectors_mem _ _ _, holdSectors_wclk _ _ _, holdSectors_hostClock _ _ _⟩

theorem length_ne_zero_of_hostReaches {s : State} {a n : Nat} (h : hostReaches s a n = true) : n ≠ 0 := by
  rintro rfl
  simp [hostReaches] at h

/-- The bytes, the clocks and the host's clock after HOST_WRITE (R45, R258). -/
theorem exec_hostWrite_reads {s : State} {addr : Nat} {data : List Byte} {keep : Option HostHold} (hup : hostUp s = true)
    (hreach : hostReaches s (hpaKey s addr) data.length = true) (hheld : syncHeld s (hpaKey s addr / 256) = []) (hbad : badDpa s (hpaKey s addr) = false) :
    ∃ t, exec (.hostWrite addr data keep) s = .next t ∧ (s.homeWf = true → t.homeWf = true ∧
      let r := gathered s (hpaKey s addr / 256)
      let k := writeClock r (hpaKey s addr) r.hostClock
      (∀ i < data.length, readByte t.mem (hpaKey s addr + i) = data.getD i 0 ∧ sget Clock.zero t.wclk (hpaKey s addr + i) = k) ∧
      (∀ a, a < hpaKey s addr ∨ hpaKey s addr + data.length ≤ a → readByte t.mem a = readByte r.mem a) ∧ t.hostClock = r.hostClock.sup k) := by
  obtain ⟨t, ht, hmem, hwclk, hclk⟩ := exec_hostWrite (keep := keep) hup hreach hheld hbad
  have hn : data ≠ [] := fun e => length_ne_zero_of_hostReaches hreach (by rw [e]; rfl)
  have hb := ((samePlaces_gathered s (hpaKey s addr / 256)).badDpa (hpaKey s addr)).trans hbad
  refine ⟨t, ht, fun h => ?_⟩
  have hr := homeWf_gathered (hpaKey s addr / 256) h
  obtain ⟨hbytes, hothers⟩ := homeWrite_addrs_reads (c := (gathered s (hpaKey s addr / 256)).hostClock) hr hn hb
  refine ⟨HomeWf.congr (homeWf_homeWrite _ _ _ hr) hmem hwclk, ?_⟩
  rw [hmem, hwclk, hclk, (homeWrite_addrs _ hn hb).2.2]
  exact ⟨hbytes, hothers, rfl⟩

/-- An access of the host asks first for sectors that it holds and a core has written (R46, R247). -/
theorem exec_hostAccess_of_held {s : State} {addr len : Nat} {data : List Byte} {keep : Option HostHold} (hup : hostUp s = true)
    (hbase : hpaKey s addr < hostBase) (hreach : hostReaches s (hpaKey s addr) len = true) (hlen : data.length = len)
    (hheld : syncHeld s (hpaKey s addr / 256) ≠ []) :
    ∀ i ∈ [Instr.hostRead addr len keep, .hostWrite addr data keep], exec i s = .next (askHost s (syncHeld s (hpaKey s addr / 256))) := by
  have hasks : (!(syncHeld s (hpaKey s addr / 256)).isEmpty) = true := by simpa using hheld
  have hread : execHostRead addr len keep s = .next (askHost s (syncHeld s (hpaKey s addr / 256))) := by
    simp only [execHostRead, Nat.not_le.mpr hbase, decide_false, hreach, hasks, hostDoes_of_up hup, Bool.not_true, Bool.or_false, Bool.false_eq_true,
      if_false, if_true]
  have hwrite : execHostWrite addr data keep s = .next (askHost s (syncHeld s (hpaKey s addr / 256))) := by
    simp only [execHostWrite, hlen, hreach, hasks, hostDoes_of_up hup, Bool.not_true, Bool.false_eq_true, if_false, if_true]
  intro i hi
  simp only [List.mem_cons, List.not_mem_nil, or_false] at hi
  rcases hi with rfl | rfl
  · exact hread
  · exact hwrite

/-- HOST_SNOOP of a sector of host memory (R47, R247). -/
theorem exec_hostSnoop {s : State} {addr : Nat} {inv : Bool} (hup : hostUp s = true) (hbase : hostBase ≤ hpaKey s addr) :
    let b := hpaKey s addr / 64 * 64
    let r := if inv then syncLine s (hpaKey s addr / 256) else sliceAccess (syncLine s (hpaKey s addr / 256)) (hpaKey s addr / 256) none
    ∃ t, exec (.hostSnoop addr inv) s = .next t ∧ t.mem = r.mem ∧ t.poison = r.poison ∧
      t.out.getLast? = some (.snoopDone addr (if r.poison.contains (b / 64) then none else some (readBytes r.mem b 64))) := by
  intro b r
  change ∃ t, execHostSnoop addr inv s = .next t ∧ _
  simp only [execHostSnoop, Nat.not_lt.mpr hbase, if_false, hostDoes_of_up hup]
  exact ⟨_, rfl, rfl, rfl, List.getLast?_concat⟩

/-- BIRSP that was asked for (R46). -/
theorem exec_birsp {s : State} {n : Nat} (hup : hostUp s = true) (hn : n ∈ s.biWait) :
    exec (.birsp n) s = .next (runPushes { s with biWait := s.biWait.filter (· != n), hostHeld := s.hostHeld.filter fun h => h.1 != n }) := by
  change execBirsp n s = _
  rw [execBirsp, if_pos (List.contains_iff_mem.mpr hn), hostDoes_of_up hup]

/-- Settles O49: each event of the host by its own rule, with what the gathering of pinned bytes and of the log leaves. -/
theorem hostMemoryEvents : Obligations.HostMemoryEvents := by
  intro s hup
  refine ⟨fun _ _ _ => exec_hostRead hup, fun _ _ _ => exec_hostWrite_reads hup, fun _ _ _ _ => exec_hostAccess_of_held hup,
    fun _ _ => exec_hostSnoop hup, fun line h => ⟨?_, ?_, ?_⟩, fun _ => exec_birsp hup⟩
  · exact fun _ ha => readByte_syncLine_other h ha
  · exact syncLine_of_unpinned
  · exact fun _ hd hidle => sliceAccess_mem_of_idle none hd hidle

end Sys2Proof.Machine
end

section
/-! PROOF of O50, PageAndPinEvents: one rule for each completion, page response, invalidation and stack-cache register, while the host reaches the device. -/

namespace Sys2Proof.Machine

/-! ### Translations and page requests -/

section
variable {s : State} (hup : hostUp s = true)
include hup

/-- A completion that grants a right enters the host-translation cache, and its walk ends (R59). -/
theorem exec_atsCompletion_granted {req : Nat} {ans : AtsAnswer} {w : Walk}
    (hw : s.walks.find? (fun w => w.id == req && w.ats && w.result == .pending) = some w) (hgrant : (ans.read || ans.write || ans.exec) = true)
    (hsize : 12 ≤ ans.sizeLog) :
    exec (.atsTranslationCompletion req ans) s = .next { s with
      hostTc := pushFront 4096 (atsEntry s w ans) (s.hostTc.filter fun x => !(x.pasid == (atsEntry s w ans).pasid && x.va == (atsEntry s w ans).va))
      walks := s.walks.filter fun x => x.id != req } := by
  change execAtsTranslationCompletion req ans s = _
  simp only [execAtsTranslationCompletion, hw, hostDoes_of_up hup, hgrant, hsize, decide_true, Bool.and_true, if_true]

/-- A completion that grants nothing makes its walk fault (R59). -/
theorem exec_atsCompletion_refused {req : Nat} {ans : AtsAnswer} {w : Walk}
    (hw : s.walks.find? (fun w => w.id == req && w.ats && w.result == .pending) = some w) (hgrant : (ans.read || ans.write || ans.exec) = false) :
    exec (.atsTranslationCompletion req ans) s = .next { s with
      walks := s.walks.map fun x => if x.id == req then { x with result := .fault } else x } := by
  change execAtsTranslationCompletion req ans s = _
  simp only [execAtsTranslationCompletion, hw, hostDoes_of_up hup, hgrant, Bool.false_and, Bool.false_eq_true, if_false]

/-- What each code of a page group response does (R60). -/
theorem exec_pageGroupResponse {req : Nat} {r : PageReq} (hr : s.pageReqs.find? (fun r => r.tag == req && r.pri && r.sent) = some r) :
    exec (.pageGroupResponse req .success) s = .next (answer { s with hostTc := s.hostTc.filter fun e => !e.hits r.pasid (r.page * 4096) } r false) ∧
    exec (.pageGroupResponse req .invalidRequest) s = .next (answer s r true) ∧
    exec (.pageGroupResponse req .responseFailure) s =
      .next ((s.pageReqs.filter (·.pri)).foldl (fun s r => answer s r true) { s with priOff := true }) := by
  have hcode : ∀ code, exec (.pageGroupResponse req code) s = execPageGroupResponse req code s := fun _ => rfl
  simp only [hcode, execPageGroupResponse, hr, hostDoes_of_up hup, and_self]

theorem exec_priEnable : exec .priEnable s = .next { s with priOff := false } := hostDoes_of_up hup fun s => { s with priOff := false }

/-- An invalidation request with fewer than 8 in flight starts a shootdown (R62). -/
theorem exec_atsInvalidateRequest {pasid va pages : Nat} (hroom : sdFlying s < 8) :
    exec (.atsInvalidateRequest pasid va pages) s = .next (endShootdowns { s with
      shootdowns := s.shootdowns ++ [⟨s.nextId, 0, none, 0, pasid, if pages = 0 then none else some (va / 4096 * 4096, pages), [], false⟩]
      nextId := s.nextId + 1 }) := by
  change execAtsInvalidateRequest pasid va pages s = _
  rw [execAtsInvalidateRequest, if_neg (Nat.not_le.mpr hroom), hostDoes_of_up hup]

/-! ### The registers of the memory control block and of the stack cache -/

variable {die : Nat} {d : Die} (hd : dieAt s die = some d)
include hd

/-- MC_PFQ_RESP answers the outstanding record that has its tag (R61). -/
theorem exec_mcPfqResp_of_tag {v : Word} {r : PageReq}
    (hr : s.pageReqs.find? (fun r => r.sent && !r.pri && r.tag == 2 ^ 32 * (die + 1) + v.toNat % 2 ^ 16) = some r) :
    exec (.mcPfqResp die v) s = .next (answer (modDie s die fun d => { d with pfqResp := v &&& 0x1FFFF }) r (v.getLsbD 16)) := by
  change execMcPfqResp die v s = _
  simp only [execMcPfqResp, hd, Option.isNone_some, Bool.false_eq_true, if_false, hostDoes_of_up hup, modDie_pageReqs, hr]

theorem exec_mcPfqResp_of_no_tag {v : Word}
    (hr : s.pageReqs.find? (fun r => r.sent && !r.pri && r.tag == 2 ^ 32 * (die + 1) + v.toNat % 2 ^ 16) = none) :
    exec (.mcPfqResp die v) s = .next (modDie s die fun d => { d with pfqResp := v &&& 0x1FFFF }) := by
  change execMcPfqResp die v s = _
  simp only [execMcPfqResp, hd, Option.isNone_some, Bool.false_eq_true, if_false, hostDoes_of_up hup, modDie_pageReqs, hr]

theorem exec_mcPfqTail (v : Word) : exec (.mcPfqTail die v) s = .next (modDie s die fun d => { d with pfqTail := v.toNat % 2 ^ 17 }) := by
  change execMcPfqTail die v s = _
  simp only [execMcPfqTail, hd, Option.isNone_some, Bool.false_eq_true, if_false, hostDoes_of_up hup]

/-- SC_PIN_n takes its writable bits, V among them, and with V set the status of the check (R49, R50). -/
theorem exec_scPin {n : Nat} (v : BitVec 64) (hn : n < 64) :
    let w := v &&& 0x000FFFFFFFFF001F
    let e := { d with pins := d.pins.set n w, pinStatus := d.pinStatus.set n 0 }
    exec (.scPin die n v) s = .next (if v.getLsbD 0 then setDie (setDie s e) { e with pinStatus := e.pinStatus.set n (pinCheck (setDie s e) e w) }
      else setDie s e) := by
  intro w e
  have hv : w.getLsbD 0 = v.getLsbD 0 := by simp [w]
  change execScPin die n v s = _
  simp only [execScPin, hd, Nat.not_le.mpr hn, if_false, hostDoes_of_up hup]
  rw [← hv]

/-- SC_PART_n takes its writable bits, and pins that no longer fit are released (R51). -/
theorem exec_scPartWrite_part {n : Nat} (v : BitVec 64) (hn : n < 16) :
    exec (.scPartWrite die (0x100 + 8 * n) v) s =
      .next (setDie s (releasePins { d with scPart := d.scPart.set n (if n = 0 then v &&& 0xFFFF ||| 0x10000 else v &&& 0x1FFFF) })) := by
  have hoff : 0x100 ≤ 0x100 + 8 * n ∧ 0x100 + 8 * n < 0x180 ∧ (0x100 + 8 * n) % 8 = 0 := by omega
  have hplace : (0x100 + 8 * n - 0x100) / 8 = n := by omega
  change execScPartWrite die (0x100 + 8 * n) v s = _
  simp only [execScPartWrite, hd]
  rw [if_pos hoff, hplace, hostDoes_of_up hup]

theorem exec_scPartWrite_maps (v : BitVec 64) :
    exec (.scPartWrite die 0x180 v) s = .next (setDie s { d with tenantMap := v }) ∧
    exec (.scPartWrite die 0x188 v) s = .next (setDie s { d with hostMap := v &&& 0xF }) := by
  have hoff : ∀ off, exec (.scPartWrite die off v) s = execScPartWrite die off v s := fun _ => rfl
  constructor
  · rw [hoff, execScPartWrite, hd]
    exact hostDoes_of_up hup fun s => setDie s { d with tenantMap := v }
  · rw [hoff, execScPartWrite, hd]
    exact hostDoes_of_up hup fun s => setDie s { d with hostMap := v &&& 0xF }

omit hup in
/-- A pin that is being installed becomes active (R50). -/
theorem exec_pinInstallDone {n : Nat} (hn : d.pinStatus.getD n 0 = 1) :
    exec (.pinInstallDone die n) s = .next (setDie s { d with pinStatus := d.pinStatus.set n 2 }) := by
  change execPinInstallDone die n s = _
  rw [execPinInstallDone, hd]
  exact if_pos hn

end

/-- Settles O50: each completion, response, invalidation and register by its own rule. -/
theorem pageAndPinEvents : Obligations.PageAndPinEvents := by
  intro s hup
  refine ⟨fun req ans w hw => ⟨exec_atsCompletion_granted hup hw, exec_atsCompletion_refused hup hw⟩, fun _ _ => exec_pageGroupResponse hup,
    exec_priEnable hup, fun _ _ _ => exec_atsInvalidateRequest hup, fun die d hd => ⟨?_, ?_, ?_, ?_, ?_, ?_, ?_⟩⟩
  · exact fun _ _ => exec_mcPfqResp_of_tag hup hd
  · exact fun _ => exec_mcPfqResp_of_no_tag hup hd
  · exact exec_mcPfqTail hup hd
  · exact fun _ v => exec_scPin hup hd v
  · exact fun _ v => exec_scPartWrite_part hup hd v
  · exact exec_scPartWrite_maps hup hd
  · exact fun _ => exec_pinInstallDone hd

end Sys2Proof.Machine
end

section
/-! PROOF of O51, LinkAndFenceEvents: one rule for each event of the link, of the fences and acknowledgements, and of the memory's errors. -/

namespace Sys2Proof.Machine

/-! ### The link -/

theorem samePlaces_emitLink (s : State) (ev : Nat) : SamePlaces s (emitLink s ev) := samePlaces_ite (samePlaces_emit s _ _ _ _ _ _) rfl

theorem emitLink_link (s : State) (ev : Nat) : (emitLink s ev).link = s.link := by
  unfold emitLink emitDie emit emitAt
  split
  · split
    · rfl
    split
    · rfl
    split <;> rfl
  · rfl

theorem retrain_retraining (s : State) : (retrain s).link.retraining = true := by
  unfold retrain
  rw [emitLink_link]

section
variable {s : State} {die : Nat} {d : Die} (hd : dieAt s die = some d) (hlink : s.link.retraining = false) (hfence : fenced s 0 = false)
  (hfence' : fenced s 1 = false)
include hlink hfence'

theorem exec_laneLockLoss : exec .laneLockLoss s = .next (retrain s) := by
  change execLaneLockLoss s = _
  simp only [execLaneLockLoss, hlink, hfence', Bool.or_self, Bool.false_eq_true, if_false]

theorem exec_linkHeartbeat : exec .linkHeartbeat s = .next { s with link := { s.link with beat := s.time1 } } := by
  change execLinkHeartbeat s = _
  simp only [execLinkHeartbeat, hlink, hfence', Bool.or_self, Bool.false_eq_true, if_false]

include hd hfence

/-- A flit is received while the link is up: a good one applies the other die's writes, a bad one counts, and the fifth in a row starts a retrain (R44, R64). -/
theorem execFlitReceive_of_up (crcOk : Bool) : execFlitReceive die crcOk s =
    if crcOk then .next (applyRemote { s with link := { s.link with crcFails := s.link.crcFails.set die 0 } } die)
    else if 5 ≤ s.link.crcFails.getD die 0 + 1 then .next (retrain s)
    else .next { s with link := { s.link with crcFails := s.link.crcFails.set die (s.link.crcFails.getD die 0 + 1) } } := by
  simp only [execFlitReceive, hd, hlink, hfence, hfence', Option.isNone_some, Bool.or_self, Bool.false_eq_true, if_false]

theorem exec_flitReceive_good :
    exec (.flitReceive die true) s = .next (applyRemote { s with link := { s.link with crcFails := s.link.crcFails.set die 0 } } die) :=
  execFlitReceive_of_up hd hlink hfence hfence' true

theorem exec_flitReceive_bad (h : s.link.crcFails.getD die 0 < 4) : exec (.flitReceive die false) s =
    .next { s with link := { s.link with crcFails := s.link.crcFails.set die (s.link.crcFails.getD die 0 + 1) } } :=
  (execFlitReceive_of_up hd hlink hfence hfence' false).trans ((if_neg Bool.false_ne_true).trans (if_neg (by omega)))

theorem exec_flitReceive_fifth (h : 4 ≤ s.link.crcFails.getD die 0) : exec (.flitReceive die false) s = .next (retrain s) :=
  (execFlitReceive_of_up hd hlink hfence hfence' false).trans ((if_neg Bool.false_ne_true).trans (if_pos (by omega)))

end

/-- The three ends of a retrain (R65, R66). -/
theorem exec_linkRetrainEnd {s : State} (h : s.link.retraining = true) :
    exec (.linkRetrainEnd true) s = .next (sendRequests (runPushes (emitLink { s with link := { s.link with retraining := false } }
      (if s.link.half then 2 else 1)))) ∧
    (s.link.half = true → let t := emitLink { s with link := { s.link with retraining := false, down := true } } 3
      exec (.linkRetrainEnd false) s = .next (if fenced s 1 then announce t else fenceDie t 1 4)) ∧
    (s.link.half = false → exec (.linkRetrainEnd false) s = .next (degrade { s with link := { s.link with half := true } } 4 0 4)) := by
  have hev : ∀ passed, exec (.linkRetrainEnd passed) s = execLinkRetrainEnd passed s := fun _ => rfl
  simp only [hev, execLinkRetrainEnd, h, Bool.not_true, Bool.false_eq_true, if_false, if_true, true_and]
  refine ⟨fun hhalf => ?_, fun hhalf => ?_⟩
  · rw [if_pos hhalf, (samePlaces_emitLink _ 3).fenced]
    rfl
  · rw [if_neg (Bool.not_eq_true _ ▸ hhalf)]

/-! ### Fences and acknowledgements -/

/-- A die with nothing of the range left to do drops it and acknowledges (R62, R63). -/
theorem exec_shootdownAck {s t : State} {n die : Nat} {d : Die} {v : Shootdown} (hv : s.shootdowns.find? (fun v => v.id == n) = some v)
    (hd : dieAt s die = some d) (hfence : fenced s die = false) (hack : v.acked.contains die = false) (hbusy : sdBusy s v die = false)
    (hlink : s.link.retraining = false ∨ die = v.die)
    (hsettle : settleCores s ((s.cores.filter fun c => dieOfCore c.id == die).map (·.id)) = (true, t)) :
    exec (.shootdownAck n die) s = .next (endShootdowns { dropRange t v die with
      shootdowns := (dropRange t v die).shootdowns.map fun x => if x.id == n then { x with acked := x.acked ++ [die] } else x }) := by
  have hcross : (s.link.retraining && die != v.die) = false := by rcases hlink with h | h <;> simp [h]
  change execShootdownAck n die s = _
  simp only [execShootdownAck, hv, hack, hd, hfence, hbusy, hcross, hsettle, Option.isNone_some, Bool.or_self, Bool.false_eq_true, if_false]

/-- DIE_FENCE fences a die that has not acknowledged (R66). -/
theorem exec_dieFence {s : State} {n die : Nat} {d : Die} {v : Shootdown} (hv : s.shootdowns.find? (fun v => v.id == n) = some v)
    (hd : dieAt s die = some d) (hfence : fenced s die = false) (hack : v.acked.contains die = false) :
    exec (.dieFence die) s = .next (fenceDie s die 3) := by
  have hwaits : s.shootdowns.any (fun v => !v.acked.contains die) = true :=
    List.any_eq_true.mpr ⟨v, List.mem_of_find?_eq_some hv, by rw [hack]; rfl⟩
  change execDieFence die s = _
  simp only [execDieFence, hd, hfence, hwaits, Option.isSome_some, Bool.not_false, Bool.and_self, if_true]

/-- A core changed by its number is the only one changed. -/
theorem coreAt_modCore_self {s : State} {n : Nat} {f : CoreSt → CoreSt} (hf : ∀ x, (f x).id = x.id) :
    coreAt (modCore s n f) n = (coreAt s n).map f := by
  unfold coreAt modCore
  rw [find_map_set fun x => if x.id == n then f x else x]
  · cases h : s.cores.find? fun x => x.id == n with
    | none => rfl
    | some k =>
      have hk : (k.id == n) = true := by simpa using List.find?_some h
      simp only [Option.map_some, hk, if_true]
  · intro x
    split <;> simp only [hf]

theorem coreAt_modCore_other {s : State} {n c : Nat} {f : CoreSt → CoreSt} (hf : ∀ x, (f x).id = x.id) (hc : c ≠ n) :
    coreAt (modCore s n f) c = coreAt s c := by
  unfold coreAt modCore
  refine find_map_other (fun x => if x.id == n then f x else x) (fun x => ?_) _
  by_cases hx : x.id = n
  · exact .inr (by simp [hx, hf, Ne.symm hc])
  · exact .inl (by simp [hx])

/-- ICINV_ACK drops the core's lines of the range, and changes no other core (R332). -/
theorem exec_icinvAck {s : State} {n core : Nat} {v : IcInv} (hv : s.icinvs.find? (fun v => v.id == n) = some v) (hack : v.acked.contains core = false)
    (hcore : (icinvCores s).contains core = true) (hlink : s.link.retraining = false ∨ dieOfCore core = icinvDie s v.crew) :
    ∃ t, exec (.icinvAck n core) s = .next t ∧ t.icinvs = (s.icinvs.map fun w => if w.id == n then { w with acked := w.acked ++ [core] } else w) ∧
      (∀ k, coreAt t core = some k → ∀ l ∈ k.icache, l.pasid = v.pasid → ∃ f c, v.lines = some (f, c) ∧ (l.line < f ∨ f + c ≤ l.line)) ∧
      (∀ c, c ≠ core → coreAt t c = coreAt s c) ∧ t.mem = s.mem ∧ t.crews = s.crews := by
  have hcross : (s.link.retraining && dieOfCore core != icinvDie s v.crew) = false := by rcases hlink with h | h <;> simp [h]
  change ∃ t, execIcinvAck n core s = .next t ∧ _
  simp only [execIcinvAck, hv, hack, hcore, hcross, Bool.not_true, Bool.or_self, Bool.false_eq_true, if_false]
  refine ⟨_, rfl, rfl, ?_, fun c hc => coreAt_modCore_other (s := s) (fun _ => rfl) hc, rfl, rfl⟩
  intro k hk l hl hpasid
  change coreAt (modCore s core _) core = some k at hk
  rw [coreAt_modCore_self] at hk
  swap
  · exact fun _ => rfl
  obtain ⟨k₀, -, rfl⟩ := Option.map_eq_some_iff.mp hk
  have hmiss := (List.mem_filter.mp hl).2
  rw [hpasid, beq_self_eq_true, Bool.true_and] at hmiss
  cases hlines : v.lines with
  | none => simp [hlines] at hmiss
  | some r =>
    obtain ⟨f, c⟩ := r
    simp only [hlines, Bool.not_eq_true', Bool.and_eq_false_iff, decide_eq_false_iff_not, Nat.not_le, Nat.not_lt] at hmiss
    exact ⟨f, c, rfl, hmiss⟩

/-! ### Memory errors -/

section
variable {s : State} {die addr : Nat} (hfence : fenced s die = false) (hbad : badDpa s addr = false) (hhome : homeDie s addr = die)
include hfence hbad hhome

/-- A correctable error is counted (R338). -/
theorem exec_eccError_fixable : exec (.eccError die addr true) s = .next (emitEcc s die 321 0 0 0) := by
  change execEccError die addr true s = _
  simp only [execEccError, hfence, hbad, hhome, bne_self_eq_false, Bool.or_self, Bool.false_eq_true, if_false, if_true]

/-- An uncorrectable error poisons its sector alone, once no read of its line is in flight (log entry 36). -/
theorem exec_eccError_unfixable (hidle : ∀ f ∈ s.flights, f.op.reads = true → f.todo.contains (addr / 256) = false) :
    ∃ t, exec (.eccError die addr false) s = .next t ∧ poisoned t addr = true ∧ (∀ a, a / 64 ≠ addr / 64 → poisoned t a = poisoned s a) ∧ t.mem = s.mem := by
  have hread : (s.flights.any fun f => f.op.reads && f.todo.contains (addr / 256)) = false := by
    refine List.any_eq_false.mpr fun f hf h => ?_
    obtain ⟨hr, ht⟩ := Bool.and_eq_true_iff.mp h
    rw [hidle f hf hr] at ht
    exact Bool.noConfusion ht
  change ∃ t, execEccError die addr false s = .next t ∧ _
  simp only [execEccError, hfence, hbad, hhome, hread, bne_self_eq_false, Bool.or_self, Bool.false_eq_true, if_false]
  refine ⟨_, rfl, ?_, fun a ha => ?_, rfl⟩
  · by_cases hp : addr / 64 ∈ s.poison <;> simp [poisoned, hp]
  · by_cases hp : addr / 64 ∈ s.poison <;> simp [poisoned, hp, ha]

end

/-- A burst CRC failure of a controller that the die has is counted (R338). -/
theorem exec_burstCrcFailure {s : State} {die k : Nat} {d : Die} (hd : dieAt s die = some d) (hfence : d.fenced = false)
    (hctl : d.ctls.contains k = true) : exec (.burstCrcFailure die k) s = .next (emitEcc s die 322 (1 + k) 1 k) := by
  change execBurstCrcFailure die k s = _
  simp only [execBurstCrcFailure, hd, hfence, hctl, Bool.not_true, Bool.or_self, Bool.false_eq_true, if_false]

/-- Settles O51: each event of the link, of the fences and acknowledgements and of the memory's errors by its own rule. -/
theorem linkAndFenceEvents : Obligations.LinkAndFenceEvents := by
  refine ⟨fun s die d hd hlink h0 h1 => ?_, fun s => exec_linkRetrainEnd, fun s n die d v hv hd hfence hack => ?_, fun s n core v => exec_icinvAck,
    fun s die addr hfence hbad hhome => ?_, fun s die k d => exec_burstCrcFailure⟩
  · exact ⟨exec_flitReceive_good hd hlink h0 h1, exec_flitReceive_bad hd hlink h0 h1, exec_flitReceive_fifth hd hlink h0 h1,
      exec_laneLockLoss hlink h1, exec_linkHeartbeat hlink h1, retrain_retraining s⟩
  · exact ⟨fun t => exec_shootdownAck hv hd hfence hack, exec_dieFence hv hd hfence hack⟩
  · exact ⟨exec_eccError_fixable hfence hbad hhome, exec_eccError_unfixable hfence hbad hhome⟩

end Sys2Proof.Machine
end

section
/-! SUPPORT. Registers: what a read returns after a write to the same and to another register, and after the write of a group of registers. -/

namespace Sys2Proof.Machine

/-! ### Lanes -/

@[simp] theorem laneReg_at (sh : Shape) (f : Fmt) (t : BitVec 9) (v : Nat → Word) {l : Nat} (h : l < 32) : (laneReg sh f t v).at l = v l := by
  simp [laneReg, Reg.at, laneIds, h]

@[simp] theorem laneReg_shape (sh : Shape) (f : Fmt) (t : BitVec 9) (v : Nat → Word) : (laneReg sh f t v).shape = sh := rfl

theorem firstLane_lt (m : Mask) : firstLane m < 32 := by
  unfold firstLane
  cases h : laneIds.find? (laneIn m) with
  | none => decide
  | some l => exact List.mem_range.mp (List.mem_of_find?_eq_some h)

theorem laneIn_and (m n : Mask) (l : Nat) : laneIn (m &&& n) l = (laneIn m l && laneIn n l) := BitVec.getLsbD_and

theorem ne_zero_of_laneIn {m : Mask} {l : Nat} (h : laneIn m l = true) : m ≠ 0 := by
  rintro rfl
  exact Bool.false_ne_true ((BitVec.getLsbD_zero ..).symm.trans h)

/-! ### A register written -/

theorem vreg_setReg_self {c : Crew} {d : Nat} (r : Reg) (h : d < c.regs.length) : vreg (setReg c d r) d = r := by
  simp [vreg, setReg, h]

theorem vreg_setReg_other (c : Crew) {d n : Nat} (r : Reg) (h : n ≠ d) : vreg (setReg c d r) n = vreg c n := by
  simp [vreg, setReg, List.getElem?_set_ne h.symm]

theorem vreg_writeVd_self {c : Crew} {d : Nat} (r : Reg) (act : Mask) (full : Bool) (hd : d < 60) (hl : d < c.regs.length) :
    vreg (writeVd c d r act full) d = regWrite (vreg c d) r act full := by
  rw [writeVd, if_pos hd, vreg_setReg_self _ hl]

theorem vreg_writeVd_other (c : Crew) {d n : Nat} (r : Reg) (act : Mask) (full : Bool) (h : n ≠ d) : vreg (writeVd c d r act full) n = vreg c n := by
  unfold writeVd
  split
  · exact vreg_setReg_other c _ h
  · rfl

@[simp] theorem writeVd_regs_length (c : Crew) (d : Nat) (r : Reg) (act : Mask) (full : Bool) :
    (writeVd c d r act full).regs.length = c.regs.length := by
  unfold writeVd
  split
  · exact List.length_set
  · rfl

/-! ### What a write leaves in a register -/

/-- A full write of shape U gives every lane the value of the first active one (R125). -/
theorem regWrite_at_uniform {old res : Reg} {act : Mask} (h : act ≠ 0) (hs : res.shape = .u) {l : Nat} (hl : l < 32) :
    (regWrite old res act true).at l = res.at (firstLane act) := by
  rw [regWrite, if_neg h]
  exact (newLanes_at old res act true hl).trans (if_pos ⟨rfl, hs⟩)

/-- A write of shape G gives the lanes of `act` their values and leaves the others (R19, R125). -/
theorem regWrite_at_general {old res : Reg} {act : Mask} (full : Bool) (h : act ≠ 0) (hs : res.shape = .g) {l : Nat} (hl : l < 32) :
    (regWrite old res act full).at l = if laneIn act l then res.at l else old.at l := by
  rw [regWrite, if_neg h]
  refine (newLanes_at old res act full hl).trans ?_
  simp only [hs, reduceCtorEq, and_false, if_false]

theorem regWrite_tags {old res : Reg} {act : Mask} (full : Bool) (h : act ≠ 0) : (regWrite old res act full).fmt = res.fmt ∧
    (regWrite old res act full).taint = res.taint ∧ (regWrite old res act full).shape = if full then res.shape else .g := by
  rw [regWrite, if_neg h]
  exact ⟨rfl, rfl, rfl⟩

/-! ### A group of registers written -/

/-- A crew with several registers from `d` up written under one active set. -/
def writeGroup (c : Crew) (d n : Nat) (v : Nat → Reg) (act : Mask) (full : Bool) : Crew :=
  (List.range n).foldl (fun c i => writeVd c (d + i) (v i) act full) c

section
variable (c : Crew) (d n : Nat) (v : Nat → Reg) (act : Mask) (full : Bool)

theorem writeGroup_succ : writeGroup c d (n + 1) v act full = writeVd (writeGroup c d n v act full) (d + n) (v n) act full := by
  rw [writeGroup, List.range_succ, List.foldl_append]
  rfl

/-- A group's write changes registers alone. -/
theorem writeGroup_frame : writeGroup c d n v act full = { c with regs := (writeGroup c d n v act full).regs } := by
  induction n with
  | zero => rfl
  | succ n ih => rw [writeGroup_succ, writeVd_frame, ih]

theorem writeGroup_regs_length : (writeGroup c d n v act full).regs.length = c.regs.length := by
  induction n with
  | zero => rfl
  | succ n ih => rw [writeGroup_succ, writeVd_regs_length, ih]

theorem vreg_writeGroup_above {j : Nat} (h : d + n ≤ j) : vreg (writeGroup c d n v act full) j = vreg c j := by
  induction n with
  | zero => rfl
  | succ n ih => rw [writeGroup_succ, vreg_writeVd_other _ _ _ _ (by omega), ih (by omega)]

end

/-- Each register of a group takes its own result. -/
theorem vreg_writeGroup {c : Crew} {d n : Nat} (v : Nat → Reg) (act : Mask) (full : Bool) {i : Nat} (hi : i < n) (hd : d + n ≤ 60)
    (hl : d + n ≤ c.regs.length) : vreg (writeGroup c d n v act full) (d + i) = regWrite (vreg c (d + i)) (v i) act full := by
  induction n with
  | zero => exact absurd hi i.not_lt_zero
  | succ n ih =>
    rw [writeGroup_succ]
    rcases Nat.lt_succ_iff_lt_or_eq.mp hi with hlt | rfl
    · rw [vreg_writeVd_other _ _ _ _ (by omega)]
      exact ih hlt (by omega) (by omega)
    · rw [vreg_writeVd_self _ _ _ (by omega) (by rw [writeGroup_regs_length]; omega), vreg_writeGroup_above _ _ _ _ _ _ (Nat.le_refl _)]

/-! ### The destinations of a load and of an atomic -/

/-- The lanes that an access returns to are live lanes of its active set (R283; log entry 68). -/
theorem laneIn_writeMask (f : Flight) (c : Crew) (l : Nat) : laneIn (writeMask f c) l = (laneIn f.req.act l && laneIn c.live l) := laneIn_and ..

/-- What a load gives its `i`-th destination: of shape U where the address is uniform (R85). -/
def loadReg (f : Flight) (size : Nat) (sx : Bool) (i : Nat) : Reg :=
  laneReg (if f.uidx && f.full then .u else .g) f.fmt (slotTaint f.req) (loadWord f size sx i)

theorem writeLoad_eq (f : Flight) (size n : Nat) (sx : Bool) (c : Crew) :
    writeLoad f size n sx c = writeGroup c f.vd n (loadReg f size sx) (writeMask f c) f.full := by
  induction n with
  | zero => rfl
  | succ n ih =>
    have hmask : writeMask f (writeGroup c f.vd n (loadReg f size sx) (writeMask f c) f.full) = writeMask f c := by rw [writeGroup_frame]; rfl
    calc writeLoad f size (n + 1) sx c
      _ = writeVd (writeLoad f size n sx c) (f.vd + n) (loadReg f size sx n) (writeMask f (writeLoad f size n sx c)) f.full := by
        rw [writeLoad, List.range_succ, List.foldl_append]; rfl
      _ = _ := by rw [ih, hmask, writeGroup_succ]

theorem writeLoad_frame (f : Flight) (size n : Nat) (sx : Bool) (c : Crew) :
    writeLoad f size n sx c = { c with regs := (writeLoad f size n sx c).regs } := by
  rw [writeLoad_eq, writeGroup_frame]

/-- The `i`-th destination of a load. -/
theorem vreg_writeLoad (f : Flight) (size : Nat) {n : Nat} (sx : Bool) {c : Crew} {i : Nat} (hi : i < n) (hd : f.vd + n ≤ 60)
    (hl : f.vd + n ≤ c.regs.length) :
    vreg (writeLoad f size n sx c) (f.vd + i) = regWrite (vreg c (f.vd + i)) (loadReg f size sx i) (writeMask f c) f.full := by
  rw [writeLoad_eq]
  exact vreg_writeGroup _ _ _ hi hd hl

/-- With a uniform index a full load gives every lane the value of its first lane; any other gives its lanes their own values (R74, R85). -/
theorem vreg_writeLoad_at (f : Flight) (size : Nat) {n : Nat} (sx : Bool) {c : Crew} {i l : Nat} (hi : i < n) (hd : f.vd + n ≤ 60)
    (hl : f.vd + n ≤ c.regs.length) (hm : writeMask f c ≠ 0) (hlane : l < 32) : (vreg (writeLoad f size n sx c) (f.vd + i)).at l =
    if f.uidx = true ∧ f.full = true then loadWord f size sx i (firstLane (writeMask f c))
    else if laneIn f.req.act l && laneIn c.live l then loadWord f size sx i l else (vreg c (f.vd + i)).at l := by
  rw [vreg_writeLoad f size sx hi hd hl]
  by_cases hu : f.uidx = true ∧ f.full = true
  · have hshape : (loadReg f size sx i).shape = .u := by simp [loadReg, hu]
    rw [if_pos hu, hu.2, regWrite_at_uniform hm hshape hlane]
    exact laneReg_at _ _ _ _ (firstLane_lt _)
  · have hshape : (loadReg f size sx i).shape = .g := by simp [loadReg, hu]
    rw [if_neg hu, regWrite_at_general _ hm hshape hlane, laneIn_writeMask]
    simp only [loadReg, laneReg_at _ _ _ _ hlane]

/-- What an atomic gives vd: the old words, 0 where a lane has accessed nothing (R74, R238). -/
def atomicReg (f : Flight) : Reg :=
  laneReg .g f.fmt (slotTaint f.req) fun l => if f.lanes.any fun u => u.1 == l then sget 0 f.old l else 0

theorem vreg_writeAtomic {f : Flight} {c : Crew} (hd : f.vd < 60) (hl : f.vd < c.regs.length) :
    vreg (writeAtomic f c) f.vd = regWrite (vreg c f.vd) (atomicReg f) (writeMask f c) f.full := vreg_writeVd_self _ _ _ hd hl

theorem vreg_writeAtomic_at {f : Flight} {c : Crew} (hd : f.vd < 60) (hl : f.vd < c.regs.length) (hm : writeMask f c ≠ 0) {l : Nat} (hlane : l < 32) :
    (vreg (writeAtomic f c) f.vd).at l = if laneIn f.req.act l && laneIn c.live l then
      (if f.lanes.any fun u => u.1 == l then sget 0 f.old l else 0) else (vreg c f.vd).at l := by
  rw [vreg_writeAtomic hd hl, regWrite_at_general (res := atomicReg f) _ hm rfl hlane, laneIn_writeMask]
  simp only [atomicReg, laneReg_at _ _ _ _ hlane]

end Sys2Proof.Machine
end

section
/-! PROOF of O36, HomeMemory: what writes in order leave at an address, and that performing a far store's line changes memory by its home write alone. -/

namespace Sys2Proof.Machine

/-! ### Writes in order -/

/-- Of several writes the last at an address counts. -/
theorem sget_sputAll_last {α : Type} [DecidableEq α] {d : α} : ∀ {ws : List (Nat × α)} {m : Sparse α} {i : Nat} {w : Nat × α}, swf d m = true →
    ws[i]? = some w → (∀ j v, i < j → ws[j]? = some v → v.1 ≠ w.1) → sget d (sputAll d m ws) w.1 = w.2
  | x :: ws, m, 0, w, h, hi, hlast => by
    obtain rfl : x = w := by simpa using hi
    have hrest : ∀ v ∈ ws, v.1 ≠ x.1 := fun v hv =>
      let ⟨j, hj⟩ := List.mem_iff_getElem?.mp hv
      hlast (j + 1) v j.succ_pos hj
    exact (sget_sputAll_other (swf_sput x.1 x.2 h) hrest).trans ((sget_sput h x.1 x.2 x.1).trans (if_pos rfl))
  | x :: ws, m, i + 1, w, h, hi, hlast =>
    sget_sputAll_last (ws := ws) (swf_sput x.1 x.2 h) hi fun j v hj hv => hlast (j + 1) v (Nat.succ_lt_succ hj) hv

/-- Writes that agree at each address: each of them counts. -/
theorem sget_sputAll_agree {α : Type} [DecidableEq α] {d : α} : ∀ {ws : List (Nat × α)} {m : Sparse α} {w : Nat × α}, swf d m = true →
    w ∈ ws → (∀ v ∈ ws, v.1 = w.1 → v.2 = w.2) → sget d (sputAll d m ws) w.1 = w.2
  | x :: ws, m, w, h, hw, hagree => by
    have h' : swf d (sput d m x.1 x.2) = true := swf_sput x.1 x.2 h
    by_cases hmore : ∃ v ∈ ws, v.1 = w.1
    · obtain ⟨v, hv, hvw⟩ := hmore
      have hval : v.2 = w.2 := hagree v (List.mem_cons_of_mem x hv) hvw
      have := sget_sputAll_agree h' hv fun u hu e => (hagree u (List.mem_cons_of_mem x hu) (e.trans hvw)).trans hval.symm
      rwa [hvw, hval] at this
    · obtain rfl : w = x := (List.mem_cons.mp hw).resolve_right fun hin => hmore ⟨w, hin, rfl⟩
      exact (sget_sputAll_other h' fun v hv e => hmore ⟨v, hv, e⟩).trans ((sget_sput h w.1 w.2 w.1).trans (if_pos rfl))

/-! ### A home write -/

/-- A write at an address that home memory has puts its bytes there in order (R79). -/
theorem homeWrite_mem {s : State} {c : Clock} {ws : List (Nat × Byte)} (h : ∀ w ∈ ws.head?, badDpa s w.1 = false) :
    (homeWrite s c ws).mem = sputAll 0 s.mem ws := by
  cases ws with
  | nil => rfl
  | cons w ws =>
    have hw : badDpa s w.1 = false := h w rfl
    simp only [homeWrite, hw, Bool.false_eq_true, if_false, mesiSet_mem, bumpHome_mem]

/-! ### A far store performed -/

/-- What a write performed for a crew leaves in memory is what its home write does. -/
theorem homePerform_mem (s : State) (f : Flight) (ws : List (Nat × Byte)) : ∃ c, (homePerform s f ws).mem = (homeWrite s c ws).mem := by
  cases ws with
  | nil => exact ⟨Clock.zero, rfl⟩
  | cons w ws =>
    by_cases hbad : badDpa s w.1 = true
    · exact ⟨Clock.zero, by simp only [homePerform, homeWrite, List.head?_cons, hbad, if_true]⟩
    · refine ⟨if (f.op.releases && decide (2 ≤ f.scope)) = true then f.clock.sup s.relClock else f.clock, ?_⟩
      simp only [homePerform, List.head?_cons, if_neg hbad]
      split <;> split <;> rfl

/-- An access that returns nothing ends without a trace in memory. -/
theorem finishFlight_store_mem {s : State} {f : Flight} {n k : Nat} (h : f.op = .store n k) : (finishFlight s f).mem = s.mem := by
  have hend : (endAccess s f).mem = s.mem := by
    simp only [endAccess, h]
    split <;> rfl
  have hframe : ∀ c, frameReady s f c = (true, s) := fun c => by simp [frameReady, h, MemOp.dests]
  unfold finishFlight
  split
  · exact hend
  · simp only [hframe, ite_self, hend]

/-- A store's line that is done leaves memory as it is. -/
theorem lineDone_store_mem {s : State} {f : Flight} {line by_ n k : Nat} (h : f.op = .store n k) (hs : f.sampled = false) :
    (lineDone s f line by_).mem = s.mem := by
  unfold lineDone
  simp only [hs, Bool.false_and, Bool.false_eq_true, if_false]
  split
  · exact (finishFlight_store_mem (by exact h)).trans rfl
  · rfl

/-- A far store's line performed writes the store's bytes of that line at home, and nothing else (R79). -/
theorem performStore_mem {s : State} {f : Flight} {line n k : Nat} (h : f.op = .store n k) (hs : f.sampled = false) :
    ∃ c, (performStore s f line).mem = (homeWrite s c (storeBytes f line)).mem := by
  have hop : (f.op == .strel) = false := by rw [h]; rfl
  obtain ⟨c, hc⟩ := homePerform_mem s f (storeBytes f line)
  refine ⟨c, ?_⟩
  unfold performStore
  simp only [hop, Bool.false_eq_true, if_false]
  exact (lineDone_store_mem h hs).trans hc

/-- Settles O36: a home write is a list of writes in order, which keeps the canonical form; a far store's line is one home write. -/
theorem homeMemory : Obligations.HomeMemory := by
  unfold Obligations.HomeMemory
  refine ⟨fun s c ws h => ⟨homeWf_homeWrite s c ws h, fun a => readByte_homeWrite_other s c ws h, fun hhome i w hi hlast => ?_⟩,
    fun s f line h ⟨n, k, hop⟩ hs hhome hagree => ?_⟩
  · rw [homeWrite_mem hhome]
    exact sget_sputAll_last (Bool.and_eq_true_iff.mp h).1 hi hlast
  · obtain ⟨c, hc⟩ := performStore_mem (s := s) (line := line) hop hs
    rw [hc]
    refine ⟨fun a => readByte_homeWrite_other s c _ h, fun w hw => ?_⟩
    rw [homeWrite_mem fun v hv => hhome v (List.mem_of_mem_head? hv)]
    exact sget_sputAll_agree (Bool.and_eq_true_iff.mp h).1 hw (hagree w hw)

end Sys2Proof.Machine
end

section
/-! PROOF of O32, AccessAddresses: the swizzle turns bits of an offset's place in its line by bits above the line, and a lane's check follows its address. -/

namespace Sys2Proof.Machine

/-! ### The swizzle -/

/-- The bits that the swizzle turns: whole units, taken from above the line (R72, Table 4-3). -/
def swzMask (sw x : Nat) : Nat := x / 2 ^ (8 + sw / 4) % 2 ^ (6 - sw % 4) * swzUnit sw

theorem swz_zero (x : Nat) : swz 0 x = x := rfl

theorem swzUnit_eq (sw : Nat) : swzUnit sw = 2 ^ (2 + sw % 4) := (pow_add 2 2 (sw % 4)).symm

theorem swz_of_ne_zero {sw : Nat} (h : sw ≠ 0) (x : Nat) : swz sw x = x ^^^ swzMask sw x := by
  have hwidth : 8 - (2 + sw % 4) = 6 - sw % 4 := by omega
  simp only [swz, if_neg h, swzMask, swzUnit_eq, hwidth]

/-- Whole units fill a line. -/
theorem swzUnit_mul (sw : Nat) : 2 ^ (6 - sw % 4) * swzUnit sw = 256 := by
  have h : ∀ r < 4, 2 ^ (6 - r) * (4 * 2 ^ r) = 256 := by decide
  exact h _ (Nat.mod_lt _ (by decide))

theorem swzMask_lt (sw x : Nat) : swzMask sw x < 256 := by
  rw [← swzUnit_mul sw]
  exact Nat.mul_lt_mul_of_pos_right (Nat.mod_lt _ (Nat.two_pow_pos _)) (Nat.mul_pos (by decide) (Nat.two_pow_pos _))

/-- The bits turned depend on the line alone. -/
theorem swzMask_congr {sw x y : Nat} (h : y / 256 = x / 256) : swzMask sw y = swzMask sw x := by
  have hline : ∀ z, z / 2 ^ (8 + sw / 4) = z / 256 / 2 ^ (sw / 4) := fun z => by rw [pow_add, Nat.div_div_eq_div_mul]; rfl
  simp only [swzMask, hline, h]

/-- A swizzled offset stays in its line. -/
theorem swz_line (sw x : Nat) : swz sw x / 256 = x / 256 := by
  by_cases h : sw = 0
  · rw [h, swz_zero]
  · rw [swz_of_ne_zero h, show 256 = 2 ^ 8 from rfl, Nat.xor_div_two_pow, Nat.div_eq_of_lt (swzMask_lt sw x), Nat.xor_zero]

/-- A swizzled offset keeps its place in its unit. -/
theorem swz_unit (sw x : Nat) : swz sw x % swzUnit sw = x % swzUnit sw := by
  by_cases h : sw = 0
  · rw [h, swz_zero]
  · rw [swz_of_ne_zero h, swzMask, swzUnit_eq, Nat.xor_mod_two_pow, Nat.mul_mod_left, Nat.xor_zero]

/-- Swizzling twice gives the offset back, so swizzling is one to one. -/
theorem swz_swz (sw x : Nat) : swz sw (swz sw x) = x := by
  by_cases h : sw = 0
  · rw [h, swz_zero, swz_zero]
  · rw [swz_of_ne_zero h (swz sw x), swzMask_congr (swz_line sw x), swz_of_ne_zero h, Nat.xor_assoc, Nat.xor_self, Nat.xor_zero]

/-! ### The checks of a lane -/

section
variable {q : MemReq} {size l : Nat}

/-- The byte offset of a lane: its index times the stride (R73). -/
def MemReq.offset (q : MemReq) (l : Nat) : Nat := q.index l * rStride q.record

/-- A lane is out of bounds when the bytes that it accesses do not end within the extent (R73). -/
def MemReq.outside (q : MemReq) (size l : Nat) : Prop := rExtent q.record < q.offset l + size

theorem laneCheck_aligned (hin : ¬ q.outside size l) (ha : effAddr q.record (q.offset l) % size = 0) :
    laneCheck q size l = ([(l, effAddr q.record (q.offset l))], []) :=
  (if_neg hin).trans (if_neg (not_not.mpr ha))

theorem laneCheck_misaligned (hin : ¬ q.outside size l) (ha : effAddr q.record (q.offset l) % size ≠ 0) :
    laneCheck q size l = ([], [(l, trapMisalign, effAddr q.record (q.offset l) / 4096)]) :=
  (if_neg hin).trans (if_pos ha)

theorem laneCheck_outside (hout : q.outside size l) :
    laneCheck q size l = if rOobz q.record then ([], []) else ([], [(l, trapBounds, effAddr q.record (q.offset l) / 4096)]) :=
  if_pos hout

end

/-! ### The index of a lane -/

theorem index_of_not_flat {q : MemReq} (l : Nat) (h : rFlat q.record = false) : q.index l = ((q.image 0).at l).toNat := by
  simp only [MemReq.index, h, Bool.false_eq_true, if_false, Nat.add_zero]

theorem index_of_flat {q : MemReq} (l : Nat) (h : rFlat q.record = true) :
    q.index l = ((q.image 0).at l).toNat + 2 ^ 32 * ((q.image 1).at l).toNat := by
  rw [MemReq.index, if_pos h, Nat.mul_comm]

/-- Settles O32: a lane's check follows its offset and its address, and the swizzle is an exclusive or with bits that it leaves alone. -/
theorem accessAddresses : Obligations.AccessAddresses := by
  unfold Obligations.AccessAddresses
  refine ⟨fun q size l => ⟨fun hin => laneCheck_aligned hin.not_gt, fun hin => laneCheck_misaligned hin.not_gt⟩,
    fun q l => ⟨index_of_not_flat l, fun h => ⟨index_of_flat l h, if_pos h⟩⟩,
    fun sw x _ => ⟨swz_zero x, swz_line sw x, swz_unit sw x, swz_swz sw x, fun h => ?formula⟩⟩
  case formula => rw [swz_of_ne_zero h, swzMask, swzUnit_eq]

end Sys2Proof.Machine
end

section
/-! PROOF of O33, BoundsAndStoreFormats: what a lane without a unit gets, and which of a store's checks can end with FORMAT. -/

namespace Sys2Proof.Machine

/-! ### Lanes out of bounds -/

theorem laneCheck_outside_traps {q : MemReq} {size l : Nat} (h : q.outside size l) (ho : rOobz q.record = false) :
    laneCheck q size l = ([], [(l, trapBounds, effAddr q.record (q.offset l) / 4096)]) := by
  rw [laneCheck_outside h, ho]; rfl

theorem laneCheck_outside_passes {q : MemReq} {size l : Nat} (h : q.outside size l) (ho : rOobz q.record = true) : laneCheck q size l = ([], []) := by
  rw [laneCheck_outside h, ho]; rfl

/-- The unit that a lane's check gives is the lane's own, and the lane is in bounds. -/
theorem laneCheck_unit {q : MemReq} {size l : Nat} {w : Nat × Nat} (h : w ∈ (laneCheck q size l).1) : w.1 = l ∧ ¬ q.outside size l := by
  by_cases hout : q.outside size l
  · rw [laneCheck_outside hout] at h
    split at h <;> cases h
  refine ⟨?_, hout⟩
  by_cases ha : effAddr q.record (q.offset l) % size = 0
  · rw [laneCheck_aligned hout ha] at h
    exact congrArg Prod.fst (List.mem_singleton.mp h)
  · rw [laneCheck_misaligned hout ha] at h
    cases h

/-- The units of an access that passes come from the checks of its lanes. -/
theorem reqCheck_pass_units {o : MemOp} {q : MemReq} {full : Bool} {us : List (Nat × Nat)} (ho : o.group = none) (h : reqCheck o q full = .pass us) :
    us = ((laneIds.filter (laneIn q.act)).map (laneCheck q o.size)).flatMap (·.1) := by
  unfold reqCheck at h
  simp only [ho] at h
  split at h; · cases h
  split at h; · cases h
  split at h; · cases h
  split at h; · cases h
  split at h
  · exact (Chk.pass.inj h).symm
  · cases h

theorem reqCheck_unit_inside {o : MemOp} {q : MemReq} {full : Bool} {us : List (Nat × Nat)} {w : Nat × Nat} (ho : o.group = none)
    (h : reqCheck o q full = .pass us) (hw : w ∈ us) : ¬ q.outside o.size w.1 := by
  rw [reqCheck_pass_units ho h] at hw
  obtain ⟨r, hr, hwr⟩ := List.mem_flatMap.mp hw
  obtain ⟨l, -, rfl⟩ := List.mem_map.mp hr
  obtain ⟨rfl, hin⟩ := laneCheck_unit hwr
  exact hin

/-! ### A lane without a unit -/

section
variable {f : Flight} {l : Nat} (h : ∀ u ∈ f.lanes, u.1 ≠ l)
include h

theorem loadWord_of_no_unit (size : Nat) (sx : Bool) (i : Nat) : loadWord f size sx i l = 0 := by
  have hnone : (f.lanes.find? fun u => u.1 == l) = none := List.find?_eq_none.mpr fun u hu => by simpa using h u hu
  rw [loadWord, hnone]

theorem writeAtomic_of_no_unit {c : Crew} (hl : l < 32) (hact : laneIn f.req.act l = true) (hlive : laneIn c.live l = true) (hd : f.vd < 60)
    (hlen : f.vd < c.regs.length) : (vreg (writeAtomic f c) f.vd).at l = 0 := by
  have hmask : laneIn (writeMask f c) l = true := by rw [laneIn_writeMask, hact, hlive]; rfl
  have hnone : (f.lanes.any fun u => u.1 == l) = false := List.any_eq_false.mpr fun u hu => by simpa using h u hu
  rw [vreg_writeAtomic_at hd hlen (ne_zero_of_laneIn hmask) hl, hact, hlive, hnone]
  rfl

end

/-- Keeping the last of the bytes at each address adds none. -/
theorem mem_of_mem_lastBytes {b : Nat × Byte} : ∀ {ws : List (Nat × Byte)}, b ∈ lastBytes ws → b ∈ ws
  | w :: ws, h => by
    change b ∈ (if (lastBytes ws).any fun x => x.1 == w.1 then lastBytes ws else w :: lastBytes ws) at h
    split at h
    · exact List.mem_cons_of_mem w (mem_of_mem_lastBytes h)
    · exact (List.mem_cons.mp h).elim (· ▸ List.mem_cons_self) fun h => List.mem_cons_of_mem w (mem_of_mem_lastBytes h)

/-- The bytes of an access are bytes of its units (R86). -/
theorem mem_newFlight_bytes {s : State} {c : Crew} {a : Acc} {q : MemReq} {full parked : Bool} {k : Clock} {us : List KeyUnit} {b : Nat × Byte}
    (h : b ∈ (newFlight s c a q full parked k us).bytes) : ∃ w ∈ us, b ∈ unitBytes a.op q w := by
  change b ∈ (if a.op.writes then lastBytes (us.flatMap (unitBytes a.op q)) else []) at h
  split at h
  · exact List.mem_flatMap.mp (mem_of_mem_lastBytes h)
  · cases h

/-! ### The formats of a store -/

section
variable {q : MemReq} (full : Bool) (hrec : recordOk q.record false true = true) (hidx : ∀ r ∈ q.images.take (idxImages q.record), r.fmt.isIndex = true)
include hrec hidx

/-- A store through a good record with a good index traps with FORMAT only for its data. -/
theorem reqCheck_store_eq (size n : Nat) : reqCheck (.store size n) q full =
    if !dataFmtOk (.store size n) ((q.images.drop (idxImages q.record)).map (·.fmt)) (recordFmt q.record) then .trap trapFormat
    else if rSwizzle q.record != 0 && decide (swzUnit (rSwizzle q.record) < size) then .trap trapMisalign
    else
      let rs := (laneIds.filter (laneIn q.act)).map (laneCheck q size)
      if (rs.flatMap (·.2)).isEmpty then .pass (rs.flatMap (·.1)) else .lanes (rs.flatMap (·.2)) (rs.flatMap (·.1)) := by
  have hall : (q.images.take (idxImages q.record)).all (fun r => r.fmt.isIndex) = true := List.all_eq_true.mpr hidx
  have hok : recordOk q.record (MemOp.store size n).reads (MemOp.store size n).writes = true := hrec
  unfold reqCheck
  simp only [MemOp.group, hok, hall]
  rfl

theorem reqCheck_store_format_iff (size n : Nat) : reqCheck (.store size n) q full = .trap trapFormat ↔
    dataFmtOk (.store size n) ((q.images.drop (idxImages q.record)).map (·.fmt)) (recordFmt q.record) = false := by
  rw [reqCheck_store_eq full hrec hidx]
  constructor
  · intro h
    split at h
    next hf => simpa using hf
    split at h
    · exact absurd (Chk.trap.inj h) (by decide)
    dsimp only at h
    split at h <;> cases h
  · intro h
    rw [h]; rfl

theorem reqCheck_store_not_format {size n : Nat}
    (h : dataFmtOk (.store size n) ((q.images.drop (idxImages q.record)).map (·.fmt)) (recordFmt q.record) = true) :
    reqCheck (.store size n) q full ≠ .trap trapFormat := fun htrap =>
  Bool.false_ne_true (((reqCheck_store_format_iff full hrec hidx size n).mp htrap).symm.trans h)

end

/-- A store of a byte or a halfword accepts every data format; a wider one needs each data register's format to meet the record's (R84). -/
theorem dataFmtOk_store_iff (size n : Nat) (fs : List Fmt) (rf : Fmt) :
    dataFmtOk (.store size n) fs rf = true ↔ size < 4 ∨ ∀ f ∈ fs, f = rf ∨ f = .raw32 ∨ rf = .raw32 := by
  simp [dataFmtOk, or_assoc]

/-- Settles O33: a lane out of bounds has no unit, so a load, an atomic or a store finds none of it; a good record and index leave only a store's data to
trap with FORMAT. -/
theorem boundsAndStoreFormats : Obligations.BoundsAndStoreFormats := by
  unfold Obligations.BoundsAndStoreFormats
  refine ⟨⟨fun q size l hout => ⟨laneCheck_outside_traps hout, laneCheck_outside_passes hout⟩, ?units, ?flight, ?load⟩, ?formats⟩
  case units => exact fun o q full us l ho h hout _ w hw hwl => reqCheck_unit_inside ho h hw (hwl ▸ hout)
  case flight =>
    intro s c a q full parked k us l hno
    have hlanes : ∀ u ∈ (newFlight s c a q full parked k us).lanes, u.1 ≠ l := List.forall_mem_map.mpr hno
    exact ⟨fun size sx i => loadWord_of_no_unit hlanes size sx i,
      fun old hl hact hlive hd hlen => writeAtomic_of_no_unit hlanes hl hact hlive hd hlen, fun b hb => mem_newFlight_bytes hb⟩
  case load =>
    intro size n sx f c i l hi hd hlen hl hact hlive
    have hmask : laneIn (writeMask f c) l = true := by rw [laneIn_writeMask, hact, hlive]; rfl
    rw [vreg_writeLoad_at f size sx hi hd hlen (ne_zero_of_laneIn hmask) hl, hact, hlive]
    split <;> rfl
  case formats =>
    intro q full hrec hidx
    refine ⟨fun w hw => ⟨fun ⟨r, hr, hrec', hraw, hrecraw⟩ => ?differs, fun hagree => ?agrees⟩, fun n hn => ?narrow⟩
    case differs =>
      have hwide : ¬ w.1 < 4 := (by decide : ∀ w ∈ [(4, 1), (8, 2), (16, 4)], ¬ w.1 < 4) w hw
      refine (reqCheck_store_format_iff full hrec hidx w.1 w.2).mpr (Bool.eq_false_of_not_eq_true fun hok => ?_)
      have hnear := ((dataFmtOk_store_iff ..).mp hok).resolve_left hwide r.fmt (List.mem_map_of_mem hr)
      exact hnear.elim hrec' (Or.rec hraw hrecraw)
    case agrees => exact reqCheck_store_not_format full hrec hidx ((dataFmtOk_store_iff ..).mpr (.inr (List.forall_mem_map.mpr hagree)))
    case narrow => exact reqCheck_store_not_format full hrec hidx ((dataFmtOk_store_iff ..).mpr (.inl hn))

end Sys2Proof.Machine
end

section
/-! PROOF of O34, AccessReturns: the events that serve a flight, the end of a load, the values that extend, and the new word of each atomic. -/

namespace Sys2Proof.Machine

/-! ### The events that serve a flight -/

section
variable {s s1 s2 : State} {n line : Nat} {f : Flight} (hf : flightAt s n = some f) (hgo : lineGo s f line = (some s1, s2))
include hf hgo

theorem exec_loadDataReturn (hr : f.op.reads = true) (hw : f.op.writes = false) : exec (.loadDataReturn n line) s = .next (serveLoad s1 f line) := by
  change execLoadDataReturn n line s = _
  simp only [execLoadDataReturn, hf, hr, hw, hgo, Bool.not_true, Bool.or_self, Bool.false_eq_true, if_false]

theorem exec_atomicReturn {o : AOp} {h : BitVec 2} (ho : f.op = .atomic o h) : exec (.atomicReturn n line) s = .next (performAtomic s1 f o line) := by
  change execAtomicReturn n line s = _
  simp only [execAtomicReturn, hf, ho, hgo]

theorem exec_writePerformed (hr : f.op.reads = false) (hw : f.op.writes = true) : exec (.writePerformed n line) s = .next (performStore s1 f line) := by
  change execWritePerformed n line s = _
  simp only [execWritePerformed, hf, hr, hw, hgo, Bool.not_true, Bool.or_self, Bool.false_eq_true, if_false]

end

/-! ### The end of a load -/

theorem flightAt_endFlight (s : State) (id : Nat) : flightAt (endFlight s id) id = none :=
  List.find?_eq_none.mpr fun g hg => by simpa using (List.mem_filter.mp hg).2

/-- None of the flight's destinations is a register that the crew's trap frame holds for it (R311, R323). -/
def FrameFree (f : Flight) (c : Crew) : Prop := (f.under c && (f.op.dests f.vd).any (48 ≤ ·)) = false

theorem frameFree_of_low {f : Flight} {c : Crew} (h : f.under c = true → ∀ r ∈ f.op.dests f.vd, r < 48) : FrameFree f c := by
  refine Bool.eq_false_of_not_eq_true fun hframe => ?_
  obtain ⟨hunder, hany⟩ := Bool.and_eq_true_iff.mp hframe
  obtain ⟨r, hr, h48⟩ := List.any_eq_true.mp hany
  exact absurd (h hunder r hr) (Nat.not_lt.mpr (of_decide_eq_true h48))

theorem frameReady_of_frameFree {f : Flight} {c : Crew} (s : State) (h : FrameFree f c) : frameReady s f c = (true, s) :=
  if_neg (Bool.eq_false_iff.mp h)

theorem giveResult_of_frameFree {f : Flight} {c : Crew} (s : State) (g : Crew → Crew) (h : FrameFree f c) : giveResult s f c g = setCrew s (g c) :=
  if_pos ((Bool.not_eq_true' _).mpr h)

/-- A load whose lines have all been served gives its crew its destinations and its slot (R85, R128). -/
theorem finishFlight_load {s : State} {f : Flight} {c : Crew} {size n : Nat} {sx : Bool} (ho : f.op = .load size n sx) (hc : crewAt s f.crew = some c)
    (hlive : c.ended = false) (hfree : FrameFree f c) :
    finishFlight s f = setCrew (endFlight s f.id) (giveSlot (writeLoad f size n sx c) f) := by
  have hc' : crewAt (endFlight s f.id) f.crew = some c := hc
  calc finishFlight s f
    _ = endAccess s f := by simp only [finishFlight, hc, hlive, frameReady_of_frameFree s hfree, Bool.false_eq_true, if_false]
    _ = giveResult (endFlight s f.id) f c fun c => giveSlot (writeLoad f size n sx c) f := by
      simp only [endAccess, ho, hc', hlive, Bool.false_eq_true, if_false]
    _ = _ := giveResult_of_frameFree _ _ hfree

/-! ### What a load gives its destinations -/

theorem vreg_writeLoad_tags (f : Flight) (size : Nat) {n : Nat} (sx : Bool) {c : Crew} {i : Nat} (hi : i < n) (hd : f.vd + n ≤ 60)
    (hl : f.vd + n ≤ c.regs.length) (hm : writeMask f c ≠ 0) :
    let r := vreg (writeLoad f size n sx c) (f.vd + i)
    r.fmt = f.fmt ∧ r.taint = slotTaint f.req ∧ r.shape = if f.uidx = true ∧ f.full = true then .u else .g := by
  intro r
  obtain ⟨hfmt, htaint, hshape⟩ := regWrite_tags (old := vreg c (f.vd + i)) (res := loadReg f size sx i) f.full hm
  rw [← vreg_writeLoad f size sx hi hd hl] at hfmt htaint hshape
  refine ⟨hfmt, htaint, hshape.trans ?_⟩
  by_cases hfull : f.full = true
  · simp [loadReg, hfull]
  · simp [hfull]

theorem writeLoad_latch (f : Flight) (size n : Nat) (sx : Bool) (c : Crew) : (writeLoad f size n sx c).latch = c.latch := by rw [writeLoad_frame]

/-! ### Extension of bytes and halfwords -/

/-- The signed reading of a word's bits (R145). -/
theorem sgn_toNat {w : Nat} (v : BitVec w) : sgn w v.toNat = v.toInt := by
  cases w with
  | zero => simp [sgn, BitVec.of_length_zero]
  | succ w =>
    rw [sgn, BitVec.toInt_eq_toNat_cond, Nat.add_sub_cancel, pow_succ]
    split <;> split <;> omega

theorem ofNat_wrap (x : Int) : BitVec.ofNat 32 (wrap 32 x) = BitVec.ofInt 32 x := by
  have hwrap : (BitVec.ofInt 32 x).toNat = wrap 32 x := BitVec.toNat_ofInt x
  rw [← hwrap, BitVec.ofNat_toNat, BitVec.setWidth_eq]

theorem extend_unsigned {size : Nat} (v : Nat) (hs : size < 4) : extend size false v = BitVec.ofNat 32 v := if_pos hs

theorem extend_signed {size v : Nat} (hs : size < 4) (h : v < 2 ^ (8 * size)) : extend size true v = (BitVec.ofNat (8 * size) v).signExtend 32 := by
  have hv : (BitVec.ofNat (8 * size) v).toNat = v := (BitVec.toNat_ofNat ..).trans (Nat.mod_eq_of_lt h)
  calc extend size true v
    _ = BitVec.ofNat 32 (wrap 32 (sgn (8 * size) v)) := if_pos hs
    _ = BitVec.ofInt 32 (sgn (8 * size) (BitVec.ofNat (8 * size) v).toNat) := by rw [ofNat_wrap, hv]
    _ = _ := by rw [sgn_toNat]; rfl

/-! ### The new word of an atomic -/

theorem apply_min (f : Fmt) (m v w : Word) : AOp.apply .min f m v w = some (if v.slt m then v else m) := by
  simp only [AOp.apply, sgn_toNat, BitVec.slt_iff_toInt_lt]

theorem apply_max (f : Fmt) (m v w : Word) : AOp.apply .max f m v w = some (if m.slt v then v else m) := by
  simp only [AOp.apply, sgn_toNat, BitVec.slt_iff_toInt_lt, gt_iff_lt]

theorem apply_minu (f : Fmt) (m v w : Word) : AOp.apply .minu f m v w = some (if v.ult m then v else m) := by
  simp only [AOp.apply, BitVec.ult_iff_lt, BitVec.lt_def]

theorem apply_maxu (f : Fmt) (m v w : Word) : AOp.apply .maxu f m v w = some (if m.ult v then v else m) := by
  simp only [AOp.apply, BitVec.ult_iff_lt, BitVec.lt_def, gt_iff_lt]

/-! ### What an atomic gives vd -/

section
variable {f : Flight} {c : Crew} (hd : f.vd < 60) (hl : f.vd < c.regs.length) (hm : writeMask f c ≠ 0)
include hd hl hm

theorem vreg_writeAtomic_tags :
    let r := vreg (writeAtomic f c) f.vd
    r.shape = .g ∧ r.fmt = f.fmt ∧ r.taint = slotTaint f.req := by
  intro r
  obtain ⟨hfmt, htaint, hshape⟩ := regWrite_tags (old := vreg c f.vd) (res := atomicReg f) f.full hm
  rw [← vreg_writeAtomic hd hl] at hfmt htaint hshape
  exact ⟨hshape.trans (ite_self _), hfmt, htaint⟩

theorem vreg_writeAtomic_old {l : Nat} (hlane : l < 32) (hact : laneIn f.req.act l = true) (hlive : laneIn c.live l = true)
    (hu : ∃ u ∈ f.lanes, u.1 = l) : (vreg (writeAtomic f c) f.vd).at l = sget 0 f.old l := by
  have hany : (f.lanes.any fun u => u.1 == l) = true := List.any_eq_true.mpr (hu.imp fun u h => ⟨h.1, beq_iff_eq.mpr h.2⟩)
  rw [vreg_writeAtomic_at hd hl hm hlane, hact, hlive, hany]
  rfl

theorem vreg_writeAtomic_kept {l : Nat} (hlane : l < 32) (h : laneIn f.req.act l = false ∨ laneIn c.live l = false) :
    (vreg (writeAtomic f c) f.vd).at l = (vreg c f.vd).at l := by
  rw [vreg_writeAtomic_at hd hl hm hlane]
  refine if_neg fun hboth => ?_
  obtain ⟨hact, hlive⟩ := Bool.and_eq_true_iff.mp hboth
  exact h.elim (Bool.eq_false_iff.mp · hact) (Bool.eq_false_iff.mp · hlive)

end

/-- Settles O34: each event serves its kind of flight; a load's and an atomic's destinations are register writes in the live lanes of act. -/
theorem accessReturns : Obligations.AccessReturns := by
  unfold Obligations.AccessReturns
  refine ⟨⟨?events, ?finish, ?load, fun v hv => ⟨extend_unsigned v (by decide), extend_signed (size := 1) (by decide) hv⟩,
    fun v hv => ⟨extend_unsigned v (by decide), extend_signed (size := 2) (by decide) hv⟩⟩, ?words, ?atomic⟩
  case events =>
    exact fun s s1 s2 n line f hf hgo => ⟨exec_loadDataReturn hf hgo, fun o h => exec_atomicReturn hf hgo, exec_writePerformed hf hgo⟩
  case finish =>
    intro s f c size n sx ho _ hc hlive hdest
    have hfinish := finishFlight_load ho hc hlive (frameFree_of_low hdest)
    exact ⟨hfinish, hfinish ▸ flightAt_endFlight s f.id⟩
  case load =>
    intro f c size n sx i hi hd hl hm
    obtain ⟨hfmt, htaint, hshape⟩ := vreg_writeLoad_tags f size sx hi hd hl hm
    exact ⟨fun l hlane => vreg_writeLoad_at f size sx hi hd hl hm hlane, hfmt, htaint, hshape, writeLoad_latch f size n sx c⟩
  case words =>
    exact fun f m v w => ⟨rfl, rfl, rfl, rfl, rfl, rfl, rfl, apply_min f m v w, apply_max f m v w, apply_minu f m v w, apply_maxu f m v w⟩
  case atomic =>
    intro f c hd hl hm
    obtain ⟨hshape, hfmt, htaint⟩ := vreg_writeAtomic_tags hd hl hm
    exact ⟨fun l hlane => vreg_writeAtomic_old hd hl hm hlane, fun l hlane => vreg_writeAtomic_kept hd hl hm hlane, hshape, hfmt, htaint,
      fun n hn => vreg_writeVd_other c _ _ _ hn, writeVd_latch c _ _ _ _⟩

end Sys2Proof.Machine
end

section
/-! PROOF of O37, RecordsFencesAndHints: a record from four registers and back, and the bodies of FENCE, PREF and LINV where nothing holds them up. -/

namespace Sys2Proof.Machine

/-! ### Records -/

/-- The record that four registers from `d` up hold, with their taint (R89). -/
def recOfRegs (c : Crew) (d : Nat) : Rec where
  bits := BitVec.ofNat 128 (((vreg c d).at 0).toNat + 2 ^ 32 * ((vreg c (d + 1)).at 0).toNat + 2 ^ 64 * ((vreg c (d + 2)).at 0).toNat +
    2 ^ 96 * ((vreg c (d + 3)).at 0).toNat)
  taint := (vreg c d).taint ||| (vreg c (d + 1)).taint ||| (vreg c (d + 2)).taint ||| (vreg c (d + 3)).taint

theorem mrecBody_uniform {m : BitVec 4} {d : RCode} {p : Part} {c : Crew} (hact : p.act ≠ 0) (hu : ∀ i < 4, (vreg c (d.toNat + i)).shape = .u) :
    mrecBody m d p c = (none, { c with recs := c.recs.set m.toNat (recOfRegs c d.toNat) }) := by
  have hshapes : (((List.range 4).map fun i => vreg c (d.toNat + i)).any fun r => r.shape != .u) = false := by
    refine List.any_eq_false.mpr (List.forall_mem_map.mpr fun i hi => ?_)
    rw [hu i (List.mem_range.mp hi)]
    exact Bool.false_ne_true
  have hrange : List.range 4 = [0, 1, 2, 3] := rfl
  unfold mrecBody
  simp only [if_neg hact, hshapes, Bool.false_eq_true, if_false]
  simp [hrange, recOfRegs, List.zipIdx_cons, Nat.mul_comm _ (2 ^ _)]

theorem gives_mrec (x : Pfx) (m : BitVec 4) (d : RCode) : Gives { i := .mrec x m d, ops := [.grp d 4] } (fun _ c c' =>
    (∀ i < 4, (vreg c (d.toNat + i)).shape = .u) ∧ c' = { c with recs := c.recs.set m.toNat (recOfRegs c d.toNat) }) := by
  refine gives_each (f := mrecBody m d) (fun _ => rfl) (fun _ _ hact => if_pos hact) ?_
  rintro p c _ hact ⟨hu, rfl⟩
  exact ⟨mrecBody_uniform hact hu, rfl⟩

/-- Register writes leave the crew's number. -/
theorem foldl_writeVd_id {α : Type} (n : α → Nat) (r : α → Reg) (act : Mask) (full : Bool) (l : List α) (c : Crew) :
    (l.foldl (fun c a => writeVd c (n a) (r a) act full) c).id = c.id :=
  List.foldlRecOn l _ (motive := fun (e : Crew) => e.id = c.id) rfl fun _ he _ _ => (congrArg Crew.id (writeVd_frame ..)).trans he

theorem gives_mrst (x : Pfx) (m : BitVec 4) (d : RCode) : Gives { i := .mrst x m d, ops := [.grp d 4] } (fun p c c' =>
    c' = (List.range 4).foldl (fun c' i => writeVd c' (d.toNat + i)
      (laneReg .u .raw32 (recAt c m.toNat).taint fun _ => BitVec.ofNat 32 (rbits (recAt c m.toNat).bits (32 * i) 32)) p.act p.full) c) := by
  refine gives_each (f := mrstBody m d) (fun _ => rfl) (fun _ _ hact => if_pos hact) ?_
  rintro p c _ hact rfl
  exact ⟨if_neg hact, foldl_writeVd_id ..⟩

/-! ### FENCE -/

theorem exec_fence {x : Pfx} {sc : BitVec 2} {s t t1 : State} {u : Ctx} (hp : issuePoint { i := .fence x sc, waits := true } s = some (u, t))
    (hr : releaseParts sc.toNat u.parts t = (true, t1)) : exec (.fence x sc) s = .next (retire u (u.parts.foldl (fun s p =>
      if p.act = 0 then s else modCrew s p.crew fun c => { c with acq := c.acq.sup (crewClock c) }) t1)) := by
  change execFence x sc s = _
  exact issue_done hp (by simp only [hr])

/-! ### PREF -/

theorem exec_pref {x : Pfx} {h : BitVec 2} {m : BitVec 4} {a : RCode} {s t : State} {u : Ctx}
    (hp : issuePoint { i := .pref x h m a, ops := [.src a], waits := true, unordered := true } s = some (u, t)) (hw : pairWaits t u m a = false) :
    exec (.pref x h m a) s = .next (retire u (u.parts.foldl (prefCrew m h a u) t)) := by
  change execPref x h m a s = _
  exact issue_done hp (if_neg (Bool.eq_false_iff.mp hw))

/-! ### LINV of a lone participant -/

section
variable {m : BitVec 4} {a : RCode} {u : Ctx} {p : Part} {t : State} {c : Crew} (hparts : u.parts = [p]) (hc : crewAt t p.crew = some c)
include hparts hc

/-- With an empty active set LINV does nothing (R88). -/
theorem linvBody_idle (hact : p.act = 0) : linvBody m a u t = .done t := by
  have hw : pairWaits t u m a = false := by simp [pairWaits, hparts, hc, hact]
  simp [linvBody, hw, hparts, linvLook, hc, hact]

/-- With its lines translated and no written byte of them on its way, LINV drops them (R91). -/
theorem linvBody_done {us : List (Nat × Nat)} {xs : List (Nat × Xl)} {t1 : State} (hact : p.act ≠ 0) (hw : pairWaits t u m a = false)
    (hchk : linvCheck t c (byteReq c m 0 a u p.act) a = .pass us)
    (hx : xlateLines t (.wait c.id) c.core (pasidOf t c) .read c.priv (unitLines us) = (xs, t1))
    (hxs : ∀ o ∈ xs, o.2 ≠ .miss ∧ o.2 ≠ .fault ∧ o.2 ≠ .access)
    (hwb : wbWaits t1 c.core ((keyUnits xs us).map fun u => u.pk / 256).eraseDups = []) :
    linvBody m a u t = .done (forget (purge t1 c.core ((keyUnits xs us).map fun u => u.pk / 256).eraseDups) (.wait c.id)) := by
  have hlook : linvLook m a u t u.parts = ([⟨c, byteReq c m 0 a u p.act, .pass us, xs⟩], t1) := by
    simp only [hparts, linvLook, hc, if_neg hact, hchk, Chk.units, hx]
  have hmiss : (xs.any fun o => o.2 == .miss) = false := List.any_eq_false.mpr fun o ho => by simp [hxs o ho]
  have hfault : (xs.any fun o => o.2 == .fault) = false := List.any_eq_false.mpr fun o ho => by simp [hxs o ho]
  have hbad : ∀ refused, (xs.any fun o => o.2 == .access || (o.2 == .fault && refused)) = false := fun _ =>
    List.any_eq_false.mpr fun o ho => by simp [hxs o ho]
  unfold linvBody
  rw [if_neg (Bool.eq_false_iff.mp hw), hlook]
  simp only [List.findSome?_cons, List.findSome?_nil, List.any_cons, List.any_nil, hmiss, hfault, hbad, Bool.or_self, Bool.false_eq_true, if_false,
    List.map_cons, List.map_nil, Chk.units, List.flatMap_cons, List.flatMap_nil, hwb, List.append_nil, List.foldl_cons, List.foldl_nil]

end

/-- Settles O37: MREC and MRST act on each participant's crew by itself, and the bodies of FENCE, PREF and LINV are done. -/
theorem recordsFencesAndHints : Obligations.RecordsFencesAndHints := by
  unfold Obligations.RecordsFencesAndHints
  refine ⟨fun x m d => ⟨gives_mrec x m d, gives_mrst x m d⟩, fun x sc s t t1 u => exec_fence, fun x h m a s t u => exec_pref, ?linv⟩
  case linv =>
    rintro x m a s t t1 u p c us xs ⟨hp, hparts, hc⟩
    refine ⟨fun hact => issue_done hp (linvBody_idle hparts hc hact), fun hact hw hchk hx hxs hwb => ?_⟩
    exact issue_done hp (linvBody_done hparts hc hact hw hchk hx hxs hwb)

end Sys2Proof.Machine
end

section
/-! PROOF of O30, AccessesSetOut: what the issue of an access comes to where no participant fails and where one does, the body of an access by its issue, and
the steps of the issue: looking up, setting out and logging. -/

namespace Sys2Proof.Machine

/-! ### The issue where no participant fails -/

/-- The sample of an access instruction, counted at its first participant's core (R347). -/
def sampleOf (s : State) (ks : List Look) : Bool × State :=
  match ks.head?.bind fun k => crewAt s k.prep.part.crew with
  | some c => countSample s c.core
  | none => (false, s)

/-- Once every participant's lines are looked up, an access goes part by part, unless a participant fails or the operand log is too small (R75, R310). -/
theorem issueAccess_of_sound {a : Acc} {pc : Word} {s s1 t1 : State} {ps : List Prep} {ks : List Look} (hlook : lookAll a s ps = (ks, s1))
    (hsound : ∀ k ∈ ks, k.waits = true ∨ k.bad s1 a = []) (hlog : (ks.filter (·.waits)).length ≤ 16)
    (hgo : goParts a (ps.map (·.part.crew)) (sampleOf s1 ks).1 (sampleOf s1 ks).2 ks = .ok t1) : issueAccess a pc s ps = .ok t1 := by
  have hnone : (ks.filter fun k => !k.waits && !(k.bad s1 a).isEmpty) = [] := by
    refine List.filter_eq_nil_iff.mpr fun k hk h => ?_
    rcases hsound k hk with hw | hb
    · simp [hw] at h
    · simp [hb] at h
  unfold issueAccess
  simp only [hlook, hnone, List.isEmpty_nil, Bool.not_true, Bool.false_eq_true, if_false, Nat.not_lt.mpr hlog]
  exact congrArg (Went.issued s1 pc) hgo

/-- Where a participant whose lines all translate has a unit that fails, every failing participant is reported and nothing is performed (R75). -/
theorem issueAccess_fails {a : Acc} (pc : Word) {s s1 : State} {ps : List Prep} {ks : List Look} (hg : a.op.group = none) (hlook : lookAll a s ps = (ks, s1))
    (hbad : ∃ k ∈ ks, k.waits = false ∧ k.bad s1 a ≠ []) :
    ∃ recs, issueAccess a pc s ps = .lanes recs s1 ∧ ∀ k ∈ ks, k.bad s1 a ≠ [] → ∃ r ∈ recs, r.1 = k.prep.part.crew := by
  have hsome : (ks.filter fun k => !k.waits && !(k.bad s1 a).isEmpty).isEmpty = false := by
    obtain ⟨k, hk, hw, hb⟩ := hbad
    refine List.isEmpty_eq_false_iff_exists_mem.mpr ⟨k, List.mem_filter.mpr ⟨hk, ?_⟩⟩
    simp [hw, hb]
  have hparts : ∀ l, partLooks s1 a l = [] := fun l => by simp [partLooks, hg]
  unfold issueAccess
  simp only [hlook, hsome, hparts, Bool.not_false, if_true]
  refine ⟨_, rfl, fun k hk hb => ⟨_, List.mem_map_of_mem (List.mem_filter.mpr ⟨hk, ?_⟩), rfl⟩⟩
  simpa using hb

/-! ### The body of an access -/

/-- What an access comes to once it has been issued: done, but an LDM whose data is under way keeps its entry (R143; log entry 14). -/
def afterAccess (a : Acc) (x : Ctx) (t : State) : Res :=
  if a.op.group.isSome && a.op.reads && ldmUnderWay t x then
    .moved (x.parts.foldl (fun s p =>
      if (flightsOf s p.crew).any fun f => f.parked && f.req.pc == x.pc then block s p.crew x.pc .stall
      else match advance s p.crew x.pc x.next with
        | .ok s => s
        | .error e => frontTrap x s p.crew e) t)
  else .done t

theorem afterAccess_done {a : Acc} {x : Ctx} {t : State} (h : (a.op.group.isSome && a.op.reads && ldmUnderWay t x) = false) : afterAccess a x t = .done t :=
  if_neg (Bool.eq_false_iff.mp h)

theorem afterAccess_waits {a : Acc} {x : Ctx} {t : State} {p : Part} (hp : x.parts = [p]) (hg : (a.op.group.isSome && a.op.reads) = true)
    (h : ldmUnderWay t x = true) : afterAccess a x t = .moved (block t p.crew x.pc .stall) := by
  have hflight : ((flightsOf t p.crew).any fun f => f.parked && f.req.pc == x.pc) = true := by simpa [ldmUnderWay, hp] using h
  simp only [afterAccess, hg, h, hp, Bool.and_self, if_true, List.foldl_cons, List.foldl_nil, hflight]

/-- An access that nothing holds up, and whose participants all pass their checks, is what its issue comes to (R75, R88). -/
theorem accessBody_of_issue {a : Acc} {x : Ctx} {s t : State} (hldm : ldmUnderWay s x = false) (hpair : pairWaits s x a.m a.idx = false)
    (hprep : ∀ p ∈ x.parts, prepPart a x s p = .skip ∨ ∃ q, prepPart a x s p = .ready q)
    (hissue : issueAccess a x.pc s (x.parts.filterMap fun p => (prepPart a x s p).prep?) = .ok t) : accessBody a x s = afterAccess a x t := by
  have houts : ((x.parts.map fun p => (p.crew, prepPart a x s p)).filterMap fun o => o.2.prep?) = x.parts.filterMap fun p => (prepPart a x s p).prep? :=
    List.filterMap_map
  unfold accessBody
  rw [if_neg (Bool.eq_false_iff.mp hldm), if_neg (Bool.eq_false_iff.mp hpair)]
  dsimp only
  split
  next code hcode =>
    obtain ⟨o, ho, htrap⟩ := List.exists_of_findSome?_eq_some hcode
    obtain ⟨p, hp, rfl⟩ := List.mem_map.mp ho
    rcases hprep p hp with h | ⟨q, h⟩
    · simp [h] at htrap
    · simp [h] at htrap
  split
  next hfails =>
    obtain ⟨o, ho, hfail⟩ := List.any_eq_true.mp hfails
    obtain ⟨p, hp, rfl⟩ := List.mem_map.mp ho
    rcases hprep p hp with h | ⟨q, h⟩
    · simp [h] at hfail
    · simp [h] at hfail
  rw [houts, hissue]
  rfl

/-! ### Where an access sets out -/

/-- The access of an instruction can set out, and leaves the machine `t1`: nothing of its crews holds it up, every participant with a non-empty act passes
the checks of Table 4-4, no participant whose lines all translate fails, and each sets out or goes to the operand log (R75, R85, R310). -/
def SetsOut (w : Acc) (t t1 : State) (u : Ctx) : Prop :=
  ldmUnderWay t u = false ∧ pairWaits t u w.m w.idx = false ∧ (∀ p ∈ u.parts, prepPart w u t p = .skip ∨ ∃ q, prepPart w u t p = .ready q) ∧
    let ps := u.parts.filterMap fun p => (prepPart w u t p).prep?
    let (ks, t0) := lookAll w t ps
    (∀ k ∈ ks, k.waits = true ∨ k.bad t0 w = []) ∧ (ks.filter (·.waits)).length ≤ 16 ∧
      goParts w (ps.map (·.part.crew)) (sampleOf t0 ks).1 (sampleOf t0 ks).2 ks = .ok t1

theorem accessBody_of_setsOut {w : Acc} {t t1 : State} {u : Ctx} (h : SetsOut w t t1 u) : accessBody w u t = afterAccess w u t1 := by
  obtain ⟨hldm, hpair, hprep, hsound, hlog, hgo⟩ := h
  exact accessBody_of_issue hldm hpair hprep (issueAccess_of_sound rfl hsound hlog hgo)

section
variable {sp : Spec} {w : Acc} {s t t1 : State} {u : Ctx} (hexec : ∀ s, exec sp.i s = issue sp (accessBody w) s) (hp : issuePoint sp s = some (u, t))
  (h : SetsOut w t t1 u)
include hexec hp h

/-- The instruction of an access that sets out goes on (R85, R86). -/
theorem exec_access_done (hcond : (w.op.group.isSome && w.op.reads && ldmUnderWay t1 u) = false) : exec sp.i s = .next (retire u t1) :=
  (hexec s).trans (issue_done hp ((accessBody_of_setsOut h).trans (afterAccess_done hcond)))

/-- An LDM whose data is under way stays at its instruction (R143; log entry 14). -/
theorem exec_access_waits {p : Part} (hparts : u.parts = [p]) (hg : (w.op.group.isSome && w.op.reads) = true) (hldm : ldmUnderWay t1 u = true) :
    exec sp.i s = .next (block t1 p.crew u.pc .stall) := by
  rw [hexec, issue_point _ hp, accessBody_of_setsOut h, afterAccess_waits hparts hg hldm]
  rfl

end

/-! ### The steps of the issue -/

theorem lookAll_single {a : Acc} {s s1 : State} {p : Prep} {c : Crew} {xs : List (Nat × Xl)} (hc : crewAt s p.part.crew = some c)
    (hx : xlateLines s (.log c.id) c.core (pasidOf s c) a.op.kind c.priv (unitLines p.units) = (xs, s1)) : lookAll a s [p] = ([⟨p, xs⟩], s1) := by
  simp only [lookAll, hc, hx]

section
variable {a : Acc} {ids : List Nat} {smp : Bool} {s s1 : State} {k : Look} {c c' : Crew} {q : MemReq} (hc : crewAt s k.prep.part.crew = some c)
  (hslot : withSlot a c k.prep.req = some (c', q))
include hc hslot

/-- A participant whose lines all translate sets out (R85, R128). -/
theorem goPart_sets_out (hw : k.waits = false) (hstart : startAccess (setCrew s { c' with ldmDone := none }) ids c.id a q k.prep.part.full
    (a.op.group.isSome && a.op.reads) false smp k.prep.clock (keyUnits k.lines k.prep.units) = .ok s1) : goPart a ids smp s k = .ok s1 := by
  simp only [goPart, hc, hw, hslot, hstart, Bool.false_eq_true, if_false]

/-- A participant with a line that misses or faults goes to its operand log (R310). -/
theorem goPart_logs (hw : k.waits = true) (hlog : logsUsed s c.core < 16) : goPart a ids smp s k = .ok (setCrew s
    { c' with ldmDone := none, log := some ⟨q, k.lines.map (fun x => (x.1, x.2.out)), k.prep.clock, k.prep.part.full, c.priv, smp⟩ }) := by
  simp only [goPart, hc, hw, hslot, Nat.not_le.mpr hlog, if_true, if_false]

end

/-- An instruction that issues the body of an access, and never waits for its data at its instruction. -/
def IssuesAccess (w : Instr × List Opnd × Acc) : Prop :=
  (∀ s, exec w.1 s = issue { i := w.1, ops := w.2.1, waits := true } (accessBody w.2.2) s) ∧ (w.2.2.op.group.isSome && w.2.2.op.reads) = false

theorem exec_of_issuesAccess {w : Instr × List Opnd × Acc} {s t t1 : State} {u : Ctx} (hw : IssuesAccess w)
    (hp : issuePoint { i := w.1, ops := w.2.1, waits := true } s = some (u, t)) (h : SetsOut w.2.2 t t1 u) : exec w.1 s = .next (retire u t1) :=
  exec_access_done (sp := { i := w.1, ops := w.2.1, waits := true }) hw.1 hp h (by rw [hw.2, Bool.false_and])

/-- Settles O30: an access that sets out is a done body, but for an LDM with data under way; looking up, setting out and logging are steps of its issue. -/
theorem accessesSetOut : Obligations.AccessesSetOut := by
  unfold Obligations.AccessesSetOut
  refine ⟨fun x h m n d a s t t1 u => ⟨fun w hw hp hsets => exec_of_issuesAccess ?row hp hsets,
    fun hp hsets => ⟨fun hldm => ?done, fun p hparts hldm => ?waits⟩⟩,
    fun a s s1 p c xs hc hx => lookAll_single hc hx, fun a ids smp s s1 k c c' q hc hslot => ⟨goPart_sets_out hc hslot, goPart_logs hc hslot⟩,
    fun a pc s s1 ps ks hg hlook hbad => issueAccess_fails pc hg hlook hbad⟩
  case row =>
    clear hp hsets
    revert w
    repeat refine List.forall_mem_cons.mpr ⟨⟨fun _ => rfl, rfl⟩, ?_⟩
    exact List.forall_mem_nil _
  case done => exact exec_access_done (fun _ => rfl) hp hsets (Bool.and_eq_false_imp.mpr fun _ => hldm)
  case waits => exact exec_access_waits (fun _ => rfl) hp hsets hparts rfl hldm

end Sys2Proof.Machine
end

section
/-! PROOF of O60, ResetState: what stands after reset under each number of a core, a queue register, a die and an island. -/

namespace Sys2Proof.Machine

/-- Of things made for the numbers in order, the one found by a number is the one made for it. -/
theorem find_map_range {α : Type} {p : α → Bool} {g : Nat → α} {n i : Nat} (hp : ∀ j, p (g j) = (j == i)) (hi : i < n) :
    ((List.range n).map g).find? p = some (g i) := by
  have hfound : (List.range n).find? (fun j => j == i) = some i :=
    List.find?_range_eq_some.mpr ⟨beq_self_eq_true i, List.mem_range.mpr hi, fun j hj => by simp [hj.ne]⟩
  rw [List.find?_map, show p ∘ g = fun j => j == i from funext hp, hfound]
  rfl

theorem coreAt_reset {core : Nat} (h : core < 96) :
    coreAt State.reset core = some { CoreSt.reset core with enabled := Fuses.av96.coreOn core } := find_map_range (fun _ => rfl) h

theorem queueAt_reset {core q : Nat} (h : core < 96) (hq : q < 16) : queueAt State.reset core q = Queue.unbound := by
  rw [queueAt, coreAt_reset h]
  exact List.getD_replicate _ hq

theorem dieAt_reset : ∀ {die : Nat}, die < 2 →
    dieAt State.reset die = some { Die.reset die with ctls := (List.range 8).filter (Fuses.av96.ctlOn die) }
  | 0, _ => rfl
  | 1, _ => rfl

/-- A die's island after reset (R221). -/
def resetIsle (die code : Nat) : Isle := { Isle.reset die code with present := (Fuses.av96.islands.getD die 0).getLsbD code }

theorem isles_reset : State.reset.isles = (List.range 20).map (resetIsle 0) ++ (List.range 20).map (resetIsle 1) := rfl

theorem isleAt_reset {code : Nat} (hc : code < 20) : ∀ {die : Nat}, die < 2 → isleAt State.reset die code = some (resetIsle die code)
  | 0, _ => by
    rw [isleAt, isles_reset, List.find?_append, find_map_range (fun j => by rfl) hc]
    rfl
  | 1, _ => by
    have hother : ((List.range 20).map (resetIsle 0)).find? (fun i => i.die == 1 && i.code == code) = none :=
      List.find?_eq_none.mpr <| List.forall_mem_map.mpr fun j _ => Bool.false_ne_true
    rw [isleAt, isles_reset, List.find?_append, hother, Option.none_or]
    exact find_map_range (fun j => rfl) hc

/-- Settles O60: what is found under each number holds the reset values, the lists of what is placed are empty, and an empty memory is canonical. -/
theorem resetState : Obligations.ResetState := by
  unfold Obligations.ResetState
  refine ⟨fun core h => ⟨_, coreAt_reset h, rfl, rfl, rfl, rfl, rfl, rfl, rfl, rfl, fun q hq => ?queue⟩,
    fun die h => ⟨_, dieAt_reset h, rfl, rfl, rfl, rfl, rfl, rfl⟩, fun die h code hc => ⟨_, isleAt_reset hc h, rfl⟩,
    rfl, rfl, rfl, rfl, rfl, rfl, fun _ => rfl⟩
  case queue => rw [queueAt_reset h hq]; rfl

end Sys2Proof.Machine
end

section
/-! PROOF of O39, FormedCrewRefused: the check that an instruction for whole blocks meets first in a crew that REORD formed. -/

namespace Sys2Proof.Machine

/-- The instruction, whose prefix is `x`, issues as one that a crew formed by REORD may not run, and needs no privilege (R95, R187, R306). -/
def LocalOnly (x : Pfx) (i : Instr) : Prop :=
  ∃ sp body, (∀ s, exec i s = issue sp body s) ∧ sp.i.pfx = x ∧ sp.i.privileged = false ∧ sp.localOnly = true

/-- In a crew that REORD formed the first check to fail is REORDER_SCOPE (R95; log entry 69). -/
theorem preTrap_formed {s : State} {c : Crew} {sp : Spec} (e : Entry) (hpriv : sp.i.privileged = false) (hlocal : sp.localOnly = true)
    (hformed : isFormed s c = true) : preTrap s c e sp = some trapReorder := by
  have hscope : ∀ sc, scopeTrap s c e sp sc = some trapReorder := fun sc => if_pos (by rw [hlocal, hformed]; rfl)
  simp only [preTrap, hpriv, hscope, Bool.false_and, Bool.false_eq_true, if_false]

/-- What an issue comes to whose checks before the rendezvous raise a trap: the lanes of act at issue trap, and the body does not run (R29). -/
theorem issue_traps {s : State} {u : Cur} {c : Crew} {e : Entry} {sp : Spec} {code : Nat} (body : Ctx → State → Res) (hu : s.cur = some u)
    (hc : crewAt s u.crew = some c) (he : entryAt c u.pc = some e) (htrap : preTrap { s with cur := none } c e sp = some code) :
    issue sp body s = .next (trapAll ⟨c.id, sp.i.pfx.scope, u.pc, u.pc + BitVec.ofNat 32 u.len, u.iword, u.lit, [⟨c.id, actOf c e sp.i.pfx.guard, false⟩]⟩
      { s with cur := none } code (·.act) fun _ => []) := by
  simp only [issue, hu, hc, he, issueAt, htrap]

theorem exec_localOnly_formed {x : Pfx} {i : Instr} {s : State} {u : Cur} {c : Crew} {e : Entry} (hi : LocalOnly x i) (hu : s.cur = some u)
    (hc : crewAt s u.crew = some c) (he : entryAt c u.pc = some e) (hformed : isFormed s c = true) :
    exec i s = .next (trapAll ⟨c.id, x.scope, u.pc, u.pc + BitVec.ofNat 32 u.len, u.iword, u.lit, [⟨c.id, actOf c e x.guard, false⟩]⟩
      { s with cur := none } trapReorder (·.act) fun _ => []) := by
  obtain ⟨sp, body, hexec, rfl, hpriv, hlocal⟩ := hi
  rw [hexec, issue_traps body hu hc he (preTrap_formed e hpriv hlocal hformed)]

/-- Settles O39: each of the instructions is issued as one that a formed crew may not run, so the check ahead of all others ends its issue. -/
theorem formedCrewRefused : Obligations.FormedCrewRefused := by
  unfold Obligations.FormedCrewRefused
  intro x d a m b s u c e hu hc he hformed
  suffices hlocal : ∀ i ∈ _, LocalOnly x i from fun i hi => exec_localOnly_formed (hlocal i hi) hu hc he hformed
  repeat refine List.forall_mem_cons.mpr ⟨⟨_, _, fun _ => rfl, rfl, rfl, rfl⟩, ?_⟩
  exact List.forall_mem_nil _

end Sys2Proof.Machine
end

section
/-! SUPPORT. Little-endian numbers in sparse bytes: what a read returns after a write. -/

namespace Sys2Proof.Machine

@[simp] theorem leSplit_length : ∀ n v : Nat, (leSplit n v).length = n
  | 0, _ => rfl
  | n + 1, v => congrArg (· + 1) (leSplit_length n (v / 256))

/-- The bytes of a number stand for it, as far as they go. -/
theorem leValue_leSplit : ∀ n v : Nat, leValue (leSplit n v) = v % 256 ^ n
  | 0, v => (Nat.mod_one v).symm
  | n + 1, v => by
    rw [leSplit, leValue, leValue_leSplit n, pow_succ', Nat.mod_mul, BitVec.toNat_ofNat]

/-- Reads of bytes that agree agree. -/
theorem readBytes_congr {m m' : Sparse Byte} {a n : Nat} (h : ∀ i < n, sget (0 : Byte) m' (a + i) = sget 0 m (a + i)) :
    readBytes m' a n = readBytes m a n :=
  List.map_congr_left fun i hi => h i (List.mem_range.mp hi)

theorem readBytes_length (m : Sparse Byte) (a n : Nat) : (readBytes m a n).length = n := by
  rw [readBytes, List.length_map, List.length_range]

/-- Bytes written are read back. -/
theorem readBytes_writeBytes {m : Sparse Byte} (h : swf (0 : Byte) m = true) (a : Nat) (bs : List Byte) :
    readBytes (writeBytes m a bs) a bs.length = bs := by
  refine List.ext_getElem (readBytes_length ..) fun i hi hib => ?_
  simp only [readBytes, List.getElem_map, List.getElem_range]
  rw [sget_writeBytes h bs a i hib, List.getD_eq_getElem?_getD, List.getElem?_eq_getElem hib, Option.getD_some]

/-- A number written little-endian is read back. -/
theorem readNat_writeBytes {m : Sparse Byte} (h : swf (0 : Byte) m = true) (a n : Nat) {v : Nat} (hv : v < 256 ^ n) :
    readNat (writeBytes m a (leSplit n v)) a n = v := by
  have hread := readBytes_writeBytes h a (leSplit n v)
  rw [leSplit_length] at hread
  rw [readNat, hread, leValue_leSplit, Nat.mod_eq_of_lt hv]

end Sys2Proof.Machine
end

section
/-! PROOF of O38, LocalStores: the parts that LDA and STA present, the grants of the lane port, and what a part performed leaves in registers and in the store. -/

namespace Sys2Proof.Machine

/-! ### The parts that LDA and STA present -/

/-- The parts that the participants of an LDA or STA (`wr`) present on the lane port (R97). -/
def asParts (wr : Bool) (d a : RCode) (x : Ctx) (s : State) : List AsPart :=
  (asSides x s a).map fun q =>
    { crew := q.2.1.id, quarter := q.2.1.slot % 4, wr := wr, dest := d.toNat, addr := q.2.2, data := (srcReg q.2.1 d.toNat).getD Reg.zero
      act := q.1.act, full := q.1.full }

/-- A participant of an LDA or STA passes its checks: an index format, lanes aligned and within the allocation, no copy of the crew over them (R99, R108). -/
def SidePasses (s : State) (q : Part × Crew × Reg) : Prop :=
  q.2.2.fmt.isIndex = true ∧ (∃ b, blockOf s q.2.1 = some b ∧
    ∀ l < 32, laneIn q.1.act l = true → (q.2.2.at l).toNat % 4 = 0 ∧ (q.2.2.at l).toNat + 4 ≤ b.asBytes) ∧
  ∀ k ∈ s.copies, k.crew = q.2.1.id → rangeHits k ((laneIds.filter (laneIn q.1.act)).map fun l => (q.2.2.at l).toNat) = false

/-- The lanes of a mask, by number. -/
theorem mem_lanes {act : Mask} {l : Nat} : l ∈ laneIds.filter (laneIn act) ↔ l < 32 ∧ laneIn act l = true := by
  rw [List.mem_filter, laneIds, List.mem_range]

/-- Lanes that are aligned and within the allocation do not fail (R99). -/
theorem asFails_eq_nil {alloc : Nat} {ra : Reg} {act : Mask}
    (h : ∀ l < 32, laneIn act l = true → (ra.at l).toNat % 4 = 0 ∧ (ra.at l).toNat + 4 ≤ alloc) : asFails alloc ra act = [] := by
  refine List.filterMap_eq_nil_iff.mpr fun l hl => ?_
  obtain ⟨haligned, hinside⟩ := h l (mem_lanes.mp hl).1 (mem_lanes.mp hl).2
  simp only [haligned, ne_eq, not_true_eq_false, if_false, Nat.not_lt.mpr hinside]

/-- With every participant through its checks an LDA or STA presents its parts (R97, R99, R108). -/
theorem asBody_presents {wr : Bool} {d a : RCode} {x : Ctx} {s : State} (h : ∀ q ∈ asSides x s a, SidePasses s q) :
    asBody wr d a x s = .done (present s (((crewAt s x.crew).map (·.core)).getD 0) (asParts wr d a x s)) := by
  have hformat : ((asSides x s a).any fun q => !q.2.2.fmt.isIndex) = false :=
    List.any_eq_false.mpr fun q hq => by simp [(h q hq).1]
  have hcopies : ((asSides x s a).flatMap fun q => (copiesOf s q.2.1.id).filter fun k =>
      rangeHits k ((laneIds.filter (laneIn q.1.act)).map fun l => (q.2.2.at l).toNat)) = [] := by
    refine List.flatMap_eq_nil_iff.mpr fun q hq => List.filter_eq_nil_iff.mpr fun k hk => ?_
    obtain ⟨hmem, hcrew⟩ := List.mem_filter.mp hk
    simp only [(h q hq).2.2 k hmem (beq_iff_eq.mp hcrew), Bool.false_eq_true, not_false_eq_true]
  unfold asBody
  rw [if_neg (Bool.eq_false_iff.mp hformat)]
  dsimp only
  split
  next hfails =>
    rw [List.filterMap_eq_nil_iff.mpr fun q hq => ?passes] at hfails
    · exact absurd hfails (by decide)
    obtain ⟨-, ⟨b, hb, hlanes⟩, -⟩ := h q hq
    simp only [hb, asFails_eq_nil hlanes, List.isEmpty_nil, if_true]
  next => rw [hcopies]; rfl

/-! ### The lane port -/

/-- How far a quarter stands behind the one that the lane port granted last (R97). -/
def portTurn (k : CoreSt) (quarter : Nat) : Nat := (quarter + 3 * (k.asPort + 1)) % 4

/-- The port looks at the quarters in the order of their turns. -/
theorem nextPart_eq (k : CoreSt) :
    nextPart k = (List.range 4).findSome? fun i => k.asParts.find? fun p => p.quarter == (k.asPort + 1 + i) % 4 := List.findSome?_map

theorem nextPart_of_idle {k : CoreSt} (h : k.asParts = []) : nextPart k = none := by
  simp [nextPart_eq, h]

/-- The next part to be granted is one whose quarter comes first (R97). -/
theorem nextPart_first {k : CoreSt} (hquarter : ∀ q ∈ k.asParts, q.quarter < 4) (hne : k.asParts ≠ []) :
    ∃ p ∈ k.asParts, nextPart k = some p ∧ ∀ q ∈ k.asParts, portTurn k p.quarter ≤ portTurn k q.quarter := by
  have hturn : ∀ q ∈ k.asParts, (k.asPort + 1 + portTurn k q.quarter) % 4 = q.quarter := fun q hq => by
    have := hquarter q hq
    unfold portTurn
    omega
  have hfound : ∀ q ∈ k.asParts, (k.asParts.find? fun p => p.quarter == (k.asPort + 1 + portTurn k q.quarter) % 4) ≠ none := fun q hq hnone =>
    List.find?_eq_none.mp hnone q hq (beq_iff_eq.mpr (hturn q hq).symm)
  have hrange : ∀ q, portTurn k q ∈ List.range 4 := fun q => List.mem_range.mpr (Nat.mod_lt _ (by decide))
  cases hnext : nextPart k with
  | none =>
    obtain ⟨q, hq⟩ := List.exists_mem_of_ne_nil _ hne
    exact absurd (List.findSome?_eq_none_iff.mp ((nextPart_eq k).symm.trans hnext) _ (hrange _)) (hfound q hq)
  | some p =>
    obtain ⟨before, i, after, hsplit, hp, hearlier⟩ := List.findSome?_eq_some_iff.mp ((nextPart_eq k).symm.trans hnext)
    have hi : i < 4 := List.mem_range.mp (hsplit ▸ List.mem_append_right _ List.mem_cons_self)
    have hpi : portTurn k p.quarter = i := by
      have hq : p.quarter = (k.asPort + 1 + i) % 4 := by simpa using List.find?_some hp
      unfold portTurn
      omega
    refine ⟨p, List.mem_of_find?_eq_some hp, rfl, fun q hq => hpi ▸ ?_⟩
    have hordered := hsplit ▸ List.pairwise_lt_range (n := 4)
    rcases List.mem_append.mp (hsplit ▸ hrange q.quarter) with hlow | hhigh
    · exact absurd (hearlier _ hlow) (hfound q hq)
    · rcases List.mem_cons.mp hhigh with heq | hafter
      · exact heq.ge
      · exact (List.rel_of_pairwise_cons (List.pairwise_append.mp hordered).2.1 hafter).le

theorem coreAt_id {s : State} {core : Nat} {k : CoreSt} (h : coreAt s core = some k) : k.id = core := by
  simpa using List.find?_some h

theorem grantPort_eq {s : State} {core : Nat} {k : CoreSt} {p : AsPart} (hk : coreAt s core = some k) (hp : nextPart k = some p) :
    grantPort s core = modCore (p.perform s) core fun k => { k with asPort := p.quarter, asParts := k.asParts.filter fun q => q.crew != p.crew } := by
  simp only [grantPort, hk, Option.bind_some, hp]

theorem grantPort_of_idle {s : State} {core : Nat} {k : CoreSt} (hk : coreAt s core = some k) (hidle : k.asParts = []) : grantPort s core = s := by
  simp only [grantPort, hk, Option.bind_some, nextPart_of_idle hidle]

theorem modCore_modCore (s : State) (core : Nat) {f g : CoreSt → CoreSt} (hf : ∀ k, (f k).id = k.id) :
    modCore (modCore s core f) core g = modCore s core fun k => g (f k) := by
  simp only [modCore, List.map_map]
  congr 1
  refine List.map_congr_left fun k _ => ?_
  by_cases hk : k.id = core <;> simp [hk, hf]

theorem modCore_congr {s : State} {core : Nat} {f g : CoreSt → CoreSt} (h : ∀ k ∈ s.cores, k.id = core → f k = g k) :
    modCore s core f = modCore s core g := by
  simp only [modCore]
  congr 1
  refine List.map_congr_left fun k hk => ?_
  by_cases hid : k.id = core
  · simp [hid, h k hk hid]
  · simp [hid]

/-- What performs a part reads and writes no core. -/
theorem perform_modCore (p : AsPart) (s : State) (core : Nat) (f : CoreSt → CoreSt) : p.perform (modCore s core f) = modCore (p.perform s) core f := by
  unfold AsPart.perform
  change (match crewAt s p.crew with | none => _ | some c => _) = _
  cases crewAt s p.crew with
  | none => rfl
  | some c =>
    cases p.wr with
    | true => rfl
    | false =>
      change (match blockOf s c with | some b => _ | none => _) = modCore (match blockOf s c with | some b => _ | none => _) core f
      cases blockOf s c <;> rfl

theorem perform_cores (p : AsPart) (s : State) : (p.perform s).cores = s.cores := by
  unfold AsPart.perform
  split
  · rfl
  split
  · rfl
  split <;> rfl

/-- With nothing else on the port a part is performed at once (R97). -/
theorem present_lone {s : State} {core : Nat} {p : AsPart} (hquarter : p.quarter < 4) (hcore : ∃ k ∈ s.cores, k.id = core)
    (hidle : ∀ k ∈ s.cores, k.id = core → k.asParts = []) : present s core [p] = modCore (p.perform s) core fun k => { k with asPort := p.quarter } := by
  obtain ⟨k, hk⟩ : ∃ k, coreAt s core = some k := by
    obtain ⟨k, hmem, hid⟩ := hcore
    exact Option.isSome_iff_exists.mp (List.find?_isSome.mpr ⟨k, hmem, beq_iff_eq.mpr hid⟩)
  have hkidle : k.asParts = [] := hidle k (List.mem_of_find?_eq_some hk) (coreAt_id hk)
  have hk' : coreAt (modCore s core fun k => { k with asParts := k.asParts ++ [p] }) core = some { k with asParts := [p] } := by
    rw [coreAt_modCore_self (by intro _; rfl), hk, Option.map_some, hkidle, List.nil_append]
  have hnext : nextPart { k with asParts := [p] } = some p := by
    obtain ⟨q, hq, hnext, -⟩ := nextPart_first (k := { k with asParts := [p] }) (by simpa using hquarter) (List.cons_ne_nil _ _)
    rwa [List.mem_singleton.mp hq] at hnext
  rw [present, grantPort_eq hk' hnext, perform_modCore, modCore_modCore _ _ (by intro _; rfl)]
  refine modCore_congr fun k hk hid => ?_
  have hparts := hidle k (perform_cores p s ▸ hk) hid
  simp only [hparts, List.nil_append, List.filter_cons_of_neg, bne_self_eq_false, Bool.false_eq_true, not_false_eq_true, List.filter_nil]

/-- A crew with a part still to be granted issues nothing (R97). -/
theorem choose_of_owed {s : State} {c : Crew} {k : CoreSt} {p : AsPart} (hk : coreAt s c.core = some k) (hp : p ∈ k.asParts) (hcrew : p.crew = c.id) :
    choose s c = none := by
  have howed : partOwed s c = true := by
    simp only [partOwed, hk]
    exact List.any_eq_true.mpr ⟨p, hp, beq_iff_eq.mpr hcrew⟩
  simp [choose, mayIssue, howed]

/-! ### What a part performed leaves -/

theorem perform_eq {s : State} {p : AsPart} {c : Crew} {b : Block} (hc : crewAt s p.crew = some c) (hb : blockOf s c = some b) :
    p.perform s = if p.wr then modBlock s c.block (staBlock p.addr p.data p.act) else modCrew s c.id (ldaCrew b p.dest p.addr p.act p.full) := by
  simp only [AsPart.perform, hc, hb]

section
variable {b : Block} {d : Nat} {ra : Reg} {act : Mask} {full : Bool} {c : Crew}

/-- The words that LDA reads, one a lane. -/
def ldaReg (b : Block) (ra : Reg) : Reg := laneReg (if ra.shape == .u then .u else .g) .raw32 ra.taint fun l => asWord b (ra.at l).toNat

theorem ldaReg_shape (b : Block) (ra : Reg) : (ldaReg b ra).shape = if ra.shape = .u then .u else .g := by
  simp [ldaReg]

/-- LDA writes one register. -/
theorem ldaCrew_frame (b : Block) (d : Nat) (ra : Reg) (act : Mask) (full : Bool) (c : Crew) :
    ldaCrew b d ra act full c = { c with regs := (ldaCrew b d ra act full c).regs } := writeVd_frame ..

theorem vreg_ldaCrew_self (hd : d < 60) (hl : d < c.regs.length) : vreg (ldaCrew b d ra act full c) d = regWrite (vreg c d) (ldaReg b ra) act full :=
  vreg_writeVd_self _ _ _ hd hl

theorem vreg_ldaCrew_other {n : Nat} (h : n ≠ d) : vreg (ldaCrew b d ra act full c) n = vreg c n := vreg_writeVd_other _ _ _ _ h

/-- What LDA leaves in each lane (R99, R125). -/
theorem vreg_ldaCrew_at (hd : d < 60) (hl : d < c.regs.length) {l : Nat} (hlane : l < 32) : (vreg (ldaCrew b d ra act full c) d).at l =
    if act ≠ 0 ∧ full = true ∧ ra.shape = .u then BitVec.ofNat 32 (readNat b.aStore (ra.at (firstLane act)).toNat 4)
    else if laneIn act l then BitVec.ofNat 32 (readNat b.aStore (ra.at l).toNat 4) else (vreg c d).at l := by
  have hword : ∀ {i : Nat}, i < 32 → (ldaReg b ra).at i = BitVec.ofNat 32 (readNat b.aStore (ra.at i).toNat 4) := fun hi => laneReg_at _ _ _ _ hi
  rw [vreg_ldaCrew_self hd hl]
  by_cases hact : act = 0
  · subst hact
    simp [regWrite, laneIn]
  · rw [regWrite, if_neg hact]
    refine (newLanes_at _ (ldaReg b ra) act full hlane).trans ?_
    have hu : (ldaReg b ra).shape = .u ↔ ra.shape = .u := by rw [ldaReg_shape]; split <;> simp_all
    have ha : (ldaReg b ra).shape ≠ .a := by rw [ldaReg_shape]; split <;> simp
    simp only [hu, ha, hact, and_false, if_false, ne_eq, not_false_eq_true, true_and, hword hlane, hword (firstLane_lt act)]

end

/-! ### Words stored -/

/-- The bytes that a store's lanes leave, one lane after another (R99). -/
def staLanes (ra rd : Reg) (ls : List Nat) (b : Block) : Block := ls.foldl (fun b l => asWrite (ra.at l).toNat (wordBytes (rd.at l)) b) b

theorem staBlock_eq (ra rd : Reg) (act : Mask) (b : Block) : staBlock ra rd act b = staLanes ra rd (laneIds.filter (laneIn act)) b := rfl

theorem wordBytes_length (w : Word) : (wordBytes w).length = 4 := leSplit_length 4 _

/-- A store's lanes change the activation store, and with it what may still be read old, and nothing else of the block. -/
theorem staLanes_frame (ra rd : Reg) : ∀ (ls : List Nat) (b : Block),
    staLanes ra rd ls b = { b with aStore := (staLanes ra rd ls b).aStore, asOld := (staLanes ra rd ls b).asOld }
  | [], _ => rfl
  | l :: ls, b => staLanes_frame ra rd ls (asWrite (ra.at l).toNat (wordBytes (rd.at l)) b)

theorem swf_staLanes (ra rd : Reg) (ls : List Nat) {b : Block} (h : swf (0 : Byte) b.aStore = true) : swf (0 : Byte) (staLanes ra rd ls b).aStore = true :=
  List.foldlRecOn ls _ (motive := fun (b : Block) => swf (0 : Byte) b.aStore = true) h fun _ hb _ _ => swf_writeBytes _ _ hb

/-- A byte outside the lanes' words stays as it was (R99). -/
theorem staLanes_other (ra rd : Reg) {k : Nat} : ∀ {ls : List Nat} {b : Block}, swf (0 : Byte) b.aStore = true →
    (∀ l ∈ ls, k < (ra.at l).toNat ∨ (ra.at l).toNat + 4 ≤ k) → sget (0 : Byte) (staLanes ra rd ls b).aStore k = sget 0 b.aStore k
  | [], _, _, _ => rfl
  | l :: ls, b, h, hk => by
    obtain ⟨hl, hls⟩ := List.forall_mem_cons.mp hk
    exact (staLanes_other ra rd (b := asWrite (ra.at l).toNat (wordBytes (rd.at l)) b) (swf_writeBytes _ _ h) hls).trans
      (sget_writeBytes_other h _ _ (by rwa [wordBytes_length]))

/-- A lane's word stands in the store when no later lane has its address (R99). -/
theorem readNat_staLanes {ra rd : Reg} {l : Nat} {after : List Nat} (before : List Nat) {b : Block} (h : swf (0 : Byte) b.aStore = true)
    (haligned : ∀ m ∈ l :: after, (ra.at m).toNat % 4 = 0) (hlast : ∀ m ∈ after, ra.at m ≠ ra.at l) :
    readNat (staLanes ra rd (before ++ l :: after) b).aStore (ra.at l).toNat 4 = (rd.at l).toNat := by
  obtain ⟨hl, hafter⟩ := List.forall_mem_cons.mp haligned
  have hbefore := swf_staLanes ra rd before h
  have hsplit : staLanes ra rd (before ++ l :: after) b = staLanes ra rd after (asWrite (ra.at l).toNat (wordBytes (rd.at l)) (staLanes ra rd before b)) :=
    List.foldl_append
  have hkeep : readBytes (staLanes ra rd (before ++ l :: after) b).aStore (ra.at l).toNat 4 =
      readBytes (writeBytes (staLanes ra rd before b).aStore (ra.at l).toNat (wordBytes (rd.at l))) (ra.at l).toNat 4 := by
    refine readBytes_congr fun i hi => ?_
    rw [hsplit]
    refine staLanes_other ra rd (swf_writeBytes _ _ hbefore) fun m hm => ?_
    have hne : (ra.at m).toNat ≠ (ra.at l).toNat := fun heq => hlast m hm (BitVec.eq_of_toNat_eq heq)
    have := hafter m hm
    omega
  rw [readNat, hkeep]
  exact readNat_writeBytes hbefore _ 4 (rd.at l).isLt

/-- A lane's word is in the store unless a higher lane wrote there (R99). -/
theorem readNat_staBlock {b : Block} {ra rd : Reg} {act : Mask} {l : Nat} (h : swf (0 : Byte) b.aStore = true)
    (haligned : ∀ l < 32, laneIn act l = true → (ra.at l).toNat % 4 = 0) (hl : l < 32) (hact : laneIn act l = true)
    (hlast : ∀ m < 32, l < m → laneIn act m = true → ra.at m ≠ ra.at l) :
    readNat (staBlock ra rd act b).aStore (ra.at l).toNat 4 = (rd.at l).toNat := by
  obtain ⟨before, after, hsplit⟩ := List.append_of_mem (mem_lanes.mpr ⟨hl, hact⟩)
  have hlane : ∀ m ∈ l :: after, m < 32 ∧ laneIn act m = true := fun m hm => mem_lanes.mp (hsplit ▸ List.mem_append_right _ hm)
  have hordered : (l :: after).Pairwise (· < ·) :=
    (List.pairwise_append.mp (hsplit ▸ List.pairwise_lt_range.filter (laneIn act))).2.1
  rw [staBlock_eq, hsplit]
  refine readNat_staLanes before h (fun m hm => haligned m (hlane m hm).1 (hlane m hm).2) fun m hm => ?_
  obtain ⟨hm32, hmact⟩ := hlane m (List.mem_cons_of_mem _ hm)
  exact hlast m hm32 (List.rel_of_pairwise_cons hordered hm) hmact

/-- Settles O38: the parts presented, the port's grants, and the registers and words that a part performed leaves. -/
theorem localStores : Obligations.LocalStores := by
  unfold Obligations.LocalStores
  refine ⟨fun x d a s t u => ?presents, fun s core p => present_lone, fun s core k hk hquarter => ⟨grantPort_of_idle hk, ?grants⟩,
    fun s c k p => choose_of_owed, fun s p c b => perform_eq, ?loads, ?stores⟩
  case presents =>
    intro core parts hsides
    exact ⟨fun hp => issue_done hp (asBody_presents hsides), fun hp => issue_done hp (asBody_presents hsides)⟩
  case grants =>
    intro hne
    obtain ⟨p, hp, hnext, hfirst⟩ := nextPart_first hquarter hne
    exact ⟨p, hp, hfirst, grantPort_eq hk hnext⟩
  case loads =>
    intro b d ra act full c hd hlen
    have hl : d < c.regs.length := hlen ▸ hd
    refine ⟨fun l => vreg_ldaCrew_at hd hl, fun hact => ?tags, fun n => vreg_ldaCrew_other, ?pred, ?slots⟩
    case tags =>
      obtain ⟨hfmt, htaint, hshape⟩ := regWrite_tags (old := vreg c d) (res := ldaReg b ra) full hact
      rw [ldaReg_shape] at hshape
      refine vreg_ldaCrew_self (b := b) (ra := ra) (act := act) (full := full) hd hl ▸ ⟨hfmt, htaint, hshape.trans ?_⟩
      cases full <;> simp
    case pred => rw [ldaCrew_frame]
    case slots => rw [ldaCrew_frame]
  case stores =>
    intro b ra rd act h haligned
    exact ⟨fun l hl hact hlast => readNat_staBlock h haligned hl hact hlast,
      fun k hk => staLanes_other ra rd h fun l hl => hk l (mem_lanes.mp hl).1 (mem_lanes.mp hl).2, staLanes_frame .., swf_staLanes ra rd _ h⟩

end Sys2Proof.Machine
end

section
/-!
PROOF of the negation of O40, CopiesAndBatches. BATCH.POLL without an active lane writes its crew back as it is, which is no change unless a second crew bears
the crew's number: that one becomes as the first. Going on does the same to both, and hides it, unless a poisoned record of the stack holds the crew at its
instruction. No record is poisoned where the instruction issues; but a stack of 4,098 records, where R271 allows 64, is written anew as its first record comes
in, puts its own first line out of the L1, and beneath lies a poisoned sector. The statement excludes neither the second crew nor the deep stack.
-/

namespace Sys2Proof.Machine

/-! ### Where an instruction issues at lane scope, and where it cannot go on -/

/-- The place of an instruction at lane scope that passes the checks before its body (R29). -/
theorem issuePoint_of_lane {sp : Spec} {s : State} {u : Cur} {c : Crew} {e : Entry} (hu : s.cur = some u) (hc : crewAt s u.crew = some c)
    (he : entryAt c u.pc = some e) (hscope : sp.i.pfx.scope = .lane) (hpre : preTrap { s with cur := none } c e sp = none)
    (hwait : mustWait { s with cur := none } sp [c.id] = false) (hfull : sp.i.full = false)
    (hsound : ∀ ps, stacksSound ⟨c.id, sp.i.pfx.scope, u.pc, u.pc + BitVec.ofNat 32 u.len, u.iword, u.lit, ps⟩ { s with cur := none } = true) :
    issuePoint sp s = some (⟨c.id, sp.i.pfx.scope, u.pc, u.pc + BitVec.ofNat 32 u.len, u.iword, u.lit, partsOf { s with cur := none } c sp.i.pfx u.pc⟩,
      { s with cur := none }) := by
  have hstate : issueState sp { s with cur := none } u c = some { s with cur := none } := by simp [issueState, hscope, hwait]
  simp [issuePoint, hu, hc, he, hpre, hstate, hfull, hsound]

/-- An entry that cannot go on, because a record that would come in stands in its way (R266, R271). -/
theorem advance_error {s : State} {id : Nat} {pc next : Word} {c : Crew} {e : Entry} {x : FrontErr} (hc : crewAt s id = some c) (he : entryAt c pc = some e)
    (hm : e.mask ≠ 0) (hrefill : refill (setCrew s { c with entries := entriesOn s c pc next }) id c.entries.length = .error x) :
    advance s id pc next = .error x := by
  have hmask : ∀ q os, (((countIssue q os e).to next).mask != 0) = true := fun q os => by simpa [Entry.to, countIssue_mask] using hm
  have hgo : goOn s id pc false [(countIssue (quantumOf s c.core) (c.entries.filter fun x => x.pc != pc) e).to next] =
      refill (setCrew s { c with entries := entriesOn s c pc next }) id c.entries.length := by
    unfold goOn entriesOn
    simp only [hc, he, List.filter_cons, hmask, if_true, List.filter_nil, place, List.isEmpty_nil, Bool.false_eq_true, if_false]
  simp only [advance, hc, he, hgo, hrefill]

/-- A lone participant that meets a poisoned record waits while it has not drained (R271, R322). -/
theorem retire_held {s : State} {x : Ctx} {p : Part} (hparts : x.parts = [p]) (hadvance : advance s p.crew x.pc x.next = .error .soft)
    (hdrained : drained s [p.crew] = false) : retire x s = holdCrew s x.crew := by
  simp [retire, hparts, hadvance, frontTrap, trapAll, trapReady, hdrained]

/-- BATCH.POLL of a lone participant without an active lane writes its crew back as it is (R19, R111). -/
theorem exec_batchPoll_idle {x : Pfx} {d a : RCode} {s t : State} {u : Ctx} {p : Part} {c : Crew} (hparts : u.parts = [p]) (hc : crewAt t p.crew = some c)
    (hact : p.act = 0) (hp : issuePoint { i := .batchPoll x d a, ops := [.dst d, .src a], waits := true, localOnly := true } s = some (u, t)) :
    exec (.batchPoll x d a) s = .next (retire u (setCrew t c)) := by
  change execBatchPoll x d a s = _
  refine issue_done hp ?_
  simp only [eachCrew, hparts, List.foldl_cons, List.foldl_nil, eachStep, hc, hact, if_true]

/-! ### The L1 of a core whose stack is deep -/

/-- The seven lines that share a set of the L1 with the stack's first and do not belong to it: their sectors hold data, and they were used last. -/
def sideLines : List L1Line := [512, 768, 1024, 1280, 1536, 1792, 2048].map fun key => { L1Line.fresh key 1 with valid := 15 }

/-- The stack's first line as the L1 holds it, oldest in its set: all its sectors hold data, and the first record's address is 4. -/
def firstLine : L1Line := { L1Line.fresh 0 0 with valid := 15, data := [(0, 4)] }

/-- Core 0 with its stack at address 0 and a part of crew 2 that the lane port has still to grant. -/
def deepCore (ls : List L1Line) : CoreSt :=
  { CoreSt.reset 0 with stackBase := 0x80000000, l1 := ls, asParts := [⟨2, 0, false, 0, Reg.zero, Reg.zero, 0, false⟩] }

section
variable {s : State} {ls : List L1Line}

theorem l1Line_deep (h : s.cores = [deepCore ls]) (key : Nat) : l1Line s 0 key = ls.find? fun l => l.key == key := by
  simp [l1Line, l1Of, coreAt, h, deepCore, CoreSt.reset]

theorem l1Of_deep (h : s.cores = [deepCore ls]) : l1Of s 0 = ls := by
  simp [l1Of, coreAt, h, deepCore, CoreSt.reset]

theorem putLine_deep (h : s.cores = [deepCore ls]) (l : L1Line) : (putLine s 0 l).cores = [deepCore (l1Put ls l)] := by
  simp [putLine, modCore, h, deepCore, CoreSt.reset]

theorem dropLine_deep (h : s.cores = [deepCore ls]) (key : Nat) : (dropLine s 0 key).cores = [deepCore (ls.filter fun l => l.key != key)] := by
  simp [dropLine, modCore, h, deepCore, CoreSt.reset]

end

/-! ### A line put in the L1 -/

theorem mem_l1Put {ls : List L1Line} {l x : L1Line} (h : x ∈ l1Put ls l) : x = l ∨ x ∈ ls := by
  unfold l1Put at h
  split at h
  · obtain ⟨y, hy, rfl⟩ := List.mem_map.mp h
    split
    · exact .inl rfl
    · exact .inr hy
  · exact List.mem_cons.mp h

theorem exists_key_l1Put (ls : List L1Line) (l : L1Line) : ∃ x ∈ l1Put ls l, x.key = l.key := by
  unfold l1Put
  split
  next h =>
    obtain ⟨x, hx, hkey⟩ := List.any_eq_true.mp h
    exact ⟨l, List.mem_map.mpr ⟨x, hx, if_pos hkey⟩, rfl⟩
  next => exact ⟨l, List.mem_cons_self, rfl⟩

/-- Lines of other keys stay as they are when a line is put. -/
theorem map_put_of_ne {ls : List L1Line} {l : L1Line} (h : ∀ x ∈ ls, x.key ≠ l.key) : (ls.map fun x => if x.key == l.key then l else x) = ls := by
  refine (List.map_congr_left fun x hx => ?_).trans (List.map_id _)
  exact if_neg (by simpa using h x hx)

theorem l1Put_append {ls rest : List L1Line} {l : L1Line} (h : ∀ x ∈ rest, x.key ≠ l.key) : l1Put (ls ++ rest) l = l1Put ls l ++ rest := by
  have hany : (rest.any fun x => x.key == l.key) = false := List.any_eq_false.mpr fun x hx => by simpa using h x hx
  unfold l1Put
  rw [List.any_append, hany, Bool.or_false, List.map_append, map_put_of_ne h]
  split
  · rfl
  · rfl

theorem l1Put_replace {ls rest : List L1Line} {l x : L1Line} (hls : ∀ y ∈ ls, y.key ≠ l.key) (hx : x.key = l.key)
    (hrest : ∀ y ∈ rest, y.key ≠ l.key) : l1Put (ls ++ x :: rest) l = ls ++ l :: rest := by
  have hany : ((ls ++ x :: rest).any fun y => y.key == l.key) = true := List.any_eq_true.mpr ⟨x, by simp, by simpa using hx⟩
  rw [l1Put, if_pos hany, List.map_append, List.map_cons, map_put_of_ne hls, map_put_of_ne hrest, if_pos (by simpa using hx)]

/-! ### The stack's first 256 lines written -/

/-- The stack's first line, and nothing has used it since reset. -/
def Oldest (l : L1Line) : Prop := l.key = 0 ∧ l.used = 0 ∧ l.keep = false ∧ l.pin = none

/-- A line of the stack's first 256: line 0 is the oldest of its set, and no other of them lies in that set. -/
def StackLine (l : L1Line) : Prop := (0 < l.key ∧ l.key < 256) ∨ Oldest l

/-- The crews are `cs`, sector 0 alone is poisoned, and core 0's L1 holds the side lines, the stack's first line, and others of its first 256. -/
structure Filling (cs : List Crew) (s : State) : Prop where
  crews : s.crews = cs
  poison : s.poison = [0]
  lines : ∃ new first, s.cores = [deepCore (new ++ first :: sideLines)] ∧ (∀ l ∈ new, 0 < l.key ∧ l.key < 256) ∧ Oldest first

theorem StackLine.key_lt {l : L1Line} (h : StackLine l) : l.key < 256 := by
  obtain ⟨-, hlt⟩ | ⟨hzero, -⟩ := h
  · exact hlt
  · omega

theorem key_of_mem_sideLines {l : L1Line} (h : l ∈ sideLines) : 512 ≤ l.key ∧ l.key % 256 = 0 :=
  (by decide : ∀ l ∈ sideLines, 512 ≤ l.key ∧ l.key % 256 = 0) l h

theorem stackLine_or_sideLine {new : List L1Line} {first l : L1Line} (hnew : ∀ l ∈ new, 0 < l.key ∧ l.key < 256) (hfirst : Oldest first)
    (hl : l ∈ new ++ first :: sideLines) : StackLine l ∨ l ∈ sideLines := by
  rcases List.mem_append.mp hl with hx | hx
  · exact .inl (.inl (hnew l hx))
  · rcases List.mem_cons.mp hx with rfl | hx
    · exact .inl (.inr hfirst)
    · exact .inr hx

theorem Filling.congr {cs : List Crew} {s t : State} (h : Filling cs s) (hcrews : t.crews = s.crews) (hpoison : t.poison = s.poison)
    (hcores : t.cores = s.cores) : Filling cs t :=
  ⟨hcrews.trans h.crews, hpoison.trans h.poison, hcores ▸ h.lines⟩

theorem Filling.putLine {cs : List Crew} {s : State} {l : L1Line} (h : Filling cs s) (hl : StackLine l) : Filling cs (putLine s 0 l) := by
  obtain ⟨hcrews, hpoison, new, first, hcores, hnew, hfirst⟩ := h
  refine ⟨hcrews, hpoison, ?_⟩
  rw [putLine_deep hcores]
  rcases hl with ⟨hpos, hlt⟩ | hold
  · refine ⟨l1Put new l, first, ?_, fun x hx => ?_, hfirst⟩
    · rw [l1Put_append]
      rintro x (_ | ⟨_, hx⟩)
      · have := hfirst.1
        omega
      · have := key_of_mem_sideLines hx
        omega
    · rcases mem_l1Put hx with rfl | hx
      · exact ⟨hpos, hlt⟩
      · exact hnew x hx
  · refine ⟨new, l, ?_, hnew, hold⟩
    have hkey := hold.1
    rw [l1Put_replace]
    · intro x hx
      have := hnew x hx
      omega
    · exact hfirst.1.trans hkey.symm
    · intro x hx
      have := key_of_mem_sideLines hx
      omega

/-- A line found among the stack's first 256 is one of those. -/
theorem Filling.found {cs : List Crew} {s : State} {key : Nat} {l : L1Line} (h : Filling cs s) (hkey : key < 256) (hl : l1Line s 0 key = some l) :
    StackLine l := by
  obtain ⟨-, -, new, first, hcores, hnew, hfirst⟩ := h
  rw [l1Line_deep hcores] at hl
  have hlkey : l.key = key := by simpa using List.find?_some hl
  refine (stackLine_or_sideLine hnew hfirst (List.mem_of_find?_eq_some hl)).resolve_right fun hside => ?_
  have := key_of_mem_sideLines hside
  omega

theorem Filling.allocLine {cs : List Crew} {s : State} {key : Nat} (h : Filling cs s) (hkey : key < 256) : Filling cs (allocLine s 0 key false) := by
  unfold Machine.allocLine
  split
  · exact h
  next hnone =>
    obtain ⟨new, first, hcores, hnew, hfirst⟩ := h.lines
    rw [l1Line_deep hcores] at hnone
    have habsent : ∀ l ∈ new ++ first :: sideLines, l.key ≠ key := fun l hl => by simpa using List.find?_eq_none.mp hnone l hl
    have hpos : 0 < key := by
      have := habsent first (by simp)
      have := hfirst.1
      omega
    have hset : (l1Of s 0).filter (fun l => l.key % 256 == key % 256) = [] := by
      rw [l1Of_deep hcores]
      refine List.filter_eq_nil_iff.mpr fun l hl => ?_
      have hne := habsent l hl
      rcases stackLine_or_sideLine hnew hfirst hl with hstack | hside
      · have := hstack.key_lt
        simp; omega
      · have := key_of_mem_sideLines hside
        simp; omega
    have hroom : makeRoom s 0 key = s := by simp [makeRoom, hset]
    rw [hroom]
    exact Filling.putLine (h.congr rfl rfl rfl) (.inl ⟨hpos, hkey⟩)

theorem l1Store_append (core : Nat) (keep : Bool) (k : Clock) : ∀ (ws vs : List (Nat × Byte)) (s : State),
    l1Store s core keep k (ws ++ vs) = l1Store (l1Store s core keep k ws) core keep k vs
  | [], _, _ => rfl
  | _ :: ws, vs, _ => l1Store_append core keep k ws vs _

theorem Filling.l1Store {cs : List Crew} {k : Clock} : ∀ {ws : List (Nat × Byte)} {s : State}, Filling cs s → (∀ w ∈ ws, w.1 / 256 < 256) →
    Filling cs (l1Store s 0 false k ws)
  | [], _, h, _ => h
  | (a, b) :: ws, s, h, hws => by
    obtain ⟨ha, hrest⟩ := List.forall_mem_cons.mp hws
    have halloc := h.allocLine ha
    refine Filling.l1Store (ws := ws) ?_ hrest
    split
    · exact halloc
    next l hl =>
      have hline := halloc.found ha hl
      exact halloc.putLine hline

/-! ### The stack's line 256 written -/

/-- The crews are `cs`, sector 0 alone is poisoned, and core 0's L1 holds the stack's line 256, and line 0 no more. -/
structure Filled (cs : List Crew) (s : State) : Prop where
  crews : s.crews = cs
  poison : s.poison = [0]
  lines : ∃ ls, s.cores = [deepCore ls] ∧ (∀ l ∈ ls, l.key ≠ 0) ∧ ∃ l ∈ ls, l.key = 256

theorem Filled.putLine {cs : List Crew} {s : State} {l : L1Line} (h : Filled cs s) (hl : l.key = 256) : Filled cs (putLine s 0 l) := by
  obtain ⟨hcrews, hpoison, ls, hcores, hne, -⟩ := h
  refine ⟨hcrews, hpoison, l1Put ls l, putLine_deep hcores l, fun x hx => ?_, hl ▸ exists_key_l1Put ls l⟩
  rcases mem_l1Put hx with rfl | hx
  · omega
  · exact hne x hx

theorem Filled.allocLine {cs : List Crew} {s : State} (h : Filled cs s) : allocLine s 0 256 false = s := by
  obtain ⟨-, -, ls, hcores, -, l, hl, hkey⟩ := h
  have hfound : (ls.find? fun l => l.key == 256).isSome = true := List.find?_isSome.mpr ⟨l, hl, by simpa using hkey⟩
  obtain ⟨x, hx⟩ := Option.isSome_iff_exists.mp hfound
  unfold Machine.allocLine
  rw [l1Line_deep hcores, hx]
  rfl

theorem Filled.l1Store {cs : List Crew} {k : Clock} : ∀ {ws : List (Nat × Byte)} {s : State}, Filled cs s → (∀ w ∈ ws, w.1 / 256 = 256) →
    Filled cs (l1Store s 0 false k ws)
  | [], _, h, _ => h
  | (a, b) :: ws, s, h, hws => by
    obtain ⟨ha, hrest⟩ := List.forall_mem_cons.mp hws
    refine Filled.l1Store (ws := ws) ?_ hrest
    rw [show a / 256 = 256 from ha, h.allocLine]
    split
    · exact h
    next l hl =>
      refine h.putLine ?_
      simpa using List.find?_some hl

/-! ### Line 0 given up -/

/-- A write at the home slice leaves the crews, the cores and what is poisoned. -/
theorem homeWrite_leaves (s : State) (c : Clock) (ws : List (Nat × Byte)) :
    (homeWrite s c ws).crews = s.crews ∧ (homeWrite s c ws).cores = s.cores ∧ (homeWrite s c ws).poison = s.poison := by
  unfold homeWrite bumpHome
  split
  · exact ⟨rfl, rfl, rfl⟩
  split
  · exact ⟨rfl, rfl, rfl⟩
  split <;> exact ⟨rfl, rfl, rfl⟩

/-- Crews without core-scope writes of their own take nothing from a line's way home. -/
theorem nearDone_crews {s : State} (h : ∀ c ∈ s.crews, c.near = []) (core key : Nat) (k : Clock) : (nearDone s core key k).crews = s.crews := by
  refine (List.map_congr_left fun c hc => ?_).trans (List.map_id _)
  exact if_neg (by simp [h c hc])

/-- A line's written bytes go home without a change of the crews or of what is poisoned. -/
theorem writeBack_deep {s : State} {ls : List L1Line} (hcores : s.cores = [deepCore ls]) (hnear : ∀ c ∈ s.crews, c.near = []) (key : Nat) :
    (writeBack s 0 key).crews = s.crews ∧ (writeBack s 0 key).poison = s.poison ∧ ∃ ls', (writeBack s 0 key).cores = [deepCore ls'] := by
  unfold writeBack
  split
  · exact ⟨rfl, rfl, ls, hcores⟩
  split
  · exact ⟨rfl, rfl, ls, hcores⟩
  next l _ _ =>
    obtain ⟨hhcrews, hhcores, hhpoison⟩ := homeWrite_leaves s (writtenClock l) (writtenBytes l)
    exact ⟨(nearDone_crews (by rwa [hhcrews]) ..).trans hhcrews, hhpoison, _, putLine_deep (hhcores.trans hcores) _⟩

/-- A store to the stack's line 256 takes the place of line 0, the oldest of a full set (R77, R78). -/
theorem Filling.evicts {cs : List Crew} {s : State} (h : Filling cs s) (hnear : ∀ c ∈ cs, c.near = []) : Filled cs (Machine.allocLine s 0 256 false) := by
  obtain ⟨hcrews, hpoison, new, first, hcores, hnew, hfirst⟩ := h
  have ⟨hkey, hused, hkeep, hpin⟩ := hfirst
  have hnone : l1Line s 0 256 = none := by
    rw [l1Line_deep hcores]
    refine List.find?_eq_none.mpr fun l hl => ?_
    rcases stackLine_or_sideLine hnew hfirst hl with hstack | hside
    · have := hstack.key_lt
      simp; omega
    · have := key_of_mem_sideLines hside
      simp; omega
  have hset : (l1Of s 0).filter (fun l => l.key % 256 == 256 % 256) = first :: sideLines := by
    have hout : new.filter (fun l => l.key % 256 == 256 % 256) = [] := List.filter_eq_nil_iff.mpr fun l hl => by
      have := hnew l hl
      simp; omega
    have hside : sideLines.filter (fun l => l.key % 256 == 256 % 256) = sideLines := by decide
    rw [l1Of_deep hcores, List.filter_append, hout, List.nil_append, List.filter_cons_of_pos (by simp [hkey]), hside]
  have hvictim : victim (first :: sideLines) = some first := by
    simp [victim, sideLines, L1Line.fresh, hpin, hkeep, hused]
  have hroom : makeRoom s 0 256 = dropLine (writeBack s 0 0) 0 0 := by
    simp only [makeRoom, hset, hvictim, hkey]
    rfl
  obtain ⟨hwcrews, hwpoison, ls, hwcores⟩ := writeBack_deep hcores (hcrews ▸ hnear) 0
  unfold Machine.allocLine
  rw [hnone, hroom]
  refine ⟨hwcrews.trans hcrews, hwpoison.trans hpoison, _, putLine_deep (dropLine_deep hwcores 0) _, fun x hx => ?_, exists_key_l1Put _ _⟩
  rcases mem_l1Put hx with rfl | hx
  · exact (by decide : (256 : Nat) ≠ 0)
  · simpa using (List.mem_filter.mp hx).2

/-- Once the stack's first 256 lines and then its line 256 are written, line 0 is in the L1 no more. -/
theorem Filling.filled {cs : List Crew} {s : State} {k : Clock} {ws vs : List (Nat × Byte)} (h : Filling cs s) (hnear : ∀ c ∈ cs, c.near = [])
    (hws : ∀ w ∈ ws, w.1 / 256 < 256) (hne : vs ≠ []) (hvs : ∀ v ∈ vs, v.1 / 256 = 256) : Filled cs (Machine.l1Store s 0 false k (ws ++ vs)) := by
  obtain ⟨⟨a, b⟩, vs, rfl⟩ := List.exists_cons_of_ne_nil hne
  obtain ⟨ha, hrest⟩ := List.forall_mem_cons.mp hvs
  have hfilled := (h.l1Store (k := k) hws).evicts hnear
  rw [l1Store_append]
  refine Filled.l1Store (ws := vs) ?_ hrest
  rw [show a / 256 = 256 from ha]
  split
  · exact hfilled
  next l hl =>
    refine hfilled.putLine ?_
    simpa using List.find?_some hl

/-! ### The crew's stack -/

/-- Crew 2 with index `n`: lane 0 at address 0, lane 1 at address 4, and 4,098 stacked records. -/
def deepCrew (n : Nat) : Crew :=
  { Crew.start 2 0 0 0 n with live := 3, nrec := 4098, entries := [⟨0, 0, 1, none, false, 0, 0⟩, ⟨4, 0, 2, none, false, 0, 0⟩] }

/-- Two crews under the number 2, an instruction of 4 bytes at address 0, and sector 0 of memory poisoned beneath the L1's sound copy of it. -/
def deepState : State :=
  { State.reset with crews := [deepCrew 0, deepCrew 1], cores := [deepCore (firstLine :: sideLines)], poison := [0], cur := some ⟨2, 0, 4, 0, 0⟩ }

/-- The first crew as it goes on: its two entries are one. -/
def deepOn : Crew := { deepCrew 0 with entries := [⟨4, 0, 3, none, false, 0, 0⟩] }

/-- The machine as the first crew goes on. -/
def deepNext : State := { deepState with cur := none, crews := [deepOn, deepOn] }

theorem deepNext_filling : Filling [deepOn, deepOn] deepNext := ⟨rfl, rfl, [], firstLine, rfl, List.forall_mem_nil _, rfl, rfl, rfl, rfl⟩

theorem stackBase_deep {s : State} {ls : List L1Line} (h : s.cores = [deepCore ls]) : stackBase s 0 = some 0 := by
  simp [stackBase, coreAt, h, deepCore, CoreSt.reset]

/-- While the L1 holds a sound copy of the poisoned sector, a core reads no poison. -/
theorem corePoisoned_deep {s : State} (hcores : s.cores = [deepCore (firstLine :: sideLines)]) (hpoison : s.poison = [0]) (a : Nat) :
    corePoisoned s 0 a = false := by
  have hsound : ∀ l ∈ firstLine :: sideLines, l.poison = 0 ∧ l.valid = 15 := by decide
  have hvalid : (15 : BitVec 4).getLsbD (a % 256 / 64) = true := (by decide : ∀ i < 4, (15 : BitVec 4).getLsbD i = true) _ (by omega)
  unfold corePoisoned
  rw [l1Line_deep hcores]
  split
  next hnone =>
    have hfirst := List.find?_eq_none.mp hnone firstLine List.mem_cons_self
    have hkey : a / 256 ≠ 0 := fun h => hfirst (by rw [h]; rfl)
    simp only [poisoned, hpoison, List.contains_cons, List.contains_nil, Bool.or_false, beq_eq_false_iff_ne]
    omega
  next l hl =>
    obtain ⟨hclean, hfull⟩ := hsound l (List.mem_of_find?_eq_some hl)
    rw [hfull, hclean, if_pos hvalid]
    exact BitVec.getLsbD_zero

theorem recPoisoned_deep {s : State} (hcores : s.cores = [deepCore (firstLine :: sideLines)]) (hpoison : s.poison = [0]) {c : Crew}
    (hc : c.core = 0) (i : Nat) : recPoisoned s c i = false := by
  simp [recPoisoned, hc, stackBase_deep hcores, corePoisoned_deep hcores hpoison]

/-- Without a copy of line 0 in the L1 the first record is poisoned. -/
theorem stackPoisoned_filled {cs : List Crew} {s : State} {c : Crew} (h : Filled cs s) (hcore : c.core = 0) (hslot : c.slot = 0) (hn : 0 < c.nrec) :
    stackPoisoned s c = true := by
  obtain ⟨-, hpoison, ls, hcores, hne, -⟩ := h
  have hnone : l1Line s 0 0 = none := by
    rw [l1Line_deep hcores]
    exact List.find?_eq_none.mpr fun l hl => by simpa using hne l hl
  have hread : corePoisoned s 0 0 = true := by simp [corePoisoned, hnone, poisoned, hpoison]
  simp only [stackPoisoned, recPoisoned, hcore, stackBase_deep hcores, hslot, hn, decide_true, Bool.true_and]
  exact List.any_eq_true.mpr ⟨0, by decide, hread⟩

/-- The bytes of records from address 0 up, as they are written (R271). -/
def recordBytes (es : List Entry) : List (Nat × Byte) := es.zipIdx.flatMap fun (e, i) => addrs (stackAddr 0 0 i) (wordsBytes (entryWords e))

theorem mem_record {e : Entry} {i : Nat} {w : Nat × Byte} (h : w ∈ addrs (stackAddr 0 0 i) (wordsBytes (entryWords e))) : w.1 / 16 = i := by
  have hlength : (wordsBytes (entryWords e)).length = 16 := rfl
  have := mem_addrs h
  unfold stackAddr at this
  omega

/-- Of 4,097 records the last alone lies beyond the stack's first 256 lines. -/
theorem recordBytes_split {es : List Entry} (h : es.length = 4097) : ∃ ws vs, recordBytes es = ws ++ vs ∧ (∀ w ∈ ws, w.1 / 256 < 256) ∧ vs ≠ [] ∧
    ∀ v ∈ vs, v.1 / 256 = 256 := by
  obtain ⟨es, e, rfl⟩ := List.eq_nil_or_concat es |>.resolve_left (by rintro rfl; cases h)
  have hlen : es.length = 4096 := by simpa using h
  refine ⟨recordBytes es, addrs (stackAddr 0 0 4096) (wordsBytes (entryWords e)), ?_, fun w hw => ?_, List.cons_ne_nil _ _, fun v hv => ?_⟩
  · rw [recordBytes, List.concat_eq_append, List.zipIdx_append, List.flatMap_append, hlen, Nat.zero_add, List.zipIdx_singleton, List.flatMap_singleton]
    rfl
  · obtain ⟨⟨e, i⟩, hi, hw⟩ := List.mem_flatMap.mp hw
    have hplace := mem_record hw
    have := List.snd_lt_of_mem_zipIdx hi
    omega
  · have hplace := mem_record hv
    omega

/-- A stack of 4,097 records written anew puts the first record's line out of the L1. -/
theorem putStack_deep {cs : List Crew} {s : State} {c : Crew} {es : List Entry} (h : Filling cs s) (hnear : ∀ c ∈ cs, c.near = []) (hcore : c.core = 0)
    (hslot : c.slot = 0) (hes : es.length = 4097) : ∃ t, Filled cs t ∧ putStack s c es = modCrew t c.id fun c => { c with nrec := es.length } := by
  obtain ⟨new, first, hcores, -⟩ := h.lines
  obtain ⟨ws, vs, hsplit, hws, hne, hvs⟩ := recordBytes_split hes
  refine ⟨_, h.filled (k := Clock.zero) hnear hws hne hvs, ?_⟩
  rw [← hsplit]
  unfold putStack
  rw [hcore, stackBase_deep hcores, hslot]
  rfl

theorem stackRecs_deep {s : State} {ls : List L1Line} {c : Crew} {n : Nat} (hcores : s.cores = [deepCore ls]) (hcore : c.core = 0) (hslot : c.slot = 0)
    (hn : c.nrec = n + 1) : stackRecs s c = stackRec s 0 0 0 0 :: (List.range n).map fun i => stackRec s 0 0 0 (i + 1) := by
  simp only [stackRecs, hcore, stackBase_deep hcores, hslot, hn, List.range_succ_eq_map, List.map_cons, List.map_map]
  rfl

/-! ### The records that come in -/

section
variable {s : State} {id most n : Nat} {c : Crew} (hc : crewAt s id = some c) (hnrec : c.nrec ≠ 0) (hpriv : c.priv = false)
include hc hnrec hpriv

theorem refill_error {x : FrontErr} (h : refillN s id most c.nrec = .error x) : refill s id most = .error x := by
  simp [refill, hc, hnrec, hpriv, h]

section
variable (hlen : c.entries.length < most)
include hlen

theorem refillN_poisoned (h : stackPoisoned s c = true) : refillN s id most (n + 1) = .error .soft := by
  simp [refillN, hc, hnrec, hpriv, Nat.not_le.mpr hlen, h]

theorem refillN_sound (h : stackPoisoned s c = false) : refillN s id most (n + 1) = refillN (restoreOldest s id) id most n := by
  simp [refillN, hc, hnrec, hpriv, Nat.not_le.mpr hlen, h]

end
end

/-- An entry that merges makes no entry more (R266). -/
theorem length_addEntry {es : List Entry} {e : Entry} (h : es.any (fun x => x.pc == e.pc) = true) : (addEntry es e).length = es.length := by
  rw [addEntry, if_pos h, List.length_map]

/-- The first record comes in and merges, and leaves the next one poisoned. -/
theorem restoreOldest_deepNext : ∃ c, crewAt (restoreOldest deepNext 2) 2 = some c ∧ c.nrec = 4097 ∧ c.priv = false ∧ c.entries.length = 1 ∧
    stackPoisoned (restoreOldest deepNext 2) c = true := by
  have hcrew : crewAt deepNext 2 = some deepOn := rfl
  have hrecs := stackRecs_deep (n := 4097) (s := deepNext) (c := deepOn) rfl rfl rfl rfl
  have hlength : ((List.range 4097).map fun i => stackRec deepNext 0 0 0 (i + 1)).length = 4097 := (List.length_map ..).trans List.length_range
  generalize (List.range 4097).map (fun i => stackRec deepNext 0 0 0 (i + 1)) = rs at hrecs hlength
  have hmerge : (addEntry deepOn.entries (stackRec deepNext 0 0 0 0)).length = 1 := length_addEntry (by decide)
  generalize stackRec deepNext 0 0 0 0 = r at hrecs hmerge
  obtain ⟨t, hfilled, hput⟩ := putStack_deep deepNext_filling (by decide) (c := deepOn) rfl rfl hlength
  have hrestored : restoreOldest deepNext 2 =
      modCrew (modCrew t 2 fun c => { c with nrec := rs.length }) 2 fun c => { c with entries := addEntry c.entries r } := by
    simp only [restoreOldest, hcrew, hrecs, hput]
    rfl
  have ht : crewAt t 2 = some deepOn := by simp only [crewAt, hfilled.crews]; rfl
  have hfound := crewAt_modCrew_self (f := fun c => { c with entries := addEntry c.entries r }) (fun _ => rfl)
    (crewAt_modCrew_self (f := fun c => { c with nrec := rs.length }) (fun _ => rfl) ht)
  rw [hrestored]
  exact ⟨_, hfound, hlength, rfl, hmerge, stackPoisoned_filled (cs := _) ⟨rfl, hfilled.poison, hfilled.lines⟩ rfl rfl (by simp [hlength])⟩

/-- The second record cannot come in. -/
theorem refill_deepNext : refill deepNext 2 2 = .error .soft := by
  obtain ⟨c, hc, hnrec, hpriv, hlen, hpoisoned⟩ := restoreOldest_deepNext
  have hcrew : crewAt deepNext 2 = some deepOn := rfl
  have hsound : stackPoisoned deepNext deepOn = false := recPoisoned_deep rfl rfl rfl 0
  have hsecond : refillN (restoreOldest deepNext 2) 2 2 (4096 + 1) = .error .soft :=
    refillN_poisoned hc (by omega) hpriv (by omega) hpoisoned
  exact refill_error hcrew (by decide) rfl ((refillN_sound (n := 4097) hcrew (by decide) rfl (by decide) hsound).trans hsecond)

/-! ### The counterexample -/

/-- BATCH.POLL at lane scope under a guard that holds in no lane. -/
def pollSpec : Spec := { i := .batchPoll ⟨false, .lane, ⟨true, 3⟩⟩ 0 0, ops := [.dst 0, .src 0], waits := true, localOnly := true }

/-- The machine in which the instruction's body runs. -/
def deepBody : State := { deepState with cur := none }

/-- The instruction's place, with its one participant, whose act is empty. -/
def deepCtx : Ctx := ⟨2, .lane, 0, 4, 0, 0, [⟨2, 0, false⟩]⟩

theorem stacksSound_deep (x : Ctx) : stacksSound x deepBody = true := by
  have hcrew : ∀ c ∈ deepBody.crews, stackSound deepBody c = true := by
    have hcore : ∀ c ∈ deepBody.crews, c.core = 0 := by decide
    intro c hc
    simp [stackSound, hcore c hc, stackBase_deep (s := deepBody) (ls := firstLine :: sideLines) rfl, recPoisoned_deep (s := deepBody) rfl rfl (hcore c hc)]
  refine List.all_eq_true.mpr fun p _ => ?_
  split
  next c hc => exact hcrew c (List.mem_of_find?_eq_some hc)
  next => rfl

theorem deepState_issues : issuePoint pollSpec deepState = some (deepCtx, deepBody) :=
  issuePoint_of_lane (c := deepCrew 0) rfl rfl rfl rfl rfl rfl rfl fun _ => stacksSound_deep _

/-- The instruction cannot go on, whether or not the body has written the crew back. -/
theorem retire_deep {s : State} (hcrew : crewAt s 2 = some (deepCrew 0)) (hdrained : drained s [2] = false)
    (hnext : setCrew s { deepCrew 0 with entries := entriesOn s (deepCrew 0) 0 4 } = deepNext) : retire deepCtx s = holdCrew s 2 :=
  retire_held rfl (advance_error hcrew rfl (by decide) ((congrArg (refill · 2 2) hnext).trans refill_deepNext)) hdrained

/-- Refutes O40, in its clause on BATCH.POLL without an active lane: where a second crew bears the number of the one that polls, and a poisoned record holds the
crew at the instruction, the second crew is written over, and `retire` alone would have left it. -/
theorem not_copiesAndBatches : ¬ Obligations.CopiesAndBatches := by
  unfold Obligations.CopiesAndBatches
  rintro ⟨-, -, hbatches, -⟩
  obtain ⟨-, -, hpoll⟩ := hbatches _ 0 0 deepState deepBody deepCtx _ (deepCrew 0) rfl rfl rfl
  have hclaim := (hpoll deepState_issues).1 rfl
  have hstates := Host.Outcome.next.inj ((exec_batchPoll_idle rfl rfl rfl deepState_issues).symm.trans hclaim)
  rw [retire_deep rfl rfl rfl, retire_deep rfl rfl rfl] at hstates
  exact absurd (congrArg (fun s : State => s.crews.map (·.index)) hstates) (by decide)

end Sys2Proof.Machine
end

section
/-!
SUPPORT. Register and lane moves: the lanes of a lane set, a register that a result was written to, and the issue of a body that acts on each participant's
crew with what it has read of the machine before.
-/

namespace Sys2Proof.Machine

/-! ### Lane sets -/

/-- The binary digits of a number put together from a list of bits, lowest first. -/
theorem testBit_foldr_bits (f : Nat → Bool) : ∀ (ls : List Nat) (i : Nat),
    (ls.foldr (fun l acc => (if f l then 1 else 0) + 2 * acc) 0).testBit i = (ls[i]?).any f
  | [], i => by simp
  | l :: ls, 0 => by cases h : f l <;> simp [Nat.testBit_zero, h]
  | l :: ls, i + 1 => by
    have hhalf : ∀ acc : Nat, ((if f l then 1 else 0) + 2 * acc) / 2 = acc := fun acc => by split <;> omega
    rw [List.foldr_cons, Nat.testBit_succ, hhalf, testBit_foldr_bits f ls i, List.getElem?_cons_succ]

theorem laneIn_maskOf (f : Nat → Bool) {l : Nat} (h : l < 32) : laneIn (maskOf f) l = f l := by
  rw [laneIn, maskOf, BitVec.getLsbD_ofNat, testBit_foldr_bits, List.getElem?_range h]
  simp [h]

/-- Two lane sets with the same lanes are equal. -/
theorem mask_ext {m n : Mask} (h : ∀ l < 32, laneIn m l = laneIn n l) : m = n := BitVec.eq_of_getLsbD_eq h

/-- A lane set is not empty when it has a lane. -/
theorem ne_zero_iff_laneIn {m : Mask} : m ≠ 0 ↔ ∃ l < 32, laneIn m l = true := by
  constructor
  · intro h
    by_contra hno
    push Not at hno
    exact h (mask_ext fun l hl => by simpa [laneIn] using hno l hl)
  · rintro ⟨l, -, hl⟩
    exact ne_zero_of_laneIn hl

/-! ### A result written -/

theorem vreg_writeResult_self {c : Crew} {d : Nat} (r : Reg) {act : Mask} (full : Bool) (hact : act ≠ 0) (hd : d < 60) (hl : d < c.regs.length) :
    vreg (writeResult c d r act full) d = regWrite (vreg c d) r act full := by
  rw [writeResult, if_neg hact, vreg, pushLatch_regs]
  exact vreg_writeVd_self r act full hd hl

/-- A lane that a write gives its value: one of `act`, or any lane in a full write of shape U or A; in a full write of shape U it is the value of the lowest
lane of `act` (R19, R125). -/
theorem regWrite_laneReg_at {old : Reg} {sh : Shape} {f : Fmt} {t : BitVec 9} {v : Nat → Word} {act : Mask} {full : Bool} (hact : act ≠ 0) {l : Nat}
    (hl : l < 32) (hw : laneIn act l = true ∨ full = true ∧ sh ≠ .g) :
    (regWrite old (laneReg sh f t v) act full).at l = v (if full = true ∧ sh = .u then firstLane act else l) := by
  rw [regWrite, if_neg hact]
  refine (newLanes_at old (laneReg sh f t v) act full hl).trans ?_
  simp only [laneReg_shape, laneReg_at _ _ _ _ hl, laneReg_at _ _ _ _ (firstLane_lt act)]
  by_cases hu : full = true ∧ sh = .u
  · rw [if_pos hu, if_pos hu]
  by_cases ha : full = true ∧ sh = .a
  · rw [if_neg hu, if_neg hu, if_pos ha]
  have hin : laneIn act l = true := hw.resolve_right fun ⟨hf, hg⟩ => by cases sh <;> simp_all
  rw [if_neg hu, if_neg hu, if_neg ha, if_pos hin]

theorem regWrite_taint {old res : Reg} {act : Mask} (full : Bool) (h : act ≠ 0) : (regWrite old res act full).taint = res.taint := (regWrite_tags full h).2.1

/-- A result's write leaves the floor clock. -/
theorem writeResult_floor (c : Crew) (d : Nat) (r : Reg) (act : Mask) (full : Bool) :
    { writeResult c d r act full with floor := c.floor } = writeResult c d r act full := by
  rw [writeResult_frame]

/-- Registers built lane by lane depend on the 32 lanes alone. -/
theorem laneReg_congr {sh : Shape} {f : Fmt} {t : BitVec 9} {v w : Nat → Word} (h : ∀ l < 32, v l = w l) : laneReg sh f t v = laneReg sh f t w := by
  have hmap : laneIds.map v = laneIds.map w := List.map_congr_left fun l hl => h l (List.mem_range.mp hl)
  rw [laneReg, laneReg, hmap]

/-! ### The issue of a body that acts crew by crew -/

section
variable {sp : Spec} {s t : State} {x : Ctx} {body : Ctx → State → Res} {f : Part → Crew → Option Nat × Crew}

/-- A body that, at this place, acts on each participant's crew by itself. -/
theorem issue_each_at {r : Part → Crew} (hp : issuePoint sp s = some (x, t)) (hb : body x t = eachCrew f x t)
    (h : Each x t r fun p c d => f p c = (none, d) ∧ d.id = c.id) : issue sp body s = .next (retire x (setParts x t r)) :=
  issue_done hp (hb.trans (eachCrew_all (issuePoint_nodup hp) h))

/-- The same with one participant. -/
theorem Alone.issue_each_at {p : Part} {c d : Crew} (h : Alone sp s x p c t) (hb : body x t = eachCrew f x t) (hf : f p c = (none, d)) :
    issue sp body s = .next (retire x (setCrew t d)) := by
  obtain ⟨hp, hparts, hc⟩ := h
  refine issue_done hp (hb.trans ?_)
  simp only [eachCrew, hparts, List.foldl_cons, List.foldl_nil, eachStep, hc, hf]

/-- What holds of a participant by `R` holds by `Q` too. -/
theorem Each.imp {r : Part → Crew} {R Q : Part → Crew → Crew → Prop} (h : Each x t r R) (hi : ∀ p c d, R p c d → Q p c d) : Each x t r Q := fun p hm =>
  let ⟨c, hc, hr⟩ := h p hm
  ⟨c, hc, hi p c _ hr⟩

/-- A body that, at this place, acts on each participant's crew by itself, and leaves a crew without a lane in act alone. -/
theorem issue_orSame {R : Part → Crew → Crew → Prop} {r : Part → Crew} (hp : issuePoint sp s = some (x, t)) (hb : body x t = eachCrew f x t)
    (h0 : ∀ p c, p.act = 0 → f p c = (none, c)) (h1 : ∀ p c d, p.act ≠ 0 → R p c d → f p c = (none, d) ∧ d.id = c.id) (h : Each x t r (orSame R)) :
    issue sp body s = .next (retire x (setParts x t r)) := by
  refine Machine.issue_each_at hp hb (h.imp fun p c d hsame => ?_)
  by_cases hact : p.act = 0
  · rw [hsame.1 hact]
    exact ⟨h0 p c hact, rfl⟩
  · exact h1 p c d hact (hsame.2 hact)

end

end Sys2Proof.Machine
end

section
/-! PROOF of O11, Moves: MOV, TAGF, TAGQ and TCLR act on each participant's crew by itself; SEL writes the lanes of the whole entry. -/

namespace Sys2Proof.Machine

theorem movBody_done {d : RCode} {b : Src} {p : Part} {c : Crew} {r : Reg} (hact : p.act ≠ 0) (hr : srcVal c b .raw32 = some r) :
    movBody d b p c = (none, writeResult c d.toNat r p.act p.full) := by
  simp only [movBody, if_neg hact, hr, moveTo]

theorem gives_mov (x : Pfx) (d : RCode) (b : Src) : Gives { i := .mov x d b, ops := [.dst d, .srcB b] }
    (fun p c c' => ∃ r, srcVal c b .raw32 = some r ∧ c' = writeResult c d.toNat r p.act p.full) := by
  refine gives_each (f := movBody d b) (fun _ => rfl) (fun _ _ hact => if_pos hact) ?_
  rintro p c _ hact ⟨r, hr, rfl⟩
  exact ⟨movBody_done hact hr, writeResult_id ..⟩

theorem v5_toNat (d : BitVec 5) : (v5 d).toNat = d.toNat := by
  have := d.isLt
  simp only [v5, BitVec.toNat_setWidth]
  omega

theorem gives_mov16 (d : BitVec 5) (v : RCode) : Gives { i := .mov16 d v, ops := [.dst (v5 d), .src v] }
    (fun p c c' => ∃ r, srcReg c v.toNat = some r ∧ c' = writeResult c d.toNat r p.act p.full) := by
  refine gives_each (f := movBody (v5 d) (.reg v)) (fun _ => rfl) (fun _ _ hact => if_pos hact) ?_
  rintro p c _ hact ⟨r, hr, rfl⟩
  exact ⟨(movBody_done (b := .reg v) hact hr).trans (by rw [v5_toNat]), writeResult_id ..⟩

theorem gives_tagf (x : Pfx) (f : Fmt) (d a : RCode) : Gives { i := .tagf x f d a, ops := [.dst d, .src a] }
    (fun p c c' => ∃ r, srcReg c a.toNat = some r ∧ c' = writeResult c d.toNat { r with fmt := f } p.act p.full) := by
  refine gives_each (fun _ => rfl) (fun _ _ hact => if_pos hact) ?_
  rintro p c _ hact ⟨r, hr, rfl⟩
  exact ⟨by simp only [if_neg hact, hr, moveTo], writeResult_id ..⟩

theorem gives_tagq (x : Pfx) (d a : RCode) : Gives { i := .tagq x d a, ops := [.dst d, .src a] }
    (fun p c c' => ∃ r, srcReg c a.toNat = some r ∧ c' = writeResult c d.toNat (uReg .i32 (tagWord r)) p.act p.full) := by
  refine gives_each (fun _ => rfl) (fun _ _ hact => if_pos hact) ?_
  rintro p c _ hact ⟨r, hr, rfl⟩
  exact ⟨by simp only [if_neg hact, hr, moveTo], writeResult_id ..⟩

theorem gives_tclr (x : Pfx) (d : RCode) : Gives { i := .tclr x d, ops := [.vec d] }
    (fun _ c c' => c' = { c with regs := c.regs.set d.toNat { vreg c d.toNat with taint := 0 } }) := by
  refine gives_each (fun _ => rfl) (fun _ _ hact => if_pos hact) ?_
  rintro p c _ hact rfl
  exact ⟨if_neg hact, rfl⟩

/-! ### SEL -/

/-- Whether all of a crew's live lanes are at the instruction. -/
theorem entryFull_of_entry {s : State} {pc : Word} {p : Part} {c : Crew} {e : Entry} (hc : crewAt s p.crew = some c) (he : entryAt c pc = some e) :
    entryFull s pc p = (c.live &&& ~~~e.mask == 0) := by
  simp only [entryFull, hc, he]

/-- SEL's result over the lanes of the entry: va in the lanes `yes`, vb elsewhere (R135). -/
def selReg (yes mask : Mask) (ra rb : Reg) (f : Fmt) : Reg :=
  laneReg (if (yes &&& mask = mask ∨ yes &&& mask = 0) ∧ ra.shape = .u ∧ rb.shape = .u then .u else .g) f (ra.taint ||| rb.taint)
    fun l => if laneIn yes l then ra.at l else rb.at l

section
variable {d a : RCode} {b : Src} {c : Crew} {e : Entry} {ra rb : Reg} {f : Fmt} (ha : srcReg c a.toNat = some ra) (hb : srcVal c b ra.fmt = some rb)
  (hf : selFmt ra.fmt rb.fmt = some f)
include ha hb hf

/-- SEL on a crew whose sources are readable and have a common format (R127, R135). -/
theorem selBody_done {g : Guard} {pc : Word} {full : Bool} (he : entryAt c pc = some e) :
    selBody g pc full d a b c = (none, writeResult c d.toNat (selReg (guardLanes c.pred g) e.mask ra rb f) e.mask full) := by
  simp only [selBody, he, ha, hb, hf, selReg, uShape, List.all_cons, List.all_nil, Bool.and_true, Bool.and_eq_true, Bool.or_eq_true, beq_iff_eq, ite_and]

theorem exec_sel {x : Pfx} {s t : State} {u : Ctx} {p : Part} (h : Alone { i := .sel x d a b, ops := binOps d a b } s u p c t)
    (he : entryAt c u.pc = some e) : exec (.sel x d a b) s = .next (retire u (setCrew t
      (writeResult c d.toNat (selReg (guardLanes c.pred x.guard) e.mask ra rb f) e.mask (c.live &&& ~~~e.mask == 0)))) := by
  have hfull := entryFull_of_entry h.crew he
  have hall : u.parts.all (entryFull t u.pc) = (c.live &&& ~~~e.mask == 0) := by simp [h.only, hfull]
  refine h.issue_each_at rfl ?_
  rw [hall, hfull, ite_self]
  exact selBody_done ha hb hf he

end

/-- Settles O11, each instruction by its own rule. -/
theorem moves : Obligations.Moves := by
  unfold Obligations.Moves
  exact ⟨gives_mov, gives_mov16, gives_tagf, gives_tagq, gives_tclr, fun _ _ _ _ _ _ _ _ _ _ _ _ _ h he ha hb hf => exec_sel ha hb hf h he⟩

end Sys2Proof.Machine
end

section
/-!
SUPPORT. Instructions that read other lanes: what MOVU, MOVA, a shuffle and a vote come to over a vector, for each of its members, and over a lone crew.
-/

namespace Sys2Proof.Machine

/-! ### The vectors of the participants -/

/-- The participants with their crews. -/
def withCrews (x : Ctx) (t : State) : List (Part × Crew) := x.parts.filterMap fun p => (crewAt t p.crew).map fun c => (p, c)

theorem mem_withCrews {x : Ctx} {t : State} {q : Part × Crew} : q ∈ withCrews x t ↔ q.1 ∈ x.parts ∧ crewAt t q.1.crew = some q.2 := by
  obtain ⟨p, c⟩ := q
  simp only [withCrews, List.mem_filterMap, Option.map_eq_some_iff, Prod.mk.injEq]
  constructor
  · rintro ⟨p, hp, c, hc, rfl, rfl⟩
    exact ⟨hp, hc⟩
  · rintro ⟨hp, hc⟩
    exact ⟨p, hp, c, hc, rfl, rfl⟩

theorem withCrews_alone {x : Ctx} {t : State} {p : Part} {c : Crew} (hparts : x.parts = [p]) (hc : crewAt t p.crew = some c) :
    withCrews x t = [(p, c)] := by
  simp [withCrews, hparts, hc]

section
variable {f : List (Part × Crew) → Except Nat (List Crew)} {x : Ctx} {t : State}

/-- At set scope the whole set is one vector (R123). -/
theorem onVectors_set {cs : List Crew} (hscope : x.scope = .set) (hf : f (withCrews x t) = .ok cs) : onVectors f x t = .done (cs.foldl setCrew t) := by
  have hv : vectors x t = [withCrews x t] := by simp [vectors, hscope, withCrews]
  simp only [onVectors, hv, List.foldl_cons, List.foldl_nil, hf]

/-- A lone participant is a vector of its own at every scope (R123). -/
theorem onVectors_alone {p : Part} {c d : Crew} (hparts : x.parts = [p]) (hc : crewAt t p.crew = some c) (hf : f [(p, c)] = .ok [d]) :
    onVectors f x t = .done (setCrew t d) := by
  have hv : vectors x t = [[(p, c)]] := by simp [vectors, hparts, hc]
  simp only [onVectors, hv, List.foldl_cons, List.foldl_nil, hf]

/-- The issue of a body over vectors with one participant. -/
theorem Alone.issue_vector {sp : Spec} {s : State} {p : Part} {c d : Crew} (h : Alone sp s x p c t) (hf : f [(p, c)] = .ok [d]) :
    issue sp (onVectors f) s = .next (retire x (setCrew t d)) :=
  issue_done h.point (onVectors_alone h.only h.crew hf)

end

/-! ### va over a vector -/

theorem taint_or_zero (t : BitVec 9) : t ||| 0 = t := BitVec.or_zero

/-- A lone crew reads no other member's va (R390). -/
theorem crossTaint_alone (p : Part) (c : Crew) (a : RCode) : crossTaint [(p, c)] a c = (0, c.floor) := by
  simp [crossTaint]

/-- Another member's tainted va gives FLOOR (R390). -/
theorem crossTaint_foreign {g : List (Part × Crew)} {a : RCode} {c : Crew}
    (h : ∃ q ∈ g, q.2.id ≠ c.id ∧ ∃ r, srcReg q.2 a.toNat = some r ∧ r.taint ≠ 0) : (crossTaint g a c).1 = floorBit := by
  obtain ⟨q, hq, hid, r, hr, ht⟩ := h
  refine if_neg fun hempty => ?_
  refine absurd (List.filterMap_eq_nil_iff.mp (List.isEmpty_iff.mp hempty) q (List.mem_filter.mpr ⟨hq, by simpa using hid⟩)) ?_
  simpa [hr] using ht

theorem noneActive_eq_false {g : List (Part × Crew)} {q : Part × Crew} (hq : q ∈ g) (hact : q.1.act ≠ 0) : noneActive g = false :=
  List.all_eq_false.mpr ⟨q, hq, by simpa using hact⟩

section
variable {p : Part} {c : Crew} {a : RCode} {ra : Reg} (ha : srcReg c a.toNat = some ra)
include ha

theorem commonFmt_alone : commonFmt [(p, c)] a = some ra.fmt := by simp [commonFmt, ha]

theorem vecLane_alone {n : Nat} (hn : n < 32) : vecLane [(p, c)] a n = ra.at n := by
  simp [vecLane, Nat.div_eq_of_lt hn, Nat.mod_eq_of_lt hn, ha]

theorem vecU_alone : vecU [(p, c)] a = (ra.shape == .u) := by
  simp [vecU, vecLane_alone ha, ha]

end

/-- Lane `n` of the vector is in the act of its member. -/
def LaneOn (g : List (Part × Crew)) (n : Nat) : Prop := ∃ q, g[n / 32]? = some q ∧ laneIn q.1.act (n % 32) = true

/-- The lowest lane of a vector that is in act (R135). -/
theorem vecFirst_eq {g : List (Part × Crew)} {n : Nat} (hn : n < 32 * g.length) (hon : LaneOn g n) (hlow : ∀ j < n, ¬ LaneOn g j) : vecFirst g = n := by
  obtain ⟨q, hq, hin⟩ := hon
  unfold vecFirst
  rw [List.find?_range_eq_some.mpr ⟨by simp only [hq, hin], List.mem_range.mpr hn, fun j hj => ?_⟩, Option.getD_some]
  split
  next r hr => exact (Bool.not_eq_true' _).mpr (Bool.eq_false_iff.mpr fun hin' => hlow j hj ⟨r, hr, hin'⟩)
  next => rfl

theorem noneActive_of_laneOn {g : List (Part × Crew)} {n : Nat} (h : LaneOn g n) : noneActive g = false := by
  obtain ⟨q, hq, hin⟩ := h
  exact noneActive_eq_false (List.mem_of_getElem? hq) (ne_zero_of_laneIn hin)

/-! ### A member after an instruction over its vector -/

/-- The taint of a crew's va. -/
def vaTaint (a : RCode) (c : Crew) : BitVec 9 :=
  match srcReg c a.toNat with
  | some r => r.taint
  | none => 0

/-- A member after an instruction that reads other members' va: a result where it has a lane in act, and its floor clock in any case (R390). -/
def memberWrite (g : List (Part × Crew)) (d a : RCode) (res : Part × Crew → Reg) (q : Part × Crew) : Crew :=
  if q.1.act == 0#32 then { q.2 with floor := (crossTaint g a q.2).2 }
  else { writeResult q.2 d.toNat (res q) q.1.act q.1.full with floor := (crossTaint g a q.2).2 }

section
variable {g : List (Part × Crew)} {d a : RCode} {res : Part × Crew → Reg} {q : Part × Crew}

theorem memberWrite_idle (hact : q.1.act = 0) : memberWrite g d a res q = { q.2 with floor := (crossTaint g a q.2).2 } :=
  if_pos (beq_iff_eq.mpr hact)

theorem memberWrite_active (hact : q.1.act ≠ 0) :
    memberWrite g d a res q = { writeResult q.2 d.toNat (res q) q.1.act q.1.full with floor := (crossTaint g a q.2).2 } :=
  if_neg fun h => hact (beq_iff_eq.mp h)

theorem memberWrite_alone {p : Part} {c : Crew} (hact : p.act ≠ 0) :
    memberWrite [(p, c)] d a res (p, c) = writeResult c d.toNat (res (p, c)) p.act p.full := by
  rw [memberWrite_active hact, crossTaint_alone, writeResult_floor]

theorem vreg_memberWrite (hact : q.1.act ≠ 0) (hd : d.toNat < 60) (hl : d.toNat < q.2.regs.length) :
    vreg (memberWrite g d a res q) d.toNat = regWrite (vreg q.2 d.toNat) (res q) q.1.act q.1.full := by
  rw [memberWrite_active hact]
  exact vreg_writeResult_self _ _ hact hd hl

/-- A result that takes the taint of other members' va carries FLOOR where one of them is tainted (R390). -/
theorem memberWrite_floor (hact : q.1.act ≠ 0) (hd : d.toNat < 60) (hl : d.toNat < q.2.regs.length) {t : BitVec 9}
    (ht : (res q).taint = t ||| (crossTaint g a q.2).1) (h : ∃ q' ∈ g, q'.2.id ≠ q.2.id ∧ ∃ r, srcReg q'.2 a.toNat = some r ∧ r.taint ≠ 0) :
    (vreg (memberWrite g d a res q) d.toNat).taint.getLsbD 8 = true := by
  rw [vreg_memberWrite hact hd hl, regWrite_taint _ hact, ht, crossTaint_foreign h, BitVec.getLsbD_or]
  exact Bool.or_true _

end

/-! ### MOVU -/

/-- What MOVU gives a member: va's value in the vector's lowest lane of act (R135). -/
def movuReg (g : List (Part × Crew)) (a : RCode) (f : Fmt) (q : Part × Crew) : Reg :=
  laneReg .u f (vaTaint a q.2 ||| (crossTaint g a q.2).1) fun _ => vecLane g a (vecFirst g)

theorem movuBody_active {d a : RCode} {g : List (Part × Crew)} (h : noneActive g = false) : movuBody d a g =
    match commonFmt g a with
    | none => .error trapFormat
    | some f => .ok (g.map (memberWrite g d a (movuReg g a f))) := by
  simp only [movuBody, h, Bool.false_eq_true, if_false]
  rfl

/-- The members after MOVU. -/
theorem movuBody_ok {d a : RCode} {g : List (Part × Crew)} {cs : List Crew} (h : noneActive g = false) (hok : movuBody d a g = .ok cs) :
    ∃ f, cs = g.map (memberWrite g d a (movuReg g a f)) := by
  rw [movuBody_active h] at hok
  cases hf : commonFmt g a with
  | none => simp [hf] at hok
  | some f =>
    simp only [hf] at hok
    exact ⟨f, (Except.ok.inj hok).symm⟩

/-! ### MOVA -/

/-- What MOVA gives the member of rank `k` (R135). -/
def movaReg (k : Nat) (ra rb : Reg) : Reg :=
  laneReg .a ra.fmt (ra.taint ||| rb.taint) fun l => ra.at l + BitVec.ofNat 32 (32 * k + l) * rb.at l

section
variable {d a : RCode} {b : Src} {k : Nat} {p : Part} {c c' : Crew} {ra rb : Reg} (hact : p.act ≠ 0) (ha : srcReg c a.toNat = some ra)
  (hb : srcVal c b ra.fmt = some rb)
include hact ha hb

theorem movaBody_done (hua : ra.shape = .u) (hub : rb.shape = .u) (hia : ra.fmt.isIndex = true) (hib : rb.fmt.isIndex = true) :
    movaBody d a b k p c = .ok (writeResult c d.toNat (movaReg k ra rb) p.act p.full) := by
  simp only [movaBody, if_neg hact, ha, hb, hua, hub, hia, hib, bne_self_eq_false, Bool.or_self, Bool.and_self, Bool.not_true, Bool.false_eq_true, if_false]
  rfl

/-- MOVA that does not trap has written its result. -/
theorem movaBody_ok (hok : movaBody d a b k p c = .ok c') : c' = writeResult c d.toNat (movaReg k ra rb) p.act p.full := by
  simp only [movaBody, if_neg hact, ha, hb] at hok
  split at hok
  · cases hok
  · split at hok
    · cases hok
    · exact (Except.ok.inj hok).symm

end

/-- Where a list is taken through element by element and none fails, each result is its own element's. -/
theorem mapM_ok_getElem {α β ε : Type} {f : α → Except ε β} : ∀ {l : List α} {bs : List β}, l.mapM f = .ok bs → ∀ {k : Nat} {x : α} {y : β},
    l[k]? = some x → bs[k]? = some y → f x = .ok y
  | [], _, _, _, _, _, hx, _ => by simp at hx
  | x :: l, bs, h, k, x', y', hx, hy => by
    rw [List.mapM_cons] at h
    cases hf : f x with
    | error e => simp [hf, bind, Except.bind] at h
    | ok y =>
      cases hl : l.mapM f with
      | error e => simp [hf, hl, bind, Except.bind] at h
      | ok ys =>
        simp only [hf, hl, bind, Except.bind, pure, Except.pure, Except.ok.injEq] at h
        subst h
        cases k with
        | zero =>
          obtain rfl : x = x' := by simpa using hx
          obtain rfl : y = y' := by simpa using hy
          exact hf
        | succ k => exact mapM_ok_getElem hl (by simpa using hx) (by simpa using hy)

/-- Each member after an instruction that takes the members one by one. -/
theorem eachMember_ok {f : Nat → Part → Crew → Except Nat Crew} {g : List (Part × Crew)} {cs : List Crew} (h : eachMember f g = .ok cs) {k : Nat}
    {q : Part × Crew} {c' : Crew} (hq : g[k]? = some q) (hc : cs[k]? = some c') : f k q.1 q.2 = .ok c' :=
  mapM_ok_getElem (f := fun y : (Part × Crew) × Nat => f y.2 y.1.1 y.1.2) h (x := (q, k)) (by simp [hq]) hc

/-! ### Shuffles -/

/-- A crew's vb in a shuffle: a literal takes the format of va (R22). -/
def shflVb (a : RCode) (b : Src) (c : Crew) : Option Reg := srcVal c b (((srcReg c a.toNat).map (·.fmt)).getD .raw32)

/-- What a shuffle gives the member of rank `k`: va in the lanes of the vector that Table 6-5 names (R136). -/
def shflReg (o : Shfl) (g : List (Part × Crew)) (a : RCode) (b : Src) (f : Fmt) (k : Nat) (q : Part × Crew) : Reg :=
  laneReg (if vecU g a then .u else .g) f (vaTaint a q.2 ||| ((shflVb a b q.2).getD Reg.zero).taint ||| (crossTaint g a q.2).1)
    fun l => vecLane g a (o.source (32 * g.length) (32 * k + l) (((shflVb a b q.2).getD Reg.zero).at l).toNat)

theorem shflVb_of_reads {a : RCode} {b : Src} {c : Crew} {ra : Reg} (ha : srcReg c a.toNat = some ra) : shflVb a b c = srcVal c b ra.fmt := by
  simp [shflVb, ha]

/-- The members after a shuffle. -/
theorem shflBody_ok {o : Shfl} {d a : RCode} {b : Src} {g : List (Part × Crew)} {cs : List Crew} (h : noneActive g = false)
    (hok : shflBody o d a b g = .ok cs) : ∃ f, cs = g.zipIdx.map fun y => memberWrite g d a (shflReg o g a b f y.2) y.1 := by
  simp only [shflBody, h, Bool.false_eq_true, if_false] at hok
  split at hok
  · cases hok
  split at hok
  · cases hok
  split at hok
  · cases hok
  next f _ =>
  split at hok
  · cases hok
  exact ⟨f, (Except.ok.inj hok).symm⟩

/-- A source lane of Table 6-5 lies in the vector (R136). -/
theorem Shfl.source_lt (o : Shfl) {w n : Nat} (v : Nat) (hn : n < w) : o.source w n v < w := by
  cases o with
  | idx => exact Nat.mod_lt _ (by omega)
  | up => simp only [Shfl.source]; split <;> omega
  | down => simp only [Shfl.source]; split <;> omega
  | xor => simp only [Shfl.source]; split <;> omega

section
variable {o : Shfl} {d a : RCode} {b : Src} {p : Part} {c : Crew} {ra rb : Reg} (ha : srcReg c a.toNat = some ra) (hb : srcVal c b ra.fmt = some rb)
include ha hb

/-- A lone crew's shuffle reads its own lanes. -/
theorem shflReg_alone : shflReg o [(p, c)] a b ra.fmt 0 (p, c) = laneReg (if ra.shape = .u then .u else .g) ra.fmt (ra.taint ||| rb.taint)
    fun l => ra.at (o.source 32 l (rb.at l).toNat) := by
  have hvb : shflVb a b c = some rb := (shflVb_of_reads ha).trans hb
  simp only [shflReg, hvb, vaTaint, ha, vecU_alone ha, crossTaint_alone, beq_iff_eq, Option.getD_some, taint_or_zero]
  refine laneReg_congr fun l hl => ?_
  rw [List.length_singleton, Nat.mul_zero, Nat.zero_add, Nat.mul_one, vecLane_alone ha (o.source_lt _ hl)]

/-- A shuffle over a lone crew; SHFLI alone takes a vb that is not uniform (R136). -/
theorem shflBody_alone (hact : p.act ≠ 0) (hi : rb.fmt.isIndex = true) (hu : o = .idx ∨ rb.shape = .u) :
    shflBody o d a b [(p, c)] = .ok [writeResult c d.toNat (laneReg (if ra.shape = .u then .u else .g) ra.fmt (ra.taint ||| rb.taint)
      fun l => ra.at (o.source 32 l (rb.at l).toNat)) p.act p.full] := by
  have hnone : noneActive [(p, c)] = false := noneActive_eq_false List.mem_cons_self hact
  have hvb : srcVal c b (((srcReg c a.toNat).map (·.fmt)).getD .raw32) = some rb := (shflVb_of_reads ha).trans hb
  have hshape : (o != .idx && rb.shape != .u) = false := by
    rcases hu with rfl | hu
    · rfl
    · simp [hu]
  rw [← shflReg_alone (o := o) (p := p) ha hb, ← memberWrite_alone (a := a) (res := shflReg o [(p, c)] a b ra.fmt 0) hact]
  simp only [shflBody, hnone, commonFmt_alone ha, List.map_cons, List.map_nil, hvb, List.any_cons, List.any_nil, Option.isNone_some, Bool.or_false, hi,
    hshape, Bool.not_true, Bool.false_eq_true, if_false]
  rfl

end

/-! ### Votes -/

/-- Some lane of act of the vector has a va of which `f` holds. -/
def SomeLane (a : RCode) (g : List (Part × Crew)) (f : Word → Prop) : Prop :=
  ∃ q ∈ g, ∃ re, srcReg q.2 a.toNat = some re ∧ ∃ l < 32, laneIn q.1.act l = true ∧ f (re.at l)

theorem laneIn_yesLanes {a : RCode} {q : Part × Crew} {re : Reg} (hr : srcReg q.2 a.toNat = some re) {l : Nat} (hl : l < 32) :
    laneIn (yesLanes a q) l = (laneIn q.1.act l && re.at l != 0) := by
  simp only [yesLanes, hr, laneIn_maskOf _ hl]

theorem yesLanes_ne_zero {a : RCode} {q : Part × Crew} :
    yesLanes a q ≠ 0 ↔ ∃ re, srcReg q.2 a.toNat = some re ∧ ∃ l < 32, laneIn q.1.act l = true ∧ re.at l ≠ 0 := by
  cases hr : srcReg q.2 a.toNat with
  | none => simp [yesLanes, hr]
  | some re =>
    rw [ne_zero_iff_laneIn]
    constructor
    · rintro ⟨l, hl, hin⟩
      rw [laneIn_yesLanes hr hl] at hin
      exact ⟨re, rfl, l, hl, by simpa using hin⟩
    · rintro ⟨_, ⟨rfl⟩, l, hl, hin⟩
      exact ⟨l, hl, by rw [laneIn_yesLanes hr hl]; simpa using hin⟩

theorem yesLanes_eq_act {a : RCode} {q : Part × Crew} {re : Reg} (hr : srcReg q.2 a.toNat = some re) :
    yesLanes a q = q.1.act ↔ ¬ ∃ l < 32, laneIn q.1.act l = true ∧ re.at l = 0 := by
  constructor
  · rintro h ⟨l, hl, hin, hzero⟩
    have hyes := laneIn_yesLanes hr hl
    simp [h, hin, hzero] at hyes
  · intro h
    refine mask_ext fun l hl => ?_
    rw [laneIn_yesLanes hr hl]
    cases hin : laneIn q.1.act l with
    | false => rfl
    | true => simpa using fun hzero => h ⟨l, hl, hin, hzero⟩

/-- The word of a vote over the vector `g`; BALLOT gives the crew its own lanes' ballot (R137). -/
def voteWord (o : Vote) (a : RCode) (g : List (Part × Crew)) (q : Part × Crew) : Word :=
  match o with
  | .any => if g.any fun q => yesLanes a q != 0 then 1 else 0
  | .all => if g.all fun q => yesLanes a q == q.1.act then 1 else 0
  | .ballot => yesLanes a q

/-- What a vote takes from other members: nothing, but for ANY and ALL at set scope with a lane in act (R390). -/
def voteCross (o : Vote) (a : RCode) (sc : Scope) (ps : List (Part × Crew)) (c : Crew) : BitVec 9 × Clock :=
  if sc == .set && o != .ballot && !noneActive ps then crossTaint ps a c else (0, c.floor)

/-- A vote on one crew. -/
def voteCrew (d a : RCode) (cross : Crew → BitVec 9 × Clock) (v : Part × Crew → Word) (p : Part) (c : Crew) : Option Nat × Crew :=
  if p.act = 0 then (none, { c with floor := (cross c).2 })
  else (none, { writeResult c d.toNat (laneReg .u .i32 (vaTaint a c ||| (cross c).1) fun _ => v (p, c)) p.act p.full with floor := (cross c).2 })

/-- A vote acts on each participant's crew by itself, where the formats at set scope do not trap (R137, R390). -/
theorem voteBody_eq {o : Vote} {d a : RCode} {x : Ctx} {s : State}
    (hfmt : x.scope = .set → o ≠ .ballot → noneActive (withCrews x s) = false → (commonFmt (withCrews x s) a).isSome = true) :
    voteBody o d a x s = eachCrew (voteCrew d a (voteCross o a x.scope (withCrews x s))
      fun q => voteWord o a (if x.scope == .set || x.scope == .block then withCrews x s else [q]) q) x s := by
  generalize hps : withCrews x s = ps at hfmt
  have hgoes : (x.scope == .set && o != .ballot && !noneActive ps && (commonFmt ps a).isNone) = false := by
    by_contra hno
    simp only [Bool.not_eq_false, Bool.and_eq_true, beq_iff_eq, bne_iff_ne, Bool.not_eq_true'] at hno
    obtain ⟨⟨⟨hset, hballot⟩, hact⟩, hnone⟩ := hno
    have hsome := hfmt hset hballot hact
    rw [Option.isNone_iff_eq_none.mp hnone] at hsome
    exact Bool.false_ne_true hsome
  unfold withCrews at hps
  unfold voteBody
  simp only [hps, hgoes, Bool.false_eq_true, if_false]
  cases x.scope == .set || x.scope == .block <;> cases o <;> rfl

/-- ANY: whether some lane of act has a va that is not 0 (R137). -/
theorem voteWord_any {a : RCode} {g : List (Part × Crew)} {q : Part × Crew} {w : Word} (hyes : SomeLane a g (· ≠ 0) → w = 1)
    (hno : ¬ SomeLane a g (· ≠ 0) → w = 0) : voteWord .any a g q = w := by
  have hany : (g.any fun q => yesLanes a q != 0) = true ↔ SomeLane a g (· ≠ 0) := by
    simp only [List.any_eq_true, bne_iff_ne, yesLanes_ne_zero]
    rfl
  by_cases h : SomeLane a g (· ≠ 0)
  · rw [hyes h]
    exact if_pos (hany.mpr h)
  · rw [hno h]
    exact if_neg (mt hany.mp h)

/-- ALL: whether no lane of act has a va that is 0 (R137). -/
theorem voteWord_all {a : RCode} {g : List (Part × Crew)} {q : Part × Crew} {w : Word} (hreads : ∀ q ∈ g, ∃ re, srcReg q.2 a.toNat = some re)
    (hno : SomeLane a g (· = 0) → w = 0) (hyes : ¬ SomeLane a g (· = 0) → w = 1) : voteWord .all a g q = w := by
  have hall : (g.all fun q => yesLanes a q == q.1.act) = true ↔ ¬ SomeLane a g (· = 0) := by
    rw [List.all_eq_true]
    constructor
    · rintro h ⟨q, hq, re, hr, hzero⟩
      exact (yesLanes_eq_act hr).mp (beq_iff_eq.mp (h q hq)) hzero
    · intro h q hq
      obtain ⟨re, hr⟩ := hreads q hq
      exact beq_iff_eq.mpr ((yesLanes_eq_act hr).mpr fun hzero => h ⟨q, hq, re, hr, hzero⟩)
  by_cases h : SomeLane a g (· = 0)
  · rw [hno h]
    exact if_neg fun h' => hall.mp h' h
  · rw [hyes h]
    exact if_pos (hall.mpr h)

/-! ### A vote on one crew -/

section
variable {d a : RCode} {cross : Crew → BitVec 9 × Clock} {v : Part × Crew → Word} {p : Part} {c : Crew}

theorem voteCrew_rest (hact : p.act = 0) : voteCrew d a cross v p c = (none, { c with floor := (cross c).2 }) := if_pos hact

theorem voteCrew_idle (hact : p.act = 0) (hcross : (cross c).2 = c.floor) : voteCrew d a cross v p c = (none, c) := by
  rw [voteCrew_rest hact, hcross]

theorem voteCrew_active {ra : Reg} (hact : p.act ≠ 0) (ha : srcReg c a.toNat = some ra) : voteCrew d a cross v p c =
    (none, { writeResult c d.toNat (laneReg .u .i32 (ra.taint ||| (cross c).1) fun _ => v (p, c)) p.act p.full with floor := (cross c).2 }) := by
  rw [voteCrew, if_neg hact]
  simp only [vaTaint, ha]

/-- A vote that takes nothing from other members. -/
theorem voteCrew_own {ra : Reg} (hact : p.act ≠ 0) (ha : srcReg c a.toNat = some ra) (hcross : cross c = (0, c.floor)) :
    voteCrew d a cross v p c = (none, writeResult c d.toNat (laneReg .u .i32 ra.taint fun _ => v (p, c)) p.act p.full) := by
  rw [voteCrew_active hact ha, hcross, taint_or_zero, writeResult_floor]

end

/-- Only ANY and ALL at set scope take from other members (R390). -/
theorem voteCross_own {o : Vote} {a : RCode} {sc : Scope} {ps : List (Part × Crew)} {c : Crew} (h : sc = .set → o = .ballot ∨ noneActive ps = true) :
    voteCross o a sc ps c = (0, c.floor) := by
  refine if_neg fun hno => ?_
  simp only [Bool.and_eq_true, beq_iff_eq, bne_iff_ne, Bool.not_eq_true'] at hno
  obtain ⟨⟨hset, hballot⟩, hact⟩ := hno
  rcases h hset with h | h
  · exact hballot h
  · exact Bool.false_ne_true (hact.symm.trans h)

end Sys2Proof.Machine
end

section
/-! PROOF of O12, VectorMoves: a lone crew is a vector of its own, and each instruction of the family over it. -/

namespace Sys2Proof.Machine

/-! ### A lone crew's lanes -/

/-- The lowest lane of a lone crew's act. -/
theorem vecFirst_alone {p : Part} {c : Crew} {f : Nat} (hf : f < 32) (hin : laneIn p.act f = true) (hlow : ∀ j < f, laneIn p.act j = false) :
    vecFirst [(p, c)] = f := by
  have hon : ∀ j < 32, LaneOn [(p, c)] j ↔ laneIn p.act j = true := fun j hj => by
    simp [LaneOn, Nat.div_eq_of_lt hj, Nat.mod_eq_of_lt hj]
  refine vecFirst_eq (by simpa using hf) ((hon f hf).mpr hin) fun j hj h => ?_
  rw [hon j (by omega), hlow j hj] at h
  exact Bool.false_ne_true h

section
variable {p : Part} {c : Crew} {a : RCode} {ra : Reg} (ha : srcReg c a.toNat = some ra)
include ha

/-- Some lane of a lone crew's act. -/
theorem someLane_alone {f : Word → Prop} : SomeLane a [(p, c)] f ↔ ∃ l ∈ List.range 32, laneIn p.act l = true ∧ f (ra.at l) := by
  simp only [SomeLane, List.mem_singleton, exists_eq_left, ha, Option.some.injEq, exists_eq_left', List.mem_range]

theorem voteWord_any_alone : voteWord .any a [(p, c)] (p, c) = if ∃ l ∈ List.range 32, laneIn p.act l = true ∧ ra.at l ≠ 0 then 1 else 0 :=
  voteWord_any (fun h => if_pos ((someLane_alone ha).mp h)) fun h => if_neg (mt (someLane_alone ha).mpr h)

theorem voteWord_all_alone : voteWord .all a [(p, c)] (p, c) = if ∃ l ∈ List.range 32, laneIn p.act l = true ∧ ra.at l = 0 then 0 else 1 :=
  voteWord_all (by simp [ha]) (fun h => if_pos ((someLane_alone ha).mp h)) fun h => if_neg (mt (someLane_alone ha).mpr h)

theorem voteWord_ballot {g : List (Part × Crew)} : voteWord .ballot a g (p, c) = maskOf fun l => laneIn p.act l && ra.at l != 0 := by
  simp only [voteWord, yesLanes, ha]

end

section
variable {x : Pfx} {d a : RCode} {b : Src} {s t : State} {u : Ctx} {p : Part} {c : Crew} {ra : Reg} (hact : p.act ≠ 0) (ha : srcReg c a.toNat = some ra)
include hact ha

/-! ### MOVU and MOVA -/

theorem exec_movu_alone {f : Nat} (hf : f < 32) (hin : laneIn p.act f = true) (hlow : ∀ j < f, laneIn p.act j = false)
    (h : Alone { i := .movu x d a, ops := [.dst d, .src a] } s u p c t) : exec (.movu x d a) s =
    .next (retire u (setCrew t (writeResult c d.toNat (laneReg .u ra.fmt ra.taint fun _ => ra.at f) p.act p.full))) := by
  have hreg : movuReg [(p, c)] a ra.fmt (p, c) = laneReg .u ra.fmt ra.taint fun _ => ra.at f := by
    simp only [movuReg, vaTaint, ha, crossTaint_alone, taint_or_zero, vecFirst_alone hf hin hlow, vecLane_alone ha hf]
  refine h.issue_vector ?_
  rw [movuBody_active (noneActive_eq_false List.mem_cons_self hact), commonFmt_alone ha, ← hreg]
  exact congrArg (fun c' => Except.ok [c']) (memberWrite_alone hact)

theorem exec_mova_alone {rb : Reg} (h : Alone { i := .mova x d a b, ops := binOps d a b } s u p c t) (hb : srcVal c b ra.fmt = some rb)
    (hua : ra.shape = .u) (hub : rb.shape = .u) (hia : ra.fmt.isIndex = true) (hib : rb.fmt.isIndex = true) : exec (.mova x d a b) s =
    .next (retire u (setCrew t (writeResult c d.toNat (laneReg .a ra.fmt (ra.taint ||| rb.taint)
      fun l => ra.at l + BitVec.ofNat 32 l * rb.at l) p.act p.full))) := by
  have hreg : movaReg 0 ra rb = laneReg .a ra.fmt (ra.taint ||| rb.taint) fun l => ra.at l + BitVec.ofNat 32 l * rb.at l := by
    simp only [movaReg, Nat.mul_zero, Nat.zero_add]
  refine h.issue_vector ?_
  rw [← hreg]
  change (do return [← movaBody d a b 0 p c]) = _
  rw [movaBody_done hact ha hb hua hub hia hib]
  rfl

/-! ### Shuffles -/

/-- A shuffle of a lone crew. -/
theorem issue_shfl_alone {o : Shfl} {i : Instr} {rb : Reg} (h : Alone { i := i, ops := binOps d a b } s u p c t) (hb : srcVal c b ra.fmt = some rb)
    (hi : rb.fmt.isIndex = true) (hu : o = .idx ∨ rb.shape = .u) : issue { i := i, ops := binOps d a b } (onVectors (shflBody o d a b)) s =
    .next (retire u (setCrew t (writeResult c d.toNat (laneReg (if ra.shape = .u then .u else .g) ra.fmt (ra.taint ||| rb.taint)
      fun l => ra.at (o.source 32 l (rb.at l).toNat)) p.act p.full))) :=
  h.issue_vector (shflBody_alone ha hb hact hi hu)

/-! ### Votes -/

/-- A vote of a lone crew. -/
theorem issue_vote_alone {o : Vote} {i : Instr} {w : Word} (h : Alone { i := i, ops := [.dst d, .src a] } s u p c t) (hw : voteWord o a [(p, c)] (p, c) = w) :
    issue { i := i, ops := [.dst d, .src a] } (voteBody o d a) s =
    .next (retire u (setCrew t (writeResult c d.toNat (laneReg .u .i32 ra.taint fun _ => w) p.act p.full))) := by
  have hps := withCrews_alone h.only h.crew
  have hcross : voteCross o a u.scope [(p, c)] c = (0, c.floor) := by
    unfold voteCross
    rw [crossTaint_alone, ite_self]
  refine h.issue_each_at (voteBody_eq fun _ _ _ => by rw [hps, commonFmt_alone ha]; rfl) ?_
  rw [hps, voteCrew_own hact ha hcross, ite_self, hw]

end

/-- Settles O12, each instruction by its own rule. -/
theorem vectorMoves : Obligations.VectorMoves := by
  unfold Obligations.VectorMoves
  intro x d a b s t u p c ra hact
  refine ⟨fun f hf hin hlow h ha => exec_movu_alone hact ha hf hin hlow h,
    fun rb h ha hb hua hub hia hib => exec_mova_alone hact ha h hb hua hub hia hib,
    fun rb h ha hb hi => issue_shfl_alone hact ha h hb hi (.inl rfl),
    fun rb h ha hb hi hu => issue_shfl_alone hact ha h hb hi (.inr hu),
    fun rb h ha hb hi hu => issue_shfl_alone hact ha h hb hi (.inr hu),
    fun rb h ha hb hi hu => issue_shfl_alone hact ha h hb hi (.inr hu),
    fun h ha => issue_vote_alone hact ha h (voteWord_any_alone ha),
    fun h ha => issue_vote_alone hact ha h (voteWord_all_alone ha),
    fun h ha => issue_vote_alone hact ha h (voteWord_ballot ha)⟩

end Sys2Proof.Machine
end

section
/-!
PROOF of O13, WideVectorMoves: over a set, each member is what the instruction over the whole vector gives it; a vote over a block reads every participant and
gives each the same word.
-/

namespace Sys2Proof.Machine

/-! ### The members of a set -/

/-- The issue of a body over vectors at set scope. -/
theorem issue_set {f : List (Part × Crew) → Except Nat (List Crew)} {sp : Spec} {s t : State} {u : Ctx} {cs : List Crew} (hscope : u.scope = .set)
    (hf : f (withCrews u t) = .ok cs) (hp : issuePoint sp s = some (u, t)) :
    issue sp (onVectors f) s = .next (retire u (cs.foldl setCrew t)) :=
  issue_done hp (onVectors_set hscope hf)

section
variable {g : List (Part × Crew)} {d a : RCode} {b : Src} {cs : List Crew} {k : Nat} {q : Part × Crew} {c' : Crew}

/-- A member after MOVU over its vector (R135, R390). -/
theorem movu_member {n : Nat} (hok : movuBody d a g = .ok cs) (hn : n < 32 * g.length) (hon : LaneOn g n) (hlow : ∀ j < n, ¬ LaneOn g j)
    (hq : g[k]? = some q) (hc : cs[k]? = some c') : (q.1.act = 0 → c' = { q.2 with floor := (crossTaint g a q.2).2 }) ∧
    (q.1.act ≠ 0 → d.toNat < 60 → d.toNat < q.2.regs.length →
      (∀ l < 32, laneIn q.1.act l = true ∨ q.1.full = true → (vreg c' d.toNat).at l = vecLane g a n) ∧
      ((∃ q' ∈ g, q'.2.id ≠ q.2.id ∧ ∃ r, srcReg q'.2 a.toNat = some r ∧ r.taint ≠ 0) → (vreg c' d.toNat).taint.getLsbD 8 = true)) := by
  obtain ⟨f, rfl⟩ := movuBody_ok (noneActive_of_laneOn hon) hok
  obtain rfl : memberWrite g d a (movuReg g a f) q = c' := by simpa [hq] using hc
  refine ⟨memberWrite_idle, fun hact hd hlen => ⟨fun l hl hw => ?_, memberWrite_floor hact hd hlen rfl⟩⟩
  rw [vreg_memberWrite hact hd hlen, movuReg, vecFirst_eq hn hon hlow]
  exact regWrite_laneReg_at hact hl (hw.imp_right fun hfull => ⟨hfull, by decide⟩)

/-- A member after MOVA over its vector (R135). -/
theorem mova_member {ra rb : Reg} (hok : eachMember (movaBody d a b) g = .ok cs) (hq : g[k]? = some q) (hc : cs[k]? = some c')
    (ha : srcReg q.2 a.toNat = some ra) (hb : srcVal q.2 b ra.fmt = some rb) : (q.1.act = 0 → c' = q.2) ∧
    (q.1.act ≠ 0 → d.toNat < 60 → d.toNat < q.2.regs.length → ∀ l < 32, laneIn q.1.act l = true ∨ q.1.full = true →
      (vreg c' d.toNat).at l = ra.at l + BitVec.ofNat 32 (32 * k + l) * rb.at l) := by
  have hone := eachMember_ok hok hq hc
  refine ⟨fun hact => ?_, fun hact hd hlen l hl hw => ?_⟩
  · exact (Except.ok.inj ((if_pos hact).symm.trans hone)).symm
  · have hshape : ¬ (q.1.full = true ∧ Shape.a = .u) := by simp
    rw [movaBody_ok hact ha hb hone, vreg_writeResult_self _ _ hact hd hlen, movaReg,
      regWrite_laneReg_at hact hl (hw.imp_right fun hfull => ⟨hfull, by decide⟩), if_neg hshape]

/-- A member with a lane in act after a shuffle over its vector (R136, R390). -/
theorem shfl_member {o : Shfl} {ra rb : Reg} (hok : shflBody o d a b g = .ok cs) (hq : g[k]? = some q) (hc : cs[k]? = some c') (hact : q.1.act ≠ 0)
    (ha : srcReg q.2 a.toNat = some ra) (hb : srcVal q.2 b ra.fmt = some rb) (hd : d.toNat < 60) (hlen : d.toNat < q.2.regs.length) {l : Nat} (hl : l < 32)
    (hin : laneIn q.1.act l = true) :
    (let m := if q.1.full = true ∧ vecU g a = true then firstLane q.1.act else l
     (vreg c' d.toNat).at l = vecLane g a (o.source (32 * g.length) (32 * k + m) (rb.at m).toNat)) ∧
    ((∃ q' ∈ g, q'.2.id ≠ q.2.id ∧ ∃ r, srcReg q'.2 a.toNat = some r ∧ r.taint ≠ 0) → (vreg c' d.toNat).taint.getLsbD 8 = true) := by
  obtain ⟨f, rfl⟩ := shflBody_ok (noneActive_eq_false (List.mem_of_getElem? hq) hact) hok
  obtain rfl : memberWrite g d a (shflReg o g a b f k) q = c' := by simpa [hq] using hc
  have hvb : shflVb a b q.2 = some rb := (shflVb_of_reads ha).trans hb
  have hshape : (if vecU g a = true then Shape.u else .g) = .u ↔ vecU g a = true := by cases vecU g a <;> decide
  refine ⟨?_, memberWrite_floor hact hd hlen rfl⟩
  rw [vreg_memberWrite hact hd hlen, shflReg, hvb, regWrite_laneReg_at hact hl (.inl hin)]
  simp only [hshape, Option.getD_some]

end

/-! ### Votes over a set -/

theorem noneActive_eq_false_iff {g : List (Part × Crew)} : noneActive g = false ↔ ∃ q ∈ g, q.1.act ≠ 0 := by
  simp [noneActive]

theorem voteCross_set {o : Vote} {a : RCode} {g : List (Part × Crew)} {c : Crew} (ho : o ≠ .ballot) (h : noneActive g = false) :
    voteCross o a .set g c = crossTaint g a c := by
  simp [voteCross, ho, h]

/-- A member after ANY or ALL over its set, `w` being the word of the vote: as it was where no member has a lane in act; else its floor clock takes in what
R390 names, and where the member has a lane in act it takes the word. -/
def VoteMember (g : List (Part × Crew)) (d a : RCode) (w : Word) (p : Part) (c c' : Crew) : Prop :=
  (¬ (∃ q ∈ g, q.1.act ≠ 0) → c' = c) ∧
  ((∃ q ∈ g, q.1.act ≠ 0) → p.act = 0 → c' = { c with floor := (crossTaint g a c).2 }) ∧
  (p.act ≠ 0 → ∃ ra, srcReg c a.toNat = some ra ∧
    c' = { writeResult c d.toNat (laneReg .u .i32 (ra.taint ||| (crossTaint g a c).1) fun _ => w) p.act p.full with floor := (crossTaint g a c).2 })

theorem voteCrew_set {o : Vote} {g : List (Part × Crew)} {d a : RCode} {v : Part × Crew → Word} {w : Word} {p : Part} {c c' : Crew} (ho : o ≠ .ballot)
    (hmem : (p, c) ∈ g) (hv : v (p, c) = w) (h : VoteMember g d a w p c c') : voteCrew d a (voteCross o a .set g) v p c = (none, c') ∧ c'.id = c.id := by
  obtain ⟨hnone, hidle, hact⟩ := h
  by_cases hp0 : p.act = 0
  · by_cases hsome : ∃ q ∈ g, q.1.act ≠ 0
    · rw [hidle hsome hp0, voteCrew_rest hp0, voteCross_set ho (noneActive_eq_false_iff.mpr hsome)]
      exact ⟨rfl, rfl⟩
    · have hown : noneActive g = true := by simpa using mt noneActive_eq_false_iff.mp hsome
      rw [hnone hsome]
      exact ⟨voteCrew_idle hp0 (by rw [voteCross_own fun _ => .inr hown]), rfl⟩
  · obtain ⟨ra, ha, rfl⟩ := hact hp0
    rw [voteCrew_active hp0 ha, voteCross_set ho (noneActive_eq_false hmem hp0), hv]
    exact ⟨rfl, writeResult_id ..⟩

/-- ANY and ALL over a set, where the members' formats agree or no lane acts (R137, R390). -/
theorem issue_vote_set {o : Vote} {d a : RCode} {sp : Spec} {s t : State} {u : Ctx} {r : Part → Crew} {w : Word} (ho : o ≠ .ballot) (hscope : u.scope = .set)
    (hp : issuePoint sp s = some (u, t)) (hw : ∀ q, voteWord o a (withCrews u t) q = w)
    (hfmt : (∃ q ∈ withCrews u t, q.1.act ≠ 0) → (commonFmt (withCrews u t) a).isSome = true)
    (h : Each u t r (VoteMember (withCrews u t) d a w)) : issue sp (voteBody o d a) s = .next (retire u (setParts u t r)) := by
  refine issue_each_at hp (voteBody_eq fun _ _ hsome => hfmt (noneActive_eq_false_iff.mp hsome)) fun p hm => ?_
  obtain ⟨c, hc, hmember⟩ := h p hm
  refine ⟨c, hc, ?_⟩
  rw [hscope]
  exact voteCrew_set ho (mem_withCrews.mpr ⟨hm, hc⟩) (hw _) hmember

/-! ### Votes that take nothing from other members -/

/-- A vote at another scope, or BALLOT at any. -/
theorem issue_vote_own {o : Vote} {d a : RCode} {sp : Spec} {s t : State} {u : Ctx} {r : Part → Crew} {v : Part → Reg → Word}
    (hown : u.scope = .set → o = .ballot) (hp : issuePoint sp s = some (u, t))
    (hv : ∀ p c ra, srcReg c a.toNat = some ra →
      voteWord o a (if u.scope == .set || u.scope == .block then withCrews u t else [(p, c)]) (p, c) = v p ra)
    (h : Each u t r (orSame fun p c c' => ∃ ra, srcReg c a.toNat = some ra ∧
      c' = writeResult c d.toNat (laneReg .u .i32 ra.taint fun _ => v p ra) p.act p.full)) :
    issue sp (voteBody o d a) s = .next (retire u (setParts u t r)) := by
  have hcross : ∀ c, voteCross o a u.scope (withCrews u t) c = (0, c.floor) := fun c => voteCross_own fun hset => .inl (hown hset)
  refine issue_orSame hp (voteBody_eq fun hset hballot => absurd (hown hset) hballot) (fun p c hact => voteCrew_idle hact (by rw [hcross])) ?_ h
  rintro p c _ hact ⟨ra, ha, rfl⟩
  exact ⟨(voteCrew_own hact ha (hcross c)).trans (by rw [hv p c ra ha]), writeResult_id ..⟩

theorem gives_voteBallot (x : Pfx) (d a : RCode) : Gives { i := .voteBallot x d a, ops := [.dst d, .src a] } (fun p c c' => ∃ ra,
    srcReg c a.toNat = some ra ∧
    c' = writeResult c d.toNat (laneReg .u .i32 ra.taint fun _ => maskOf fun l => laneIn p.act l && ra.at l != 0) p.act p.full) :=
  fun _ _ _ _ hp h => issue_vote_own (o := .ballot) (fun _ => rfl) hp (fun _ _ _ ha => voteWord_ballot ha) h

/-! ### Votes over a block -/

section
variable {d a : RCode} {t : State} {u : Ctx}

/-- Some lane of act of the participants. -/
theorem someLane_withCrews {f : Word → Prop} : SomeLane a (withCrews u t) f ↔ ∃ q ∈ u.parts, ∃ e re, crewAt t q.crew = some e ∧
    srcReg e a.toNat = some re ∧ ∃ l < 32, laneIn q.act l = true ∧ f (re.at l) := by
  constructor
  · rintro ⟨⟨p, c⟩, hq, re, hr, hl⟩
    obtain ⟨hp, hc⟩ := mem_withCrews.mp hq
    exact ⟨p, hp, c, re, hc, hr, hl⟩
  · rintro ⟨p, hp, c, re, hc, hr, hl⟩
    exact ⟨(p, c), mem_withCrews.mpr ⟨hp, hc⟩, re, hr, hl⟩

/-- Where each participant's crew has a readable va, each crew of the vector has one. -/
theorem withCrews_reads (h : ∀ p ∈ u.parts, ∃ c ra, crewAt t p.crew = some c ∧ srcReg c a.toNat = some ra) :
    ∀ q ∈ withCrews u t, ∃ re, srcReg q.2 a.toNat = some re := by
  intro q hq
  obtain ⟨hp, hc⟩ := mem_withCrews.mp hq
  obtain ⟨c, ra, hc', hra⟩ := h q.1 hp
  obtain rfl : c = q.2 := Option.some.inj (hc'.symm.trans hc)
  exact ⟨ra, hra⟩

/-- ANY and ALL over a block: one word for every participant with a lane in act (R137). -/
theorem issue_vote_block {o : Vote} {sp : Spec} {s : State} {r : Part → Crew} {w : Word} (hscope : u.scope = .block) (hp : issuePoint sp s = some (u, t))
    (hw : ∀ q, voteWord o a (withCrews u t) q = w)
    (h : ∀ p ∈ u.parts, ∃ c ra, crewAt t p.crew = some c ∧ srcReg c a.toNat = some ra ∧ (p.act = 0 → r p = c) ∧
      (p.act ≠ 0 → r p = writeResult c d.toNat (laneReg .u .i32 ra.taint fun _ => w) p.act p.full)) :
    issue sp (voteBody o d a) s = .next (retire u (setParts u t r)) := by
  refine issue_vote_own (v := fun _ _ => w) (fun hset => absurd (hscope.symm.trans hset) (by decide)) hp (fun p c ra _ => ?_) fun p hm => ?_
  · simp only [hscope, beq_self_eq_true, Bool.or_true, if_true, hw]
  · obtain ⟨c, ra, hc, ha, hidle, hact⟩ := h p hm
    exact ⟨c, hc, hidle, fun hp0 => ⟨ra, ha, hact hp0⟩⟩

end

/-- Settles O13: over a set each member by its own rule, and the votes over a block. -/
theorem wideVectorMoves : Obligations.WideVectorMoves := by
  unfold Obligations.WideVectorMoves
  refine ⟨?set, fun x d a => ⟨gives_voteBallot x d a, ?block⟩⟩
  case set =>
    rintro x d a b s t u _ cs hscope rfl
    refine ⟨fun hok => ⟨issue_set hscope hok, fun n hn ⟨hon, hlow⟩ k q c' hq hc => movu_member hok hn hon hlow hq hc⟩,
      fun hok => ⟨issue_set hscope hok, fun k q c' ra rb hq hc ha hb => mova_member hok hq hc ha hb⟩, ?shuffles, ?votes⟩
    case shuffles =>
      intro o ho hok
      refine ⟨fun hp => ?_, fun k q c' ra rb hq hc hact ha hb hd hlen l hl hin => shfl_member hok hq hc hact ha hb hd hlen hl hin⟩
      simp only [List.mem_cons, List.not_mem_nil, or_false] at ho
      rcases ho with rfl | rfl | rfl | rfl <;> exact issue_set hscope hok hp
    case votes =>
      intro r w lane some_ hfmt h hreads
      exact ⟨fun hp hyes hno => issue_vote_set (o := .any) (by decide) hscope hp (fun _ => voteWord_any hyes hno) hfmt h,
        fun hp hno hyes => issue_vote_set (o := .all) (by decide) hscope hp (fun _ => voteWord_all (withCrews_reads hreads) hno hyes) hfmt h⟩
  case block =>
    intro s t u w hscope result lane
    have hsome : SomeLane a (withCrews u t) (· ≠ 0) ↔ lane (· ≠ 0) := someLane_withCrews
    have hzero : SomeLane a (withCrews u t) (· = 0) ↔ lane (· = 0) := someLane_withCrews
    refine ⟨fun r hp hyes hno h => issue_vote_block (o := .any) hscope hp (fun _ => voteWord_any (hyes ∘ hsome.mp) (hno ∘ mt hsome.mpr)) h,
      fun r hp hno hyes h => issue_vote_block (o := .all) hscope hp (fun _ => voteWord_all ?_ (hno ∘ hzero.mp) (hyes ∘ mt hzero.mpr)) h⟩
    refine withCrews_reads fun p hm => ?_
    obtain ⟨c, ra, hc, ha, -⟩ := h p hm
    exact ⟨c, ra, hc, ha⟩

end Sys2Proof.Machine
end

section
/-! PROOF of O14, SystemAndPredicateMoves: MOVS, MOVC and PMOV, each on every participant's crew, by what the machine shows before any of them is written. -/

namespace Sys2Proof.Machine

theorem sysCapture_id (s : State) (c : Crew) (n : SysReg) : (sysCapture s c n).id = c.id := by
  cases n <;> rfl

theorem exec_movs {x : Pfx} {n : SysReg} {d : RCode} {s t : State} {u : Ctx} {r : Part → Crew}
    (hp : issuePoint { i := .movs x n d, ops := [.dst d] } s = some (u, t))
    (h : Each u t r (orSame fun p c c' => c' = writeResult (sysCapture t c n) d.toNat
      (laneReg (sysShape (isFormed t c) n) .i32 0 fun l => sysValue t c l n) p.act p.full)) :
    exec (.movs x n d) s = .next (retire u (setParts u t r)) := by
  change execMovs x n d s = _
  refine issue_orSame hp rfl (fun _ _ hact => if_pos hact) ?_ h
  rintro p c _ hact rfl
  exact ⟨if_neg hact, (writeResult_id ..).trans (sysCapture_id t c n)⟩

theorem exec_movcRd {x : Pfx} {n : CtlReg} {d : RCode} {s t : State} {u : Ctx} {r : Part → Crew}
    (hp : issuePoint { i := .movcRd x n d, ops := [.dst d] } s = some (u, t))
    (h : Each u t r (orSame fun p c c' => c' = writeResult c d.toNat (uReg .raw32 (readCtl t c n)) p.act p.full)) :
    exec (.movcRd x n d) s = .next (retire u (setParts u t r)) := by
  change execMovcRd x n d s = _
  refine issue_orSame hp rfl (fun _ _ hact => if_pos hact) ?_ h
  rintro p c _ hact rfl
  exact ⟨if_neg hact, writeResult_id ..⟩

theorem exec_movcWr {x : Pfx} {n : CtlReg} {a : RCode} {s t : State} {u : Ctx} {p : Part} {c : Crew} {ra : Reg}
    (h : Alone { i := .movcWr x n a, ops := [.src a] } s u p c t) (hcrew : u.crew = p.crew) (hact : p.act ≠ 0) (ha : srcReg c a.toNat = some ra)
    (hu : ra.shape = .u) : exec (.movcWr x n a) s = .next (retire u (writeCtl t c n (ra.at 0))) := by
  obtain ⟨hp, hparts, hc⟩ := h
  refine issue_done hp ?_
  simp only [movcWrBody, hparts, List.head?_cons, hcrew, hc, if_neg hact, ha, hu, bne_self_eq_false, Bool.false_eq_true, if_false]

theorem gives_pmovGet (x : Pfx) (d : RCode) : Gives { i := .pmovGet x d, ops := [.dst d] } (fun p c c' => c' = writeResult c d.toNat
    (laneReg .g .i32 0 fun l => BitVec.ofNat 32 ((if laneIn (c.pred.getD 0 0) l then 1 else 0) +
      (if laneIn (c.pred.getD 1 0) l then 2 else 0) + (if laneIn (c.pred.getD 2 0) l then 4 else 0))) p.act p.full) := by
  refine gives_each (fun _ => rfl) (fun _ _ hact => if_pos hact) ?_
  rintro p c _ hact rfl
  exact ⟨if_neg hact, writeResult_id ..⟩

theorem gives_pmovSet (x : Pfx) (a : RCode) : Gives { i := .pmovSet x a, ops := [.src a] } (fun p c c' => ∃ r, srcReg c a.toNat = some r ∧
    r.fmt.isIndex = true ∧ c' = { c with pred := [predWrite p.act (c.pred.getD 0 0) fun l => (r.at l).getLsbD 0,
      predWrite p.act (c.pred.getD 1 0) fun l => (r.at l).getLsbD 1, predWrite p.act (c.pred.getD 2 0) fun l => (r.at l).getLsbD 2] }) := by
  refine gives_each (fun _ => rfl) (fun _ _ hact => if_pos hact) ?_
  rintro p c _ hact ⟨r, hr, hi, rfl⟩
  refine ⟨?_, rfl⟩
  simp only [if_neg hact, hr, hi, if_true]
  rfl

/-- Settles O14, each instruction by its own rule. -/
theorem systemAndPredicateMoves : Obligations.SystemAndPredicateMoves := by
  unfold Obligations.SystemAndPredicateMoves
  exact ⟨fun _ _ _ _ _ _ _ => exec_movs, fun _ _ _ _ _ _ _ => exec_movcRd, fun _ _ _ _ _ _ _ _ _ h hcrew => exec_movcWr h hcrew,
    gives_pmovGet, gives_pmovSet⟩

end Sys2Proof.Machine
end

section
/-!
SUPPORT. Elements of a lane's word: what an operation on each element leaves in each element, and the signed readings of elements (R145).
-/

namespace Sys2Proof.Machine

/-! ### Words put together from elements -/

theorem elem_lt (w : Nat) (x : Word) (i : Nat) : elem w x i < 2 ^ w := Nat.mod_lt _ (Nat.two_pow_pos w)

theorem packElems_lt (w : Nat) : ∀ es : List Nat, packElems w es < 2 ^ (w * es.length)
  | [] => Nat.two_pow_pos _
  | e :: es => by
    have hhead : e % 2 ^ w < 2 ^ w := Nat.mod_lt _ (Nat.two_pow_pos w)
    have hrest : 2 ^ w * packElems w es + 2 ^ w ≤ 2 ^ w * 2 ^ (w * es.length) := Nat.mul_le_mul_left _ (packElems_lt w es)
    rw [packElems, List.length_cons, Nat.mul_succ, Nat.add_comm (w * _), Nat.pow_add]
    omega

/-- Element `i` of a number put together from elements. -/
theorem packElems_elem (w : Nat) : ∀ (es : List Nat) (i : Nat), packElems w es / 2 ^ (w * i) % 2 ^ w = es.getD i 0 % 2 ^ w
  | [], i => by simp [packElems]
  | e :: es, 0 => by simp [packElems]
  | e :: es, i + 1 => by
    have hrest : packElems w (e :: es) / 2 ^ w = packElems w es := by
      rw [packElems, Nat.add_mul_div_left _ _ (Nat.two_pow_pos w), Nat.div_eq_of_lt (Nat.mod_lt _ (Nat.two_pow_pos w)), Nat.zero_add]
    rw [Nat.mul_succ, Nat.add_comm, Nat.pow_add, ← Nat.div_div_eq_div_mul, hrest, packElems_elem w es i, List.getD_cons_succ]

theorem elem_ofNat_packElems {w : Nat} {es : List Nat} (h : w * es.length ≤ 32) (i : Nat) :
    elem w (BitVec.ofNat 32 (packElems w es)) i = es.getD i 0 % 2 ^ w := by
  have hlt : packElems w es < 2 ^ 32 := (packElems_lt w es).trans_le (Nat.pow_le_pow_right (by omega) h)
  rw [elem, BitVec.toNat_ofNat, Nat.mod_eq_of_lt hlt, packElems_elem]

/-- Element `i` of a word whose elements are given by a function. -/
theorem elem_packRange {w n i : Nat} (g : Nat → Nat) (h : w * n ≤ 32) (hi : i < n) :
    elem w (BitVec.ofNat 32 (packElems w ((List.range n).map g))) i = g i % 2 ^ w := by
  rw [elem_ofNat_packElems (by simpa using h)]
  simp [hi]

/-- The elements of an integer format fill the word (Table 7-1). -/
theorem fmtWidth_mul_fmtCount {f : Fmt} (hf : f.isInt = true) : fmtWidth f * fmtCount f = 32 := by
  revert hf
  cases f <;> decide

theorem fmtWidth_pos (f : Fmt) : 0 < fmtWidth f := by
  cases f <;> decide

theorem isIndex_width {f : Fmt} (hf : f.isIndex = true) : fmtWidth f = 32 ∧ fmtCount f = 1 := by
  revert hf
  cases f <;> decide

section
variable {f : Fmt} {i : Nat} (hf : f.isInt = true) (hi : i < fmtCount f)
include hf hi

/-- A two-source operation acts on each pair of elements by itself (R147). -/
theorem IOp.elem_word (o : IOp) (a b : Word) :
    Machine.elem (fmtWidth f) (o.word f a b) i = o.elem (fmtWidth f) (Machine.elem (fmtWidth f) a i) (Machine.elem (fmtWidth f) b i) % 2 ^ fmtWidth f :=
  elem_packRange _ (fmtWidth_mul_fmtCount hf).le hi

/-- IMAD on each element (R153). -/
theorem elem_imadWord (a b c : Word) : elem (fmtWidth f) (imadWord f a b c) i =
    (elem (fmtWidth f) c i + elem (fmtWidth f) a i * elem (fmtWidth f) b i) % 2 ^ fmtWidth f :=
  elem_packRange _ (fmtWidth_mul_fmtCount hf).le hi

/-- An IUN function acts on each element by itself (R154). -/
theorem UOp.elem_word (o : UOp) (a : Word) :
    Machine.elem (fmtWidth f) (o.word f a) i = o.elem (fmtWidth f) (Machine.elem (fmtWidth f) a i) % 2 ^ fmtWidth f := by
  have hword : o.word f a =
      BitVec.ofNat 32 (packElems (fmtWidth f) ((List.range (fmtCount f)).map fun i => o.elem (fmtWidth f) (Machine.elem (fmtWidth f) a i))) := by
    simp [UOp.word, mapElems, elems, Function.comp_def]
  rw [hword, elem_packRange _ (fmtWidth_mul_fmtCount hf).le hi]

end

/-- A word is the one element of a 32-bit format. -/
theorem elem_word32 (a : Word) : elem 32 a 0 = a.toNat := by
  simp [elem, Nat.mod_eq_of_lt a.isLt]

/-- A two-source operation on a word of a 32-bit format. -/
theorem IOp.word_of_isIndex {f : Fmt} (hf : f.isIndex = true) (o : IOp) (a b : Word) : o.word f a b = BitVec.ofNat 32 (o.elem 32 a.toNat b.toNat) := by
  obtain ⟨hw, hn⟩ := isIndex_width hf
  refine BitVec.eq_of_toNat_eq ?_
  simp [IOp.word, zipElems, hw, hn, packElems, elem_word32]

/-- An IUN function on a word of a 32-bit format. -/
theorem UOp.word_of_isIndex {f : Fmt} (hf : f.isIndex = true) (o : UOp) (a : Word) : o.word f a = BitVec.ofNat 32 (o.elem 32 a.toNat) := by
  obtain ⟨hw, hn⟩ := isIndex_width hf
  refine BitVec.eq_of_toNat_eq ?_
  simp [UOp.word, mapElems, elems, hw, hn, packElems, elem_word32]

/-! ### Signed readings -/

theorem wrap_eq_toNat (w : Nat) (v : Int) : wrap w v = (BitVec.ofInt w v).toNat := (BitVec.toNat_ofInt v).symm

theorem wrap_lt (w : Nat) (v : Int) : wrap w v < 2 ^ w := by
  rw [wrap_eq_toNat]
  exact BitVec.isLt _

theorem wrap_mod (w : Nat) (v : Int) : wrap w v % 2 ^ w = wrap w v := Nat.mod_eq_of_lt (wrap_lt w v)

theorem wrap_toInt (w : Nat) (v : Int) : (wrap w v : Int) = v % 2 ^ w := by
  have hpow : ((2 ^ w : Nat) : Int) ≠ 0 := by positivity
  rw [wrap, Int.toNat_of_nonneg (Int.emod_nonneg _ hpow)]
  norm_cast

/-- An element that is in range already is not changed by the reduction. -/
theorem wrap_natCast {w n : Nat} (h : n < 2 ^ w) : wrap w n = n := by
  rw [wrap, ← Int.natCast_mod, Int.toNat_natCast, Nat.mod_eq_of_lt h]

theorem sgn_eq_toInt {w x : Nat} (hx : x < 2 ^ w) : sgn w x = (BitVec.ofNat w x).toInt := by
  rw [← sgn_toNat, BitVec.toNat_ofNat, Nat.mod_eq_of_lt hx]

theorem sgn_bounds {w x : Nat} (hx : x < 2 ^ w) : -2 ^ (w - 1) ≤ sgn w x ∧ sgn w x < 2 ^ (w - 1) := by
  rw [sgn_eq_toInt hx]
  exact ⟨BitVec.le_toInt _, BitVec.toInt_lt⟩

/-- A number in the signed range is read back from its element. -/
theorem sgn_wrap {w : Nat} {v : Int} (hw : 0 < w) (hlo : -2 ^ (w - 1) ≤ v) (hhi : v < 2 ^ (w - 1)) : sgn w (wrap w v) = v := by
  rw [wrap_eq_toNat, sgn_toNat, BitVec.toInt_ofInt_eq_self hw hlo hhi]

/-- The clamp of R149 takes the nearer bound. -/
theorem clampS_eq (w : Nat) (v : Int) : clampS w v = max (-2 ^ (w - 1)) (min (2 ^ (w - 1) - 1) v) := by
  have hpow : 0 < (2 : Int) ^ (w - 1) := by positivity
  unfold clampS
  push_cast
  generalize (2 : Int) ^ (w - 1) = m at *
  split <;> [skip; split] <;> omega

theorem sgn_wrap_clampS {w : Nat} (hw : 0 < w) (v : Int) : sgn w (wrap w (clampS w v)) = max (-2 ^ (w - 1)) (min (2 ^ (w - 1) - 1) v) := by
  have hpow : 0 < (2 : Int) ^ (w - 1) := by positivity
  rw [clampS_eq]
  exact sgn_wrap hw (by omega) (by omega)

/-- The element of an operation that chooses one of its operands is in range. -/
theorem ite_mod_two_pow {w x y : Nat} {P : Prop} [Decidable P] (hx : x < 2 ^ w) (hy : y < 2 ^ w) :
    (if P then x else y) % 2 ^ w = if P then x else y :=
  Nat.mod_eq_of_lt (by split <;> assumption)

end Sys2Proof.Machine
end

section
/-!
PROOF of O1, IntegerTwoSource, and of O3, IntegerOneAndThreeSource: each instruction issues the common effect of its number of sources, on every participant's crew
by itself.
-/

namespace Sys2Proof.Machine

section
variable {sp : Spec} {d a : RCode} {b : Src}

/-- An instruction whose effect is that of two sources (R147). -/
theorem gives_bin {fm : Fmt → Fmt → Option Fmt} {w : Fmt → Word → Word → Word} {sh : Fmt → Reg → Reg → Shape}
    (he : ∀ s, exec sp.i s = issue sp (eachCrew (bin fm w sh d a b)) s) : Gives sp (twoResult fm sh w d a b) :=
  gives_each he (fun _ _ hact => if_pos hact) fun _ _ _ => bin_result

/-- An instruction whose effect is that of two sources and vd (R153). -/
theorem gives_tri {fm : Fmt → Fmt → Fmt → Option Fmt} {w : Fmt → Word → Word → Word → Word}
    (he : ∀ s, exec sp.i s = issue sp (eachCrew (tri fm w d a b)) s) : Gives sp (threeResult fm w d a b) :=
  gives_each he (fun _ _ hact => if_pos hact) fun _ _ _ => tri_result

/-- An instruction whose effect is that of one source (R154). -/
theorem gives_una {fm : Fmt → Option Fmt} {w : Fmt → Word → Word}
    (he : ∀ s, exec sp.i s = issue sp (eachCrew (una fm w d a)) s) : Gives sp (oneResult fm w d a) :=
  gives_each he (fun _ _ hact => if_pos hact) fun _ _ _ => una_result

end

/-- Settles O1: each of the instructions issues the common effect of two sources. -/
theorem integerTwoSource : Obligations.IntegerTwoSource := by
  unfold Obligations.IntegerTwoSource
  intro x d a b
  refine ⟨?_, ?_, ?_, ?_, ?_, ?_, ?_, ?_, ?_, ?_, ?_, ?_, ?_, ?_, ?_, ?_, ?_, ?_, ?_, ?_, ?_, ?_, ?_, ?_, ?_⟩
  all_goals exact gives_bin fun _ => rfl

/-- Settles O3: each of the instructions issues the common effect of three sources or of one. -/
theorem integerOneAndThreeSource : Obligations.IntegerOneAndThreeSource := by
  unfold Obligations.IntegerOneAndThreeSource
  refine ⟨fun x d a b => ⟨?_, ?_, ?_⟩, fun x d a => ⟨?_, ?_, ?_, ?_, ?_, ?_, ?_, ?_, ?_, ?_⟩⟩
  iterate 3 exact gives_tri fun _ => rfl
  all_goals exact gives_una fun _ => rfl

end Sys2Proof.Machine
end

section
/-! PROOF of O8, ElementArithmetic: each operation of Table 7-3 on one element, and the division of words. -/

namespace Sys2Proof.Machine

/-! ### Operations on one element -/

/-- AND's and ANDN's elements have no bit that the first operand has not (R147). -/
theorem and_mod_two_pow_self {w x : Nat} (hx : x < 2 ^ w) (z : Nat) : (x &&& z) % 2 ^ w = x &&& z := Nat.mod_eq_of_lt (Nat.and_le_left.trans_lt hx)

/-- IMULH's element: the upper half of the signed product, rounded down (R147). -/
theorem elem_mulh (w x y : Nat) : ((IOp.mulh.elem w x y % 2 ^ w : Nat) : Int) = sgn w x * sgn w y / 2 ^ w % 2 ^ w := by
  rw [show IOp.mulh.elem w x y = wrap w (sgn w x * sgn w y / ((2 ^ w : Nat) : Int)) from rfl, wrap_mod, wrap_toInt]
  norm_cast

section
variable {w : Nat} (hw : 0 < w) (x y : Nat)
include hw

/-- IADDS's element on the signed reading (R149). -/
theorem sgn_adds : sgn w (IOp.adds.elem w x y % 2 ^ w) = max (-2 ^ (w - 1)) (min (2 ^ (w - 1) - 1) (sgn w x + sgn w y)) :=
  (congrArg (sgn w) (wrap_mod ..)).trans (sgn_wrap_clampS hw _)

/-- ISUBS's element on the signed reading (R149). -/
theorem sgn_subs : sgn w (IOp.subs.elem w x y % 2 ^ w) = max (-2 ^ (w - 1)) (min (2 ^ (w - 1) - 1) (sgn w x - sgn w y)) :=
  (congrArg (sgn w) (wrap_mod ..)).trans (sgn_wrap_clampS hw _)

end

section
variable {w x y : Nat} (hx : x < 2 ^ w) (hy : y < 2 ^ w)
include hy

/-- ISUB's element (R147). -/
theorem elem_sub : IOp.sub.elem w x y % 2 ^ w = (x + 2 ^ w - y) % 2 ^ w := by
  have hcast : (wrap w ((x : Int) - y) : Int) = ((x + 2 ^ w - y) % 2 ^ w : Nat) := by
    rw [wrap_toInt]
    push_cast [show y ≤ x + 2 ^ w by omega]
    rw [add_sub_right_comm, Int.add_emod_right]
  rw [show IOp.sub.elem w x y = wrap w ((x : Int) - y) from rfl, wrap_mod]
  exact_mod_cast hcast

include hx

/-- IMULHU's element (R147). -/
theorem elem_mulhu : IOp.mulhu.elem w x y % 2 ^ w = x * y / 2 ^ w :=
  Nat.mod_eq_of_lt (Nat.div_lt_of_lt_mul (Nat.mul_lt_mul'' hx hy))

theorem elem_minu : IOp.minu.elem w x y % 2 ^ w = min x y := (ite_mod_two_pow hx hy).trans (min_def x y).symm

theorem elem_maxu : IOp.maxu.elem w x y % 2 ^ w = max x y := (ite_mod_two_pow hx hy).trans (max_def' x y).symm

/-- IMIN's element on the signed reading (R147). -/
theorem sgn_min : sgn w (IOp.min.elem w x y % 2 ^ w) = min (sgn w x) (sgn w y) := by
  rw [show IOp.min.elem w x y = if sgn w x ≤ sgn w y then x else y from rfl, ite_mod_two_pow hx hy, apply_ite (sgn w), min_def]

/-- IMAX's element on the signed reading (R147). -/
theorem sgn_max : sgn w (IOp.max.elem w x y % 2 ^ w) = max (sgn w x) (sgn w y) := by
  rw [show IOp.max.elem w x y = if sgn w y ≤ sgn w x then x else y from rfl, ite_mod_two_pow hx hy, apply_ite (sgn w), max_def']

end

/-! ### Division of words -/

/-- Signed division of words truncates (R148). -/
theorem divS_eq_sdiv {a b : Word} (hb : b ≠ 0) : BitVec.ofNat 32 (divS a.toNat b.toNat) = a.sdiv b := by
  have hne : b.toNat ≠ 0 := fun h => hb (BitVec.eq_of_toNat_eq h)
  rw [divS, if_neg hne, ofNat_wrap, sgn_toNat, sgn_toNat]
  refine BitVec.eq_of_toInt_eq ?_
  rw [BitVec.toInt_ofInt, BitVec.toInt_sdiv]

/-- The remainder of words has the dividend's sign (R148). -/
theorem remS_eq_srem {a b : Word} (hb : b ≠ 0) : BitVec.ofNat 32 (remS a.toNat b.toNat) = a.srem b := by
  have hne : b.toNat ≠ 0 := fun h => hb (BitVec.eq_of_toNat_eq h)
  rw [remS, if_neg hne, ofNat_wrap, sgn_toNat, sgn_toNat, ← BitVec.toInt_srem, BitVec.ofInt_toInt]

section
variable {f : Fmt} {a b : Word} (hf : f.isIndex = true)
include hf

/-- A division by zero gives all ones, and the dividend as its remainder (R148). -/
theorem division_by_zero (hb : b = 0) :
    IOp.div.word f a b = 0xFFFFFFFF ∧ IOp.divu.word f a b = 0xFFFFFFFF ∧ IOp.rem.word f a b = a ∧ IOp.remu.word f a b = a := by
  subst hb
  simp [IOp.word_of_isIndex hf, IOp.elem, divS, remS]

/-- The quotients and remainders of R148. -/
theorem division_of_ne_zero (hb : b ≠ 0) :
    IOp.divu.word f a b = a / b ∧ IOp.remu.word f a b = a % b ∧ IOp.div.word f a b = a.sdiv b ∧ IOp.rem.word f a b = a.srem b := by
  have hne : b.toNat ≠ 0 := fun h => hb (BitVec.eq_of_toNat_eq h)
  simp only [IOp.word_of_isIndex hf, IOp.elem, if_neg hne]
  refine ⟨?_, ?_, divS_eq_sdiv hb, remS_eq_srem hb⟩
  · rw [← BitVec.toNat_udiv, BitVec.ofNat_toNat, BitVec.setWidth_eq]
  · rw [← BitVec.toNat_umod, BitVec.ofNat_toNat, BitVec.setWidth_eq]

end

/-- Settles O8: each operation acts on its elements by itself, and the division of words is that of bit vectors but for a divisor of 0. -/
theorem elementArithmetic : Obligations.ElementArithmetic := by
  unfold Obligations.ElementArithmetic
  refine ⟨?elements, fun f a b hf => ⟨division_by_zero hf, division_of_ne_zero hf⟩⟩
  intro f a b i hf hi
  have hw : 0 < fmtWidth f := fmtWidth_pos f
  have hx : elem (fmtWidth f) a i < 2 ^ fmtWidth f := elem_lt _ a i
  have hy : elem (fmtWidth f) b i < 2 ^ fmtWidth f := elem_lt _ b i
  simp only [IOp.elem_word hf hi]
  exact ⟨Nat.mod_mod .., elem_sub hy, Nat.mod_mod .., elem_mulhu hx hy, elem_mulh .., and_mod_two_pow_self hx _, Nat.mod_eq_of_lt (Nat.or_lt_two_pow hx hy),
    Nat.mod_eq_of_lt (Nat.xor_lt_two_pow hx hy), and_mod_two_pow_self hx _, elem_minu hx hy, elem_maxu hx hy, sgn_min hx hy, sgn_max hx hy,
    sgn_adds hw .., sgn_subs hw ..⟩

end Sys2Proof.Machine
end

section
/-! PROOF of O9, ShiftsAndBitFields: the shifts of one element, and the field that a descriptor names, bit by bit. -/

namespace Sys2Proof.Machine

/-! ### Shifts of one element -/

theorem wrap_sgn {w x : Nat} (hx : x < 2 ^ w) : wrap w (sgn w x) = x := by
  rw [wrap_eq_toNat, sgn_eq_toInt hx, BitVec.ofInt_toInt, BitVec.toNat_ofNat, Nat.mod_eq_of_lt hx]

/-- SAR's element on the signed reading (R150). -/
theorem sgn_wrap_ediv {w x : Nat} (hx : x < 2 ^ w) (k : Nat) : sgn w (wrap w (sgn w x / (2 ^ k : Nat))) = sgn w x / 2 ^ k := by
  have hshift : sgn w x / (2 ^ k : Nat) = ((BitVec.ofNat w x).sshiftRight k).toInt := by
    rw [BitVec.toInt_sshiftRight, Int.shiftRight_eq_div_pow, sgn_eq_toInt hx]
  rw [hshift, wrap_eq_toNat, BitVec.ofInt_toInt, sgn_toNat, ← hshift]
  norm_cast

/-- A rotation moves bit `j` to bit `j + k` modulo the width (R150). -/
theorem rotl_testBit {w x k j : Nat} (hx : x < 2 ^ w) (hk : k < w) (hj : j < w) : (rotl w x k).testBit ((j + k) % w) = x.testBit j := by
  have hlow : x / 2 ^ (w - k) < 2 ^ k := by
    rw [Nat.div_lt_iff_lt_mul (Nat.two_pow_pos _), ← Nat.pow_add, Nat.add_sub_cancel' hk.le]
    exact hx
  have hpos : (j + k) % w < w := Nat.mod_lt _ (by omega)
  rw [rotl, Nat.testBit_mod_two_pow, decide_eq_true hpos, Bool.true_and, Nat.mul_comm, Nat.testBit_two_pow_mul_add _ hlow]
  by_cases hwrap : j + k < w
  · rw [Nat.mod_eq_of_lt hwrap, if_neg (by omega), Nat.add_sub_cancel]
  · have hmod : (j + k) % w = j + k - w := by
      rw [Nat.mod_eq_sub_mod (by omega), Nat.mod_eq_of_lt (by omega)]
    rw [hmod, if_pos (by omega), Nat.testBit_div_two_pow]
    congr 1
    omega

theorem rotl_mod (w x k : Nat) : rotl w x k % 2 ^ w = rotl w x k := Nat.mod_mod ..

/-- The shifts of one element by its own count `k`; a count of 0 returns the element (R150). -/
theorem shift_elements {w x y : Nat} (hw : 0 < w) (hx : x < 2 ^ w) :
    IOp.shl.elem w x y % 2 ^ w = x * 2 ^ (y % w) % 2 ^ w ∧ IOp.shr.elem w x y % 2 ^ w = x / 2 ^ (y % w) ∧
    sgn w (IOp.sar.elem w x y % 2 ^ w) = sgn w x / 2 ^ (y % w) ∧
    (∀ j < w, (IOp.rol.elem w x y % 2 ^ w).testBit ((j + y % w) % w) = x.testBit j) ∧
    (y % w = 0 → IOp.shl.elem w x y % 2 ^ w = x ∧ IOp.shr.elem w x y % 2 ^ w = x ∧ IOp.sar.elem w x y % 2 ^ w = x ∧ IOp.rol.elem w x y % 2 ^ w = x) := by
  have hk : y % w < w := Nat.mod_lt _ hw
  simp only [IOp.elem, wrap_mod, rotl_mod, Nat.mod_mod]
  refine ⟨trivial, Nat.mod_eq_of_lt ((Nat.div_le_self ..).trans_lt hx), sgn_wrap_ediv hx _, fun j hj => rotl_testBit hx hk hj, fun h0 => ?_⟩
  simp [h0, rotl, Nat.mod_eq_of_lt hx, Nat.div_eq_of_lt hx, wrap_sgn hx]

/-! ### Bit fields -/

/-- The field that a descriptor names lies in the word (R151). -/
theorem bfWidth_le (y : Word) : bfWidth y ≤ 32 - y.toNat % 32 := Nat.min_le_right ..

/-- The field of `x` that the descriptor `y` names. -/
def bfField (x y : Word) : BitVec (bfWidth y) := x.extractLsb' (y.toNat % 32) (bfWidth y)

theorem bfField_toNat (x y : Word) : (bfField x y).toNat = x.toNat / 2 ^ (y.toNat % 32) % 2 ^ bfWidth y := by
  rw [bfField, BitVec.extractLsb'_toNat, Nat.shiftRight_eq_div_pow]

theorem bfField_getLsbD (x y : Word) (j : Nat) : (bfField x y).getLsbD j = (decide (j < bfWidth y) && x.getLsbD (y.toNat % 32 + j)) :=
  BitVec.getLsbD_extractLsb' ..

/-- A field whose top bit is 1 is not empty. -/
theorem bfWidth_pos_of_msb {x y : Word} (h : (bfField x y).msb = true) : 0 < bfWidth y := by
  refine Nat.pos_of_ne_zero fun h0 => ?_
  rw [BitVec.msb_eq_getLsbD_last, bfField_getLsbD] at h
  simp [h0] at h

/-- BFE extends the field, by its top bit where bit 16 of the descriptor is 1 (R151). -/
theorem bfeWord_eq (x y : Word) : bfeWord x y = if y.getLsbD 16 then (bfField x y).signExtend 32 else (bfField x y).setWidth 32 := by
  have hbit : y.toNat / 2 ^ 16 % 2 = 1 ↔ y.getLsbD 16 = true := by simp [BitVec.getLsbD, Nat.testBit_eq_decide_div_mod_eq]
  have hmsb : 0 < bfWidth y ∧ 2 ^ (bfWidth y - 1) ≤ (bfField x y).toNat ↔ (bfField x y).msb = true := by
    rw [← decide_eq_true_iff (p := 2 ^ (bfWidth y - 1) ≤ _), ← BitVec.msb_eq_decide]
    exact and_iff_right_of_imp bfWidth_pos_of_msb
  have hfit : (bfField x y).toNat < 2 ^ 32 :=
    (bfField x y).isLt.trans_le (Nat.pow_le_pow_right (by omega) ((bfWidth_le y).trans (Nat.sub_le ..)))
  simp only [bfeWord, ← bfField_toNat, hbit, hmsb]
  refine BitVec.eq_of_toNat_eq ?_
  cases hs : y.getLsbD 16 <;> cases hm : (bfField x y).msb
  case true.true =>
    have hsum := BitVec.toNat_signExtend (bfField x y) (v := 32)
    rw [hm, BitVec.toNat_setWidth, Nat.mod_eq_of_lt hfit] at hsum
    simp only [and_self, if_true] at hsum ⊢
    rw [BitVec.toNat_ofNat, ← hsum]
    exact Nat.mod_eq_of_lt (BitVec.isLt _)
  all_goals simp [BitVec.toNat_signExtend, hm]

/-- The bits of an extension, with the sign or with zeros. -/
theorem getLsbD_extension {n j : Nat} (signed : Bool) (e : BitVec n) (hj : j < 32) :
    (if signed then e.signExtend 32 else e.setWidth 32).getLsbD j = if j < n then e.getLsbD j else signed && e.msb := by
  cases signed with
  | true => simp only [if_true, BitVec.getLsbD_signExtend, decide_eq_true hj, Bool.true_and]
  | false =>
    simp only [Bool.false_eq_true, if_false, BitVec.getLsbD_setWidth, decide_eq_true hj, Bool.true_and, Bool.false_and]
    split <;> [rfl; exact BitVec.getLsbD_of_ge _ _ (by omega)]

/-- The bits of BFE (R151). -/
theorem bfeWord_getLsbD (x y : Word) {j : Nat} (hj : j < 32) : (bfeWord x y).getLsbD j =
    if j < bfWidth y then x.getLsbD (y.toNat % 32 + j)
    else (y.getLsbD 16 && decide (0 < bfWidth y) && x.getLsbD (y.toNat % 32 + bfWidth y - 1)) := by
  have htop : (bfField x y).msb = (decide (0 < bfWidth y) && x.getLsbD (y.toNat % 32 + bfWidth y - 1)) := by
    rw [BitVec.msb_eq_getLsbD_last, bfField_getLsbD]
    by_cases h0 : 0 < bfWidth y
    · rw [Nat.add_sub_assoc h0]
      simp [h0]
    · simp [h0]
  rw [bfeWord_eq, getLsbD_extension _ _ hj, Bool.and_assoc, htop, bfField_getLsbD]
  split
  next hin => rw [decide_eq_true hin, Bool.true_and]
  next => rfl

/-- The bits of BFI (R151). -/
theorem bfiWord_getLsbD (x y z : Word) {j : Nat} (hj : j < 32) : (bfiWord x y z).getLsbD j =
    if y.toNat % 32 ≤ j ∧ j < y.toNat % 32 + bfWidth y then x.getLsbD (j - y.toNat % 32) else z.getLsbD j := by
  have hmask : (BitVec.ofNat 32 ((2 ^ bfWidth y - 1) * 2 ^ (y.toNat % 32))).getLsbD j =
      decide (y.toNat % 32 ≤ j ∧ j < y.toNat % 32 + bfWidth y) := by
    rw [BitVec.getLsbD_ofNat, Nat.testBit_mul_two_pow, Nat.testBit_two_pow_sub_one, decide_eq_true hj, Bool.true_and, ← Bool.decide_and, decide_eq_decide]
    omega
  simp only [bfiWord, BitVec.getLsbD_or, BitVec.getLsbD_and, BitVec.getLsbD_not, BitVec.getLsbD_shiftLeft, hmask, decide_eq_true hj]
  by_cases hin : y.toNat % 32 ≤ j ∧ j < y.toNat % 32 + bfWidth y
  · simp [hin]
  · simp [hin]

/-- A width of 0 extracts nothing and inserts nothing (R151). -/
theorem bitField_empty {x y : Word} (z : Word) (h : y.toNat / 256 % 64 = 0) : bfeWord x y = 0 ∧ bfiWord x y z = z := by
  have hw : bfWidth y = 0 := by simp [bfWidth, h]
  refine ⟨BitVec.eq_of_getLsbD_eq fun j hj => ?_, BitVec.eq_of_getLsbD_eq fun j hj => ?_⟩
  · simp [bfeWord_getLsbD x y hj, hw]
  · rw [bfiWord_getLsbD x y z hj, hw, if_neg (by omega)]

/-- A field of a word that lies in a mask. -/
theorem field_eq_of_and_eq {m y y' : Word} (lo n : Nat) (hm : m.extractLsb' lo n = BitVec.allOnes n) (h : y &&& m = y' &&& m) :
    y.toNat / 2 ^ lo % 2 ^ n = y'.toNat / 2 ^ lo % 2 ^ n := by
  have hfield : ∀ v : Word, v.toNat / 2 ^ lo % 2 ^ n = ((v &&& m).extractLsb' lo n).toNat := fun v => by
    rw [BitVec.extractLsb'_and, hm, BitVec.and_allOnes, BitVec.extractLsb'_toNat, Nat.shiftRight_eq_div_pow]
  rw [hfield, hfield, h]

/-- Bits 0 to 4, 8 to 13 and 16 of a descriptor are all that is read of it (R151). -/
theorem bitField_congr {y y' : Word} (x z : Word) (h : y &&& 0x13F1F = y' &&& 0x13F1F) : bfeWord x y = bfeWord x y' ∧ bfiWord x y z = bfiWord x y' z := by
  have hoff : y.toNat % 32 = y'.toNat % 32 := by simpa using field_eq_of_and_eq 0 5 (by decide) h
  have hwid : y.toNat / 2 ^ 8 % 64 = y'.toNat / 2 ^ 8 % 64 := field_eq_of_and_eq 8 6 (by decide) h
  have hsx : y.toNat / 2 ^ 16 % 2 = y'.toNat / 2 ^ 16 % 2 := field_eq_of_and_eq 16 1 (by decide) h
  have hwidth : bfWidth y = bfWidth y' := by rw [bfWidth, bfWidth, hoff, hwid]
  unfold bfeWord bfiWord
  rw [hoff, hsx, hwidth]
  exact ⟨rfl, rfl⟩

/-- Settles O9: the shifts act on each element with its own count, and the bits of BFE and BFI are those of the field that the descriptor names. -/
theorem shiftsAndBitFields : Obligations.ShiftsAndBitFields := by
  unfold Obligations.ShiftsAndBitFields
  refine ⟨⟨fun f a b i hf hi => ?shifts, fun f b hf => ?count⟩,
    fun x y z => ⟨fun j => bfeWord_getLsbD x y, fun j => bfiWord_getLsbD x y z, bitField_empty z⟩, fun x y y' z => bitField_congr x z,
    fun x d a b => ⟨gives_bin fun _ => rfl, gives_tri fun _ => rfl⟩⟩
  case shifts =>
    simp only [IOp.elem_word hf hi]
    exact shift_elements (fmtWidth_pos f) (elem_lt _ a i)
  case count =>
    rw [(isIndex_width hf).1, elem_word32]

end Sys2Proof.Machine
end

section
/-! PROOF of O28, IntegerElementValues: the functions of Table 7-5 on one element, and on the words of the 32-bit formats. -/

namespace Sys2Proof.Machine

/-! ### Bits counted and reversed -/

/-- POPC counts the places of the bits that are 1 (Table 7-5). -/
theorem popcount_eq_length : ∀ w x : Nat, popcount w x = ((List.range w).filter x.testBit).length
  | 0, _ => rfl
  | w + 1, x => by
    have hrest : ((List.range w).map Nat.succ).filter x.testBit = ((List.range w).filter (x / 2).testBit).map Nat.succ := by
      rw [List.filter_map]
      congr 1
      exact List.filter_congr fun j _ => Nat.testBit_succ x j
    rw [popcount, popcount_eq_length w (x / 2), List.range_succ_eq_map, List.filter_cons, hrest, Nat.testBit_zero]
    rcases Nat.mod_two_eq_zero_or_one x with h | h <;> simp [h, Nat.add_comm]

theorem popcount_lt (w x : Nat) : popcount w x < 2 ^ w := by
  have hle : ((List.range w).filter x.testBit).length ≤ w := by simpa using List.length_filter_le x.testBit (List.range w)
  rw [popcount_eq_length]
  exact hle.trans_lt Nat.lt_two_pow_self

theorem revBits_lt : ∀ w x : Nat, revBits w x < 2 ^ w
  | 0, _ => Nat.one_pos
  | w + 1, x => by
    have hrest := revBits_lt w (x / 2)
    rw [revBits, Nat.pow_succ]
    rcases Nat.mod_two_eq_zero_or_one x with h | h <;> rw [h] <;> omega

/-- BREV puts bit `w - 1 - j` at place `j` (Table 7-5). -/
theorem revBits_testBit : ∀ {w j : Nat} (x : Nat), j < w → (revBits w x).testBit j = x.testBit (w - 1 - j)
  | w + 1, j, x, hj => by
    rw [revBits, Nat.mul_comm, Nat.testBit_two_pow_mul_add _ (revBits_lt w _)]
    by_cases htop : j < w
    · rw [if_pos htop, revBits_testBit (x / 2) htop, ← Nat.testBit_succ]
      congr 1
      omega
    · obtain rfl : j = w := by omega
      simp [Nat.testBit_zero]

/-! ### Leading zeros -/

theorem clz_le (w x : Nat) : clz w x ≤ w := by
  unfold clz
  split <;> omega

/-- The leading zeros of an element that is not 0 stand above its highest bit (Table 7-5). -/
theorem clz_of_ne_zero {w x : Nat} (h0 : x ≠ 0) (hx : x < 2 ^ w) : clz w x < w ∧ 2 ^ (w - 1 - clz w x) ≤ x ∧ x < 2 ^ (w - clz w x) := by
  have hlog : x.log2 < w := (Nat.log2_lt h0).mpr hx
  have hclz : clz w x = w - 1 - x.log2 := if_neg h0
  refine ⟨by omega, ?_, ?_⟩
  · rw [hclz, show w - 1 - (w - 1 - x.log2) = x.log2 by omega]
    exact Nat.log2_self_le h0
  · rw [hclz, show w - (w - 1 - x.log2) = x.log2 + 1 by omega]
    exact Nat.lt_log2_self

/-! ### Signs -/

/-- The most negative value is its own magnitude modulo 2^w (Table 7-5). -/
theorem natAbs_sgn_most_negative {w : Nat} (hw : 0 < w) : (sgn w (2 ^ (w - 1))).natAbs = 2 ^ (w - 1) := by
  have hpow : 2 ^ w = 2 * 2 ^ (w - 1) := (mul_pow_sub_one hw.ne' 2).symm
  rw [sgn, if_pos le_rfl, hpow]
  omega

section
variable {w x : Nat} (hw : 0 < w) (hx : x < 2 ^ w)
include hx

/-- INEG's element (Table 7-5). -/
theorem elem_neg : UOp.neg.elem w x = (2 ^ w - x) % 2 ^ w := by
  have hsub := elem_sub (x := 0) hx
  rw [show IOp.sub.elem w 0 x = wrap w (((0 : Nat) : Int) - x) from rfl, wrap_mod, Nat.zero_add] at hsub
  rw [← hsub, UOp.elem, Nat.cast_zero, zero_sub]

include hw

/-- IABS's element is the magnitude of the signed reading (Table 7-5). -/
theorem elem_abs : UOp.abs.elem w x = (sgn w x).natAbs := by
  obtain ⟨hlo, hhi⟩ := sgn_bounds hx
  have hpow : (2 : Int) ^ w = 2 * 2 ^ (w - 1) := (mul_pow_sub_one hw.ne' 2).symm
  have hpos : (0 : Int) < 2 ^ (w - 1) := by positivity
  refine wrap_natCast ?_
  zify
  rw [hpow]
  exact (abs_le.mpr ⟨hlo, hhi.le⟩).trans_lt (by omega)

end

/-! ### All functions of one element -/

/-- The functions of Table 7-5 that keep the format, on one element. -/
theorem unary_elements {w x : Nat} (hw : 0 < w) (hx : x < 2 ^ w) :
    (∀ j < w, (UOp.not.elem w x % 2 ^ w).testBit j = !x.testBit j) ∧ UOp.neg.elem w x % 2 ^ w = (2 ^ w - x) % 2 ^ w ∧
    (x = 2 ^ (w - 1) → UOp.abs.elem w x % 2 ^ w = x) ∧ (x ≠ 2 ^ (w - 1) → ((UOp.abs.elem w x % 2 ^ w : Nat) : Int) = |sgn w x|) ∧
    UOp.popc.elem w x % 2 ^ w = ((List.range w).filter x.testBit).length ∧
    (x = 0 → UOp.clz.elem w x % 2 ^ w = w) ∧
    (x ≠ 0 → UOp.clz.elem w x % 2 ^ w < w ∧ 2 ^ (w - 1 - UOp.clz.elem w x % 2 ^ w) ≤ x ∧ x < 2 ^ (w - UOp.clz.elem w x % 2 ^ w)) ∧
    (∀ j < w, (UOp.brev.elem w x % 2 ^ w).testBit j = x.testBit (w - 1 - j)) := by
  have habs : UOp.abs.elem w x % 2 ^ w = (sgn w x).natAbs := by
    rw [show UOp.abs.elem w x = wrap w (sgn w x).natAbs from rfl, wrap_mod]
    exact elem_abs hw hx
  have hclz : UOp.clz.elem w x % 2 ^ w = clz w x := Nat.mod_eq_of_lt ((clz_le w x).trans_lt Nat.lt_two_pow_self)
  rw [habs, hclz, elem_neg hx, Nat.mod_mod]
  refine ⟨fun j hj => ?not, rfl, ?most, fun _ => Int.natCast_natAbs _, ?popc, fun h0 => if_pos h0, fun h0 => clz_of_ne_zero h0 hx, fun j hj => ?brev⟩
  case not =>
    rw [Nat.testBit_mod_two_pow, decide_eq_true hj, Bool.true_and, UOp.elem, Nat.sub_sub, Nat.add_comm, Nat.testBit_two_pow_sub_succ hx, decide_eq_true hj,
      Bool.true_and]
  case most =>
    rintro rfl
    exact natAbs_sgn_most_negative hw
  case popc => exact (Nat.mod_eq_of_lt (popcount_lt w x)).trans (popcount_eq_length w x)
  case brev => exact (congrArg (·.testBit j) (Nat.mod_eq_of_lt (revBits_lt w x))).trans (revBits_testBit x hj)

/-! ### Words -/

/-- IDOT4 adds the exact sum of the products once, modulo 2^32 (R153). -/
theorem idot4Word_eq (a b c : Word) : idot4Word a b c = c + BitVec.ofInt 32 (dot4 a b) := by
  rw [idot4Word, ofNat_wrap, sgn_toNat, BitVec.ofInt_add, BitVec.ofInt_toInt]

/-- The low bits of a word, read as signed and taken into a word, are their sign extension (Table 7-5). -/
theorem ofNat_wrap_sgn_mod (k : Nat) (a : Word) : BitVec.ofNat 32 (wrap 32 (sgn k (a.toNat % 2 ^ k))) = (a.setWidth k).signExtend 32 := by
  rw [ofNat_wrap, ← BitVec.toNat_setWidth, sgn_toNat]
  rfl

/-- The low bits of a word are their zero extension (Table 7-5). -/
theorem ofNat_mod_two_pow (k : Nat) (a : Word) : BitVec.ofNat 32 (a.toNat % 2 ^ k) = (a.setWidth k).setWidth 32 := by
  rw [← BitVec.toNat_setWidth, BitVec.ofNat_toNat]

/-- Settles O28: each function acts on its elements by itself; IDOT4 and the extensions act on whole words. -/
theorem integerElementValues : Obligations.IntegerElementValues := by
  unfold Obligations.IntegerElementValues
  refine ⟨fun f a b c i hf hi => ?elements, idot4Word_eq, fun f a hf => ?extensions, fun f => ⟨?keep, ?extend⟩⟩
  case elements =>
    simp only [UOp.elem_word hf hi]
    exact ⟨elem_imadWord hf hi a b c, unary_elements (fmtWidth_pos f) (elem_lt _ a i)⟩
  case extensions =>
    simp only [UOp.word_of_isIndex hf]
    exact ⟨ofNat_wrap_sgn_mod 8 a, ofNat_wrap_sgn_mod 16 a, ofNat_mod_two_pow 8 a, ofNat_mod_two_pow 16 a⟩
  case keep => simp [UOp.fmt]
  case extend => simp [UOp.fmt]

end Sys2Proof.Machine
end

section
/-!
PROOF of O2, SixteenBitArithmetic: the 16-bit forms issue the effect of the two-source instruction with va = vd and vb = vs; a vs of 63 fails the OPERAND check; and
a 16-bit word is read by its fields.
-/

namespace Sys2Proof.Machine

/-! ### A vs of 63 -/

/-- The 16-bit form issues with vs = 63 as its second source. -/
def SecondSource63 (i : Instr) : Prop :=
  i.pfx = Pfx.sixteen ∧ i.privileged = false ∧ ∃ a body, ∀ s, exec i s = issue { i := i, ops := binOps a a (.reg 63) } body s

/-- At lane scope an instruction that needs no privilege and may run in every crew traps first with OPERAND, where an operand is not one that the crew may name
(R29). -/
theorem preTrap_operand {s : State} {c : Crew} {sp : Spec} (e : Entry) (hpriv : sp.i.privileged = false) (hlocal : sp.localOnly = false)
    (hscope : sp.i.pfx.scope = .lane) (hops : sp.ops.all (opndOk s c) = false) : preTrap s c e sp = some trapOperand := by
  simp only [preTrap, scopeTrap, hpriv, hlocal, hscope, hops, Bool.false_and, Bool.false_eq_true, if_false]

/-- Code 63 names no source (R21). -/
theorem opndOk_source63 (s : State) (c : Crew) : opndOk s c (.srcB (.reg 63)) = false := by
  simp [opndOk]

/-- The act of a 16-bit instruction is the whole entry (R24). -/
theorem actOf_sixteen (c : Crew) (e : Entry) : actOf c e Pfx.sixteen.guard = e.mask := BitVec.and_allOnes

theorem exec_secondSource63 {i : Instr} {s : State} {u : Cur} {c : Crew} {e : Entry} (hi : SecondSource63 i) (hu : s.cur = some u)
    (hc : crewAt s u.crew = some c) (he : entryAt c u.pc = some e) :
    exec i s = .next (trapAll ⟨c.id, .lane, u.pc, u.pc + BitVec.ofNat 32 u.len, u.iword, u.lit, [⟨c.id, e.mask, false⟩]⟩
      { s with cur := none } trapOperand (·.act) fun _ => []) := by
  obtain ⟨hpfx, hpriv, a, body, hexec⟩ := hi
  have hops : (binOps a a (.reg 63)).all (opndOk { s with cur := none } c) = false :=
    List.all_eq_false.mpr ⟨.srcB (.reg 63), by simp [binOps], by simp only [opndOk_source63, Bool.false_eq_true, not_false_eq_true]⟩
  have htrap : preTrap { s with cur := none } c e { i := i, ops := binOps a a (.reg 63) } = some trapOperand :=
    preTrap_operand e hpriv rfl (congrArg Pfx.scope hpfx) hops
  rw [hexec, issue_traps body hu hc he htrap, hpfx, actOf_sixteen]
  rfl

/-! ### The words -/

/-- A 16-bit word of the opcode table is read by `decode16` (R17, R24). -/
theorem decodeTableWord_half {w : Nat} {i : Instr} (hw : w < 2 ^ 16) (heven : w % 2 = 0) (hi : decode16 w = .ok i) : decodeTableWord 16 w = some i := by
  have hnum : leNat ((tableBytes 16 w).take 2) = w := by
    simp only [tableBytes, leBytes, List.take, leNat, BitVec.toNat_ofNat]
    omega
  have hword : decodeWord w 0 = .ok i := by
    rw [decodeWord, if_pos (by simpa [field] using heven), hi]
  have hlen : (tableBytes 16 w).length = 8 := rfl
  simp [decodeTableWord, decodeBytes, hnum, heven, hword, hlen]

/-- The 16-bit word of op, vd and vs (Table 2-5). -/
theorem decodeTableWord_fields {op : Nat} {d : BitVec 5} {v : RCode} {i : Instr} (hop : op < 16)
    (hi : ∀ w, field w 1 4 = op → bits 5 w 5 = d → bits 6 w 10 = v → decode16 w = .ok i) :
    decodeTableWord 16 (op * 2 + d.toNat * 2 ^ 5 + v.toNat * 2 ^ 10) = some i := by
  have hd : d.toNat < 32 := d.isLt
  have hv : v.toNat < 64 := v.isLt
  refine decodeTableWord_half (by omega) (by omega) (hi _ ?_ (BitVec.eq_of_toNat_eq ?_) (BitVec.eq_of_toNat_eq ?_))
  · unfold field
    omega
  · simp only [bits, field, BitVec.toNat_ofNat]
    omega
  · simp only [bits, field, BitVec.toNat_ofNat]
    omega

/-- Settles O2: the effect by its sources, the trap by the OPERAND check, the word by its fields. -/
theorem sixteenBitArithmetic : Obligations.SixteenBitArithmetic := by
  unfold Obligations.SixteenBitArithmetic
  refine ⟨⟨fun d v => ⟨?_, ?_, ?_, ?_, ?_, ?_, ?_, ?_, ?_, ?_, ?_⟩, fun d s u c e hu hc he => ?integer63, fun d v => ?words⟩,
    fun d v => ⟨?_, ?_, ?_⟩, fun d s u c e hu hc he => ?float63, ?word⟩
  case integer63 | float63 =>
    suffices h63 : ∀ i ∈ _, SecondSource63 i from fun i hi => exec_secondSource63 (h63 i hi) hu hc he
    repeat refine List.forall_mem_cons.mpr ⟨⟨rfl, rfl, v5 d, _, fun _ => rfl⟩, ?_⟩
    exact List.forall_mem_nil _
  case words =>
    repeat refine List.forall_mem_cons.mpr ⟨decodeTableWord_fields (by norm_num) fun w hop hd hv => by simp only [decode16, hop, hd, hv], ?_⟩
    exact List.forall_mem_nil _
  case word => exact decodeTableWord_fields (op := 12) (d := 2) (v := 9) (by decide) fun w hop hd hv => by simp only [decode16, hop, hd, hv]
  all_goals exact gives_bin fun _ => rfl

end Sys2Proof.Machine
end

section
/-! SUPPORT. Lists by their places, crews changed one after another, and a group of registers in which each register's new value comes from its old one. -/

namespace Sys2Proof.Machine

/-! ### Lists by their places -/

theorem zipIdx_eq_map_range {α : Type} (l : List α) (z : α) : l.zipIdx = (List.range l.length).map fun i => (l.getD i z, i) :=
  List.ext_getElem (by simp) fun i _ hi => by
    rw [List.length_map, List.length_range] at hi
    simp [hi]

/-- Where every part of a list has `n` elements, element `q` is element `q mod n` of part `q div n`. -/
theorem getD_flatMap {α β : Type} {f : α → List β} {n : Nat} (hf : ∀ a, (f a).length = n) (z : β) :
    ∀ {l : List α} {q : Nat} {a : α}, 0 < n → l[q / n]? = some a → (l.flatMap f).getD q z = (f a).getD (q % n) z
  | [], _, _, _, h => by simp at h
  | b :: l, q, a, hn, h => by
    rw [List.flatMap_cons]
    by_cases hq : q < n
    · rw [Nat.div_eq_of_lt hq] at h
      obtain rfl : b = a := Option.some.inj h
      rw [List.getD_append _ _ _ _ (by rwa [hf]), Nat.mod_eq_of_lt hq]
    · have hq : n ≤ q := Nat.le_of_not_lt hq
      rw [Nat.div_eq_sub_div hn hq] at h
      rw [List.getD_append_right _ _ _ _ (by rwa [hf]), hf, getD_flatMap hf z hn h, ← Nat.mod_eq_sub_mod hq]

/-! ### Crews changed one after another -/

section
variable {α : Type} {key : α → Nat} {f : α → Crew → Crew}

theorem crewAt_foldl_modCrew_other (hf : ∀ a c, (f a c).id = c.id) {n : Nat} {l : List α} (s : State) (h : n ∉ l.map key) :
    crewAt (l.foldl (fun s a => modCrew s (key a) (f a)) s) n = crewAt s n := by
  induction l generalizing s with
  | nil => rfl
  | cons a l ih =>
    obtain ⟨ha, hl⟩ := not_or.mp (mt List.mem_cons.mpr h)
    rw [List.foldl_cons, ih _ hl, crewAt_modCrew_other s (f a) (hf a) ha]

/-- Of crews that differ each is changed once. -/
theorem crewAt_foldl_modCrew (hf : ∀ a c, (f a c).id = c.id) {a : α} {c : Crew} {l : List α} {s : State} (hn : (l.map key).Nodup) (ha : a ∈ l)
    (hc : crewAt s (key a) = some c) : crewAt (l.foldl (fun s a => modCrew s (key a) (f a)) s) (key a) = some (f a c) := by
  induction l generalizing s with
  | nil => exact absurd ha List.not_mem_nil
  | cons b l ih =>
    obtain ⟨hb, hl⟩ := List.nodup_cons.mp hn
    rw [List.foldl_cons]
    rcases List.mem_cons.mp ha with rfl | ha
    · rw [crewAt_foldl_modCrew_other hf _ hb, crewAt_modCrew_self (hf a) hc]
    · have hne : key a ≠ key b := fun h => hb (h ▸ List.mem_map_of_mem ha)
      exact ih hl ha ((crewAt_modCrew_other s (f b) (hf b) hne).trans hc)

theorem coreAt_foldl_modCrew (l : List α) (s : State) (core : Nat) :
    coreAt (l.foldl (fun s a => modCrew s (key a) (f a)) s) core = coreAt s core :=
  foldl_keeps (P := fun t => coreAt t core = coreAt s core) rfl fun _ _ h => h

end

/-! ### A group of registers, each from its old value -/

/-- A crew with the `n` registers from `d` up changed, register `d + i` by `g i`. -/
def updateGroup (d : Nat) (g : Nat → Reg → Reg) (n : Nat) (c : Crew) : Crew :=
  (List.range n).foldl (fun c i => setReg c (d + i) (g i (vreg c (d + i)))) c

section
variable (d : Nat) (g : Nat → Reg → Reg) (n : Nat) (c : Crew)

theorem updateGroup_succ : updateGroup d g (n + 1) c = setReg (updateGroup d g n c) (d + n) (g n (vreg (updateGroup d g n c) (d + n))) := by
  rw [updateGroup, List.range_succ, List.foldl_append]
  rfl

/-- The change of a group is one of registers alone. -/
theorem updateGroup_frame : updateGroup d g n c = { c with regs := (updateGroup d g n c).regs } := by
  induction n with
  | zero => rfl
  | succ n ih => rw [updateGroup_succ, setReg, ih]

theorem updateGroup_regs_length : (updateGroup d g n c).regs.length = c.regs.length := by
  induction n with
  | zero => rfl
  | succ n ih => rw [updateGroup_succ, setReg, List.length_set, ih]

theorem vreg_updateGroup_other {j : Nat} (h : j < d ∨ d + n ≤ j) : vreg (updateGroup d g n c) j = vreg c j := by
  induction n with
  | zero => rfl
  | succ n ih => rw [updateGroup_succ, vreg_setReg_other _ _ (by omega), ih (by omega)]

theorem vreg_updateGroup {i : Nat} (hi : i < n) (hl : d + n ≤ c.regs.length) : vreg (updateGroup d g n c) (d + i) = g i (vreg c (d + i)) := by
  induction n with
  | zero => exact absurd hi i.not_lt_zero
  | succ n ih =>
    rw [updateGroup_succ]
    rcases Nat.lt_succ_iff_lt_or_eq.mp hi with hlt | rfl
    · rw [vreg_setReg_other _ _ (by omega), ih hlt (by omega)]
    · rw [vreg_setReg_self _ (by rw [updateGroup_regs_length]; omega), vreg_updateGroup_other _ _ _ _ (.inr (Nat.le_refl _))]

end

/-! ### The accumulators of a crew -/

/-- Register `i` of an accumulator group after a tile (R192, R196). -/
def accReg (i32 : Bool) (t : BitVec 9) (rows cols : List (List FVal)) (i : Nat) (old : Reg) : Reg :=
  ⟨.g, old.fmt, old.taint ||| t, cols.zipIdx.map fun (col, l) => accumulate i32 (old.at l) (rows.getD i []) col⟩

theorem accReg_at (i32 : Bool) (t : BitVec 9) (rows : List (List FVal)) {cols : List (List FVal)} (i : Nat) (old : Reg) {l : Nat} (hl : l < cols.length) :
    (accReg i32 t rows cols i old).at l = accumulate i32 (old.at l) (rows.getD i []) (cols.getD l []) := by
  simp [accReg, Reg.at, hl]

/-- The accumulation over a tile changes one group of registers. -/
theorem accCrew_eq (i32 : Bool) (d : Nat) (t : BitVec 9) (rows cols : List (List FVal)) (c : Crew) :
    accCrew i32 d t rows cols c = updateGroup d (accReg i32 t rows cols) rows.length c := by
  rw [accCrew, zipIdx_eq_map_range rows [], List.foldl_map]
  rfl

theorem accCrew_id (i32 : Bool) (d : Nat) (t : BitVec 9) (rows cols : List (List FVal)) (c : Crew) : (accCrew i32 d t rows cols c).id = c.id := by
  rw [accCrew_eq, updateGroup_frame]

/-- MCLR on a crew changes one group of registers. -/
theorem clearGroup_eq (d : Nat) (f : Fmt) (c : Crew) : clearGroup d f c = updateGroup d (fun _ _ => uReg f 0) 16 c := rfl

end Sys2Proof.Machine
end

section
/-!
PROOF of O41, MatrixInstructions: each body where nothing stops it; the accumulators of a crew; the entries that MSCL writes; what a waiting instruction needs; and
the line of the engine, which is sorted by age and slot.
-/

namespace Sys2Proof.Machine

/-! ### The bodies of MMA, MMAS and MQNT -/

section
variable {d a : RCode} {b : Src} {x : Ctx} {t t1 : State} {p : Part} {c : Crew} {blk : Block} {va h : Word} {r : ShapeRec}
  (hp : x.parts.head? = some p) (hc : crewAt t p.crew = some c) (hb : blockOf t c = some blk) (hops : uniformOps t x.parts a b = .ok (va, h))
  (hrec : getShape t c p.act ((taintClock c (opTaint c a b)).sup c.acq) h false = .ok r t1)
include hp hc hb hops hrec

/-- An MMA or MMAS that passes Table 9-6 and has the engine is performed (R180, R196). -/
theorem mmaBody_done {mmas : Bool} {k : CoreSt} (hcheck : mmaCheck t x.parts mmas (x.scope == .set) blk r d va.toNat = none)
    (hready : (matrixWait c x.pc blk r (mmaRegs d a b)).ready t1 c.core = true) (htrace : engineTraceHeld t1 c.core = false)
    (hk : coreAt t1 c.core = some k) (hfree : k.matrix = none)
    (hturn : engineLine t1 k = [] ∨ ∃ w, (engineLine t1 k).head? = some w ∧ w.of c.id x.pc = true) :
    mmaBody mmas d a b x t = .done (emitMatrix (mmaRun (modCore t1 c.core fun k' => { k' with mwait := k.mwait.filter fun w => !w.of c.id x.pc })
      x mmas blk r d a b va.toNat) c (if mmas then 0x72 else 0x71) x.parts.length x.pc) := by
  simp only [mmaBody, hp, hc, hb, hops, hrec, hcheck, hk, hready, htrace, hfree, Option.isSome_none, Bool.not_true, Bool.or_false, Bool.false_or]
  rcases hturn with hnil | ⟨w, hw, hof⟩
  · simp only [hnil, List.head?_nil]
    rfl
  · simp only [hw, hof]
    rfl

/-- An MQNT that passes its checks is performed (R199). -/
theorem mqntBody_done (hhigh : va.toNat / 2 ^ 19 = 0) (hafmt : r.afmt = 9) (hasrc : r.asrc = false) (hfmt : accFmtOk t x.parts d .fp32 = true)
    (halign : va.toNat % 16 = 0)
    (helems : va.toNat % 2 ^ 18 + (16 * x.parts.length - 1) * r.pitch + 16 * (va.toNat / 2 ^ 18 % 2) + 16 ≤ blk.asBytes)
    (hscales : va.toNat % 2 ^ 18 + r.soff + 8 * (16 * x.parts.length - 1) + 4 * (va.toNat / 2 ^ 18 % 2) + 4 ≤ blk.asBytes) :
    mqntBody d a b x t = .done (setBlock t1 (mqntRun t1 x.parts blk r d.toNat (va.toNat % 2 ^ 18) (va.toNat / 2 ^ 18 % 2))) := by
  have hbase : va.toNat % 2 ^ 18 % 16 = 0 := by omega
  simp only [mqntBody, hp, hc, hb, hops, hrec, hhigh, hafmt, hasrc, hfmt, hbase, Nat.not_lt.mpr helems, Nat.not_lt.mpr hscales, ne_eq, not_true_eq_false,
    Bool.false_eq_true, Bool.not_true, or_self, if_false]

end

/-! ### The bodies of MSCL and MHND -/

section
variable {a : RCode} {b : Src} {x : Ctx} {t : State} {p : Part} {c : Crew} (hact : actor x t = some (p, c))
include hact

theorem msclBody_done {ra rb : Reg} (ha : srcReg c a.toNat = some ra) (hb : srcVal c b ra.fmt = some rb) (hshape : ra.shape = .u)
    (hindex : ra.fmt.isIndex = true) (hentry : (ra.at 0).toNat ≤ 63) (hfmt : rb.fmt ∈ [Fmt.bf16x2, .raw32, .i32]) :
    msclBody a b x t = .done (modBlock t c.block fun k => { k with bands := sclBands (ra.at 0).toNat rb p.act k.bands }) := by
  have hvalue : (rb.fmt == .bf16x2 || rb.fmt == .raw32 || rb.fmt == .i32) = true := by simpa [or_assoc] using hfmt
  simp [msclBody, hact, ha, hb, hshape, hindex, Nat.not_lt.mpr hentry, hvalue]

theorem mhndBody_done {rb : Reg} {r : ShapeRec} {t1 : State} (hb : srcVal c b .i32 = some rb) (hshape : rb.shape = .u) (hindex : rb.fmt.isIndex = true)
    (hrec : getShape t c p.act ((taintClock c rb.taint).sup c.acq) (rb.at 0) true = .ok r t1) : mhndBody b x t = .done t1 := by
  simp [mhndBody, hact, hb, hshape, hindex, hrec]

end

/-! ### The entries that MSCL writes -/

/-- Entry `i` after some lanes have written the entries from `e` up. -/
theorem foldl_setBand_getD (e : Nat) (v : Nat → BitVec 16) {i : Nat} (hi : i < 64) : ∀ (ls : List Nat) {bands : List (BitVec 16)}, bands.length = 64 →
    (ls.foldl (fun bs l => if e + l ≤ 63 then bs.set (e + l) (v l) else bs) bands).getD i 0 = if e ≤ i ∧ i - e ∈ ls then v (i - e) else bands.getD i 0
  | [], bands, _ => by simp
  | l :: ls, bands, hlen => by
    rw [List.foldl_cons, foldl_setBand_getD e v hi ls (by split <;> simp [hlen])]
    by_cases hl : e + l = i
    · subst hl
      simp [Nat.le_of_lt_succ hi, hlen, hi]
    · have hhere : ¬ (e ≤ i ∧ i - e = l) := by omega
      have hkept : (if e + l ≤ 63 then bands.set (e + l) (v l) else bands).getD i 0 = bands.getD i 0 := by
        split
        · simp [List.getElem?_set_ne hl]
        · rfl
      rw [hkept]
      simp only [List.mem_cons, and_or_left, hhere, false_or]

theorem sclBands_getD (e : Nat) (r : Reg) (act : Mask) {bands : List (BitVec 16)} (hlen : bands.length = 64) {i : Nat} (hi : i < 64) :
    (sclBands e r act bands).getD i 0 =
      if e ≤ i ∧ i - e < 32 ∧ laneIn act (i - e) = true then BitVec.ofNat 16 (r.at (i - e)).toNat else bands.getD i 0 := by
  simp only [sclBands, foldl_setBand_getD e (fun l => BitVec.ofNat 16 (r.at l).toNat) hi _ hlen, mem_lanes]

/-! ### What a waiting instruction needs -/

/-- No copy may still write the macros that a record names (R109). -/
theorem macroCopies_isEmpty_iff (s : State) (block lo hi : Nat) : (macroCopies s block lo hi).isEmpty = true ↔
    ∀ k ∈ s.copies, k.block = block → k.dir = 1 ∨ k.dir = 3 → hi ≤ k.wsAddr 0 ∨ k.wsAddr 0 + k.bytes ≤ lo := by
  rw [List.isEmpty_iff, macroCopies, List.filter_eq_nil_iff]
  refine forall₂_congr fun k _ => ?_
  simp only [Bool.and_eq_true, Bool.or_eq_true, beq_iff_eq, decide_eq_true_eq, not_and, and_imp, Nat.not_lt]
  exact ⟨fun h hb hd => or_iff_not_imp_left.mpr fun hlo => h hb hd (Nat.not_le.mp hlo),
    fun h hb hd hlt => (h hb hd).resolve_left (Nat.not_le.mpr hlt)⟩

theorem queueFull_iff (s : State) (core task n k : Nat) : queueFull s core task n k = true ↔
    (queueAt s core n).bound = true ∧ (queueAt s core n).out = true ∧ (queueAt s core n).task = task ∧ k ≤ (queueAt s core n).entries.length := by
  simp [queueFull, and_assoc]

/-- What an MMA or MMAS waits for besides the engine (R109, R184). -/
theorem matrixWait_ready_iff (s : State) (c : Crew) (pc : Word) (blk : Block) (r : ShapeRec) (regs : List Nat) (core : Nat) :
    (matrixWait c pc blk r regs).ready s core = true ↔
      (macroCopies s blk.id (macroRange r).1 (macroRange r).2).isEmpty = true ∧
      (r.asrc = true → queueFull s core blk.task r.q (tileVectors r) = true) := by
  rw [MatrixWait.ready, Bool.and_eq_true]
  cases hasrc : r.asrc <;> simp [matrixWait, hasrc]

/-! ### The line of the engine -/

/-- `v` stands in the line where `w` may follow: it has been ready for longer, or for as long in no higher crew slot (R180). -/
def Precedes (s : State) (v w : MatrixWait) : Prop :=
  ∀ j, w.since = some j → ∃ i, v.since = some i ∧ (i < j ∨ (i = j ∧ v.slot s ≤ w.slot s))

theorem Precedes.trans {s : State} {u v w : MatrixWait} (huv : Precedes s u v) (hvw : Precedes s v w) : Precedes s u w := by
  intro k hk
  obtain ⟨j, hj, hjk⟩ := hvw k hk
  obtain ⟨i, hi, hij⟩ := huv j hj
  exact ⟨i, hi, by omega⟩

theorem precedes_of_before {s : State} {v w : MatrixWait} (h : v.before s w = true) : Precedes s v w := by
  intro j hj
  cases hi : v.since with
  | none => simp [MatrixWait.before, hi] at h
  | some i => exact ⟨i, rfl, by simpa [MatrixWait.before, hi, hj] using h⟩

theorem precedes_of_not_before {s : State} {v w : MatrixWait} (h : ¬ v.before s w = true) : Precedes s w v := by
  intro j hj
  cases hi : w.since with
  | none => simp [MatrixWait.before, hi, hj] at h
  | some i =>
    simp only [MatrixWait.before, hi, hj, Bool.or_eq_true, decide_eq_true_eq, Bool.and_eq_true, beq_iff_eq] at h
    exact ⟨i, rfl, by omega⟩

/-- The line is the insertion sort of the instructions that may go. -/
theorem engineLine_eq (s : State) (k : CoreSt) :
    engineLine s k = (k.mwait.filter (·.canGo s k.id)).insertionSort fun v w => v.before s w = true := by
  unfold engineLine List.insertionSort
  congr 1
  funext w l
  simp [List.orderedInsert_eq_take_drop]

theorem mem_engineLine {s : State} {k : CoreSt} {w : MatrixWait} : w ∈ engineLine s k ↔ w ∈ k.mwait ∧ w.canGo s k.id = true := by
  rw [engineLine_eq, List.mem_insertionSort, List.mem_filter]

theorem pairwise_orderedInsert_precedes {s : State} (w : MatrixWait) : ∀ {l : List MatrixWait}, l.Pairwise (Precedes s) →
    (l.orderedInsert (fun v w => v.before s w = true) w).Pairwise (Precedes s)
  | [], _ => List.pairwise_singleton ..
  | v :: l, h => by
    obtain ⟨hv, hl⟩ := List.pairwise_cons.mp h
    rw [List.orderedInsert_cons]
    split
    next hbefore =>
      refine List.pairwise_cons.mpr ⟨List.forall_mem_cons.mpr ⟨precedes_of_before hbefore, fun u hu => ?_⟩, h⟩
      exact (precedes_of_before hbefore).trans (hv u hu)
    next hbefore =>
      refine List.pairwise_cons.mpr ⟨fun u hu => ?_, pairwise_orderedInsert_precedes w hl⟩
      rcases (List.mem_orderedInsert _).mp hu with rfl | hu
      · exact precedes_of_not_before hbefore
      · exact hv u hu

theorem pairwise_engineLine (s : State) (k : CoreSt) : (engineLine s k).Pairwise (Precedes s) := by
  rw [engineLine_eq]
  exact List.foldrRecOn _ _ List.Pairwise.nil fun _ h w _ => pairwise_orderedInsert_precedes w h

theorem ready_of_canGo {s : State} {core : Nat} {w : MatrixWait} (h : w.canGo s core = true) : w.ready s core = true :=
  (Bool.and_eq_true_iff.mp h).1

/-- MATRIX_OCCUPANCY_END on a busy engine (R180). -/
theorem exec_matrixOccupancyEnd {s : State} {k : CoreSt} (hk : coreAt s s.unit = some k) (hbusy : k.matrix.isSome = true) :
    exec .matrixOccupancyEnd s = .next (match engineLine (modCore s k.id fun k => { k with matrix := none }) k with
      | w :: _ => modCrew (modCore s k.id fun k => { k with matrix := none }) w.crew (unstall w.pc)
      | [] => modCore s k.id fun k => { k with matrix := none }) := by
  have hnone : k.matrix.isNone = false := by rw [← Option.not_isSome, hbusy]; rfl
  change execMatrixOccupancyEnd s = _
  simp only [execMatrixOccupancyEnd, hk, hnone, Bool.false_eq_true, if_false]
  cases engineLine (modCore s k.id fun k => { k with matrix := none }) k <;> rfl

/-- Settles O41: each instruction by its body's lemma, the rest by what the engine's line and the groups of registers hold. -/
theorem matrixInstructions : Obligations.MatrixInstructions := by
  unfold Obligations.MatrixInstructions
  refine ⟨?tiles, ?accumulators, ?clear, ?scales, fun e r act bands hlen _ i hi => sclBands_getD e r act hlen hi, ?ready,
    fun s k => ⟨fun w => mem_engineLine, fun w => ready_of_canGo, pairwise_engineLine s k⟩, fun s k => exec_matrixOccupancyEnd⟩
  case tiles =>
    intro x d a b s t t1 u p c blk va h r k hp hc hb hops hrec
    refine ⟨fun w hw => ?_, fun hpoint hhigh hafmt hasrc hfmt halign helems hscales =>
      issue_done hpoint (mqntBody_done hp hc hb hops hrec hhigh hafmt hasrc hfmt halign helems hscales)⟩
    simp only [List.mem_cons, List.not_mem_nil, or_false] at hw
    rcases hw with rfl | rfl <;>
      exact fun hpoint hcheck hready htrace hk hfree hturn =>
        issue_done hpoint (mmaBody_done hp hc hb hops hrec hcheck hready htrace hk hfree hturn)
  case accumulators =>
    intro i32 d tt rows cols c hrows hcols hregs
    rw [accCrew_eq, hrows]
    refine ⟨fun i hi => ?_, fun n hn => vreg_updateGroup_other _ _ _ _ hn, ?_⟩
    · rw [vreg_updateGroup _ _ _ _ hi hregs]
      exact ⟨fun l hl => accReg_at _ _ _ _ _ (hcols ▸ hl), rfl, rfl, rfl⟩
    · rw [updateGroup_frame]
      exact ⟨rfl, rfl, rfl⟩
  case clear =>
    intro x d s t u w hw hpoint
    refine ⟨?_, fun c hregs => ?_⟩
    · simp only [List.mem_cons, List.not_mem_nil, or_false] at hw
      rcases hw with rfl | rfl <;> exact issue_done hpoint rfl
    · rw [clearGroup_eq]
      exact ⟨fun i hi => vreg_updateGroup _ _ _ _ hi hregs, fun n hn => vreg_updateGroup_other _ _ _ _ hn, by rw [updateGroup_frame]⟩
  case scales =>
    intro x a b s t u p c hact
    exact ⟨fun ra rb hpoint ha hb hshape hindex hentry hfmt => issue_done hpoint (msclBody_done hact ha hb hshape hindex hentry hfmt),
      fun rb r t1 hpoint hb hshape hindex hrec => issue_done hpoint (mhndBody_done hact hb hshape hindex hrec)⟩
  case ready =>
    intro s c pc blk r regs core
    rw [matrixWait_ready_iff, macroCopies_isEmpty_iff, queueFull_iff]
    rfl

end Sys2Proof.Machine
end

section
/-!
PROOF of O42, MatrixTile: an accepted MMA or MMAS changes its members' accumulators and its core, and nothing else; the rows of A from the activation store or from
queued vectors, the bytes of a tile of B, and the elements of both.
-/

namespace Sys2Proof.Machine

/-! ### Bytes -/

theorem getD_map_range {α : Type} (g : Nat → α) (z : α) {n k : Nat} (hk : k < n) : ((List.range n).map g).getD k z = g k := by simp [hk]

theorem readBytes_getD (m : Sparse Byte) (a : Nat) {n j : Nat} (hj : j < n) : (readBytes m a n).getD j 0 = sget (0 : Byte) m (a + j) := getD_map_range _ _ hj

theorem leSplit_getD : ∀ {n : Nat} (v : Nat) {j : Nat}, j < n → (leSplit n v).getD j 0 = BitVec.ofNat 8 (v / 256 ^ j)
  | n + 1, v, 0, _ => by rw [pow_zero, Nat.div_one]; rfl
  | n + 1, v, j + 1, h => by
    rw [leSplit, List.getD_cons_succ, leSplit_getD _ (Nat.lt_of_succ_lt_succ h), Nat.div_div_eq_div_mul, pow_succ']

/-- The bytes of a word are little-endian. -/
theorem wordBytes_getD (w : Word) {j : Nat} (hj : j < 4) : (wordBytes w).getD j 0 = (w >>> (8 * j)).setWidth 8 := by
  refine (leSplit_getD _ hj).trans (BitVec.eq_of_toNat_eq ?_)
  rw [BitVec.toNat_ofNat, BitVec.toNat_setWidth, BitVec.toNat_ushiftRight, Nat.shiftRight_eq_div_pow, pow_mul]
  rfl

theorem nibble_eq (b : Byte) (k : Nat) : nibble b k = b.toNat / 16 ^ (k % 2) % 16 := by
  have hb := b.isLt
  rcases Nat.mod_two_eq_zero_or_one k with h | h
  · simp [nibble, h]
  · simp only [nibble, h, one_ne_zero, if_false, pow_one]
    omega

/-! ### The rows of A and the tiles of B -/

/-- One lane of a queued vector in the image: an invalid lane is zero (R184). -/
def vectorWord (e : QEntry) (l : Nat) : Word := if laneIn e.valid l then e.words.getD l 0 else 0

/-- A byte of the image lies in a lane's word of one vector (R184). -/
theorem vectorImage_getD {es : List QEntry} {q : Nat} {e : QEntry} (he : es[q / 128]? = some e) :
    (vectorImage es).getD q 0 = if laneIn e.valid (q % 128 / 4) then ((e.words.getD (q % 128 / 4) 0) >>> (8 * (q % 4))).setWidth 8 else 0 := by
  have hlane : laneIds[q % 128 / 4]? = some (q % 128 / 4) := List.getElem?_range (by omega)
  have hvector : ∀ e : QEntry, (laneIds.flatMap fun l => wordBytes (vectorWord e l)).length = 128 := fun e => by
    simp [laneIds, wordBytes_length]
  calc (vectorImage es).getD q 0
      = (laneIds.flatMap fun l => wordBytes (vectorWord e l)).getD (q % 128) 0 := getD_flatMap hvector 0 (by decide) he
    _ = (wordBytes (vectorWord e (q % 128 / 4))).getD (q % 128 % 4) 0 := getD_flatMap (fun _ => wordBytes_length _) 0 (by decide) hlane
    _ = (vectorWord e (q % 128 / 4) >>> (8 * (q % 4))).setWidth 8 := by
      rw [wordBytes_getD _ (Nat.mod_lt _ (by decide)), Nat.mod_mod_of_dvd q (by decide : 4 ∣ 128)]
    _ = _ := by
      unfold vectorWord
      split
      · rfl
      · simp

section
variable (s : State) (b : Block) (core : Nat) {r : ShapeRec} (a m : Nat) {j : Nat} (hj : j < rowBytes r.afmt)
include hj

/-- A byte of a row in the activation store (R183). -/
theorem aRowBytes_store (hasrc : r.asrc = false) : (aRowBytes s b core r a m).getD j 0 = sget (0 : Byte) b.aStore (a + m * r.pitch + j) := by
  rw [aRowBytes, if_neg (by simp [hasrc]), readBytes_getD _ _ hj]

/-- A byte of a row in queued vectors (R184). -/
theorem aRowBytes_queue (hasrc : r.asrc = true) :
    let q := m * rowBytes r.afmt + j
    ∀ e, (queueAt s core r.q).entries[q / 128]? = some e → q / 128 < tileVectors r →
      (aRowBytes s b core r a m).getD j 0 = if laneIn e.valid (q % 128 / 4) then ((e.words.getD (q % 128 / 4) 0) >>> (8 * (q % 4))).setWidth 8 else 0 := by
  intro q e he htaken
  rw [aRowBytes, if_pos hasrc, ← vectorImage_getD ((List.getElem?_take_of_lt htaken).trans he)]
  simp only [List.getD_eq_getElem?_getD, List.getElem?_take_of_lt hj, List.getElem?_drop, q]

end

/-! ### The effect of an accepted MMA or MMAS -/

theorem bandAt_mod (b : Block) (i : Nat) : bandAt b (i % 64) = bandAt b i := by
  rw [bandAt, Nat.mod_mod]
  rfl

/-- Row `m` of A as the engine takes it (R183, R184, R186). -/
def tileRow (t : State) (blk : Block) (r : ShapeRec) (mmas : Bool) (base m : Nat) : List FVal :=
  aRow r.afmt (aRowBytes t blk blk.core r base m) (if mmas then some (readBytes blk.aStore (base + r.soff + 8 * m) 8) else none)
    (bandAt blk (r.aband + m / 64))

/-- The columns of tile `n` of B (R185, R186). -/
def tileCols (blk : Block) (r : ShapeRec) (n : Nat) : List (List FVal) :=
  laneIds.map (bCol r.bfmt (tileBytes blk r n) (bandAt blk ((byteAt (tileBytes blk r n) 0).toNat % 64)))

section
variable (t : State) (parts : List Part) (mmas : Bool) (blk : Block) (r : ShapeRec) (d a : RCode) (b : Src) (va : Nat)

/-- The member of rank `rk` after the tile (R191, R196). -/
def tileMember (rk : Nat) (c : Crew) : Crew :=
  accCrew (r.acc == 1) d.toNat (opTaint c a b) ((List.range 16).map fun i => tileRow t blk r mmas (va % 2 ^ 18) (16 * rk + i))
    (tileCols blk r (va / 2 ^ 18 % 2 ^ 10)) c

/-- The machine with every member's accumulators after the tile. -/
def tileMembers : State := parts.zipIdx.foldl (fun s q => modCrew s q.1.crew (tileMember t mmas blk r d a b va q.2)) t

/-- A core whose engine has taken a tile: it is occupied, and a queue source has lost the vectors taken (R184, R196). -/
def takeTile (k : CoreSt) : CoreSt :=
  { k with
    matrix := some ⟨parts.map (·.crew), BitVec.ofNat 16 ((2 ^ r.macros - 1) * 2 ^ r.wsbase)⟩
    queues := if r.asrc then k.queues.set r.q { k.queues.getD r.q Queue.unbound with
      entries := (k.queues.getD r.q Queue.unbound).entries.drop (tileVectors r) } else k.queues }

theorem takeTile_store (hasrc : r.asrc = false) :
    takeTile parts r = fun k => { k with matrix := some ⟨parts.map (·.crew), BitVec.ofNat 16 ((2 ^ r.macros - 1) * 2 ^ r.wsbase)⟩ } := by
  funext k
  simp only [takeTile, hasrc, Bool.false_eq_true, if_false]

theorem takeTile_queue (hasrc : r.asrc = true) :
    takeTile parts r = fun k => { k with
      matrix := some ⟨parts.map (·.crew), BitVec.ofNat 16 ((2 ^ r.macros - 1) * 2 ^ r.wsbase)⟩
      queues := k.queues.set r.q { k.queues.getD r.q Queue.unbound with
        entries := (k.queues.getD r.q Queue.unbound).entries.drop (tileVectors r) } } := by
  funext k
  simp only [takeTile, hasrc, if_true]

theorem takeTile_id (k : CoreSt) : (takeTile parts r k).id = k.id := rfl

theorem tileMember_id (q : Part × Nat) (c : Crew) : (tileMember t mmas blk r d a b va q.2 c).id = c.id := accCrew_id ..

/-- With no unit of a copy that may still be read old, the store is read as it stands (R203). -/
theorem asView_of_settled {crews : List Nat} (h : ∀ o ∈ blk.asOld, o.crew ∉ crews) : asView t blk crews = (blk, t) := by
  have hnone : (blk.asOld.filter fun o => crews.contains o.crew) = [] := List.filter_eq_nil_iff.mpr fun o ho => by simpa using h o ho
  rw [asView, hnone]
  rfl

/-- An accepted MMA or MMAS changes its members' crews and its core. -/
theorem mmaRun_eq {x : Ctx} (h : ∀ o ∈ blk.asOld, o.crew ∉ x.parts.map (·.crew)) :
    mmaRun t x mmas blk r d a b va = modCore (tileMembers t x.parts mmas blk r d a b va) blk.core (takeTile x.parts r) := by
  rw [mmaRun, asView_of_settled t blk h]
  cases hasrc : r.asrc
  case false =>
    rw [takeTile_store _ _ hasrc]
    rfl
  case true =>
    rw [takeTile_queue _ _ hasrc]
    refine modCore_modCore _ _ ?_
    exact fun _ => rfl

variable {parts}

theorem crewAt_tileMembers (hn : (parts.map (·.crew)).Nodup) {rk : Nat} {p : Part} {c : Crew} (hp : parts[rk]? = some p) (hc : crewAt t p.crew = some c) :
    crewAt (tileMembers t parts mmas blk r d a b va) p.crew = some (tileMember t mmas blk r d a b va rk c) := by
  have hkeys : parts.zipIdx.map (fun q => q.1.crew) = parts.map (·.crew) := by
    conv_rhs => rw [← List.zipIdx_map_fst 0 parts, List.map_map]
    rfl
  exact crewAt_foldl_modCrew (a := (p, rk)) (tileMember_id t mmas blk r d a b va) (by rwa [hkeys]) (List.mk_mem_zipIdx_iff_getElem?.mpr hp) hc

theorem crewAt_tileMembers_other {n : Nat} (h : ∀ p ∈ parts, p.crew ≠ n) : crewAt (tileMembers t parts mmas blk r d a b va) n = crewAt t n := by
  refine crewAt_foldl_modCrew_other (tileMember_id t mmas blk r d a b va) t fun hmem => ?_
  obtain ⟨q, hq, hcrew⟩ := List.mem_map.mp hmem
  exact h q.1 (List.fst_mem_of_mem_zipIdx hq) hcrew

theorem coreAt_tileMembers (core : Nat) : coreAt (tileMembers t parts mmas blk r d a b va) core = coreAt t core := coreAt_foldl_modCrew ..

end

/-- Settles O42: the effect by members and core, then the bytes and the elements of A and B. -/
theorem matrixTile : Obligations.MatrixTile := by
  unfold Obligations.MatrixTile
  refine ⟨?effect, fun s b core r a m j hj => ⟨aRowBytes_store s b core a m hj, aRowBytes_queue s b core a m hj⟩, fun b r t i hi => readBytes_getD _ _ hi,
    fun f bs sc g k hk => ?row, fun f bs g n k hk => ?column⟩
  case effect =>
    intro t u mmas blk r d a b va k hn hk hold T base tile row col
    have hT : T = modCore (tileMembers t u.parts mmas blk r d a b va) blk.core (takeTile u.parts r) := mmaRun_eq t mmas blk r d a b va hold
    have hcol : tileCols blk r (va / 2 ^ 18 % 2 ^ 10) = laneIds.map col := by
      rw [tileCols, bandAt_mod]
      rfl
    rw [hT]
    refine ⟨fun rk p c hp hc => ?_, fun c h => crewAt_tileMembers_other t mmas blk r d a b va h, takeTile u.parts r k, ?_, rfl,
      fun hasrc => ?_, fun hasrc _ => ?_⟩
    · refine (crewAt_tileMembers t mmas blk r d a b va hn hp hc).trans ?_
      rw [tileMember, hcol]
      rfl
    · rw [coreAt_modCore_self (takeTile_id u.parts r), coreAt_tileMembers, hk]
      rfl
    · rw [takeTile_store _ _ hasrc]
    · rw [takeTile_queue _ _ hasrc]
      rfl
  case row =>
    dsimp only
    rw [aRow, getD_map_range _ _ hk]
    refine ⟨?e2m1, ?bf16, ?e4m3, ?e5m2, fun hf => ?i8⟩
    case e2m1 =>
      rintro rfl
      rw [if_pos rfl, nibble_eq]
      cases sc <;> rfl
    case bf16 | e4m3 | e5m2 => rintro rfl; rfl
    case i8 =>
      simp only [List.mem_cons, List.not_mem_nil, or_false, not_or] at hf
      simp only [hf, if_false]
      rfl
  case column =>
    dsimp only
    rw [bCol, getD_map_range _ _ hk]
    refine ⟨?e2m1, ?e4m3, fun hf => ?i8⟩
    case e2m1 =>
      rintro rfl
      rw [if_pos rfl, nibble_eq]
      rfl
    case e4m3 => rintro rfl; rfl
    case i8 =>
      simp only [List.mem_cons, List.not_mem_nil, or_false, not_or] at hf
      simp only [hf, if_false]
      rfl

end Sys2Proof.Machine
end

section
/-!
PROOF of O45, QueueOperations: one rule for the body of each queue instruction and for each event between a register and a port, and what POP leaves in the crew.
-/

namespace Sys2Proof.Machine

/-! ### The bodies of the queue instructions -/

/-- The issue of an instruction whose body traps in the lanes of act (R319). -/
theorem issue_trapped {sp : Spec} {s t u : State} {x : Ctx} {body : Ctx → State → Res} {code : Nat} (h : issuePoint sp s = some (x, t))
    (hb : body x t = .trap code u) : issue sp body s = .next (trapAll x u code (·.act) fun _ => []) := by
  rw [issue_point body h, hb]
  rfl

section
variable {n : Nat} {a d : RCode} {t : State} {u : Ctx} {p : Part} {c : Crew} {r : Reg} (hact : actor u t = some (p, c))
  (hbound : (crewQueue t c n).bound = true)
include hact hbound

/-- PUSH of a format that the register takes, with room (R227). -/
theorem pushBody_of_room (hr : srcReg c a.toNat = some r) (hout : (crewQueue t c n).out = false)
    (hfmt : r.fmt = (crewQueue t c n).fmt ∨ r.fmt = .raw32 ∨ (crewQueue t c n).fmt = .raw32) (hroom : (crewQueue t c n).entries.length < 8) :
    pushBody n a u t = .done (modQueue t c.core n fun q =>
      { q with entries := q.entries ++ [⟨r.lanes, BitVec.allOnes 32, 0, (crewClock c).sup (taintClock c r.taint)⟩] }) := by
  have htakes : (r.fmt == (crewQueue t c n).fmt || r.fmt == .raw32 || (crewQueue t c n).fmt == .raw32) = true := by simpa [or_assoc] using hfmt
  simp only [pushBody, hact, hr, Option.getD_some, hbound, hout, htakes, Nat.not_le.mpr hroom, Bool.not_true, Bool.or_self, Bool.false_eq_true, if_false]

/-- POP takes the oldest entry (R228). -/
theorem popBody_of_entry {k : Nat} {e : QEntry} {es : List QEntry} (hout : (crewQueue t c n).out = true) (he : (crewQueue t c n).entries = e :: es) :
    popBody n k d u t = .done (modCrew (modQueue t c.core n fun q => { q with entries := es }) c.id (popInto k d (crewQueue t c n).fmt e)) := by
  simp only [popBody, hact, hbound, hout, he, Bool.not_true, Bool.or_self, Bool.false_eq_true, if_false]

/-- STAT writes the status word and clears ERR and CLAMP (R230). -/
theorem statBody_of_bound : statBody n d u t =
    .done (u.parts.foldl (fun s p => if p.act = 0 then s else modCrew s p.crew (sysResult d p (queueStatus t c.core (crewQueue t c n))))
      (modQueue t c.core n fun q => { q with err := false, clamp := false })) := by
  simp only [statBody, hact, hbound, Bool.not_true, Bool.false_eq_true, if_false]

/-- DEM on a register bound from an island: va is checked for its shape, then for its format (R229, log entry 87). -/
theorem demBody_of_out (hr : srcReg c a.toNat = some r) (hout : (crewQueue t c n).out = true) : demBody n a u t =
    if r.shape ≠ .u then .trap trapOperand t else if r.fmt.isIndex = false then .trap trapFormat t else .done (addDemand t c.core n (r.at 0).toNat) := by
  simp only [demBody, hact, hr, Option.getD_some, hbound, hout, Bool.not_true, Bool.or_self, Bool.false_eq_true, if_false, bne_iff_ne, ne_eq,
    Bool.not_eq_true']

/-- DEM of a uniform count adds demand (R229). -/
theorem demBody_of_count (hr : srcReg c a.toNat = some r) (hout : (crewQueue t c n).out = true) (hshape : r.shape = .u) (hfmt : r.fmt.isIndex = true) :
    demBody n a u t = .done (addDemand t c.core n (r.at 0).toNat) := by
  rw [demBody_of_out hact hbound hr hout, if_neg (not_not.mpr hshape), if_neg (by simp [hfmt])]

end

/-! ### What POP leaves in the crew -/

theorem laneIn_allOnes {l : Nat} (h : l < 32) : laneIn (BitVec.allOnes 32) l = true := BitVec.getLsbD_allOnes.trans (decide_eq_true h)

section
variable {k : Nat} {d : RCode} {f : Fmt} {e : QEntry} {c : Crew}

/-- POP changes the crew's registers, predicates and clocks alone (R228). -/
theorem popInto_frame : popInto k d f e c =
    { c with regs := (writeVd c d.toNat ⟨.g, f, 0, e.words⟩ (BitVec.allOnes 32) true).regs, pred := if k < 3 then c.pred.set k e.valid else c.pred
             acq := c.acq.sup e.clock, hist := c.hist.sup e.clock } := by
  unfold popInto
  rw [writeVd_frame]
  split <;> rfl

theorem vreg_popInto (n : Nat) : vreg (popInto k d f e c) n = vreg (writeVd c d.toNat ⟨.g, f, 0, e.words⟩ (BitVec.allOnes 32) true) n := by
  rw [popInto_frame]
  rfl

theorem popInto_pred : (popInto k d f e c).pred = if k < 3 then c.pred.set k e.valid else c.pred := by
  rw [popInto_frame]

/-- POP writes the entry's words into every lane of vd (R228, log entry 42). -/
theorem vreg_popInto_self (hd : d.toNat < 60) (hl : d.toNat < c.regs.length) :
    (∀ l < 32, (vreg (popInto k d f e c) d.toNat).at l = e.words.getD l 0) ∧ (vreg (popInto k d f e c) d.toNat).fmt = f ∧
    (vreg (popInto k d f e c) d.toNat).shape = .g ∧ (vreg (popInto k d f e c) d.toNat).taint = 0 := by
  have hall : BitVec.allOnes 32 ≠ (0 : Mask) := by decide
  rw [vreg_popInto, vreg_writeVd_self _ _ _ hd hl]
  obtain ⟨hfmt, htaint, hshape⟩ := regWrite_tags (old := vreg c d.toNat) (res := ⟨.g, f, 0, e.words⟩) true hall
  refine ⟨fun l hlane => ?_, hfmt, hshape, htaint⟩
  rw [regWrite_at_general true hall rfl hlane, if_pos (laneIn_allOnes hlane)]
  rfl

theorem popInto_pred_self (hk : k < 3) (hp : c.pred.length = 3) : (popInto k d f e c).pred.getD k 0 = e.valid := by
  rw [popInto_pred, if_pos hk, List.getD_eq_getElem?_getD, List.getElem?_set_self (hp ▸ hk), Option.getD_some]

theorem popInto_pred_other {j : Nat} (h : j ≠ k) : (popInto k d f e c).pred.getD j 0 = c.pred.getD j 0 := by
  rw [popInto_pred]
  split
  · rw [List.getD_eq_getElem?_getD, List.getElem?_set_ne h.symm, ← List.getD_eq_getElem?_getD]
  · rfl

end

/-! ### Between registers and ports -/

/-- The oldest entry moves into a port with room (R225). -/
theorem exec_pushEntryToPort {s : State} {core n : Nat} {e : QEntry} {es : List QEntry} {i : Isle} {p : InPort}
    (he : (queueAt s core n).entries = e :: es) (hi : isleAt s (dieOfCore core) (queueAt s core n).island = some i)
    (hp : i.inp.find? (fun p => p.no == (queueAt s core n).port) = some p) (hbound : (queueAt s core n).bound = true)
    (hout : (queueAt s core n).out = false) (hroom : p.fifo.length < 32) :
    exec (.pushEntryToPort core n) s = .next (modIsle (modQueue s core n fun r => { r with entries := es }) i.die i.code fun i =>
      i.modIn p.no fun p => { p with fifo := p.fifo ++ [⟨e.words, e.valid, e.errs, e.clock, Clock.zero, core, n⟩] }) := by
  change execPushEntryToPort core n s = _
  simp only [execPushEntryToPort, he, hi, hp, hbound, hout, Nat.not_le.mpr hroom, decide_false, Bool.not_true, Bool.or_self, Bool.false_eq_true, if_false]

/-- The oldest completed vector enters the register that takes it (R225). -/
theorem exec_outputVectorDeliver {s : State} {die isl port due n : Nat} {i : Isle} {v : PortVec} (hi : isleAt s die isl = some i)
    (hv : ((i.outp.find? fun p => p.no == port).bind fun p => p.done.head?) = some (due, v)) (hdue : due ≤ i.cycle) (hdie : dieOfCore v.core = die)
    (hn : takerOf s isl port v.core = some n) :
    exec (.outputVectorDeliver die isl port) s = .next (modIsle (modQueue s v.core n fun q =>
      { q with entries := q.entries ++ [⟨v.words, v.valid, v.errs, v.acq⟩], demand := q.demand - 1, err := q.err || v.errs != 0 }) die isl fun i =>
      i.modOut port fun p => { p with done := p.done.tail }) := by
  change execOutputVectorDeliver die isl port s = _
  simp only [execOutputVectorDeliver, hi, hv, if_pos (And.intro hdue hdie), hn]

/-- Settles O45: each instruction by its body's rule, POP's crew by what it leaves, and each event by its own rule. -/
theorem queueOperations : Obligations.QueueOperations := by
  unfold Obligations.QueueOperations
  refine ⟨fun x n k d a s t u p c hact => ⟨?push, ?pop, ?dem, ?stat⟩, fun k d f e c hregs hpred => ⟨?vd, ?otherRegs, ?pk, ?otherPreds, ?clocks⟩,
    fun s core n e es i p => exec_pushEntryToPort, fun s die isl port i due v n => exec_outputVectorDeliver⟩
  case push => exact fun r hp hr hbound hout hfmt hroom => issue_done hp (pushBody_of_room hact hbound hr hout hfmt hroom)
  case pop => exact fun e es hp hbound hout he => issue_done hp (popBody_of_entry hact hbound hout he)
  case dem => exact fun r hp hr hbound hout hshape hfmt => issue_done hp (demBody_of_count hact hbound hr hout hshape hfmt)
  case stat => exact fun hp hbound => issue_done hp (statBody_of_bound hact hbound)
  case vd => exact fun hd => vreg_popInto_self hd (hregs ▸ hd)
  case otherRegs => exact fun n hn => (vreg_popInto n).trans (vreg_writeVd_other c _ _ _ hn)
  case pk => exact fun hk => popInto_pred_self hk hpred
  case otherPreds => exact fun j _ hj => popInto_pred_other hj
  case clocks =>
    rw [popInto_frame]
    exact ⟨rfl, rfl, rfl⟩

end Sys2Proof.Machine
end

section
/-! PROOF of O46, QueueDemand: the checks of DEM's va, and what added demand leaves in the register. -/

namespace Sys2Proof.Machine

theorem isIndex_eq_false {f : Fmt} (hraw : f ≠ .raw32) (hi32 : f ≠ .i32) (hidx : f ≠ .idx) : f.isIndex = false := by
  cases f with
  | raw32 => exact absurd rfl hraw
  | i32 => exact absurd rfl hi32
  | idx => exact absurd rfl hidx
  | _ => rfl

theorem isIndex_of_or {f : Fmt} (h : f = .raw32 ∨ f = .i32 ∨ f = .idx) : f.isIndex = true := by
  rcases h with rfl | rfl | rfl <;> rfl

/-! ### A queue register changed -/

/-- A queue register changed by its number holds what the change leaves. -/
theorem queueAt_modQueue_self {s : State} {core n : Nat} {k : CoreSt} (f : Queue → Queue) (hk : coreAt s core = some k) (hn : n < k.queues.length) :
    queueAt (modQueue s core n f) core n = f (queueAt s core n) := by
  unfold queueAt modQueue
  rw [coreAt_modCore_self, hk]
  · simp only [Option.map_some, List.getD_eq_getElem?_getD, List.getElem?_set_self hn, Option.getD_some]
  · exact fun _ => rfl

/-- A change that leaves what the register holds leaves the machine. -/
theorem modQueue_of_same {s : State} {core n : Nat} {f : Queue → Queue} (hf : ∀ q, f q = q) : modQueue s core n f = s := by
  have hset : ∀ qs : List Queue, qs.set n (qs.getD n Queue.unbound) = qs := fun qs => by
    rcases lt_or_ge n qs.length with hn | hn
    · rw [List.getD_eq_getElem _ _ hn, List.set_getElem_self]
    · exact List.set_eq_of_length_le hn
  have hcores : s.cores.map (fun k => if k.id == core then { k with queues := k.queues.set n (f (k.queues.getD n Queue.unbound)) } else k) = s.cores :=
    (List.map_congr_left fun k _ => by rw [hf, hset, ite_self]; rfl).trans (List.map_id _)
  unfold modQueue modCore
  rw [hcores]

/-! ### Added demand -/

/-- What demand and entries leave of a register's 8 places (R229). -/
def Queue.room (q : Queue) : Nat := 8 - (q.demand + q.entries.length)

/-- Of the cores, added demand changes the register alone: the rest is sent to the island (R212). -/
theorem queueAt_addDemand (s : State) (core n k core' n' : Nat) : queueAt (addDemand s core n k) core' n' =
    queueAt (modQueue s core n fun q => { q with demand := q.demand + min k (queueAt s core n).room
                                                 clamp := q.clamp || decide (min k (queueAt s core n).room < k) }) core' n' := by
  unfold addDemand
  dsimp only
  split
  · rfl
  split
  · rfl
  split
  · rfl
  split <;> rfl

/-- A register after added demand: the count clamped to the room that is left, and CLAMP (R229). -/
theorem queueAt_addDemand_self {s : State} {core n : Nat} {cs : CoreSt} (k : Nat) (hcore : coreAt s core = some cs) (hn : n < cs.queues.length) :
    queueAt (addDemand s core n k) core n =
      { queueAt s core n with demand := (queueAt s core n).demand + min k (queueAt s core n).room
                              clamp := (queueAt s core n).clamp || decide ((queueAt s core n).room < k) } := by
  rw [queueAt_addDemand, queueAt_modQueue_self _ hcore hn]
  simp only [min_lt_iff, lt_irrefl, false_or]

/-- Demand for nothing changes nothing (R229). -/
theorem addDemand_zero (s : State) (core n : Nat) : addDemand s core n 0 = s := by
  simp only [addDemand, Nat.zero_min, if_true]
  exact modQueue_of_same fun q => by simp

/-- Settles O46: DEM by the checks of its body, and the register by what added demand leaves in it. -/
theorem queueDemand : Obligations.QueueDemand := by
  unfold Obligations.QueueDemand
  refine ⟨fun x n a s t u p c r hact hp hr hbound hout => ?checks, fun s core n k cs hcore hn => ?demand, addDemand_zero, ⟨_, rfl⟩⟩
  case checks =>
    have hbody := demBody_of_out hact hbound hr hout
    refine ⟨fun hshape => issue_trapped hp (hbody.trans (if_pos hshape)), fun hshape hraw hi32 hidx => issue_trapped hp (hbody.trans ?_),
      fun hshape hfmt => issue_done hp (demBody_of_count hact hbound hr hout hshape (isIndex_of_or hfmt))⟩
    rw [if_neg (not_not.mpr hshape), if_pos (isIndex_eq_false hraw hi32 hidx)]
  case demand =>
    have hself := queueAt_addDemand_self k hcore hn
    refine ⟨hself, fun hle => ?_⟩
    rw [hself]
    dsimp only [Queue.room]
    omega

end Sys2Proof.Machine
end

section
/-!
PROOF of O52, IslandEvents: one rule for each event of a cell, of what travels, of an access in progress and of the loader; then the operations of Table 10-3, the
bytes of an island's store, and the bodies of ISWAP.
-/

namespace Sys2Proof.Machine

/-! ### Firing -/

section
variable {s : State} {die isl cell k : Nat} {i : Isle} {im : Image} {c : CellSt} (hi : isleAt s die isl = some i) (him : i.image = some im)
  (hc : i.cells.find? (fun c => c.idx == cell) = some c) (hrule : firingRule (cellRec im cell) c = some k) (hfire : canFire im i c = true)
  (harrived : i.arriving = false) (hheld : isleTraceHeld s die isl = false)
include hi him hc hrule hfire harrived hheld

/-- A cell that can fire begins an access where its operation is FETCH or STORE, and sends its result otherwise (R208, R210). -/
theorem exec_cellFire {op : Nat} (hop : wfield (cellRec im cell) 0 12 6 = op) : exec (.cellFire die isl cell) s =
    if op = 38 ∨ op = 39 then
      .next (modIsle { s with nextId := s.nextId + 1 } die isl fun i =>
        i.modCell cell fun c => { c with busy := some ⟨op == 39, k, s.nextId, false, false⟩ })
    else
      let v := (sources (cellRec im cell)).map (srcOf (cellRec im cell) c)
      .next (fireEffect s i im c k (cellLatency op) (cellOp op ((cellRec im cell).getD 1 0) (v.getD 0 0) (v.getD 1 0) (v.getD 2 0)) false Clock.zero) := by
  change execCellFire die isl cell s = _
  simp only [execCellFire, hi, him, hc, hrule, hfire, harrived, hheld, hop, Bool.not_true, Bool.or_self, Bool.false_eq_true, if_false]

end

/-- The operand that each SRC selector names (Table 10-5). -/
theorem srcOf_values (ws : List Word) (c : CellSt) (n : Nat) : (n < 4 → srcOf ws c n = match c.head n with | some t => t.val | none => 0) ∧
    srcOf ws c 4 = ws.getD 1 0 ∧ srcOf ws c 5 = c.preds.setWidth 32 ∧ (6 ≤ n → srcOf ws c n = 0) :=
  ⟨fun h => if_pos h, rfl, rfl, fun h => (if_neg (by omega)).trans ((if_neg (by omega)).trans (if_neg (by omega)))⟩

/-! ### Words of Table 10-3 -/

theorem IOp.word_add (a b : Word) : IOp.add.word .i32 a b = a + b := by
  rw [IOp.word_of_isIndex rfl]
  exact BitVec.eq_of_toNat_eq (by simp [IOp.elem])

theorem IOp.word_sub (a b : Word) : IOp.sub.word .i32 a b = a - b := by
  rw [IOp.word_of_isIndex rfl]
  refine BitVec.eq_of_toNat_eq ?_
  rw [BitVec.toNat_ofNat, elem_sub b.isLt, BitVec.toNat_sub]
  omega

theorem IOp.word_mul (a b : Word) : IOp.mul.word .i32 a b = a * b := by
  rw [IOp.word_of_isIndex rfl]
  exact BitVec.eq_of_toNat_eq (by simp [IOp.elem])

theorem oneIf_eq (a b : Word) : oneIf (a == b) = if a = b then 1 else 0 := by
  simp only [oneIf, beq_iff_eq]

theorem ICmp.holds_lt (a b : Word) : ICmp.lt.holds a b = a.slt b := by
  simp only [ICmp.holds, sgn_toNat, BitVec.slt_eq_decide]

/-! ### Arrivals -/

/-- An island without what travels under a number. -/
def Isle.without (i : Isle) (n : Nat) : Isle := { i with items := i.items.filter fun y => y.id != n }

section
variable {s : State} {die isl n : Nat} {i : Isle} {x : Item} (hi : isleAt s die isl = some i)
include hi

/-- A token that is due enters its cell's queue (R211). -/
theorem exec_tokenDeliver_token {c q : Nat} {t : Token} (hdue : dueItem i n sameTarget = some x) (hx : x.what = .token c q t) :
    exec (.tokenDeliver die isl n) s = .next (modIsle s die isl fun i => (i.without n).modCell c fun c =>
      { c with queues := c.queues.set q (c.queues.getD q [] ++ [t]), asked := c.asked.set q (c.asked.getD q 0 - 1) }) := by
  change execTokenDeliver die isl n s = _
  simp only [execTokenDeliver, hi, hdue, hx, Isle.without]

/-- A token that is due enters its port (R211). -/
theorem exec_tokenDeliver_port {p : Nat} {t : Token} (hdue : dueItem i n sameTarget = some x) (hx : x.what = .port p t) :
    exec (.tokenDeliver die isl n) s = .next (modIsle s die isl fun i => (i.without n).modOut p (portTake i t)) := by
  change execTokenDeliver die isl n s = _
  simp only [execTokenDeliver, hi, hdue, hx, Isle.without]

/-- Credits that are due raise their output's by their count (R212). -/
theorem exec_demandCreditArrive {c o k : Nat} (hdue : dueItem i n (fun _ _ => false) = some x) (hx : x.what = .credit c o k) :
    exec (.demandCreditArrive die isl n) s = .next (modIsle s die isl fun i => (i.without n).modCell c fun c =>
      { c with credits := c.credits.set o (c.credits.getD o 0 + k) }) := by
  change execDemandCreditArrive die isl n s = _
  simp only [execDemandCreditArrive, hi, hdue, hx, Isle.without]

/-- A request that is due raises its output's credits by one (R212). -/
theorem exec_tokenRequestArrive_cell {c o : Nat} (hdue : dueItem i n (fun _ _ => false) = some x) (hx : x.what = .request c o) :
    exec (.tokenRequestArrive die isl n) s = .next (modIsle s die isl fun i => (i.without n).modCell c fun c =>
      { c with credits := c.credits.set o (c.credits.getD o 0 + 1) }) := by
  change execTokenRequestArrive die isl n s = _
  simp only [execTokenRequestArrive, hi, hdue, hx, Isle.without]

/-- A request that is due raises its port's debt by one (R212). -/
theorem exec_tokenRequestArrive_port {p : Nat} (hdue : dueItem i n (fun _ _ => false) = some x) (hx : x.what = .portRequest p) :
    exec (.tokenRequestArrive die isl n) s =
      .next (modIsle s die isl fun i => (i.without n).modIn p fun p => { p with owed := p.owed + 1 }) := by
  change execTokenRequestArrive die isl n s = _
  simp only [execTokenRequestArrive, hi, hdue, hx, Isle.without]

end

/-! ### FETCH and STORE in progress -/

/-- What the access that cell `n` has in progress comes to (R210). -/
def accessOf (s : State) (i : Isle) (im : Image) (n : Nat) (c : CellSt) (b : CellBusy) : CellAcc :=
  cellAccess s i b (leadToken (cellRec im n) c b.rule) (wfield (cellRec im n) 8 0 2) (srcOf (cellRec im n) c ((sources (cellRec im n)).headD 6))

section
variable {s t : State} {die isl n : Nat} {i : Isle} {im : Image} {c : CellSt} {b : CellBusy}

/-- A fetch that is refused sends 0 with ERR (R210). -/
theorem exec_islandFetchReturn_fail (hb : busyCell s die isl n false = some (i, im, c, b)) (hacc : accessOf s i im n c b = .fail t) :
    exec (.islandFetchReturn die isl n) s = .next (fireEffect t i im { c with node := none } b.rule 0 0 true Clock.zero) := by
  unfold accessOf at hacc
  change execIslandFetchReturn die isl n s = _
  simp only [execIslandFetchReturn, hb, hacc]

/-- A fetch from the node that the cell holds sends its word (R210, R233). -/
theorem exec_islandFetchReturn_node {pasid va pk : Nat} {nb : NodeBuf} (hb : busyCell s die isl n false = some (i, im, c, b))
    (hacc : accessOf s i im n c b = .at_ pasid va pk t) (hnode : c.node = some nb) (hpasid : nb.pasid = pasid) (hva : nb.node = va / 64)
    (hclock : nb.clock.covers (resultToken (cellRec im n) c b.rule 0 false Clock.zero).clock = true) :
    exec (.islandFetchReturn die isl n) s =
      .next (fireEffect t i im c b.rule 0 (BitVec.ofNat 32 (leValue ((nb.data.drop (va % 64)).take 4))) false Clock.zero) := by
  unfold accessOf at hacc
  change execIslandFetchReturn die isl n s = _
  simp only [execIslandFetchReturn, hb, hacc, hnode]
  exact if_pos ⟨hpasid, hva, hclock⟩

/-- A store that is refused sends 0 with ERR (R210). -/
theorem exec_islandStoreDone_fail (hb : busyCell s die isl n true = some (i, im, c, b)) (hacc : accessOf s i im n c b = .fail t) :
    exec (.islandStoreDone die isl n) s = .next (fireEffect t i im c b.rule 0 0 true Clock.zero) := by
  unfold accessOf at hacc
  change execIslandStoreDone die isl n s = _
  simp only [execIslandStoreDone, hb, hacc]

/-- A store whose page and line are at hand is performed at its home slice, and its result carries the write's clock (R210, R234). -/
theorem exec_islandStoreDone_line {pasid va pk : Nat} {tk : Token} {t1 : State} (hb : busyCell s die isl n true = some (i, im, c, b))
    (hacc : accessOf s i im n c b = .at_ pasid va pk t) (htk : resultToken (cellRec im n) c b.rule 0 false Clock.zero = tk)
    (hline : isleLine t i.die tk.core tk.q pk true = (true, t1)) (hclock : (appliedClock t1 i.die).covers tk.clock = true) :
    exec (.islandStoreDone die isl n) s = .next (fireEffect
      (isleStore t1 pk (tk.clock.sup tk.acq) (srcOf (cellRec im n) c ((sources (cellRec im n)).getD 1 6))) i im c b.rule 0
      (srcOf (cellRec im n) c ((sources (cellRec im n)).headD 6)) false (writeClock t1 pk (tk.clock.sup tk.acq))) := by
  unfold accessOf at hacc
  change execIslandStoreDone die isl n s = _
  simp only [execIslandStoreDone, hb, hacc, htk, hline, hclock, Bool.not_true, Bool.false_eq_true, if_false]

end

/-- An island's store writes its word, and no other byte (R210). -/
theorem isleStore_reads {s : State} {pk : Nat} (k : Clock) (v : Word) (hwf : (sliceAccess s (pk / 256) none).homeWf = true)
    (hbad : badDpa (sliceAccess s (pk / 256) none) pk = false) :
    (isleStore s pk k v).homeWf = true ∧ readBytes (isleStore s pk k v).mem pk 4 = wordBytes v ∧
    ∀ a, a < pk ∨ pk + 4 ≤ a → readByte (isleStore s pk k v).mem a = readByte (sliceAccess s (pk / 256) none).mem a := by
  have hlen : (wordBytes v).length = 4 := leSplit_length 4 v.toNat
  have hne : wordBytes v ≠ [] := List.ne_nil_of_length_pos (by omega)
  obtain ⟨hmem, -⟩ := Bool.and_eq_true_iff.mp hwf
  refine ⟨homeWf_homeWrite _ k _ hwf, ?_, fun a ha => (homeWrite_addrs_reads (c := k) hwf hne hbad).2 a (hlen ▸ ha)⟩
  rw [isleStore, (homeWrite_addrs k hne hbad).1, ← hlen]
  exact readBytes_writeBytes hmem pk (wordBytes v)

/-! ### Loaders and islands that a change keeps -/

/-- What the loader's jobs take from a die: its number and its line of jobs. -/
def Die.jobs (d : Die) : Nat × List LoadJob := (d.id, d.loader)

/-- The loaders of two states hold the same jobs. -/
def SameLoaders (s t : State) : Prop := t.dies.map Die.jobs = s.dies.map Die.jobs

protected theorem SameLoaders.trans {s t u : State} (h : SameLoaders s t) (h' : SameLoaders t u) : SameLoaders s u := Eq.trans h' h

protected theorem SameLoaders.of_map {s t : State} {f : Die → Die} (hd : t.dies = s.dies.map f) (hf : ∀ d, (f d).jobs = d.jobs) : SameLoaders s t := by
  unfold SameLoaders
  rw [hd, List.map_map]
  exact List.map_congr_left fun d _ => hf d

protected theorem SameLoaders.dieAt {s t : State} (h : SameLoaders s t) (n : Nat) : (dieAt t n).map Die.loader = (dieAt s n).map Die.loader := by
  have hfind := congrArg (List.find? fun p => p.1 == n) h
  rw [List.find?_map, List.find?_map] at hfind
  have hsnd := congrArg (Option.map Prod.snd) hfind
  rw [Option.map_map, Option.map_map] at hsnd
  exact hsnd

theorem sameLoaders_emit (s : State) (die src typ cls : Nat) (crew : Option Nat) (bs : List Byte) : SameLoaders s (emit s die src typ cls crew bs) := by
  unfold emit emitAt
  split
  · rfl
  split
  · rfl
  split
  · exact .of_map rfl fun d => by dsimp only; split <;> rfl
  · rfl

theorem sameLoaders_isleRec (s : State) (die code ev refusal : Nat) (title : BitVec 64) : SameLoaders s (isleRec s die code ev refusal title) := by
  unfold isleRec emitDie
  split
  · exact sameLoaders_emit ..
  · rfl

theorem isleRec_isles (s : State) (die code ev refusal : Nat) (title : BitVec 64) : (isleRec s die code ev refusal title).isles = s.isles := by
  unfold isleRec emitDie emit emitAt
  split
  · split
    · rfl
    split
    · rfl
    split <;> rfl
  · rfl

theorem isleAt_isleRec (s : State) (die code ev refusal : Nat) (title : BitVec 64) (n m : Nat) :
    isleAt (isleRec s die code ev refusal title) n m = isleAt s n m := by
  unfold isleAt
  rw [isleRec_isles]

/-- An island changed by its number holds what the change leaves. -/
theorem isleAt_modIsle_self {s : State} {die code : Nat} {f : Isle → Isle} {i : Isle} (hf : ∀ i, (f i).die = i.die ∧ (f i).code = i.code)
    (h : isleAt s die code = some i) : isleAt (modIsle s die code f) die code = some (f i) := by
  have hfind : s.isles.find? (fun i => i.die == die && i.code == code) = some i := h
  have hnamed : (i.die == die && i.code == code) = true := List.find?_some (p := fun i : Isle => i.die == die && i.code == code) hfind
  unfold isleAt modIsle
  rw [find_map_set fun i => if i.die == die && i.code == code then f i else i, hfind]
  · rw [Option.map_some, if_pos hnamed]
  · intro j
    split
    · rw [(hf j).1, (hf j).2]
    · rfl

/-- A switch changes no loader (R221). -/
theorem sameLoaders_switchIsle (s : State) (die code : Nat) : SameLoaders s (switchIsle s die code) := by
  unfold switchIsle
  split
  · rfl
  refine .trans ?_ (sameLoaders_isleRec ..)
  split
  · exact .of_map rfl fun d => by dsimp only; split <;> rfl
  · rfl

/-- An island that switches is as the switch leaves it (R221). -/
theorem isleAt_switchIsle {s : State} {die code : Nat} {i : Isle} (h : isleAt s die code = some i) :
    isleAt (switchIsle s die code) die code = some i.switch := by
  simp only [switchIsle, h, isleAt_isleRec]
  refine isleAt_modIsle_self (fun i => ⟨rfl, rfl⟩) ?_
  split <;> exact h

/-! ### The loader's answer -/

/-- The machine with the loader's answer to a job, and its record (R220). -/
def answerJob (s : State) (j : LoadJob) (r : Nat) (title : BitVec 64) : State :=
  isleRec (modLoader s s.unit fun l =>
    if (match crewAt s j.crew with | some c => !c.ended | none => false) then l.map fun x => if x == j then { x with answer := some r } else x
    else l.filter (· != j)) s.unit j.code (if r = 0 then 0 else 1) r title

/-- An accepted image becomes pending, and takes over at once where no task has the island bound (R221). -/
def acceptImage (s : State) (die code : Nat) (im : Image) : State :=
  let t := modIsle s die code fun i => { i with shadow := some im }
  match isleAt t die code with
  | some i => if i.pasid.isNone then switchIsle t die code else t
  | none => t

theorem next_acceptImage (s : State) (die code : Nat) (im : Image) : (.next (acceptImage s die code im) : Host.Outcome State Fault Refusal) =
    match isleAt (modIsle s die code fun i => { i with shadow := some im }) die code with
    | some i =>
      .next (if i.pasid.isNone then switchIsle (modIsle s die code fun i => { i with shadow := some im }) die code
        else modIsle s die code fun i => { i with shadow := some im })
    | none => .next (modIsle s die code fun i => { i with shadow := some im }) := by
  unfold acceptImage
  dsimp only
  split <;> rfl

/-- The machine with a job's answer, and its image taken where it passes all checks (R220, R221). -/
def takeAnswer (s : State) (j : LoadJob) (r : Nat × Image) : State :=
  if r.1 ≠ 0 then answerJob s j r.1 r.2.title else acceptImage (answerJob s j r.1 r.2.title) s.unit j.code r.2

/-- The loader answers its oldest job (R220, R221). -/
theorem exec_islandImageCheck {s : State} {d : Die} {j : LoadJob} {bs : List Byte} (hd : dieAt s s.unit = some d)
    (hj : d.loader.find? (fun j => j.answer.isNone && jobStands s j) = some j) (hbs : j.image = some bs) :
    exec .islandImageCheck s = .next (takeAnswer s j (checkImage s s.unit j.code bs)) := by
  change execIslandImageCheck s = _
  simp only [execIslandImageCheck, takeAnswer, hd, hj, hbs, Option.bind_some, Option.map_some]
  by_cases hr : (checkImage s s.unit j.code bs).1 = 0
  · rw [if_neg (not_not.mpr hr), if_neg (not_not.mpr hr)]
    exact (next_acceptImage _ s.unit j.code _).symm
  · rw [if_pos hr, if_pos hr]
    rfl

theorem answerJob_isles (s : State) (j : LoadJob) (r : Nat) (title : BitVec 64) : (answerJob s j r title).isles = s.isles := isleRec_isles ..

/-- The job of a crew that has not ended takes the answer (R220). -/
theorem answerJob_loader {s : State} {d : Die} {j : LoadJob} {c : Crew} (r : Nat) (title : BitVec 64) (hd : dieAt s s.unit = some d)
    (hc : crewAt s j.crew = some c) (hlive : c.ended = false) :
    (dieAt (answerJob s j r title) s.unit).map Die.loader = some (d.loader.map fun x => if x == j then { x with answer := some r } else x) := by
  rw [answerJob, (sameLoaders_isleRec ..).dieAt, modLoader, dieAt_modDie_self]
  case h => exact hd
  · simp only [hc, hlive, Bool.not_false, if_true, Option.map_some]
  · exact fun _ => rfl

theorem sameLoaders_acceptImage (s : State) (die code : Nat) (im : Image) : SameLoaders s (acceptImage s die code im) := by
  unfold acceptImage
  dsimp only
  split
  · split
    · exact .trans rfl (sameLoaders_switchIsle _ die code)
    · rfl
  · rfl

section
variable {s : State} {die code : Nat} {im : Image} {i : Isle} (h : isleAt s die code = some i)
include h

theorem isleAt_pending : isleAt (modIsle s die code fun i => { i with shadow := some im }) die code = some { i with shadow := some im } :=
  isleAt_modIsle_self (fun _ => ⟨rfl, rfl⟩) h

/-- On a bound island an accepted image is pending (R221). -/
theorem isleAt_acceptImage_bound (hbound : i.pasid.isSome = true) : isleAt (acceptImage s die code im) die code = some { i with shadow := some im } := by
  have hp : i.pasid.isNone = false := by rw [← Option.not_isSome, hbound]; rfl
  simp only [acceptImage, isleAt_pending h, hp, Bool.false_eq_true, if_false]

/-- On an unbound island an accepted image takes over (R221). -/
theorem isleAt_acceptImage_free (hfree : i.pasid = none) :
    isleAt (acceptImage s die code im) die code = some { i with shadow := some im }.switch := by
  have hp : i.pasid.isNone = true := by rw [hfree]; rfl
  simp only [acceptImage, isleAt_pending h, hp, if_true]
  exact isleAt_switchIsle (isleAt_pending h)

end

section
variable {s : State} {j : LoadJob} {r : Nat × Image}

/-- The job takes the answer, whatever becomes of the image (R220). -/
theorem takeAnswer_loader {d : Die} {c : Crew} (hd : dieAt s s.unit = some d) (hc : crewAt s j.crew = some c) (hlive : c.ended = false) :
    ∃ e, dieAt (takeAnswer s j r) s.unit = some e ∧ e.loader = d.loader.map fun x => if x == j then { x with answer := some r.1 } else x := by
  have hsame : SameLoaders (answerJob s j r.1 r.2.title) (takeAnswer s j r) := by
    unfold takeAnswer
    split
    · rfl
    · exact sameLoaders_acceptImage ..
  exact Option.map_eq_some_iff.mp ((hsame.dieAt s.unit).trans (answerJob_loader r.1 r.2.title hd hc hlive))

/-- A refused image changes no island (R220). -/
theorem takeAnswer_isles_of_refused (hr : r.1 ≠ 0) : (takeAnswer s j r).isles = s.isles := by
  rw [takeAnswer, if_pos hr, answerJob_isles]

/-- An accepted image is pending on a bound island, and has taken over on an unbound one (R221). -/
theorem isleAt_takeAnswer {i : Isle} (hr : r.1 = 0) (hi : isleAt s s.unit j.code = some i) :
    (i.pasid.isSome = true → isleAt (takeAnswer s j r) s.unit j.code = some { i with shadow := some r.2 }) ∧
    (i.pasid = none → isleAt (takeAnswer s j r) s.unit j.code = some { i with shadow := some r.2 }.switch) := by
  have hi' : isleAt (answerJob s j r.1 r.2.title) s.unit j.code = some i := by
    unfold isleAt
    rw [answerJob_isles]
    exact hi
  rw [takeAnswer, if_neg (not_not.mpr hr)]
  exact ⟨isleAt_acceptImage_bound hi', isleAt_acceptImage_free hi'⟩

end

/-! ### ISWAP -/

/-- What ISWAP reads the first time, with its job in the loader's line: after the taint of its operands and what its crew has acquired (R222). -/
def iswapRead (t : State) (u : Ctx) (p : Part) (c : Crew) (a : RCode) (va code : Nat) : ReadOut × Bool :=
  readImage c p.act ((taintClock c ((List.range 3).foldl (fun t i => t ||| (vreg c (a.toNat + i)).taint) 0)).sup c.acq) va
    (modLoader t (dieOfCore c.core) fun l => l.filter (fun j => j.crew != c.id) ++ [⟨c.id, u.pc, code, none, none⟩])

section
variable {d a : RCode} {t : State} {u : Ctx} {p : Part} {c : Crew} {die : Die} (hact : actor u t = some (p, c)) (hdie : dieAt t (dieOfCore c.core) = some die)
include hact hdie

/-- ISWAP gives the loader's answer, once it is there (R222). -/
theorem iswapBody_of_answer {j : LoadJob} {r : Nat} (hj : die.loader.find? (fun j => j.crew == c.id && j.pc == u.pc) = some j) (hr : j.answer = some r) :
    iswapBody d a u t = .done (modCrew (dropJob (dieOfCore c.core) c.id t) c.id (sysResult d p (BitVec.ofNat 32 r))) := by
  simp only [iswapBody, hact, hdie, Option.bind_some, hj, hr]

section
variable {va code : Nat} {h : List Byte} {t1 : State} (hj : die.loader.find? (fun j => j.crew == c.id && j.pc == u.pc) = none)
  (hargs : iswapArgs c a = .ok (va, code))
include hj hargs

/-- An image whose header fails its check gives 1, and its job leaves the loader's line (R222). -/
theorem iswapBody_of_bad_header (hread : iswapRead t u p c a va code = (.bytes h t1, false)) :
    iswapBody d a u t = .done (modCrew (dropJob (dieOfCore c.core) c.id t1) c.id (sysResult d p (BitVec.ofNat 32 1))) := by
  unfold iswapRead at hread
  simp only [iswapBody, hact, hdie, Option.bind_some, hj, Option.bind_none, hargs, hread, Option.isSome_none, Bool.false_eq_true, if_false]

/-- An image read as a whole waits in the loader's line for its answer (R222). -/
theorem iswapBody_of_image (hread : iswapRead t u p c a va code = (.bytes h t1, true)) :
    iswapBody d a u t =
      .hold (modLoader t1 (dieOfCore c.core) fun l => l.map fun j => if j.crew == c.id then { j with image := some h } else j) := by
  unfold iswapRead at hread
  simp only [iswapBody, hact, hdie, Option.bind_some, hj, Option.bind_none, hargs, hread, Option.isSome_none, Bool.false_eq_true, if_false]

end

end

/-- An image whose header fails its check is read no further (R222). -/
theorem readImage_of_bad_header {c : Crew} {act : Mask} {k : Clock} {va : Nat} {s t : State} {h : List Byte}
    (hread : readLines c act k s (linePieces va 64) = .bytes h t) (hbad : headerOk h = false) : readImage c act k va s = (.bytes h t, false) := by
  simp only [readImage, hread, hbad, Bool.not_false, if_true]

/-- Settles O52: each event by its own rule, the operations by the words of Table 10-3, and ISWAP by its body's rules. -/
theorem islandEvents : Obligations.IslandEvents := by
  unfold Obligations.IslandEvents
  refine ⟨?fire, fun ws c n k res err acq => ⟨rfl, srcOf_values ws c n⟩, fun k a b c => ?ops, fun s die isl n i x hi => ⟨?tokens, ?requests⟩,
    fun s t die isl n i im c b => ⟨?fetch, ?store⟩, fun s pk => isleStore_reads, fun s j bs d hd hj hbs => ?check, ?iswap⟩
  case fire =>
    intro s die isl cell k i im c hi him hc hrule hfire harrived hheld
    have hexec := exec_cellFire hi him hc hrule hfire harrived hheld rfl
    exact ⟨fun hop => hexec.trans (if_pos hop), fun hfetch hstore => hexec.trans (if_neg (not_or.mpr ⟨hfetch, hstore⟩))⟩
  case ops =>
    have hlt : cellOp 18 k a b c = if a.slt b then 1 else 0 := congrArg oneIf (ICmp.holds_lt a b)
    exact ⟨rfl, rfl, IOp.word_add a b, IOp.word_sub a b, IOp.word_mul a b, rfl, rfl, rfl, rfl, rfl, rfl, rfl, rfl, rfl, rfl, rfl, rfl, oneIf_eq a b, hlt,
      rfl, rfl, rfl, rfl, rfl, rfl, rfl, rfl, rfl, rfl, rfl, rfl, rfl, rfl, rfl, rfl, rfl, rfl, rfl⟩
  case tokens => exact fun hdue => ⟨fun c q t => exec_tokenDeliver_token hi hdue, fun p t => exec_tokenDeliver_port hi hdue⟩
  case requests =>
    exact fun hdue => ⟨fun c o k => exec_demandCreditArrive hi hdue, fun c o => exec_tokenRequestArrive_cell hi hdue,
      fun p => exec_tokenRequestArrive_port hi hdue⟩
  case fetch => exact fun hb => ⟨exec_islandFetchReturn_fail hb, fun pasid va pk nb => exec_islandFetchReturn_node hb⟩
  case store => exact fun hb => ⟨exec_islandStoreDone_fail hb, fun pasid va pk t1 hacc => exec_islandStoreDone_line hb hacc rfl⟩
  case check =>
    refine ⟨_, exec_islandImageCheck hd hj hbs, fun c => takeAnswer_loader hd, takeAnswer_isles_of_refused, fun i hr hi => ?_⟩
    obtain ⟨hbound, hfree⟩ := isleAt_takeAnswer hr hi
    exact ⟨hbound, fun hpasid => ⟨_, hfree hpasid, rfl, rfl⟩⟩
  case iswap =>
    intro x d a s t u p c die hact hdie hp
    have hissue : exec (.sysIswap x d a) s = .next (conclude u t (iswapBody d a u t)) := issue_point _ hp
    refine ⟨fun j r hj hr => issue_done hp (iswapBody_of_answer hact hdie hj hr), fun va code h t1 hj hargs =>
      ⟨fun hread => issue_done hp (iswapBody_of_bad_header hact hdie hj hargs hread), fun hread => ?_, fun t1 => readImage_of_bad_header⟩⟩
    exact hissue.trans (by rw [iswapBody_of_image hact hdie hj hargs hread]; rfl)

end Sys2Proof.Machine
end

section
/-!
SUPPORT. What an instruction comes to where its body moves the frontier itself or holds the crew, a trap of one participant, and registers put one after another into a
register file.
-/

namespace Sys2Proof.Machine

/-! ### Where an instruction issues -/

section
variable {sp : Spec} {s t t' : State} {x : Ctx} {body : Ctx → State → Res} (h : issuePoint sp s = some (x, t))
include h

/-- The issue of an instruction whose body performs, frontier included. -/
theorem issue_moved (hb : body x t = .moved t') : issue sp body s = .next t' := by
  rw [issue_point body h, hb]
  rfl

/-- The issue of an instruction whose body makes the crew wait as on an interlock (R264). -/
theorem issue_hold (hb : body x t = .hold t') : issue sp body s = .next (holdCrew t' x.crew) := by
  rw [issue_point body h, hb]
  rfl

end

/-! ### A trap of one participant -/

/-- A trap in a privileged context or without a handler is fatal (R321). -/
theorem enterTrap_fatal {s : State} {id : Nat} {c : Crew} {b : Block} (pc : Word) (i : TrapInfo) (hc : crewAt s id = some c) (hb : blockOf s c = some b)
    (hfatal : c.priv = true ∨ b.trapVector = 0xFFFFFFFF) :
    enterTrap s id pc i = endTask (emitLoc s c .fault 5 3 i.code 0 i.pc (wordBytes i.lanes)) b.task 6 i.code := by
  have hcond : (c.priv || b.trapVector == 0xFFFFFFFF) = true := by simpa using hfatal
  simp only [enterTrap, hc, hb, hcond, if_true]

/-- A lone participant with nothing in flight takes the trap at its own instruction (R320, R322). -/
theorem trapAll_alone {u : Ctx} {p : Part} {t t' : State} (code : Nat) (hparts : u.parts = [p]) (hready : trapReady t [p.crew] = (true, t')) :
    ∃ i : TrapInfo, trapAll u t code (·.act) (fun _ => []) = enterTrap t' p.crew u.pc i ∧ i.code = code ∧ i.pc = u.pc ∧ i.lanes = p.act := by
  simp only [trapAll, hparts, List.map_cons, List.map_nil, hready, List.foldl_cons, List.foldl_nil, trapOne]
  exact ⟨_, rfl, rfl, rfl, rfl⟩

/-- A trap whose frame names the next instruction, with nothing in flight (R328). -/
theorem trapNext_ready {p : Part} {t t' : State} (u : Ctx) (code : Nat) (hready : trapReady t [p.crew] = (true, t')) :
    ∃ i : TrapInfo, trapNext u p code t = enterTrap t' p.crew u.pc i ∧ i.code = code ∧ i.pc = u.next ∧ i.lanes = p.act := by
  simp only [trapNext, hready]
  exact ⟨_, rfl, rfl, rfl, rfl⟩

/-! ### Registers put one after another -/

/-- A register file with the `n` registers from `d` up put in order. -/
def putRegs (d : Nat) (v : Nat → Reg) (n : Nat) (rs : List Reg) : List Reg := (List.range n).foldl (fun rs i => rs.set (d + i) (v i)) rs

section
variable (d : Nat) (v : Nat → Reg) (n : Nat) (rs : List Reg)

theorem putRegs_succ : putRegs d v (n + 1) rs = (putRegs d v n rs).set (d + n) (v n) := by
  rw [putRegs, List.range_succ, List.foldl_append]
  rfl

theorem putRegs_length : (putRegs d v n rs).length = rs.length := by
  induction n with
  | zero => rfl
  | succ n ih => rw [putRegs_succ, List.length_set, ih]

theorem putRegs_getD_other (z : Reg) {j : Nat} (h : j < d ∨ d + n ≤ j) : (putRegs d v n rs).getD j z = rs.getD j z := by
  induction n with
  | zero => rfl
  | succ n ih => rw [putRegs_succ, List.getD_eq_getElem?_getD, List.getElem?_set_ne (by omega), ← List.getD_eq_getElem?_getD, ih (by omega)]

theorem putRegs_getD (z : Reg) {i : Nat} (hi : i < n) (hl : d + n ≤ rs.length) : (putRegs d v n rs).getD (d + i) z = v i := by
  induction n with
  | zero => exact absurd hi i.not_lt_zero
  | succ n ih =>
    rw [putRegs_succ, List.getD_eq_getElem?_getD]
    rcases Nat.lt_succ_iff_lt_or_eq.mp hi with hlt | rfl
    · rw [List.getElem?_set_ne (by omega), ← List.getD_eq_getElem?_getD, ih hlt (by omega)]
    · rw [List.getElem?_set_self (by rw [putRegs_length]; omega), Option.getD_some]

end

end Sys2Proof.Machine
end

section
/-! PROOF of O16, SoftwareTraps: TRAP and SYSC where they issue, and what a trap of a lone participant is taken with. -/

namespace Sys2Proof.Machine

theorem exec_sysTrap {x : Pfx} {n : BitVec 6} {s t : State} {u : Ctx} (hact : (actor u t).isSome = true)
    (h : issuePoint { i := .sysTrap x n } s = some (u, t)) : exec (.sysTrap x n) s = .next (trapAll u t (0x40 + n.toNat) (·.act) fun _ => []) :=
  issue_trapped h (if_neg (by simpa [Option.isSome_iff_ne_none] using hact))

theorem exec_sysSysc {x : Pfx} {n : BitVec 6} {s t : State} {u : Ctx} {p : Part} {c : Crew} (hact : actor u t = some (p, c))
    (h : issuePoint { i := .sysSysc x n } s = some (u, t)) : exec (.sysSysc x n) s = .next (trapNext u p (0x80 + n.toNat) t) :=
  issue_moved h (by simp only [hact])

/-- Settles O16: both instructions by their bodies, trap entry by what it is given, and a trap in a privileged context is fatal. -/
theorem softwareTraps : Obligations.SoftwareTraps := by
  unfold Obligations.SoftwareTraps
  exact ⟨fun x n s t u hact => ⟨exec_sysTrap hact, fun p c => exec_sysSysc⟩,
    fun u p t t' code hparts hready => ⟨trapAll_alone code hparts hready, trapNext_ready u code hready⟩,
    fun s id pc i c b hc hb hpriv => enterTrap_fatal pc i hc hb (.inl hpriv)⟩

end Sys2Proof.Machine
end

section
/-! PROOF of O17, TrapEntry: what each answer of the check of TRAP_VECTOR comes to, and the crew as its handler finds it. -/

namespace Sys2Proof.Machine

/-! ### The check of TRAP_VECTOR -/

theorem not_fatal {c : Crew} {b : Block} (hpriv : c.priv = false) (hvec : b.trapVector ≠ 0xFFFFFFFF) :
    ¬(c.priv || b.trapVector == 0xFFFFFFFF) = true := by
  rw [hpriv, Bool.false_or, beq_iff_eq]
  exact hvec

section
variable {s : State} {id : Nat} {c : Crew} {b : Block} (pc : Word) (i : TrapInfo) (hc : crewAt s id = some c) (hb : blockOf s c = some b)
  (hpriv : c.priv = false) (hvec : b.trapVector ≠ 0xFFFFFFFF)
include hc hb hpriv hvec

theorem enterTrap_valid {s1 s2 : State} (hcheck : vectorCheck s c b.trapVector = (.valid, s1))
    (hpoke : pokeVa s1 c.core (pasidOf s1 c) true (shiftAddrs (frameVa s1 c) (frameBytes c pc i)) = some s2) :
    enterTrap s id pc i =
      powerRows (dropRejects (setCrew (emitLoc s2 c .fault 5 3 i.code 0 i.pc (wordBytes i.lanes)) (handlerCrew s2 c i)) c.id) c.core c.slot 48 60 := by
  simp only [enterTrap, hc, hb, if_neg (not_fatal hpriv hvec), hcheck, hpoke]

theorem enterTrap_invalid {s1 : State} (hcheck : vectorCheck s c b.trapVector = (.invalid, s1)) :
    enterTrap s id pc i = endTask (emitLoc s1 c .fault 5 3 i.code 0 i.pc (wordBytes i.lanes)) b.task 6 i.code := by
  simp only [enterTrap, hc, hb, if_neg (not_fatal hpriv hvec), hcheck]

theorem enterTrap_fault {s1 : State} (hcheck : vectorCheck s c b.trapVector = (.fault, s1)) : enterTrap s id pc i = vectorFault s1 c b.trapVector := by
  simp only [enterTrap, hc, hb, if_neg (not_fatal hpriv hvec), hcheck]

end

/-! ### The crew in its handler -/

/-- Register 48 + `i` at the start of a handler (R322). -/
def handlerReg (t : TrapInfo) (i : Nat) : Reg := if i = 0 then uReg .i32 (BitVec.ofNat 32 t.cause) else if i = 1 then uReg .i32 t.pc else Reg.zero

theorem handlerCrew_regs (s : State) (c : Crew) (t : TrapInfo) : (handlerCrew s c t).regs = putRegs 48 (handlerReg t) 12 c.regs := rfl

theorem vreg_handlerCrew {c : Crew} (s : State) (t : TrapInfo) {i : Nat} (hl : c.regs.length = 60) (hi : i < 12) :
    vreg (handlerCrew s c t) (48 + i) = handlerReg t i := by
  rw [vreg, handlerCrew_regs, putRegs_getD 48 (handlerReg t) 12 c.regs _ hi (by omega)]

theorem vreg_handlerCrew_low (s : State) (c : Crew) (t : TrapInfo) {n : Nat} (hn : n < 48) : vreg (handlerCrew s c t) n = vreg c n := by
  rw [vreg, handlerCrew_regs, putRegs_getD_other _ _ _ _ _ (.inl hn), vreg]

theorem recAt_handlerCrew_low (s : State) (c : Crew) (t : TrapInfo) {n : Nat} (hn : n < 15) : recAt (handlerCrew s c t) n = recAt c n := by
  simp [recAt, handlerCrew, List.getElem?_set_ne (Nat.ne_of_gt hn)]

theorem recAt_handlerCrew_frame {c : Crew} (s : State) (t : TrapInfo) (hl : 15 < c.recs.length) :
    recAt (handlerCrew s c t) 15 = ⟨frameRecord (frameVa s c), 0⟩ := by
  simp [recAt, handlerCrew, hl]

/-- Settles O17: trap entry by the check of TRAP_VECTOR, and the handler's crew field by field. -/
theorem trapEntry : Obligations.TrapEntry := by
  unfold Obligations.TrapEntry
  refine ⟨fun s s1 s2 id pc i c b hc hb hpriv hvec => enterTrap_valid pc i hc hb hpriv hvec, fun s id pc i c b hc hb => enterTrap_fatal pc i hc hb,
    fun s s1 id pc i c b hc hb hpriv hvec => ⟨enterTrap_invalid pc i hc hb hpriv hvec, enterTrap_fault pc i hc hb hpriv hvec⟩, ?crew⟩
  case crew =>
    intro s c b i hb hl h
    have hentries : h.entries = [⟨b.trapVector, 15, c.live &&& ~~~stackedLanes s c, none, false, 0, 0⟩] := by simp only [h, handlerCrew, hb]
    have hzero : ∀ n, 50 ≤ n → n < 60 → vreg h n = Reg.zero := fun n hlo hhi => by
      obtain ⟨k, rfl⟩ := Nat.exists_eq_add_of_le (show 48 ≤ n by omega)
      rw [vreg_handlerCrew s i hl (by omega), handlerReg, if_neg (by omega), if_neg (by omega)]
    exact ⟨hentries, rfl, vreg_handlerCrew s i (i := 0) hl (by decide), vreg_handlerCrew s i (i := 1) hl (by decide), hzero,
      fun n => vreg_handlerCrew_low s c i, rfl, rfl, fun n => recAt_handlerCrew_low s c i, rfl, rfl, rfl, rfl, rfl, recAt_handlerCrew_frame s i, rfl, rfl, rfl⟩

end Sys2Proof.Machine
end

section
/-! SUPPORT. The order of clocks, and the lanes of a list of entries. -/

namespace Sys2Proof.Machine

/-! ### Clocks -/

theorem covers_iff {a b : Clock} : a.covers b = true ↔ b.d0 ≤ a.d0 ∧ b.d1 ≤ a.d1 ∧ b.host ≤ a.host := by
  simp [Clock.covers, and_assoc]

theorem covers_refl (a : Clock) : a.covers a = true := covers_iff.mpr ⟨le_rfl, le_rfl, le_rfl⟩

theorem covers_trans {a b c : Clock} (hab : a.covers b = true) (hbc : b.covers c = true) : a.covers c = true := by
  rw [covers_iff] at *
  omega

theorem covers_sup_left (a b : Clock) : (a.sup b).covers a = true := covers_iff.mpr ⟨le_max_left .., le_max_left .., le_max_left ..⟩

theorem covers_sup_right (a b : Clock) : (a.sup b).covers b = true := covers_iff.mpr ⟨le_max_right .., le_max_right .., le_max_right ..⟩

section
variable {α : Type} {f : Clock → α → Clock} (hf : ∀ k a, (f k a).covers k = true)
include hf

/-- A clock that only grows along a list covers the one that it starts from. -/
theorem covers_foldl_start (l : List α) (k : Clock) : (l.foldl f k).covers k = true :=
  foldl_keeps (P := fun r : Clock => r.covers k = true) (covers_refl k) fun r a h => covers_trans (hf r a) h

/-- What an element of the list brings stays covered. -/
theorem covers_foldl_of_mem {l : List α} {a : α} {w : Clock} (ha : a ∈ l) (hw : ∀ k, (f k a).covers w = true) (k : Clock) :
    (l.foldl f k).covers w = true := by
  obtain ⟨l1, l2, rfl⟩ := List.append_of_mem ha
  rw [List.foldl_append, List.foldl_cons]
  exact covers_trans (covers_foldl_start hf l2 _) (hw _)

end

/-! ### Lanes of several entries -/

/-- A lane of a union of entries is one of an entry. -/
theorem laneIn_foldl_mask (l : Nat) : ∀ (es : List Entry) (m : Mask),
    laneIn (es.foldl (fun m e => m ||| e.mask) m) l = true ↔ laneIn m l = true ∨ ∃ e ∈ es, laneIn e.mask l = true
  | [], m => by simp
  | e :: es, m => by
    have hor : laneIn (m ||| e.mask) l = (laneIn m l || laneIn e.mask l) := BitVec.getLsbD_or
    simp only [List.foldl_cons, laneIn_foldl_mask l es, hor, Bool.or_eq_true, List.exists_mem_cons_iff, or_assoc]

theorem laneIn_stackedLanes {s : State} {c : Crew} {l : Nat} : laneIn (stackedLanes s c) l = true ↔ ∃ r ∈ stackRecs s c, laneIn r.mask l = true := by
  have hnone : ¬laneIn (0 : Mask) l = true := by simp [laneIn]
  rw [stackedLanes, laneIn_foldl_mask, or_iff_right hnone]

end Sys2Proof.Machine
end

section
/-! PROOF of O18, TrapReturn: RTT up to its check, the state that a frame gives, the crew that a frame restores, and what the check tells of the frame. -/

namespace Sys2Proof.Machine

/-! ### RTT with its frame read -/

/-- What RTT comes to with its frame read: the check, the room for its entries, and the release of a crew that holds a section (R270, R287, R329). -/
def rttRead (pc : Word) (c : Crew) (b : Block) (f : Frame) (s : State) : Res :=
  if frameOk s c f = false then .moved (endTask (emitLoc s c .fault 5 3 trapOperand 0 pc (wordBytes c.live)) b.task 6 trapOperand)
  else if rttFits s c f = false then .stall s
  else if sectMask c = 0 then .moved (rttGo s c f)
  else match releaseNow s c 1 with
    | (true, t) => .moved (rttGo t c f)
    | (false, t) => .hold t

section
variable {t t1 t2 : State} {u : Ctx} {c : Crew} {b : Block} {bs : List Byte} (hc : crewAt t u.crew = some c) (hidle : flightsOf t c.id = [])
  (hlog : ∀ e, c.log = some e → e.priv = false)
  (hpages : pagesReady t (.wait c.id) c.core (pasidOf t c) true [(frameVa t c, .read), (frameVa t c + 4095, .read)] = (true, t1))
  (hb : blockOf t1 c = some b) (hread : peekVa t1 c.core (pasidOf t1 c) true (frameVa t c) 4096 = some (bs, t2))
include hc hidle hlog hpages hb hread

theorem rttBody_of_frame : rttBody u t = rttRead u.pc c b (frameOf bs) t2 := by
  unfold rttBody rttRead
  simp only [hc, hidle, List.isEmpty_nil, Bool.not_true, Bool.false_or, hpages, hb, hread]
  refine (if_neg ?quiet).trans ?checked
  case quiet =>
    cases hcl : c.log with
    | none => exact Bool.false_ne_true
    | some e => exact Bool.eq_false_iff.mp (hlog e hcl)
  case checked =>
    cases frameOk t2 c (frameOf bs) with
    | false => rfl
    | true =>
      cases rttFits t2 c (frameOf bs) with
      | false => rfl
      | true =>
        by_cases hsect : sectMask c = 0
        · rcases releaseNow t2 c 1 with ⟨_ | _, t3⟩ <;> simp only [if_pos hsect, Bool.not_true, Bool.true_eq_false, Bool.false_eq_true, if_false]
        · rcases releaseNow t2 c 1 with ⟨_ | _, t3⟩ <;> simp only [if_neg hsect, Bool.not_true, Bool.true_eq_false, Bool.false_eq_true, if_false]

end

/-! ### The state that a frame gives -/

/-- The machine after the lanes `gone` have left a crew restored, their sections ended (R283, R329). -/
def rttLeft (s : State) (c : Crew) (f : Frame) (gone : Mask) : State :=
  if gone = 0 then setCrew s (f.restore c)
  else exitLanes (if sectMask c &&& gone = 0 then setCrew s (f.restore c) else closeSections (setCrew s (f.restore c)) c (sectMask c &&& gone)) c.id gone

/-- Live lanes in no entry of the frame and no stacked record. -/
def rttGone (s : State) (c : Crew) (f : Frame) : Mask := c.live &&& ~~~f.entries.foldl (fun m e => m ||| e.mask) (stackedLanes s c)

theorem rttGo_of_refill {s t : State} {c : Crew} {f : Frame} (h : refill (rttLeft s c f (rttGone s c f)) c.id f.nent = .ok t) : rttGo s c f = t := by
  unfold rttLeft rttGone at h
  simp only [rttGo]
  by_cases hgone : c.live &&& ~~~f.entries.foldl (fun m e => m ||| e.mask) (stackedLanes s c) = 0
  · have hsect : sectMask c &&& (c.live &&& ~~~f.entries.foldl (fun m e => m ||| e.mask) (stackedLanes s c)) = 0 := by simp [hgone]
    rw [if_pos hgone] at h
    simp only [if_pos hsect, if_pos hgone, h]
  · rw [if_neg hgone] at h
    simp only [if_neg hgone, h]

/-! ### The crew that a frame restores -/

/-- The folds of RTT change the floor clock and taints alone (R129, R325). -/
theorem foldNew_frame (c : Crew) :
    foldNew c = { c with floor := (foldNew c).floor, regs := (foldNew c).regs, latch := (foldNew c).latch, recs := (foldNew c).recs } :=
  foldl_keeps (P := fun d : Crew => d = { c with floor := d.floor, regs := d.regs, latch := d.latch, recs := d.recs }) rfl fun d k h => by
    split
    · rw [foldSlot, h]
    · exact h

theorem foldNew_lengths (c : Crew) : (foldNew c).regs.length = c.regs.length ∧ (foldNew c).recs.length = c.recs.length :=
  foldl_keeps (P := fun d : Crew => d.regs.length = c.regs.length ∧ d.recs.length = c.recs.length) ⟨rfl, rfl⟩ fun d k h => by
    split
    · simpa [foldSlot] using h
    · exact h

theorem foldNew_floor_covers (c : Crew) : (foldNew c).floor.covers c.floor = true :=
  foldl_keeps (P := fun d : Crew => d.floor.covers c.floor = true) (covers_refl _) fun d k h => by
    split
    · exact covers_trans (covers_sup_left ..) h
    · exact h

/-- A taint of the frame after the folds made for a crew depends on the slots that it gave up (R323). -/
theorem frameTaint_foldNew (c : Crew) (t : BitVec 9) : frameTaint (foldNew c) t = frameTaint c t := by
  rw [foldNew_frame]
  rfl

theorem frameTaint_of_none_folded {c : Crew} (h : c.folded = 0) (t : BitVec 9) : frameTaint c t = t :=
  foldl_keeps (P := fun r : BitVec 9 => r = t) rfl fun r k hr => by simp [h, hr]

/-- A register of the frame as RTT restores it (R323). -/
def frameReg (c : Crew) (h : Option Reg) : Reg := { h.getD Reg.zero with taint := frameTaint c (h.getD Reg.zero).taint }

theorem restore_regs {f : Frame} (c : Crew) (hf : f.regs.length = 12) :
    (f.restore c).regs = putRegs 48 (fun i => frameReg c (f.regs.getD i none)) 12 (foldNew c).regs := by
  rw [Frame.restore]
  simp only [zipIdx_eq_map_range f.regs none, hf, List.foldl_map]
  rfl

/-- What RTT leaves of the crew as it was (R329). -/
theorem restore_keeps (f : Frame) (c : Crew) :
    (f.restore c).id = c.id ∧ (f.restore c).live = c.live ∧ (f.restore c).nrec = c.nrec ∧ (f.restore c).sect = c.sect := by
  simp only [Frame.restore]
  rw [foldNew_frame]
  exact ⟨rfl, rfl, rfl, rfl⟩

theorem vreg_restore {f : Frame} {c : Crew} (hf : f.regs.length = 12) (hc : c.regs.length = 60) {i : Nat} (hi : i < 12) :
    vreg (f.restore c) (48 + i) = frameReg c (f.regs.getD i none) := by
  have hlen : 48 + 12 ≤ (foldNew c).regs.length := by rw [(foldNew_lengths c).1, hc]
  rw [vreg, restore_regs c hf, putRegs_getD _ _ _ _ _ hi hlen]

theorem recAt_restore {f : Frame} {c : Crew} (hc : c.recs.length = 16) :
    recAt (f.restore c) 15 = ⟨f.m15, frameTaint c (BitVec.ofNat 9 (f.taint / 64))⟩ := by
  have hlen : 15 < (foldNew c).recs.length := by rw [(foldNew_lengths c).2, hc]; decide
  simp [recAt, Frame.restore, hlen, frameTaint_foldNew]

theorem slots_restore {f : Frame} (c : Crew) {k : Nat} {h : LSlot} (hk : f.slots[k]? = some h) : (f.restore c).slots[k]? = some (frameSlot c k h) := by
  simp [Frame.restore, hk]

theorem frameSlot_of_returned (c : Crew) (k : Nat) {h : LSlot} (hp : h.pending = false) : frameSlot c k h = h := by
  simp [frameSlot, hp]

theorem lvalid_restore (f : Frame) (c : Crew) {k : Nat} (hk : k < 3) : (f.restore c).lvalid.getD k false = decide (f.ent / 2 ^ (4 + k) % 2 = 1) := by
  simp [Frame.restore, hk]
  rfl

theorem entries_restore {f : Frame} (c : Crew) {e : Entry} {es : List Entry} (h : f.entries = e :: es) :
    (f.restore c).entries = mergeAll ({ e with pc := f.pc } :: es) := by
  simp only [Frame.restore, Frame.paths, h]

/-! ### The check -/

/-- What the check of a frame tells of its entries and registers (R329, log entry 21). -/
theorem frameOk_entries {s : State} {c : Crew} {f : Frame} (h : frameOk s c f = true) : 1 ≤ f.nent ∧ f.nent ≤ 8 ∧
    (∀ e ∈ f.entries, e.mask &&& ~~~c.live = 0) ∧ ∀ r ∈ f.regs ++ f.latches, r.isSome = true := by
  simp only [frameOk, Bool.and_eq_true, decide_eq_true_eq, List.all_eq_true, beq_iff_eq] at h
  obtain ⟨⟨⟨⟨⟨⟨⟨⟨⟨⟨⟨⟨⟨hlo, hhi⟩, -⟩, hmask⟩, -⟩, -⟩, -⟩, -⟩, -⟩, -⟩, -⟩, -⟩, hlatch⟩, hregs⟩ := h
  exact ⟨hlo, hhi, hmask, fun r hr => (List.mem_append.mp hr).elim (hregs r) (hlatch r)⟩

/-- Settles O18: RTT by its body, the state by what comes in for freed entries, the crew field by field, and the check by its parts. -/
theorem trapReturn : Obligations.TrapReturn := by
  unfold Obligations.TrapReturn
  refine ⟨?body, ?state, ?crew, fun s c f => frameOk_entries⟩
  case body =>
    intro x s t t1 t2 u c b bs h hc hidle hlog hpages hb hread
    have hbody := rttBody_of_frame hc hidle hlog hpages hb hread
    exact ⟨fun hok hfits => ⟨fun hsect => issue_moved h (by simp [hbody, rttRead, hok, hfits, hsect]),
        fun t3 hsect hrelease => issue_moved h (by simp only [hbody, rttRead, hok, hfits, Bool.true_eq_false, if_false, if_neg hsect, hrelease])⟩,
      fun hbad => issue_moved h (by simp [hbody, rttRead, hbad])⟩
  case state =>
    intro s c f hc kept gone base out
    refine ⟨fun l _ => ?_, fun t => rttGo_of_refill, fun hgone hflat => ?_⟩
    · rw [laneIn_foldl_mask, laneIn_stackedLanes, or_comm]
    · obtain ⟨hid, -, hnrec, -⟩ := restore_keeps f c
      have hat : crewAt (setCrew s (f.restore c)) c.id = some (f.restore c) := by
        rw [← hid] at hc ⊢
        exact crewAt_setCrew_self hc
      have hout : rttLeft s c f (rttGone s c f) = setCrew s (f.restore c) := if_pos hgone
      have hgo : rttGo s c f = setCrew s (f.restore c) := rttGo_of_refill (by rw [hout, refill_flat hat (hnrec.trans hflat)])
      exact ⟨hgo, by rw [hgo, hat]⟩
  case crew =>
    intro f c hregs hcregs hcrecs r held
    obtain ⟨-, hlive, hnrec, hsect⟩ := restore_keeps f c
    exact ⟨rfl, hlive, hnrec, hsect, fun i => vreg_restore hregs hcregs, rfl, fun k => lvalid_restore f c, rfl, recAt_restore hcrecs,
      fun k h hk => ⟨slots_restore c hk, frameSlot_of_returned c k⟩, covers_sup_left .., covers_trans (covers_sup_right ..) (foldNew_floor_covers c),
      fun e es => entries_restore c, fun h k => frameTaint_of_none_folded h k⟩

end Sys2Proof.Machine
end

section
/-! SUPPORT. Where the entries of a crew go: transfers that the frontiers can take, and what merging leaves at an address. -/

namespace Sys2Proof.Machine

/-! ### Transfers -/

section
variable {x : Ctx} {f : Part → Crew → Entry → Bool × List Entry} {s t : State}

theorem leaveAll_alone (x : Ctx) (f : Part → Crew → Entry → Bool × List Entry) (p : Part) (s : State) : leaveAll x f [p] s = leaveBy x f p s := by
  simp only [leaveAll]
  cases leaveBy x f p s <;> rfl

/-- A transfer that every frontier can take (R265). -/
theorem transfer_of_leaveAll (after : State → State) (h : leaveAll x f x.parts s = .ok t) : transfer x s f after = .moved (after t) := by
  simp only [transfer, h]

section
variable {p : Part} {c : Crew} {e q : Entry} (hc : crewAt s p.crew = some c) (hflat : c.nrec = 0) (he : entryAt c x.pc = some e)
include hc hflat he

/-- The one path of an entry whose crew has no stacked record: nothing comes in, and no entry goes to the stack (R265, R266). -/
theorem leaveBy_flat {swap : Bool} (hf : f p c (countIssue (quantumOf s c.core) (c.entries.filter fun y => y.pc != x.pc) e) = (swap, [q]))
    (hq : q.mask ≠ 0) :
    leaveBy x f p s = .ok (setCrew s { c with entries := mergeAll (addEntry ((c.entries.filter fun y => y.pc != x.pc).map otherIssued) q) }) := by
  have hat : crewAt (setCrew s { c with entries := mergeAll (addEntry ((c.entries.filter fun y => y.pc != x.pc).map otherIssued) q) }) c.id =
      some { c with entries := mergeAll (addEntry ((c.entries.filter fun y => y.pc != x.pc).map otherIssued) q) } :=
    crewAt_setCrew_self (c := c) ((crewAt_id hc).symm ▸ hc)
  have hlane : [q].filter (fun r => r.mask != 0) = [q] := List.filter_eq_self.mpr (by simpa using hq)
  have hgo : goOn s c.id x.pc swap [q] = .ok (setCrew s { c with entries := mergeAll (addEntry ((c.entries.filter fun y => y.pc != x.pc).map otherIssued) q) }) := by
    unfold goOn
    cases swap <;> simp only [(crewAt_id hc).symm ▸ hc, hlane, place, List.isEmpty_nil, if_true, Bool.false_eq_true, if_false, refill_flat hat hflat]
  simp only [leaveBy, hc, issuing, he, Option.map_some, hf, hgo, List.head?_cons, rotateDemoted_flat hat hflat]

end

end

/-! ### What merging leaves -/

/-- Some entry at the address has the lane. -/
def HasLane (es : List Entry) (pc : Word) (l : Nat) : Prop := ∃ e ∈ es, e.pc = pc ∧ laneIn e.mask l = true

theorem laneIn_mergeTwo (a b : Entry) (l : Nat) : laneIn (mergeTwo a b).mask l = (laneIn a.mask l || laneIn b.mask l) := BitVec.getLsbD_or

/-- An entry added is there, merged or not (R266). -/
theorem hasLane_addEntry_self {es : List Entry} {e : Entry} {l : Nat} (hl : laneIn e.mask l = true) : HasLane (addEntry es e) e.pc l := by
  unfold addEntry
  split
  next hany =>
    obtain ⟨x, hx, hpc⟩ := List.any_eq_true.mp hany
    refine ⟨mergeTwo x e, List.mem_map.mpr ⟨x, hx, if_pos hpc⟩, eq_of_beq hpc, ?_⟩
    rw [laneIn_mergeTwo, hl, Bool.or_true]
  next => exact ⟨e, by simp, rfl, hl⟩

/-- The entries that stood before keep their lanes (R266). -/
theorem HasLane.addEntry {es : List Entry} {pc : Word} {l : Nat} (h : HasLane es pc l) (e : Entry) : HasLane (addEntry es e) pc l := by
  obtain ⟨x, hx, hpc, hl⟩ := h
  unfold Machine.addEntry
  split
  · refine ⟨_, List.mem_map.mpr ⟨x, hx, rfl⟩, ?_⟩
    split
    · exact ⟨hpc, by rw [laneIn_mergeTwo, hl, Bool.true_or]⟩
    · exact ⟨hpc, hl⟩
  · exact ⟨x, List.mem_append_left _ hx, hpc, hl⟩

theorem hasLane_foldl_addEntry {pc : Word} {l : Nat} : ∀ {es acc : List Entry}, HasLane acc pc l ∨ HasLane es pc l → HasLane (es.foldl addEntry acc) pc l
  | [], _, h => h.resolve_right fun ⟨_, hx, _⟩ => List.not_mem_nil hx
  | e :: es, acc, h => by
    refine hasLane_foldl_addEntry (es := es) ?_
    rcases h with h | ⟨x, hx, hpc, hl⟩
    · exact .inl (h.addEntry e)
    · rcases List.mem_cons.mp hx with rfl | hx
      · exact .inl (hpc ▸ hasLane_addEntry_self hl)
      · exact .inr ⟨x, hx, hpc, hl⟩

theorem HasLane.mergeAll {es : List Entry} {pc : Word} {l : Nat} (h : HasLane es pc l) : HasLane (mergeAll es) pc l := by
  obtain ⟨x, hx, hpc, hl⟩ := h
  exact hasLane_foldl_addEntry (.inr ⟨x, List.mem_filter.mpr ⟨hx, by simpa using ne_zero_of_laneIn hl⟩, hpc, hl⟩)

/-- Merging leaves one entry for each address (R266). -/
theorem nodup_addEntry {es : List Entry} (h : (es.map (·.pc)).Nodup) (e : Entry) : ((addEntry es e).map (·.pc)).Nodup := by
  unfold addEntry
  split
  · have hpcs : (es.map fun x => if x.pc == e.pc then mergeTwo x e else x).map (·.pc) = es.map (·.pc) := by
      rw [List.map_map]
      exact List.map_congr_left fun x _ => by
        change (if x.pc == e.pc then mergeTwo x e else x).pc = x.pc
        split <;> rfl
    rwa [hpcs]
  next hany =>
    rw [List.map_append, List.map_singleton]
    refine h.append (List.nodup_singleton _) (List.disjoint_singleton.mpr fun hmem => hany ?_)
    obtain ⟨x, hx, hpc⟩ := List.mem_map.mp hmem
    exact List.any_eq_true.mpr ⟨x, hx, beq_iff_eq.mpr hpc⟩

theorem nodup_mergeAll (es : List Entry) : ((mergeAll es).map (·.pc)).Nodup := by
  unfold mergeAll
  exact foldl_keeps (P := fun r : List Entry => (r.map (·.pc)).Nodup) (b := []) List.nodup_nil fun _ e h => nodup_addEntry h e

/-- The entry that merging leaves at an address has every lane that any entry had there (R266). -/
theorem entryAt_mergeAll {c : Crew} {es : List Entry} {pc : Word} {m : Mask} (hc : c.entries = mergeAll es) (hm : m ≠ 0)
    (h : ∀ l < 32, laneIn m l = true → HasLane es pc l) : ∃ e, entryAt c pc = some e ∧ m &&& ~~~e.mask = 0 := by
  obtain ⟨l, hl, hml⟩ := ne_zero_iff_laneIn.mp hm
  obtain ⟨x, hx, hpc, -⟩ := (h l hl hml).mergeAll
  obtain ⟨e, he⟩ := Option.isSome_iff_exists.mp (List.find?_isSome (p := fun e => e.pc == pc) |>.mpr ⟨x, hx, beq_iff_eq.mpr hpc⟩)
  have hat : entryAt c pc = some e := by rw [entryAt, hc, he]
  have hepc : e.pc = pc := by simpa using List.find?_some he
  refine ⟨e, hat, mask_ext fun j hj => ?_⟩
  have hnot : laneIn (~~~e.mask) j = !laneIn e.mask j := by simp [laneIn, hj]
  have hzero : laneIn (0 : Mask) j = false := BitVec.getLsbD_zero ..
  rw [laneIn_and, hnot, hzero]
  cases hmj : laneIn m j with
  | false => rfl
  | true =>
    obtain ⟨y, hy, hypc, hyl⟩ := (h j hj hmj).mergeAll
    have heq : y = e := List.inj_on_of_nodup_map (nodup_mergeAll es) hy (List.mem_of_find?_eq_some he) (hypc.trans hepc.symm)
    rw [← heq, hyl]
    rfl

end Sys2Proof.Machine
end

section
/-! PROOF of O23, Branches: the paths of a direct transfer, a branch of a lone crew with every lane taken, and the links of CALL. -/

namespace Sys2Proof.Machine

/-! ### The paths of a direct transfer -/

theorem branchPaths_all (e : Entry) (next target : Word) (n : Nat) : branchPaths e e.mask next target n = [{ e.to target with prio := n }] :=
  if_pos (BitVec.and_not_self _)

theorem branchPaths_none {e : Entry} (next target : Word) (n : Nat) (h : e.mask ≠ 0) : branchPaths e 0 next target n = [e.to next] := by
  have hrest : e.mask &&& ~~~(0 : Mask) ≠ 0 := by rwa [show ~~~(0 : Mask) = BitVec.allOnes 32 from rfl, BitVec.and_allOnes]
  simp only [branchPaths, if_neg hrest, if_true]

theorem branchPaths_some {e : Entry} {act : Mask} (next target : Word) (n : Nat) (hact : act ≠ 0) (hrest : e.mask &&& ~~~act ≠ 0) :
    branchPaths e act next target n = [{ e.to next with mask := e.mask &&& ~~~act }, Entry.fresh target n act] := by
  simp only [branchPaths, if_neg hrest, if_neg hact]

/-! ### BRA of a lone crew -/

/-- BRA where a lone crew without stacked records takes it with every lane (R265, R281). -/
theorem exec_bra_all {x : Pfx} {off : BitVec 14} {tt : BitVec 4} {s t : State} {u : Ctx} {p : Part} {c : Crew} {e : Entry}
    (h : Alone { i := .bra x off tt } s u p c t) (hflat : c.nrec = 0) (he : entryAt c u.pc = some e) (hm : e.mask ≠ 0) (hact : p.act = e.mask) :
    exec (.bra x off tt) s = .next (setCrew t { c with entries := mergeAll (addEntry ((c.entries.filter fun y => y.pc != u.pc).map otherIssued)
      { (countIssue (quantumOf t c.core) (c.entries.filter fun y => y.pc != u.pc) e).to (branchTarget u.pc off.toInt) with prio := tt.toNat }) }) := by
  obtain ⟨hp, hparts, hc⟩ := h
  refine issue_moved hp (transfer_of_leaveAll id ?_)
  rw [hparts, leaveAll_alone]
  refine leaveBy_flat hc hflat he (congrArg (Prod.mk true) ?_) ((countIssue_mask ..).trans_ne hm)
  rw [hact, ← countIssue_mask (quantumOf t c.core) (c.entries.filter fun y => y.pc != u.pc) e, branchPaths_all]

/-! ### The links of CALL -/

theorem crewAt_writeLinks {u : Ctx} {p : Part} {t : State} {c : Crew} (hparts : u.parts = [p]) (hact : p.act ≠ 0) (hc : crewAt t p.crew = some c) :
    crewAt (writeLinks u t) p.crew = some (writeVd c 59 (uReg .i32 u.next) p.act p.full) := by
  simp only [writeLinks, hparts, List.foldl_cons, List.foldl_nil, if_neg hact]
  exact crewAt_modCrew_self (fun d => by rw [writeVd_frame]) hc

theorem uReg_at (f : Fmt) (w : Word) {l : Nat} (hl : l < 32) : (uReg f w).at l = w := List.getD_replicate w hl

/-- A uniform register written: the value in the lanes of act, or in all when the write is full (R125). -/
theorem regWrite_uReg_at (old : Reg) (f : Fmt) (w : Word) {act : Mask} (full : Bool) (hact : act ≠ 0) {l : Nat} (hl : l < 32) :
    (regWrite old (uReg f w) act full).at l = if laneIn act l = true ∨ full = true then w else old.at l := by
  rw [regWrite, if_neg hact]
  refine (newLanes_at old (uReg f w) act full hl).trans ?_
  cases full <;> simp [uReg_at _ _ hl, uReg_at _ _ (firstLane_lt act), show (uReg f w).shape = .u from rfl]

/-- Settles O23: each branch is a transfer, by its paths; the links are a write of v59. -/
theorem branches : Obligations.Branches := by
  unfold Obligations.Branches
  refine ⟨?transfers, ?paths, fun x off tt s t u p c e h hflat he hm hact => exec_bra_all h hflat he hm hact, ?links⟩
  case transfers =>
    intro x tt s t t1 u
    exact ⟨fun off h hleave => issue_moved h (transfer_of_leaveAll id hleave), fun off h hleave => issue_moved h (transfer_of_leaveAll id hleave),
      fun off h hleave => issue_moved h (transfer_of_leaveAll (writeLinks u) hleave)⟩
  case paths =>
    intro e act next target n
    exact ⟨fun hall => hall ▸ branchPaths_all e next target n, fun hm hnone => hnone ▸ branchPaths_none next target n hm, branchPaths_some next target n⟩
  case links =>
    intro u p t c hparts hact hc hl
    obtain ⟨hfmt, htaint, hshape⟩ := regWrite_tags (old := vreg c 59) (res := uReg .i32 u.next) p.full hact
    have hv59 : vreg (writeVd c 59 (uReg .i32 u.next) p.act p.full) 59 = regWrite (vreg c 59) (uReg .i32 u.next) p.act p.full :=
      vreg_writeVd_self _ _ _ (by decide) (by rw [hl]; decide)
    refine ⟨_, crewAt_writeLinks hparts hact hc, fun l hlane => ?_, ?_, ?_, ?_, writeVd_latch ..⟩
    · rw [hv59, regWrite_uReg_at _ _ _ _ hact hlane]
    · rw [hv59, hfmt]; rfl
    · rw [hv59, htaint]; rfl
    · rw [hv59, hshape]; rfl

end Sys2Proof.Machine
end

section
/-! PROOF of O24, IndirectTransfers: the values of a register in some lanes, and the paths that they give. -/

namespace Sys2Proof.Machine

/-! ### Distinct values in order -/

theorem mem_distinct_iff {l : List Nat} {a : Nat} : a ∈ distinct l ↔ a ∈ l := by
  refine ⟨mem_distinct, fun h => ?_⟩
  induction l with
  | nil => exact h
  | cons b l ih =>
    by_cases hab : a = b
    · exact hab ▸ List.mem_cons_self ..
    · exact List.mem_cons_of_mem _ (List.mem_filter.mpr ⟨ih ((List.mem_cons.mp h).resolve_left hab), by simpa using hab⟩)

/-- The model's sort is an insertion sort. -/
theorem sortBy_eq_insertionSort {α : Type} (le : α → α → Bool) (l : List α) : sortBy le l = l.insertionSort fun a b => le a b = true := by
  have hinsert : ∀ (a : α) (l : List α), insertBy le a l = l.orderedInsert (fun a b => le a b = true) a := fun a l => by
    induction l with
    | nil => rfl
    | cons b l ih => rw [insertBy, ih, List.orderedInsert_cons]
  induction l with
  | nil => rfl
  | cons a l ih => rw [sortBy, ih, hinsert, List.insertionSort_cons]

theorem laneValues_eq (r : Reg) (m : Mask) :
    laneValues r m = (distinct ((laneIds.filter (laneIn m)).map fun l => (r.at l).toNat)).insertionSort (· ≤ ·) := by
  rw [laneValues, sortBy_eq_insertionSort]
  simp only [decide_eq_true_eq]

theorem mem_laneValues {r : Reg} {m : Mask} {v : Nat} : v ∈ laneValues r m ↔ ∃ l < 32, laneIn m l = true ∧ (r.at l).toNat = v := by
  simp [laneValues_eq, List.mem_insertionSort, mem_distinct_iff, laneIds, and_assoc]

theorem pairwise_laneValues (r : Reg) (m : Mask) : (laneValues r m).Pairwise (· < ·) := by
  have hnodup : (laneValues r m).Nodup := by
    rw [laneValues_eq]
    exact (List.perm_insertionSort _ _).nodup_iff.mpr (nodup_distinct _)
  have hsorted : (laneValues r m).Pairwise (· ≤ ·) := by
    rw [laneValues_eq]
    exact List.pairwise_insertionSort _ _
  exact (hsorted.and hnodup).imp fun ⟨hle, hne⟩ => lt_of_le_of_ne hle hne

/-! ### The paths of an indirect transfer -/

theorem laneIn_lanesWith (r : Reg) (m : Mask) (v : Nat) {l : Nat} (hl : l < 32) : laneIn (lanesWith r m v) l = (laneIn m l && (r.at l).toNat == v) :=
  laneIn_maskOf _ hl

/-- The paths are one for each value of act, ascending, and then one for the lanes outside act (R282). -/
theorem jumpPaths_eq (r : Reg) (e : Entry) {act : Mask} (next : Word) (n : Nat) (hact : act ≠ 0) :
    ∃ ts : List Entry, jumpPaths r e act next n = ts ++ (if e.mask &&& ~~~act = 0 then [] else [Entry.fresh next e.prio (e.mask &&& ~~~act)]) ∧
      ts.map (fun q => (q.pc, q.prio, q.mask)) = (laneValues r act).map fun v => (BitVec.ofNat 32 v, n, lanesWith r act v) := by
  obtain ⟨l, hl, hin⟩ := ne_zero_iff_laneIn.mp hact
  have hmem : (r.at l).toNat ∈ laneValues r act := mem_laneValues.mpr ⟨l, hl, hin, rfl⟩
  cases hvs : laneValues r act with
  | nil => exact absurd (hvs ▸ hmem) List.not_mem_nil
  | cons v vs =>
    refine ⟨{ e.to (BitVec.ofNat 32 v) with prio := n, mask := lanesWith r act v } ::
      vs.map fun v => Entry.fresh (BitVec.ofNat 32 v) n (lanesWith r act v), ?_, ?_⟩
    · simp only [jumpPaths, hvs]
    · simp only [List.map_cons, List.map_map]
      rfl

section
variable {r : Reg} {act : Mask} {n : Nat} {ts : List Entry}
  (h : ts.map (fun q => (q.pc, q.prio, q.mask)) = (laneValues r act).map fun v => (BitVec.ofNat 32 v, n, lanesWith r act v))
include h

/-- A path to a target holds lanes of act whose va names it. -/
theorem target_path {q : Entry} (hq : q ∈ ts) {l : Nat} (hl : l < 32) (hin : laneIn q.mask l = true) : laneIn act l = true ∧ q.pc = r.at l := by
  have hmem : (q.pc, q.prio, q.mask) ∈ (laneValues r act).map fun v => (BitVec.ofNat 32 v, n, lanesWith r act v) := h ▸ List.mem_map_of_mem hq
  obtain ⟨v, -, hv⟩ := List.mem_map.mp hmem
  obtain ⟨hpc, hv⟩ := Prod.mk.inj hv
  rw [← (Prod.mk.inj hv).2, laneIn_lanesWith r act v hl, Bool.and_eq_true, beq_iff_eq] at hin
  exact ⟨hin.1, by rw [← hpc, ← hin.2, BitVec.ofNat_toNat, BitVec.setWidth_eq]⟩

/-- Each lane of act has its path. -/
theorem exists_target_path {l : Nat} (hl : l < 32) (hin : laneIn act l = true) : ∃ q ∈ ts, laneIn q.mask l = true ∧ q.pc = r.at l ∧ q.prio = n := by
  have hmem := List.mem_map_of_mem (f := fun v => (BitVec.ofNat 32 v, n, lanesWith r act v)) (mem_laneValues (r := r).mpr ⟨l, hl, hin, rfl⟩)
  rw [← h] at hmem
  obtain ⟨q, hq, hv⟩ := List.mem_map.mp hmem
  obtain ⟨hpc, hv⟩ := Prod.mk.inj hv
  obtain ⟨hprio, hmask⟩ := Prod.mk.inj hv
  refine ⟨q, hq, ?_, ?_, hprio⟩
  · rw [hmask, laneIn_lanesWith r act _ hl, hin, beq_self_eq_true, Bool.and_self]
  · rw [hpc, BitVec.ofNat_toNat, BitVec.setWidth_eq]

/-- The targets stand in ascending order. -/
theorem target_paths_ascend : (ts.map fun q => q.pc.toNat).Pairwise (· < ·) := by
  have hpcs : ts.map (fun q => q.pc.toNat) = (laneValues r act).map fun v => (BitVec.ofNat 32 v).toNat := by
    simpa [List.map_map, Function.comp_def] using congrArg (List.map fun q : Word × Nat × Mask => q.1.toNat) h
  have hvalues : (laneValues r act).map (fun v => (BitVec.ofNat 32 v).toNat) = laneValues r act :=
    (List.map_congr_left fun v hv => by
      obtain ⟨l, -, -, rfl⟩ := mem_laneValues.mp hv
      rw [BitVec.ofNat_toNat, BitVec.setWidth_eq]; rfl).trans (List.map_id _)
  rw [hpcs, hvalues]
  exact pairwise_laneValues r act

end

/-- Lanes outside act of an entry. -/
theorem laneIn_outside (m act : Mask) {l : Nat} (hl : l < 32) : laneIn (m &&& ~~~act) l = (laneIn m l && !laneIn act l) := by
  have hnot : laneIn (~~~act) l = !laneIn act l := by simp [laneIn, hl]
  rw [laneIn_and, hnot]

theorem laneIn_of_subset {m act : Mask} (h : act &&& ~~~m = 0) {l : Nat} (hl : l < 32) (hin : laneIn act l = true) : laneIn m l = true := by
  have hlane : laneIn (act &&& ~~~m) l = false := by
    rw [h]
    exact BitVec.getLsbD_zero ..
  simpa [laneIn_outside _ _ hl, hin] using hlane

/-- The body of JMPI and RET where every va has an index format and every target passes (R263, R282). -/
theorem jumpBody_of_go {a : RCode} {n : Nat} {u : Ctx} {t t1 t2 : State}
    (hsrc : ∀ p ∈ u.parts, ∃ c r, crewAt t p.crew = some c ∧ srcReg c a.toNat = some r ∧ r.fmt.isIndex = true)
    (hgo : checkJumps a (u.parts.filter fun p => p.act != 0) t = .go t1)
    (hleave : leaveAll u (fun p c e => (false, jumpPaths ((srcReg c a.toNat).getD Reg.zero) e p.act u.next n)) u.parts t1 = .ok t2) :
    jumpBody a n u t = .moved t2 := by
  unfold jumpBody
  refine (if_neg fun hbad => ?_).trans ?_
  · obtain ⟨p, hp, hfmt⟩ := List.any_eq_true.mp hbad
    obtain ⟨c, r, hc, hr, hindex⟩ := hsrc p hp
    simp [hc, hr, hindex] at hfmt
  · simp only [hgo]
    exact transfer_of_leaveAll id hleave

/-- Settles O24: the transfers by their body, the paths by the values of act in order and the lanes outside it. -/
theorem indirectTransfers : Obligations.IndirectTransfers := by
  unfold Obligations.IndirectTransfers
  refine ⟨?transfers, ?paths⟩
  case transfers =>
    intro x tt a s t t1 t2 u hsrc hgo
    refine ⟨fun hleave => ⟨fun h => issue_moved h (jumpBody_of_go hsrc hgo hleave), fun h => issue_moved h (jumpBody_of_go hsrc hgo hleave)⟩, ?_⟩
    rintro rfl hleave h
    exact issue_moved h (jumpBody_of_go hsrc hgo hleave)
  case paths =>
    intro r e act next n hact hsub
    obtain ⟨ts, hpaths, hts⟩ := jumpPaths_eq r e next n hact
    rw [hpaths]
    refine ⟨fun l hl hin => ?_, ⟨ts.length, ?_⟩, fun q hq l hl hin => ?_⟩
    · cases hlane : laneIn act l with
      | true =>
        obtain ⟨q, hq, hmask, hpc, hprio⟩ := exists_target_path hts hl hlane
        exact ⟨q, List.mem_append_left _ hq, hmask, hpc, fun _ => hprio⟩
      | false =>
        have hout : laneIn (e.mask &&& ~~~act) l = true := by rw [laneIn_outside _ _ hl, hin, hlane]; rfl
        refine ⟨Entry.fresh next e.prio (e.mask &&& ~~~act), List.mem_append_right _ ?_, hout, rfl, fun h => absurd h Bool.false_ne_true⟩
        rw [if_neg (ne_zero_of_laneIn hout)]
        exact List.mem_singleton.mpr rfl
    · rw [List.take_left, List.drop_left]
      refine ⟨target_paths_ascend hts, fun w => ⟨fun hw => ?_, ?_⟩, rfl⟩
      · have hmem : w ∈ (ts.map fun q => (q.pc, q.prio, q.mask)).map (·.1) := by simpa [List.map_map, Function.comp_def] using hw
        rw [hts, List.map_map] at hmem
        obtain ⟨v, hv, rfl⟩ := List.mem_map.mp hmem
        obtain ⟨l, hl, hin, rfl⟩ := mem_laneValues.mp hv
        exact ⟨l, hl, hin, by simp⟩
      · rintro ⟨l, hl, hin, rfl⟩
        obtain ⟨q, hq, -, hpc, -⟩ := exists_target_path hts hl hin
        exact hpc ▸ List.mem_map_of_mem hq
    · rcases List.mem_append.mp hq with hq | hq
      · obtain ⟨hact, hpc⟩ := target_path hts hq hl hin
        exact ⟨laneIn_of_subset hsub hl hact, by rw [hpc, if_pos hact]⟩
      · split at hq
        · exact absurd hq List.not_mem_nil
        · obtain rfl := List.mem_singleton.mp hq
          have hout : laneIn (e.mask &&& ~~~act) l = true := hin
          rw [laneIn_outside _ _ hl, Bool.and_eq_true, Bool.not_eq_true'] at hout
          exact ⟨hout.1, by rw [if_neg (by simp [hout.2])]; rfl⟩

end Sys2Proof.Machine
end

section
/-! PROOF of O26, GoingOn: a lone crew without stacked records goes on by the change of its own entries, and the entry at the next instruction has its lanes. -/

namespace Sys2Proof.Machine

/-- Where an entry with lanes goes on, it or the entry that it merges with stands with these lanes (R265, R266). -/
theorem entryAt_entriesOn {s : State} {c d : Crew} {pc next : Word} {e : Entry} (he : entryAt c pc = some e) (hm : e.mask ≠ 0)
    (hd : d.entries = entriesOn s c pc next) : ∃ e', entryAt d next = some e' ∧ e.mask &&& ~~~e'.mask = 0 := by
  simp only [entriesOn, he] at hd
  refine entryAt_mergeAll hd hm fun l _ hl => hasLane_addEntry_self (e := Entry.to _ next) ?_
  rwa [Entry.to, countIssue_mask]

/-- Settles O26: going on replaces the crew, whose entries alone differ. -/
theorem goingOn : Obligations.GoingOn := by
  unfold Obligations.GoingOn
  intro s u p c e hparts hc hflat he hm
  have hid := crewAt_id hc
  have hgo := retire_alone hparts hc hflat he hm
  have hself : crewAt (retire u s) p.crew = some { c with entries := entriesOn s c u.pc u.next } := by
    rw [hgo, ← hid]
    exact crewAt_setCrew_self (c := c) (by rwa [← hid] at hc)
  refine ⟨hgo, fun id hne => ?_, ⟨_, hself, rfl, rfl, rfl, rfl, rfl, entryAt_entriesOn he hm rfl⟩, fun a => ?_, ?_, ?_, ?_⟩
  · rw [hgo]
    exact crewAt_setCrew_other s { c with entries := entriesOn s c u.pc u.next } fun h => hne (h.trans hid)
  all_goals rw [hgo]; rfl

end Sys2Proof.Machine
end

section
/-! PROOF of O25, ExitsAndYield: the bodies of EXIT and YIELD over a lone crew, which their 16-bit forms share. -/

namespace Sys2Proof.Machine

/-- A crew that keeps a lane, or whose hash lacks no atomic, can lose the lanes now (R356, R357). -/
theorem hashes_ready {c : Crew} {m : Mask} (h : c.live &&& ~~~m ≠ 0 ∨ c.hashQ = []) : (c.live &&& ~~~m == 0 && !c.hashQ.isEmpty) = false := by
  rcases h with hkeeps | hnone
  · rw [beq_eq_false_iff_ne.mpr hkeeps, Bool.false_and]
  · simp [hnone]

section
variable {sp : Spec} {s t : State} {u : Ctx} {p : Part} {c : Crew} (h : Alone sp s u p c t)
include h

theorem Alone.head : u.parts.head? = some p := by rw [h.only]; rfl

/-- The crew that issues is the one participant's. -/
theorem Alone.issuer (hu : u.crew = p.crew) : crewAt t u.crew = some c := hu ▸ h.crew

/-- An exit without a lane in act does nothing (R19). -/
theorem exitBody_idle (hu : u.crew = p.crew) (hact : p.act = 0) : exitBody u t = .done t := by
  simp only [exitBody, h.head, h.issuer hu, if_pos hact]

section
variable {t1 : State} (hu : u.crew = p.crew) (hact : p.act ≠ 0) (hlast : c.live &&& ~~~p.act ≠ 0 ∨ c.hashQ = [])
include hu hact hlast

/-- Lanes that hold no section exit at once (R283). -/
theorem exitBody_of_no_section (hsect : sectMask c &&& p.act = 0)
    (hleave : leaveBy u (fun p _ e => (false, [{ e.to u.next with mask := e.mask &&& ~~~p.act }])) p t = .ok t1) :
    exitBody u t = .moved (exitLanes t1 c.id p.act) := by
  simp only [exitBody, h.head, h.issuer hu, if_neg hact, hashes_ready hlast, if_pos hsect, Bool.false_eq_true, if_false, Bool.not_true, hleave]

/-- Lanes that hold sections end them after a die-scope release, and exit (R283, R287). -/
theorem exitBody_of_release {t0 : State} (hsect : sectMask c &&& p.act ≠ 0) (hrelease : releaseNow t c 1 = (true, t0))
    (hleave : leaveBy u (fun p _ e => (false, [{ e.to u.next with mask := e.mask &&& ~~~p.act }])) p t0 = .ok t1) :
    exitBody u t = .moved (exitLanes (closeSections t1 c (sectMask c &&& p.act)) c.id p.act) := by
  simp only [exitBody, h.head, h.issuer hu, if_neg hact, hashes_ready hlast, if_neg hsect, Bool.false_eq_true, if_false, hrelease, Bool.not_true, hleave]

end

/-- A crew whose entry is alone has nothing to yield to (R284). -/
theorem yieldBody_idle (hu : u.crew = p.crew) (hone : p.act = 0 ∨ (c.entries.length ≤ 1 ∧ (c.nrec = 0 ∨ c.priv = true))) : yieldBody u t = .done t := by
  have hcond : (p.act = 0 || (c.entries.length ≤ 1 && (c.nrec = 0 || c.priv))) = true := by simpa using hone
  simp only [yieldBody, h.head, h.issuer hu]
  exact if_pos hcond

/-- YIELD demotes the entry (R284). -/
theorem yieldBody_demotes {t1 : State} (hu : u.crew = p.crew) (hact : p.act ≠ 0) (hmore : 1 < c.entries.length ∨ (c.nrec ≠ 0 ∧ c.priv = false))
    (hleave : leaveBy u (fun _ c e => (false, [{ e.to u.next with demoted := true, quantum := 0, left := quantumOf t c.core }])) p t = .ok t1) :
    yieldBody u t = .moved t1 := by
  have hcond : ¬(p.act = 0 || (c.entries.length ≤ 1 && (c.nrec = 0 || c.priv))) = true := by
    rcases hmore with hmore | ⟨hrec, hpriv⟩
    · simpa using ⟨hact, fun hle => absurd hmore (by omega)⟩
    · simpa using ⟨hact, fun _ => ⟨hrec, hpriv⟩⟩
  simp only [yieldBody, h.head, h.issuer hu]
  refine (if_neg hcond).trans (transfer_of_leaveAll id ?_)
  rw [h.only, leaveAll_alone, hleave]

end

theorem exec_exit {x : Pfx} {i : Instr} (s : State) (hi : i = .exit x ∨ i = .exit16) : exec i s = issue { i := i } exitBody s := by
  rcases hi with rfl | rfl <;> rfl

theorem exec_yield {x : Pfx} {i : Instr} (s : State) (hi : i = .yield x ∨ i = .yield16) : exec i s = issue { i := i } yieldBody s := by
  rcases hi with rfl | rfl <;> rfl

/-- Settles O25: EXIT and YIELD by their bodies, NOP by an empty one. -/
theorem exitsAndYield : Obligations.ExitsAndYield := by
  unfold Obligations.ExitsAndYield
  refine ⟨fun x i s t t1 u p c hi h hu => ?exit, fun x i s t t1 u p c hi h hu => ?yield, fun s t u h => issue_done h rfl⟩
  case exit =>
    rw [exec_exit s hi]
    exact ⟨fun hact => issue_done h.point (exitBody_idle h hu hact),
      fun hact hsect hlast hleave => issue_moved h.point (exitBody_of_no_section h hu hact hlast hsect hleave),
      fun t0 hact hsect hlast hrelease hleave => issue_moved h.point (exitBody_of_release h hu hact hlast hsect hrelease hleave)⟩
  case yield =>
    rw [exec_yield s hi]
    exact ⟨fun hone => issue_done h.point (yieldBody_idle h hu hone),
      fun hact hmore hleave => issue_moved h.point (yieldBody_demotes h hu hact hmore hleave)⟩

end Sys2Proof.Machine
end

section
/-! PROOF of O27, BarriersSetsAndSections: BAR by what it waits for and what its participants take, JOIN and LEAVE by the sets of a block, and the sections of ORD.BEGIN
and ORD.END. -/

namespace Sys2Proof.Machine

/-! ### BAR -/

theorem partsClock_covers {s : State} {ps : List Part} {p : Part} {c : Crew} (hp : p ∈ ps) (hc : crewAt s p.crew = some c) :
    (partsClock s ps).covers (crewClock c) = true := by
  refine covers_foldl_of_mem (fun k q => ?_) hp (fun k => ?_) Clock.zero
  · split
    · exact covers_sup_left ..
    · exact covers_refl k
  · simp only [hc]
    exact covers_sup_right ..

theorem covers_foldl_sup_start (ks : List Clock) (k : Clock) : (ks.foldl Clock.sup k).covers k = true := covers_foldl_start covers_sup_left ks k

/-- A clock with what a covered crew brings to a BAR: those of its copies, and its own when it has ended (log entry 56). -/
def barTake (k : Clock) (c : Crew) : Clock := c.batchClk.foldl Clock.sup (if c.ended then k.sup (crewClock c) else k)

theorem barSeen_clock (s : State) (u : Ctx) (n : Nat) :
    (barSeen s u n).1 = (s.crews.filter fun c => barCovers s u c.block c.id).foldl barTake Clock.zero := rfl

theorem barTake_covers (k : Clock) (c : Crew) : (barTake k c).covers k = true := by
  refine covers_trans (covers_foldl_sup_start ..) ?_
  split
  · exact covers_sup_left ..
  · exact covers_refl k

theorem barTake_covers_batch (k : Clock) {c : Crew} {w : Clock} (hw : w ∈ c.batchClk) : (barTake k c).covers w = true :=
  covers_foldl_of_mem covers_sup_left hw (fun j => covers_sup_right j w) _

theorem barTake_covers_ended (k : Clock) {c : Crew} (h : c.ended = true) : (barTake k c).covers (crewClock c) = true := by
  rw [barTake, if_pos h]
  exact covers_trans (covers_foldl_sup_start ..) (covers_sup_right ..)

/-- What a covered crew brings to the clocks that a BAR observes (log entry 56). -/
theorem barSeen_covers {s : State} {u : Ctx} {c : Crew} {w : Clock} (n : Nat) (hc : c ∈ s.crews) (hcovers : barCovers s u c.block c.id = true)
    (hw : ∀ k, (barTake k c).covers w = true) : (barSeen s u n).1.covers w = true := by
  rw [barSeen_clock]
  exact covers_foldl_of_mem barTake_covers (List.mem_filter.mpr ⟨hc, hcovers⟩) hw Clock.zero

theorem blockAt_id {s : State} {n : Nat} {b : Block} (h : blockAt s n = some b) : b.id = n := by
  simpa using List.find?_some h

theorem blockAt_modBlock_self {s : State} {n : Nat} {b : Block} {f : Block → Block} (hf : ∀ x, (f x).id = x.id) (h : blockAt s n = some b) :
    blockAt (modBlock s n f) n = some (f b) := by
  have hfind : s.blocks.find? (fun x => x.id == n) = some b := h
  unfold blockAt modBlock
  rw [find_map_set fun x => if x.id == n then f x else x, hfind]
  · simp [blockAt_id h]
  · intro x; by_cases hx : x.id = n <;> simp [hx, hf]

/-- The units that may still be read old are those of the crews that the BAR does not cover (R203, log entry 56). -/
theorem blockAt_barSeen {s : State} {n : Nat} {b : Block} (u : Ctx) (h : blockAt s n = some b) : blockAt (barSeen s u n).2 n =
    some { b with asOld := b.asOld.filter fun o => !s.crews.any fun c => barCovers s u c.block c.id && c.id == o.crew } := by
  simp only [barSeen]
  refine (blockAt_modBlock_self (fun x => ?_) h).trans ?_
  · rfl
  · simp only [List.any_filter]

theorem mem_barCopies {s : State} {u : Ctx} {c : Crew} {k : Copy} (hc : crewAt s u.crew = some c) (hk : k ∈ s.copies) :
    k ∈ barCopies s u ↔ (∃ p ∈ u.parts, p.crew = k.crew) ∨ (u.scope = .block ∧ k.block = c.block) := by
  rw [barCopies, List.mem_filter, and_iff_right hk]
  simp only [barCovers, hc, Bool.or_eq_true, List.any_eq_true, beq_iff_eq, Bool.and_eq_true, eq_comm (a := c.block)]

/-- BAR with every release taken and no copy in its way (R285). -/
theorem barBody_done {u : Ctx} {t t1 : State} (hrelease : releaseEach u.parts t = (true, t1)) (hcopies : barCopies t1 u = []) :
    let r := barSeen t1 u (((crewAt t1 u.crew).map (·.block)).getD 0)
    barBody u t = .done (u.parts.foldl (fun s p => modCrew s p.crew fun c =>
      { c with acq := c.acq.sup (partsClock t1 u.parts), copyAcq := c.copyAcq.sup r.1 }) r.2) := by
  simp only [barBody, hrelease, hcopies]

/-! ### JOIN and LEAVE -/

section
variable {s t : State} {u : Ctx} {p : Part} {c : Crew}

theorem exec_join {x : Pfx} {n k : BitVec 3} {b b' : Block} (h : Alone { i := .join x n k, localOnly := true } s u p c t) (hu : u.crew = p.crew)
    (hact : p.act ≠ 0) (hset : setOf t c = none) (hb : blockOf t c = some b) (hjoin : joinSet c k.toNat (n.toNat + 1) b = some b') :
    exec (.join x n k) s = .next (retire u (setBlock t b')) :=
  issue_done h.point (by
    simp only [h.head, h.issuer hu, if_neg hact, hset, Option.isSome_none, Bool.false_eq_true, if_false, hb, hjoin])

theorem exec_leave {x : Pfx} {k : BitVec 3} {r : Nat} {g : CrewSet} (h : Alone { i := .leave x k, localOnly := true } s u p c t) (hu : u.crew = p.crew)
    (hact : p.act ≠ 0) (hset : setOf t c = some (k.toNat, r, g)) : exec (.leave x k) s = .next (retire u (leaveSet t c)) :=
  issue_done h.point (by simp only [h.head, h.issuer hu, if_neg hact, hset, if_true])

end

section
variable (c : Crew) {n m : Nat} {b : Block}

theorem joinSet_new (hset : b.sets.getD n none = none) :
    joinSet c n m b = some { b with sets := b.sets.set n (some ⟨m, decide (m = 1), [c.id]⟩) } := by
  simp only [joinSet, hset]

theorem joinSet_open {g : CrewSet} (hset : b.sets.getD n none = some g) (hsize : g.expected = m) (hopen : g.complete = false) :
    joinSet c n m b = some { b with sets := b.sets.set n (some ⟨m, decide (g.members.length + 1 = m), g.members ++ [c.id]⟩) } := by
  subst hsize
  simp only [joinSet, hset, hopen, ne_eq, not_true_eq_false, Bool.false_eq_true, or_self, if_false, List.length_append, List.length_singleton]

theorem joinSet_refused {g : CrewSet} (hset : b.sets.getD n none = some g) (hbad : g.expected ≠ m ∨ g.complete = true) : joinSet c n m b = none := by
  simp only [joinSet, hset, if_pos hbad]

end

/-! ### Ordered sections -/

/-- The ready lanes of an ORD.BEGIN: those whose turn it is, the lowest of each slot (R287). -/
theorem laneIn_readyLanes (s : State) (c : Crew) (r : Reg) (act : Mask) {l : Nat} (hl : l < 32) :
    laneIn (readyLanes s c r act) l = true ↔
      let turn (j : Nat) : Prop := laneIn act j = true ∧ (orderCounter s (dieOfCore c.core) ((r.at j).toNat % 2 ^ 16)).toNat = (r.at j).toNat / 2 ^ 16
      turn l ∧ ∀ j < l, turn j → (r.at j).toNat % 2 ^ 16 ≠ (r.at l).toNat % 2 ^ 16 := by
  rw [readyLanes, laneIn_maskOf _ hl]
  simp only [Bool.and_eq_true, beq_iff_eq, Bool.not_eq_true', List.any_eq_false, List.mem_range, not_and]

theorem beginSections_sect (k : Clock) (r : Reg) (m : Mask) {c : Crew} (hc : c.sect.length = 32) {l : Nat} (hl : l < 32) :
    (beginSections k r m c).sect.getD l none = if laneIn m l then some (r.at l) else c.sect.getD l none := by
  simp [beginSections, hc, hl]

section
variable {s t t1 : State} {u : Ctx} {p : Part} {c : Crew}

theorem exec_ordBegin {x : Pfx} {a : RCode} {r : Reg} {d : Die} (h : Alone { i := .ordBegin x a, ops := [.src a], waits := true } s u p c t)
    (hu : u.crew = p.crew) (hact : p.act ≠ 0) (hr : srcReg c a.toNat = some r) (hfmt : r.fmt.isIndex = true) (hsect : sectMask c &&& p.act = 0)
    (hready : readyLanes t c r p.act ≠ 0) (hd : dieAt t (dieOfCore c.core) = some d)
    (hleave : leaveAll u (fun _ _ e => (true, [{ e.to u.next with mask := e.mask &&& ~~~(p.act &&& ~~~readyLanes t c r p.act) },
      Entry.fresh u.pc e.prio (p.act &&& ~~~readyLanes t c r p.act)])) [p] t = .ok t1) :
    exec (.ordBegin x a) s = .next (modCrew t1 c.id (beginSections d.ordClock r (readyLanes t c r p.act))) := by
  refine issue_moved h.point ?_
  simp only [ordBeginBody, h.head, h.issuer hu, if_neg hact, hr, hfmt, Bool.not_true, Bool.false_eq_true, if_false, hsect, ne_eq, not_true_eq_false,
    if_neg hready, hd]
  exact transfer_of_leaveAll _ (h.only ▸ hleave)

theorem exec_ordEnd_idle {x : Pfx} (h : Alone { i := .ordEnd x, waits := true } s u p c t) (hu : u.crew = p.crew) (hact : p.act = 0) :
    exec (.ordEnd x) s = .next (retire u t) :=
  issue_done h.point (by simp only [h.head, h.issuer hu, if_pos hact])

theorem exec_ordEnd {x : Pfx} (h : Alone { i := .ordEnd x, waits := true } s u p c t) (hu : u.crew = p.crew) (hact : p.act ≠ 0)
    (hrelease : releaseNow t c 1 = (true, t1)) : exec (.ordEnd x) s = .next (retire u (closeSections t1 c (sectMask c &&& p.act))) :=
  issue_done h.point (by simp only [h.head, h.issuer hu, if_neg hact, hrelease])

end

/-- Settles O27: the barrier by its clocks and copies, each instruction by its own rule, the sections lane by lane. -/
theorem barriersSetsAndSections : Obligations.BarriersSetsAndSections := by
  unfold Obligations.BarriersSetsAndSections
  refine ⟨⟨fun x s t t1 u h hrelease hcopies => issue_done h (barBody_done hrelease hcopies), fun s ps p c hp hc => partsClock_covers hp hc, ?seen,
      fun s u c hc k hk => mem_barCopies hc hk, fun x n k s t u p c b b' h hu hact hset hb hjoin => exec_join h hu hact hset hb hjoin,
      fun c n m b _ => ⟨joinSet_new c, fun g => joinSet_open c, fun g => joinSet_refused c⟩,
      fun x k s t u p c r g h hu hact hset => exec_leave h hu hact hset⟩,
    fun x a s t t1 u p c r d h hu hact hr hfmt hsect hready hd hleave => exec_ordBegin h hu hact hr hfmt hsect hready hd hleave,
    fun s c r act l hl => laneIn_readyLanes s c r act hl, fun k r m c hc => ⟨covers_sup_right .., fun l hl => beginSections_sect k r m hc hl⟩,
    fun x s t t1 u p c h hu => ⟨exec_ordEnd_idle h hu, exec_ordEnd h hu⟩⟩
  case seen =>
    intro s u n b hb
    exact ⟨fun c hc hcovers => ⟨fun k hk => barSeen_covers n hc hcovers fun j => barTake_covers_batch j hk,
      fun hended => barSeen_covers n hc hcovers fun j => barTake_covers_ended j hended⟩, blockAt_barSeen u hb⟩

end Sys2Proof.Machine
end

section
/-! PROOF of O19, HaltEndsTask: HALT by what the frame's first byte reads as, and TASK_KILL by the task that it finds. -/

namespace Sys2Proof.Machine

section
variable {x : Pfx} {s t t1 : State} {u : Ctx} {p : Part} {c : Crew} {b : Block} (h : issuePoint { i := .sysHalt x } s = some (u, t))
  (hact : actor u t = some (p, c)) (hpages : pagesReady t (.wait c.id) c.core (pasidOf t c) true [(frameVa t c, .read)] = (true, t1))
  (hb : blockOf t1 c = some b)
include h hact hpages hb

/-- HALT with the frame's CODE at hand (R334). -/
theorem exec_sysHalt {bs : List Byte} {t2 : State} (hread : peekVa t1 c.core (pasidOf t1 c) true (frameVa t c) 1 = some (bs, t2)) :
    exec (.sysHalt x) s = .next (endTask t2 b.task 6 (leValue bs)) :=
  issue_moved h (by simp only [hact, hpages, hb, hread])

/-- HALT whose frame cannot be read (R293). -/
theorem exec_sysHalt_unread (hread : peekVa t1 c.core (pasidOf t1 c) true (frameVa t c) 1 = none) :
    exec (.sysHalt x) s = .next (endTask t1 b.task 8 0) :=
  issue_moved h (by simp only [hact, hpages, hb, hread])

end

theorem exec_taskKill {s : State} {die : Nat} {v : BitVec 64} {m : Task} (hup : hostUp s = true) (hdie : (dieAt s die).isSome = true)
    (hm : s.tasks.find? (fun t => t.tcb == v.toNat % 2 ^ 29 * 128 && (t.state == .ready || t.state == .running)) = some m) :
    exec (.taskKill die v) s = .next (endTask s m.no 5 0) := by
  obtain ⟨d, hd⟩ := Option.isSome_iff_exists.mp hdie
  change execTaskKill die v s = _
  simp only [execTaskKill, hd, Option.isNone_some, Bool.false_eq_true, if_false, hostDoes_of_up hup, hm]

/-- Settles O19: HALT by its read of the frame, TASK_KILL by its own rule. -/
theorem haltEndsTask : Obligations.HaltEndsTask := by
  unfold Obligations.HaltEndsTask
  exact fun x s t t1 u p c b h hact hpages hb => ⟨fun bs t2 => exec_sysHalt h hact hpages hb, exec_sysHalt_unread h hact hpages hb,
    fun k die v m hup hdie hm => exec_taskKill hup hdie hm⟩

end Sys2Proof.Machine
end

section
/-! PROOF of O29, SpawnAndReord: SPAWN by what its submission comes to, and REORD where the bins take every lane of act. -/

namespace Sys2Proof.Machine

/-! ### SPAWN -/

section
variable {d : RCode} {u : Ctx} {p : Part} {c : Crew} {va pk : Nat} {unc : Bool} {t t1 t2 t3 : State} (hrelease : releaseNow t c 2 = (true, t1))
  (hhit : xlateFor t1 (.wait c.id) c.core (pasidOf t1 c) va .read c.priv = (.hit pk unc, t2)) (hdevice : pk < hostBase)
  (hpin : pinnedElsewhere t2 c.core (pk / 256) = false) (hlink : linkBars t2 c.core (pk / 256) = false)
include hrelease hhit hdevice hpin hlink

theorem spawnAt_accepted (hsubmit : submit (writeBack t2 c.core (pk / 256)) pk c.core (crewClock ((crewAt t2 c.id).getD c)) = .accepted t3) :
    spawnAt u d p c va t = .done (spawnResult u d 0 t3) := by
  simp only [spawnAt, hrelease, hhit, Nat.not_le.mpr hdevice, hpin, hlink, Bool.false_eq_true, if_false, hsubmit]

theorem spawnAt_busy (hsubmit : submit (writeBack t2 c.core (pk / 256)) pk c.core (crewClock ((crewAt t2 c.id).getD c)) = .busy t3) :
    spawnAt u d p c va t = .done (spawnResult u d 1 t3) := by
  simp only [spawnAt, hrelease, hhit, Nat.not_le.mpr hdevice, hpin, hlink, Bool.false_eq_true, if_false, hsubmit]

end

/-- SPAWN with good operands that is submitted (R302). -/
theorem exec_spawn {x : Pfx} {d a : RCode} {s t t' : State} {u : Ctx} {p : Part} {c : Crew} {va : Nat}
    (h : issuePoint { i := .spawn x d a, ops := [.dst d, .grp a 2], waits := true } s = some (u, t)) (hact : actor u t = some (p, c))
    (hargs : spawnArgs c a = .ok va) (hdone : spawnAt u d p c va t = .done t') : exec (.spawn x d a) s = .next (retire u t') :=
  issue_done h (by simp only [hact, hargs, hdone])

/-! ### REORD -/

/-- REORD over a lone crew that meets its checks, with its release done (R303, R304). -/
theorem reordBody_goes {sp : Spec} {n : Nat} {k d : RCode} {s t t1 t2 : State} {u : Ctx} {p : Part} {c : Crew} {kr : Reg} {tk : Task}
    (h : Alone sp s u p c t) (hu : u.crew = p.crew) (hact : p.act ≠ 0) (hk : srcReg c k.toNat = some kr) (htask : taskOf t c = some tk)
    (hsect : sectMask c &&& p.act = 0) (hfmt : kr.fmt.isIndex = true) (hon : enckeOn t (dieOfCore c.core) = true) (hslots : tk.fslots ≠ 0)
    (hnext : checkTarget t (some (.wait c.id)) c u.next = (.valid, t1)) (hlast : c.live &&& ~~~p.act ≠ 0 ∨ c.hashQ = [])
    (hrelease : releaseNow t1 c 1 = (true, t2)) : reordBody n k d u t = reordGo u p tk kr d.toNat n t2 := by
  simp only [reordBody, h.head, h.issuer hu, hk, htask, if_neg hact, hsect, ne_eq, not_true_eq_false, hfmt, hon, Bool.not_true, Bool.false_or,
    Bool.false_eq_true, if_false, beq_eq_false_iff_ne.mpr hslots, hnext, hashes_ready hlast, hrelease]

/-- The bins take every lane of act, which exit this crew (R304). -/
theorem reordGo_all {u : Ctx} {p : Part} {c : Crew} {e : Entry} {kr : Reg} {tk : Task} {first n : Nat} {t t1 t2 : State} (hact : p.act ≠ 0)
    (hc : crewAt t p.crew = some c) (he : entryAt c u.pc = some e)
    (hbins : binLanes c e kr first n u.next tk (dieOfCore c.core) (laneIds.filter (laneIn p.act)) t = (p.act, t1))
    (hleave : leaveBy u (fun p _ e => (false, [{ e.to u.next with mask := e.mask &&& ~~~p.act }])) p t1 = .ok t2) :
    reordGo u p tk kr first n t = .moved (exitLanes t2 c.id p.act) := by
  simp only [reordGo, hc, he, hbins, if_neg hact, if_true, hleave]

/-- Settles O29: SPAWN by its submission, REORD by its checks and its bins. -/
theorem spawnAndReord : Obligations.SpawnAndReord := by
  unfold Obligations.SpawnAndReord
  refine ⟨fun x d a s t t1 t2 t3 u p c va pk unc h hact hargs hrelease hhit hdevice hpin hlink => ⟨fun hsubmit => ?_, fun hsubmit => ?_⟩, ?reord⟩
  · exact exec_spawn h hact hargs (spawnAt_accepted hrelease hhit hdevice hpin hlink hsubmit)
  · exact exec_spawn h hact hargs (spawnAt_busy hrelease hhit hdevice hpin hlink hsubmit)
  case reord =>
    intro x n k d s t t1 t2 t3 t4 u p c c2 e kr tk h hu hact hk htask hsect hfmt hon hslots hnext hlast hrelease hc2 he hbins hleave
    exact issue_moved h.point ((reordBody_goes h hu hact hk htask hsect hfmt hon hslots hnext hlast hrelease).trans
      (reordGo_all hact hc2 he hbins hleave))

end Sys2Proof.Machine
end

section
/-! PROOF of O47, SchedulingEvents: one rule for each event of submission, placement, wake, save, retirement and scrub. -/

namespace Sys2Proof.Machine

/-! ### Submission and placement -/

theorem exec_sqPush {s : State} {die n : Nat} {v : BitVec 64} {d : Die} (hn : n < 16) (hd : dieAt s die = some d) (hup : hostUp s = true) :
    exec (.sqPush die n v) s = .next (runPush s die (n, v.toNat % 2 ^ 29 * 128)) := by
  have hcond : ¬(16 ≤ n ∨ (dieAt s die).isNone = true) := by simp [hd, Nat.not_le.mpr hn]
  change execSqPush die n v s = _
  rw [execSqPush, if_neg hcond, hostDoes_of_up hup]

theorem exec_placementDecision {s : State} {d : Die} (hd : dieAt (runPushes s) (runPushes s).unit = some d)
    (hfence : fenced (runPushes s) (runPushes s).unit = false) (hheld : placeHeld (runPushes s) (runPushes s).unit = false) :
    exec .placementDecision s = .next (decide_ (runPushes s).unit [0, 1, 2, 3] (runPushes s)).2 := by
  change execPlacementDecision s = _
  simp only [execPlacementDecision, hd, hfence, hheld, Option.isNone_some, Bool.or_self, Bool.false_eq_true, if_false]

/-- STARVATION_RESERVATION for a head that has waited its time, on the first core that it would fit (R299). -/
theorem exec_starvationReservation {s : State} {die q : Nat} {d : Die} {t : Task} {k : CoreSt} (hd : dieAt s die = some d)
    (hhead : (headTasks s d (queueClass s die q)).find? (fun h => h.1 == q) = some (q, t)) (hwaited : 64 ≤ t.waited)
    (hbind : t.bind = false ∨ t.binding.isSome = true) (hnone : ∀ k ∈ s.cores, k.reserve ≠ some (needNext s (queueClass s die q) t).key)
    (hcore : s.cores.find? (fun k => dieOfCore k.id == die && fits s (needNext s (queueClass s die q) t) k.id
      ((s.blocks.filter fun b => b.core == k.id && b.placed && b.formed.isNone &&
        decide ((needNext s (queueClass s die q) t).cls ≤ blockClass s b)).map (·.id))) = some k) :
    exec (.starvationReservation die q) s = .next (reserveCore s k.id (needNext s (queueClass s die q) t).key) := by
  have hready : (t.bind && t.binding.isNone) = false := by rcases hbind with hb | hb <;> simp [hb, Option.isNone_eq_false_iff]
  have hfree : (s.cores.any fun k => k.reserve == some (needNext s (queueClass s die q) t).key) = false := by simpa using hnone
  change execStarvationReservation die q s = _
  simp only [execStarvationReservation, hd, hhead, decide_eq_false (Nat.not_lt.mpr hwaited), hready, hfree, Bool.or_self, Bool.false_eq_true, if_false, hcore]

/-! ### Blocks -/

section
variable {s : State} {b : Block} (hb : blockAt s s.unit = some b)
include hb

theorem exec_blockWakeDone {t : Task} (ht : taskAt s b.task = some t) (hstate : b.state = .waking) :
    exec .blockWakeDone s = .next (wakeBlock s t b) := by
  change execBlockWakeDone s = _
  simp only [execBlockWakeDone, hb, hstate, ht]

theorem exec_blockSaveComplete_saving {swap : Bool} (hstate : b.state = .saving swap) : exec .blockSaveComplete s = .next (finishSave s b swap) := by
  change execBlockSaveComplete s = _
  simp only [execBlockSaveComplete, hb, hstate]

/-- A block that has stopped, its crews halted and its streams quiet, is saved (R300). -/
theorem exec_blockSaveComplete_stopping (hstate : b.state = .stopping) (hlive : allEnded s b = false) (hsect : noSections s b = true)
    (hquiet : blockQuiet s b = true) (hhalted : ∀ c ∈ s.crews, c.block = b.id → crewHalted s c = true ∧ c.log = none) :
    exec .blockSaveComplete s = .next (finishSave s b false) := by
  have hall : ((s.crews.filter fun c => c.block == b.id).all fun c => crewHalted s c && c.log.isNone) = true :=
    List.all_eq_true.mpr fun c hc => by
      obtain ⟨hmem, hblock⟩ := List.mem_filter.mp hc
      obtain ⟨hhalt, hlog⟩ := hhalted c hmem (eq_of_beq hblock)
      rw [hhalt, hlog]
      rfl
  change execBlockSaveComplete s = _
  simp only [execBlockSaveComplete, hb, hstate, hlive, hsect, hquiet, hall, Bool.and_self, Bool.not_true, Bool.false_eq_true, if_false, if_true]

theorem exec_preemptSlowStop {t : Task} (ht : taskAt s b.task = some t) (hstate : b.state = .stopping) :
    exec .preemptSlowStop s = .next (emitTask s b.core (some t) 16 2
      ([BitVec.ofNat 8 b.core, BitVec.ofNat 8 ((((s.crews.filter fun c => c.block == b.id).map (·.slot)).min?).getD 0), 0, 0] ++ leSplit 4 b.task)) := by
  change execPreemptSlowStop s = _
  simp only [execPreemptSlowStop, hb, ht, hstate, beq_self_eq_true, if_true]

section
variable (hhere : b.state = .running ∨ b.state = .stopping ∨ b.state = .draining) (hended : allEnded s b = true)
include hhere hended

/-- A block whose crews have ended drains while it has copies (R107). -/
theorem exec_blockRetire_drains (hcopies : ∃ k ∈ s.copies, k.block = b.id) (hstate : b.state ≠ .draining) :
    exec .blockRetire s = .next (modBlock s b.id fun b => { b with state := .draining }) := by
  have hplaced : (b.state == .running || b.state == .stopping || b.state == .draining) = true := by simpa [or_assoc] using hhere
  have hany : (s.copies.any fun k => k.block == b.id) = true := by simpa using hcopies
  change execBlockRetire s = _
  simp only [execBlockRetire, hb, hplaced, hended, Bool.not_true, Bool.or_self, Bool.false_eq_true, if_false, hany, if_true]
  exact if_neg (by simpa using hstate)

/-- A block without copies whose pinned lines can go home retires (R246, R262). -/
theorem exec_blockRetire_retires (hcopies : ∀ k ∈ s.copies, k.block ≠ b.id) (hpins : ∀ p ∈ pinnedLines s b.id, wbBlocked s p.1 p.2 = false) :
    exec .blockRetire s = .next (formDue (formDue (retireBlock s b) (dieOfCore b.core)) (1 - dieOfCore b.core)) := by
  have hplaced : (b.state == .running || b.state == .stopping || b.state == .draining) = true := by simpa [or_assoc] using hhere
  have hnone : (s.copies.any fun k => k.block == b.id) = false := by simpa using hcopies
  have hlines : (pinnedLines s b.id).filter (fun p => wbBlocked s p.1 p.2) = [] := List.filter_eq_nil_iff.mpr fun p hp => by simp [hpins p hp]
  change execBlockRetire s = _
  simp only [execBlockRetire, hb, hplaced, hended, Bool.not_true, Bool.or_self, Bool.false_eq_true, if_false, hnone, hlines]

end

end

/-! ### Tasks, allocations and row groups -/

theorem exec_taskRetire {s s1 : State} {t : Task} (ht : taskAt s s.unit = some t) (hover : taskOver s t = true) (hsectors : retireSectors s t = [])
    (hsettled : settleCores s (taskCores s t.no) = (true, s1)) : exec .taskRetire s = .next (retireTask s1 t) := by
  change execTaskRetire s = _
  simp only [execTaskRetire, ht, hover, Bool.not_true, Bool.false_eq_true, if_false, hsectors, hsettled]

theorem exec_allocationScrub {s : State} {k : CoreSt} (hk : coreAt s s.unit = some k) (hscrub : k.scrub ≠ []) :
    exec .allocationScrub s = .next (modCore s k.id fun k => { k with scrub := k.scrub.drop 1 }) := by
  have hsome : ¬k.scrub.isEmpty = true := by simpa using hscrub
  change execAllocationScrub s = _
  simp only [execAllocationScrub, hk, if_neg hsome]

theorem exec_registerGroupGate {s : State} {core g : Nat} {k : CoreSt} (hk : coreAt s core = some k) (hon : k.groups.getLsbD g = true)
    (hfree : groupOwned s core g = false) :
    exec (.registerGroupGate core g) s = .next (modCore s core fun k => { k with groups := k.groups &&& ~~~(BitVec.ofNat 15 (2 ^ g)) }) := by
  change execRegisterGroupGate core g s = _
  simp only [execRegisterGroupGate, hk, hon, hfree, Bool.not_false, Bool.and_self, if_true]

/-- Settles O47: each event by its own rule. -/
theorem schedulingEvents : Obligations.SchedulingEvents := by
  unfold Obligations.SchedulingEvents
  refine ⟨fun s die n v d => exec_sqPush, fun s t ht hover hsectors s1 => exec_taskRetire ht hover hsectors, fun s d => exec_placementDecision,
    fun s die q d t k => exec_starvationReservation, fun s b t hb ht => ?blocks, fun s k => exec_allocationScrub, fun s core g k => exec_registerGroupGate⟩
  exact ⟨exec_blockWakeDone hb ht, fun swap => exec_blockSaveComplete_saving hb, exec_blockSaveComplete_stopping hb, exec_preemptSlowStop hb ht,
    fun hhere hended => ⟨exec_blockRetire_drains hb hhere hended, exec_blockRetire_retires hb hhere hended⟩⟩

end Sys2Proof.Machine
end

section
/-! PROOF of O21, Maintenance: ICINV and TLBINV where their request is under way, and where it is still to be made. -/

namespace Sys2Proof.Machine

section
variable {x : Pfx} {d a : RCode} {s t : State} {u : Ctx} {p : Part} {c : Crew} (hact : actor u t = some (p, c))
include hact

/-! ### ICINV -/

section
variable (h : issuePoint { i := .sysIcinv x d a, ops := [.dst d, .grp a 3], waits := true } s = some (u, t))
include h

/-- ICINV with every core's acknowledgement (R332). -/
theorem exec_sysIcinv_ends {v : IcInv} (hv : t.icinvs.find? (fun v => v.crew == c.id && v.pc == u.pc) = some v)
    (hacked : (icinvCores t).all v.acked.contains = true) :
    exec (.sysIcinv x d a) s = .next (retire u (modCrew { t with icinvs := t.icinvs.filter fun w => w.id != v.id } c.id
      (sysResult d p (BitVec.ofNat 32 v.acked.length)))) :=
  issue_done h (by simp only [hact, hv, hacked, if_true])

/-- The first issue of ICINV, after its release, records the request and waits (R332). -/
theorem exec_sysIcinv_starts {lines : Option (Nat × Nat)} {t1 : State} (hnone : t.icinvs.find? (fun v => v.crew == c.id && v.pc == u.pc) = none)
    (hargs : icinvArgs c a = .ok lines) (hrelease : releaseNow t c 2 = (true, t1)) :
    exec (.sysIcinv x d a) s =
      .next (holdCrew { t1 with icinvs := t1.icinvs ++ [⟨t1.nextId, c.id, u.pc, pasidOf t1 c, lines, []⟩], nextId := t1.nextId + 1 } u.crew) :=
  issue_hold h (by simp only [hact, hnone, hargs, hrelease])

end

/-! ### TLBINV -/

section
variable (h : issuePoint { i := .sysTlbinv x d a, ops := [.dst d, .grp a 4] } s = some (u, t))
include h

/-- TLBINV whose shootdown has ended; it gives 1 when a die was fenced instead of acknowledging (R64, R333). -/
theorem exec_sysTlbinv_ends {v : Shootdown} (hv : t.shootdowns.find? (fun v => v.crew == some c.id && v.pc == u.pc) = some v) (hdone : sdDone t v = true) :
    exec (.sysTlbinv x d a) s = .next (retire u (modCrew { t with shootdowns := t.shootdowns.filter fun w => w.id != v.id } c.id
      (sysResult d p (if 0 ∈ v.acked ∧ 1 ∈ v.acked then 0 else 1)))) :=
  issue_done h (by simp only [hact, hv, hdone, if_true, List.all_cons, List.all_nil, Bool.and_true, Bool.and_eq_true, List.contains_iff_mem])

/-- The first issue of TLBINV, with room for a shootdown, starts it and waits (R62, R333). -/
theorem exec_sysTlbinv_starts {pasid : Nat} {range : Option (Nat × Nat)} (hnone : t.shootdowns.find? (fun v => v.crew == some c.id && v.pc == u.pc) = none)
    (hargs : tlbinvArgs c a = .ok (pasid, range)) (hroom : sdFlying t < 8) :
    exec (.sysTlbinv x d a) s = .next (holdCrew { t with
      shootdowns := t.shootdowns ++ [⟨t.nextId, dieOfCore c.core, some c.id, u.pc, pasid, range, [], false⟩], nextId := t.nextId + 1 } u.crew) :=
  issue_hold h (by simp only [hact, hnone, hargs, if_neg (Nat.not_le.mpr hroom)])

end

end

/-- Settles O21: each instruction by its start and its end. -/
theorem maintenance : Obligations.Maintenance := by
  unfold Obligations.Maintenance
  exact fun x d a s t u p c hact => ⟨fun h => ⟨fun v => exec_sysIcinv_ends hact h, fun lines t1 => exec_sysIcinv_starts hact h⟩,
    fun h => ⟨fun v => exec_sysTlbinv_ends hact h, fun pasid range => exec_sysTlbinv_starts hact h⟩⟩

end Sys2Proof.Machine
end

section
/-! PROOF of O22, DebugFunctions: BRK, TRACE and MARK by their bodies, with and without a lane in act. -/

namespace Sys2Proof.Machine

section
variable {u : Ctx} {t : State}

theorem brkBody_traps (hact : (actor u t).isSome = true) : brkBody u t = .trap trapBreak t :=
  if_neg (by simpa [Option.isSome_iff_ne_none] using hact)

theorem brkBody_idle (hact : (actor u t).isSome = false) : brkBody u t = .done t := if_pos (by simpa using hact)

/-- A MARK whose hash holds every atomic before it is a checkpoint, and goes on unless a mismatch traps (R356, R357, R358). -/
theorem markBody_done {n : BitVec 6} {p : Part} {c : Crew} {bad : Bool} {t1 : State} (hact : actor u t = some (p, c))
    (hhash : (inRegion t c && !c.hashQ.isEmpty) = false) (hmark : checkpoint (emitLoc t c .user 6 2 n.toNat 0 u.pc []) c.id 1 = (bad, t1))
    (hgoes : bad = false ∨ divTraps t c.core = false) : markBody n u t = .done t1 := by
  have hcond : (bad && divTraps t c.core) = false := by rcases hgoes with hg | hg <;> simp [hg]
  simp only [markBody, hact, hhash, hmark, hcond, Bool.false_eq_true, if_false]

theorem markBody_idle (n : BitVec 6) (hact : actor u t = none) : markBody n u t = .done t := by
  simp only [markBody, hact]

end

section
variable {x : Pfx} {n : BitVec 6} {a : RCode} {s t : State} {u : Ctx} (h : issuePoint { i := .dbgTrace x n a, ops := [.src a] } s = some (u, t))
include h

theorem exec_dbgTrace {p : Part} {c : Crew} {r : Reg} (hact : actor u t = some (p, c)) (hr : srcReg c a.toNat = some r) :
    exec (.dbgTrace x n a) s = .next (retire u (emitLoc t c .user 7 4 n.toNat 0 u.pc (wordBytes p.act ++ wordBytes (r.at (lowLane p.act))))) :=
  issue_done h (by simp only [hact, hr])

theorem exec_dbgTrace_idle (hact : actor u t = none) : exec (.dbgTrace x n a) s = .next (retire u t) := issue_done h (by simp only [hact])

end

/-- Settles O22: each function by its body. -/
theorem debugFunctions : Obligations.DebugFunctions := by
  unfold Obligations.DebugFunctions
  exact ⟨fun x s t u h => ⟨fun hact => issue_trapped h (brkBody_traps hact), fun hact => issue_done h (brkBody_idle hact)⟩,
    fun s t u h hact => issue_trapped h (brkBody_traps hact), fun x n a s t u h => ⟨fun p c r => exec_dbgTrace h, exec_dbgTrace_idle h⟩,
    fun x n s t t1 u bad h => ⟨fun p c hact hhash hmark hgoes => issue_done h (markBody_done hact hhash hmark hgoes),
      fun hact => issue_done h (markBody_idle n hact)⟩⟩

end Sys2Proof.Machine
end

section
/-! PROOF of O20, SuspendAndContext: its refutation. SUSP waits for the lane port by the first crew that bears the number of the one it suspends. -/

namespace Sys2Proof.Machine

/-- SUSP of another crew waits while that crew has something in flight (R330). -/
theorem exec_sysSusp_holds {x : Pfx} {a : RCode} {s t : State} {u : Ctx} {p : Part} {c q : Crew} {n : Nat}
    (h : issuePoint { i := .sysSusp x a, ops := [.src a] } s = some (u, t)) (hact : actor u t = some (p, c)) (hindex : crewIndex c a = .ok n)
    (hq : crewByIndex t c n = some q) (hother : q.id ≠ c.id) (hflies : drained (modCrew t q.id fun k => { k with susp := true }) [q.id] = false) :
    exec (.sysSusp x a) s = .next (holdCrew (modCrew t q.id fun k => { k with susp := true }) u.crew) :=
  issue_hold h (by simp only [hact, hindex, hq, if_neg hother, hflies, Bool.false_eq_true, if_false])

/-! ### The counterexample -/

/-- The crew that issues SUSP, in its handler, with index 1. -/
def suspCrew : Crew := { Crew.start 2 0 0 0 1 with live := 1, priv := true, entries := [⟨0, 0, 1, none, false, 0, 0⟩] }

/-- The crew that it names by index 0. -/
def suspTarget : Crew := { Crew.start 3 1 0 0 0 with live := 1 }

/-- A crew of core 1 under the target's number. -/
def suspTwin : Crew := Crew.start 3 0 1 1 0

/-- Core 1, whose lane port owes a part to crew 3. -/
def owingCore : CoreSt := { CoreSt.reset 1 with asParts := [⟨3, 0, false, 0, Reg.zero, Reg.zero, 0, false⟩] }

/-- SUSP at address 0, where crew 2 issues: the twin comes before the target. -/
def suspState : State :=
  { State.reset with crews := [suspCrew, suspTwin, suspTarget], cores := [CoreSt.reset 0, owingCore], cur := some ⟨2, 0, 4, 0, 0⟩ }

/-- SUSP v0 at lane scope, for every lane. -/
def suspSpec : Spec := { i := .sysSusp ⟨false, .lane, ⟨false, 3⟩⟩ 0, ops := [.src 0] }

/-- The machine in which the instruction's body runs. -/
def suspBody : State := { suspState with cur := none }

/-- The instruction's place, with its one participant. -/
def suspCtx : Ctx := ⟨2, .lane, 0, 4, 0, 0, [⟨2, 1, true⟩]⟩

/-- The machine with crew 3 suspended. -/
def suspended : State := modCrew suspBody 3 fun k => { k with susp := true }

theorem suspState_issues : issuePoint suspSpec suspState = some (suspCtx, suspBody) := rfl

/-- Nothing of the target is in flight, and the lane port of its core owes it nothing. -/
theorem suspTarget_quiet : flightsOf suspBody 3 = [] ∧ partOwed suspBody suspTarget = false := by decide

/-- The first crew under the target's number is owed a part. -/
theorem drained_suspended : drained suspended [3] = false := by decide

/-- Refutes O20, in its clause on SUSP: where another crew bears the number of the one that SUSP names, and the lane port of that crew's core owes it a part,
the model waits, though nothing of the crew named is in flight. -/
theorem not_suspendAndContext : ¬ Obligations.SuspendAndContext := by
  unfold Obligations.SuspendAndContext
  intro h
  obtain ⟨hsusp, -⟩ := h ⟨false, .lane, ⟨false, 3⟩⟩ 0 0 suspState suspBody suspCtx ⟨2, 1, true⟩ suspCrew rfl
  obtain ⟨hquiet, howed⟩ := suspTarget_quiet
  have hclaim := (hsusp 0 suspState_issues rfl).1 suspTarget rfl (by decide) hquiet howed
  have hmodel := exec_sysSusp_holds (q := suspTarget) suspState_issues rfl rfl rfl (by decide) drained_suspended
  have hstates := Host.Outcome.next.inj (hmodel.symm.trans hclaim)
  rw [retire_alone (c := suspCrew) (e := ⟨0, 0, 1, none, false, 0, 0⟩) rfl rfl rfl rfl (by decide)] at hstates
  exact absurd (congrArg State.progress hstates) (by decide)

end Sys2Proof.Machine
end
